-- ==== Sys2Proof/Word.lean ====
section
/-! DEFINITION. The machine word, the byte, the eight lanes of a value (R27), and the sparse table in which the model holds
anything the spec numbers. Only the plainest of their operations stand here. -/

namespace Sys2Proof

/-- A 32-bit lane word (R27). -/
abbrev Word := BitVec 32

/-- A byte of memory. -/
abbrev Byte := BitVec 8

/-- Eight lanes (R27). -/
structure Lanes (α : Type) where
  l0 : α
  l1 : α
  l2 : α
  l3 : α
  l4 : α
  l5 : α
  l6 : α
  l7 : α
  deriving DecidableEq, Repr

/-- A value in flight: eight lanes, each a word or null (R27). -/
abbrev Val := Lanes (Option Word)

/-- Lane `i`; numbers above 7 read lane 7. -/
def Lanes.get {α : Type} (v : Lanes α) (i : Nat) : α :=
  match i with
  | 0 => v.l0 | 1 => v.l1 | 2 => v.l2 | 3 => v.l3 | 4 => v.l4 | 5 => v.l5 | 6 => v.l6 | _ => v.l7

/-- The lanes that `f` gives. -/
def Lanes.ofFn {α : Type} (f : Nat → α) : Lanes α := ⟨f 0, f 1, f 2, f 3, f 4, f 5, f 6, f 7⟩

/-- One value in every lane. -/
def Lanes.all {α : Type} (a : α) : Lanes α := ⟨a, a, a, a, a, a, a, a⟩

/-- The lanes in increasing order. -/
def Lanes.toList {α : Type} (v : Lanes α) : List α := [v.l0, v.l1, v.l2, v.l3, v.l4, v.l5, v.l6, v.l7]

/-- The lane numbers. -/
def laneNums : List Nat := [0, 1, 2, 3, 4, 5, 6, 7]

/-- The value whose lanes are all null. -/
def Val.allNull : Val := Lanes.all none

/-- A table of numbered entries; an entry that is not listed has its reset value, which the reader of the table names. -/
abbrev Tbl (α : Type) := List (Nat × α)

/-- The entry numbered `k`, or `d` when none is listed. -/
def Tbl.get {α : Type} (d : α) : Tbl α → Nat → α
  | [], _ => d
  | (j, a) :: t, k => if j = k then a else Tbl.get d t k

/-- Writes the entry numbered `k`, keeping the numbers in rising order. -/
def Tbl.put {α : Type} : Tbl α → Nat → α → Tbl α
  | [], k, a => [(k, a)]
  | (j, b) :: t, k, a => if k < j then (k, a) :: (j, b) :: t else if k = j then (k, a) :: t else (j, b) :: Tbl.put t k a

end Sys2Proof
end

