-- ==== Sys2Proof/Syntax.lean ====
section
/-! DEFINITION. The instructions and events of the Novku part: one constructor of `Instr` per row of spec/opcode_table.json.
The first 166 constructors are the encoded instructions (03: R83 to R93); the others are the steps that have no word
(95: "What each step holds"), each carrying what the outside or the network supplies to it. -/

namespace Sys2Proof

/-- NULT (R105). -/
inductive NulF where
  | present | null
  deriving DecidableEq, Repr

/-- LANE (R107). -/
inductive LaneF where
  | idx | bit
  deriving DecidableEq, Repr

/-- reading of an integer lane, 0 .sw and 1 .uw (R89). -/
inductive Sgn where
  | sw | uw
  deriving DecidableEq, Repr

/-- SHR and BFX, 0 .uw and 1 .sw (R111, R113). -/
inductive ShrF where
  | uw | sw
  deriving DecidableEq, Repr

/-- BITC (R112). -/
inductive BitcF where
  | pop | clz | ctz
  deriving DecidableEq, Repr

/-- EXT (R112). -/
inductive ExtF where
  | sb | ub | sh | uh
  deriving DecidableEq, Repr

/-- LEA shift of B (R109). -/
inductive LeaF where
  | s0 | s1 | s2 | s3 | s4
  deriving DecidableEq, Repr

/-- ADDS (R109). -/
inductive AddsF where
  | sw | uw | dsw | duw
  deriving DecidableEq, Repr

/-- UNI (R115). -/
inductive UniF where
  | all | any | eq
  deriving DecidableEq, Repr

/-- PLOG (R114). -/
inductive PlogF where
  | and | or | xor | andn | nand | nor | xnor | orn
  deriving DecidableEq, Repr

/-- PRED (R114). -/
inductive PredF where
  | nz | z | neg
  deriving DecidableEq, Repr

/-- FMIN and FMAX (R144). -/
inductive NanF where
  | num | nan
  deriving DecidableEq, Repr

/-- FAPX (R153). -/
inductive FapxF where
  | rcp | rsq | exp2 | log2 | sin | cos
  deriving DecidableEq, Repr

/-- FCMP (R146). -/
inductive FcmpF where
  | eq | ne | lt | le | un | ord
  deriving DecidableEq, Repr

/-- FSGN (R147). -/
inductive FsgnF where
  | cpy | ncpy | xor | abs | neg
  deriving DecidableEq, Repr

/-- CVTFI (R148). -/
inductive CvtfiF where
  | sw | uw | swz | uwz
  deriving DecidableEq, Repr

/-- FRND (R149). -/
inductive FrndF where
  | byRm | rn | rz | ru | rd
  deriving DecidableEq, Repr

/-- FXTR (R150). -/
inductive FxtrF where
  | exp | sig
  deriving DecidableEq, Repr

/-- NARR (R151). -/
inductive NarrF where
  | b16 | bf16 | e4m3 | e5m2
  deriving DecidableEq, Repr

/-- SPL3 (R152). -/
inductive Spl3F where
  | h | m | l
  deriving DecidableEq, Repr

/-- FRED (R155). -/
inductive FredF where
  | add | max | min
  deriving DecidableEq, Repr

/-- LSCAN and LRED (R157). -/
inductive FoldF where
  | add | fadd | max | min | fmax | fmin | or | and
  deriving DecidableEq, Repr

/-- DRAM row hint of a store (R86). -/
inductive Hint where
  | policy | close | keepOpen
  deriving DecidableEq, Repr

/-- FENCE scope (R86, R175). -/
inductive FenceScope where
  | cell | region | wafer | system | engine
  deriving DecidableEq, Repr

/-- scope of an atomic (R90). -/
inductive Scope where
  | cell | region | wafer | system
  deriving DecidableEq, Repr

/-- AMO operation (R91). -/
inductive AmoOp where
  | add | and | or | xor | smin | smax | umin | umax | swap | fadd | fmin | fmax | incw | decw
  deriving DecidableEq, Repr

/-- tag action of a send (R92). -/
inductive TagAct where
  | keep | next | enter | leave | set | zero
  deriving DecidableEq, Repr

/-- kind of RET (R87). -/
inductive RetKind where
  | call | retry | succ
  deriving DecidableEq, Repr

/-- SETTLE verdict (R227). -/
inductive Verdict where
  | replay | drop | done
  deriving DecidableEq, Repr

/-- PR field (R82): no predicate, true, false. -/
inductive Pr where
  | always | onTrue | onFalse
  deriving DecidableEq, Repr

/-- A consumer of a value (R80). -/
inductive Target where
  | a (slot : BitVec 7) | b (slot : BitVec 7) | c (slot : BitVec 7) | p (slot : BitVec 7) | w (reg : BitVec 6) | none
  deriving DecidableEq, Repr

/-- Fields of format G other than XOP (R83). -/
structure GF where
  pr : Pr
  t1 : Target
  t0 : Target
  deriving DecidableEq, Repr

/-- Fields of format I with a 13-bit immediate (R84). -/
structure IF where
  pr : Pr
  imm : BitVec 13
  t0 : Target
  deriving DecidableEq, Repr

/-- Fields of format I where only IMM13[4:0] may be nonzero: LIT and the shift immediates (R89). -/
structure HF where
  pr : Pr
  imm : BitVec 5
  t0 : Target
  deriving DecidableEq, Repr

/-- Fields of format I in SPR: the special register number (R96). -/
structure RF where
  pr : Pr
  reg : BitVec 6
  t0 : Target
  deriving DecidableEq, Repr

/-- Fields of format M (R84). -/
structure MF where
  pr : Pr
  lsid : BitVec 5
  imm : BitVec 8
  t0 : Target
  deriving DecidableEq, Repr

/-- Fields of format S that a store carries (R84, R86). -/
structure SF where
  pr : Pr
  lsid : BitVec 5
  imm : BitVec 8
  hint : Hint
  deriving DecidableEq, Repr

/-- Fields of format A other than AOP (R90). -/
structure AF where
  pr : Pr
  lsid : BitVec 5
  scope : Scope
  noret : Bool
  t0 : Target
  deriving DecidableEq, Repr

/-- Predicate and LSID of a side effect with no further shared fields. -/
structure LF where
  pr : Pr
  lsid : BitVec 5
  deriving DecidableEq, Repr

/-- Predicate and exit number of format X (R84). -/
structure XF where
  pr : Pr
  exit : BitVec 3
  deriving DecidableEq, Repr

/-- Predicate and target of format E (R83). -/
structure EF where
  pr : Pr
  t0 : Target
  deriving DecidableEq, Repr

/-- A ROUTE relocation of an image: context, channel, destination offset, tag and port (R240, R245). -/
structure ChanReloc where
  ctx : Nat
  ch : Nat
  dx : Int
  dy : Int
  tag : Nat
  port : Nat
  deriving DecidableEq, Repr

/-- A HOSTBASE or PEERBASE relocation of an image: the window of a context whose base comes from the export that it names (R240, R245). -/
structure BaseReloc where
  ctx : Nat
  window : Nat
  peer : Bool
  name : Nat
  deriving DecidableEq, Repr

/-- A cell section of one mapping (R240, R244, R249); it applies to every cell of the w x h rectangle at (x, y). `tagNames` gives the debug
names of its loop levels: level and name index (R240, R406). -/
structure CellImage where
  x : Nat
  y : Nat
  w : Nat
  h : Nat
  sram : List (Nat × List Word)
  loft : List (Nat × List Word)
  binds : List (Nat × Word)
  wins : List (Nat × Nat × List Word)
  chans : List ChanReloc
  shadowBinds : List (Nat × Word)
  shadowChans : List ChanReloc
  spine : Nat
  bases : List BaseReloc := []
  tagNames : List (Nat × Nat) := []
  deriving DecidableEq, Repr

/-- One region of a job (R240, R248, R348); `core` names a management core for a firmware image of one cell, `image` is the object image of
the region (R244), `powers` gives the catalogue's power of its mappings (R366), and `sink` the place (x, y) and tag of the region's end token
(R405). -/
structure RegionDesc where
  w : Nat
  h : Nat
  pool : Nat
  origin : Option (Nat × Nat)
  core : Option Nat
  mappings : List (Nat × List CellImage)
  image : List Word := []
  powers : List (Nat × Nat) := []
  sink : Option (Nat × Nat × Nat) := none
  deriving DecidableEq, Repr

/-- One launch queue of a job description (R354, R355, R356); `region` is an index into the job's regions. -/
structure QueueDesc where
  queue : Nat
  region : Nat
  ctx : Nat
  window : Nat
  qbase : Nat
  prio : Nat
  size : Nat
  deriving DecidableEq, Repr

/-- A staged subgraph of the catalogue (R267): its shape and mappings; its input ports as x, y, tag, port, and its output ports as x, y,
context, channel. -/
structure Subgraph where
  desc : RegionDesc
  ins : List (Nat × Nat × Nat × Nat)
  outs : List (Nat × Nat × Nat × Nat)
  deriving DecidableEq, Repr

/-- An export table entry that the driver asks for (R417, R437, R438): the window of a context of cell (x, y) of the job's region; the
completion cell and tag; the tag of a receive entry. -/
structure ExportDesc where
  region : Nat
  x : Nat
  y : Nat
  ctx : Nat
  window : Nat
  completion : Option (Nat × Nat × Nat)
  receive : Option Nat
  deriving DecidableEq, Repr

/-- Delivery modes of UEC packets (R435): unordered, unordered for idempotent operations, ordered, and the unreliable one, which the endpoint does
not support. -/
inductive DelMode where
  | rud | rudi | rod | uud
  deriving DecidableEq, Repr

/-- A peer handle that the driver opens (R436, R439): its port, delivery mode, entropy base, and the number of its PDC on the port. -/
structure PeerDesc where
  port : Nat
  mode : DelMode
  evbase : Nat
  pdc : Nat
  deriving DecidableEq, Repr

/-- A job as the driver hands it over (R348); `notices` gives, per context, the headers of the runtime's two notice blocks (R349), `stub`
that of the start stub (R360), and the rest what the driver stages, exports and maps with it (R267, R417, R418, R436); `bases` are the bases
of the host and peer exports that windows name (R245), `pageRoots` gives bridge ports the roots of their tables in the bridge wafer's loft
(R418), and `runtime` is the content of the runtime image, which carries the start stub and the notice blocks: byte addresses in SRAM, and
the words there (R348). -/
structure JobDesc where
  job : Nat
  tenant : Nat
  firmware : Bool
  regions : List RegionDesc
  queues : List QueueDesc
  notices : List (Nat × Nat × Nat)
  stub : Nat
  subgraphs : List (Nat × Subgraph)
  exports : List (Nat × ExportDesc)
  peers : List (Nat × PeerDesc)
  pageRoots : List (Nat × Nat) := []
  bases : List (Bool × Nat × Nat) := []
  runtime : List (Nat × List Word) := []
  deriving DecidableEq, Repr

/-- A firmware bundle (R410, R450). -/
structure FwBundle where
  version : Nat
  sill : List Byte
  bay : List Byte
  key : List Byte
  signature : List Byte
  deriving DecidableEq, Repr

/-- A scribe bundle (R422): the images of each named bay in router order, and the bay whose controller has computed and signed it. -/
structure ScribeBundle where
  signer : Nat
  number : Nat
  depoch : Nat
  bays : List (Nat × List (List Word))
  signature : List Byte
  deriving DecidableEq, Repr

/-- A host read or write into an exported window, over the association of a port (R306, R414, R417). -/
structure HostOp where
  tenant : Nat
  exportNo : Nat
  offset : Nat
  isWrite : Bool
  words : List Word
  count : Nat
  rod : Option Nat := none
  port : Nat := 0
  deriving DecidableEq, Repr

/-- A host atomic (R307); `cas` holds the new value when the operation is compare-and-swap with expected value `operand`. -/
structure HostRmw where
  tenant : Nat
  exportNo : Nat
  offset : Nat
  op : AmoOp
  operand : Word
  cas : Option Word
  rod : Option Nat := none
  port : Nat := 0
  deriving DecidableEq, Repr

/-- One packet of an incoming RMA write (R308, R437): its place in the window, its words, its message's span in words, and the ROD connection
that it travels on, if any (R306). `gt` is the collective tuple that it carries: entry, sequence, digest and the rank of its sender (R325); `mode`
is the delivery mode that it uses (R435). -/
structure RmaPacket where
  authentic : Bool
  tenant : Nat
  exportNo : Nat
  port : Nat
  message : Nat
  offset : Nat
  words : List Word
  spanOffset : Nat
  spanWords : Nat
  rod : Option Nat := none
  gt : Option (Nat × Nat × Nat × Nat) := none
  mode : DelMode := .rud
  deriving DecidableEq, Repr

/-- An incoming RMA read of `count` words, or an atomic on one word: `op` holds its operation, none for compare-and-swap, its operand or expected
value, and the new value of a compare-and-swap (R435, R437). -/
structure RmaGet where
  authentic : Bool
  tenant : Nat
  exportNo : Nat
  port : Nat
  offset : Nat
  count : Nat
  op : Option (Option AmoOp × Word × Word) := none
  mode : DelMode := .rud
  deriving DecidableEq, Repr

/-- A reassembled send or tagged send (R437), with the collective tuple that it carries (R325); `poison` makes it a poison notice (R327). -/
structure UecSend where
  authentic : Bool
  tenant : Nat
  exportNo : Nat
  port : Nat
  bytes : List Byte
  gt : Option (Nat × Nat × Nat × Nat) := none
  poison : Option (Nat × Nat × Bool) := none
  mode : DelMode := .rud
  deriving DecidableEq, Repr

/-- What a probe of one path brings (R440): whether it was acknowledged, the queueing delay estimated from it in units of 100 ns, and whether its
acknowledgement was ECN-marked. -/
structure PathSample where
  acked : Bool
  level : Nat
  ecn : Bool
  deriving DecidableEq, Repr

/-- What a peer or the host answers to a request of the wafer (R306, R436): lane values, a fault code (0: none) and the lanes
refused. -/
structure FarAnswer where
  vals : List (Nat × Word)
  cause : Nat
  refused : Nat
  deriving DecidableEq, Repr

/-- A register named by the core, bay or port that holds it and its byte offset (R365, R367, R409, R430, R445). -/
inductive RegName where
  | cell (cell off : Nat) | bay (bay off : Nat) | port (port off : Nat)
  deriving DecidableEq, Repr

/-- One constructor per row of spec/opcode_table.json. -/
inductive Instr where

  | mov (g : GF)
  | nult (x : NulF) (g : GF)
  | sel (g : GF)
  | lit (i : HF)
  | imm (i : IF)
  | lane (x : LaneF) (g : GF)
  | arg (x : BitVec 2) (g : GF)
  | bro (x : XF) (off : BitVec 20)
  | callo (x : XF) (off : BitVec 20)
  | br (x : XF)
  | call (x : XF)
  | ret (x : XF) (kind : RetKind)
  | endBlk (x : XF)
  | yieldBlk (x : XF)
  | scall (x : XF) (service : BitVec 12)
  | add (g : GF)
  | sub (g : GF)
  | mul (g : GF)
  | mulh (x : Sgn) (g : GF)
  | div (x : Sgn) (g : GF)
  | rem (x : Sgn) (g : GF)
  | and (g : GF)
  | or (g : GF)
  | xor (g : GF)
  | andn (g : GF)
  | shl (g : GF)
  | shr (x : ShrF) (g : GF)
  | rot (g : GF)
  | min (x : Sgn) (g : GF)
  | max (x : Sgn) (g : GF)
  | bitc (x : BitcF) (g : GF)
  | ext (x : ExtF) (g : GF)
  | bfx (x : ShrF) (g : GF)
  | bfi (g : GF)
  | lea (x : LeaF) (g : GF)
  | add3 (g : GF)
  | mad (g : GF)
  | adds (x : AddsF) (g : GF)
  | absd (x : Sgn) (g : GF)
  | uni (x : UniF) (g : GF)
  | teq (g : GF)
  | tne (g : GF)
  | tlt (x : Sgn) (g : GF)
  | tle (x : Sgn) (g : GF)
  | plog (x : PlogF) (g : GF)
  | pred (x : PredF) (g : GF)
  | addi (i : IF)
  | muli (i : IF)
  | andi (i : IF)
  | ori (i : IF)
  | xori (i : IF)
  | shli (i : HF)
  | shri (i : HF)
  | sari (i : HF)
  | teqi (i : IF)
  | tnei (i : IF)
  | tlti (i : IF)
  | tltui (i : IF)
  | tgei (i : IF)
  | tgeui (i : IF)
  | addln (i : IF)
  | fadd (g : GF)
  | fsub (g : GF)
  | fmul (g : GF)
  | fma (g : GF)
  | fms (g : GF)
  | fnma (g : GF)
  | fmin (x : NanF) (g : GF)
  | fmax (x : NanF) (g : GF)
  | fdiv (g : GF)
  | fsqrt (g : GF)
  | fapx (x : FapxF) (g : GF)
  | fcmp (x : FcmpF) (g : GF)
  | fsgn (x : FsgnF) (g : GF)
  | cvtfi (x : CvtfiF) (g : GF)
  | cvtif (x : Sgn) (g : GF)
  | frnd (x : FrndF) (g : GF)
  | fscl (g : GF)
  | fxtr (x : FxtrF) (g : GF)
  | narr (x : NarrF) (g : GF)
  | spl3 (x : Spl3F) (g : GF)
  | fred (x : FredF) (g : GF)
  | fdot (g : GF)
  | flrp (g : GF)
  | lperm (g : GF)
  | lbc (x : BitVec 3) (g : GF)
  | lshf (x : BitVec 3) (g : GF)
  | lrot (x : BitVec 3) (g : GF)
  | lscan (x : FoldF) (g : GF)
  | lred (x : FoldF) (g : GF)
  | lcmp (g : GF)
  | lxpd (g : GF)
  | ldw (m : MF)
  | ldh (m : MF)
  | ldhu (m : MF)
  | ldb (m : MF)
  | ldbu (m : MF)
  | ldv (m : MF)
  | ldc (m : MF)
  | ldvs (m : MF)
  | stw (st : SF)
  | sth (st : SF)
  | stb (st : SF)
  | stv (st : SF)
  | stvs (st : SF)
  | clrp (q : LF) (imm : BitVec 8)
  | fence (q : LF) (scope : FenceScope)
  | spw (q : LF) (reg : BitVec 6)
  | amo (op : AmoOp) (f : AF)
  | cas (f : AF)
  | upd (op : BitVec 4) (f : AF)
  | spr (r : RF)
  | send (q : LF) (act : TagAct) (ch : BitVec 6)
  | sendm (q : LF) (act : TagAct) (tag : BitVec 8)
  | tblock (q : LF) (tag : BitVec 8)
  | tunblk (q : LF) (tag : BitVec 8)
  | tsalloc (q : LF) (level : BitVec 2)
  | tsfree (q : LF) (level : BitVec 2)
  | tkill (q : LF) (level : BitVec 2) (depth : BitVec 4)
  | tbind (q : LF) (tag : BitVec 8)
  | lpeek (e : EF) (link : BitVec 1) (cnt : Bool)
  | lpop (q : LF) (link : BitVec 1) (fwd : Bool) (t0 : Target)
  | lpush (q : LF) (out : BitVec 1)
  | csig (q : LF) (chan : BitVec 6) (reg : Bool)
  | sdef (q : LF) (unit : BitVec 2)
  | sgo (q : LF) (unit : BitVec 2) (resume : Bool)
  | sstop (q : LF) (unit : BitVec 2) (rel : Bool)
  | sbar (q : LF) (mask : BitVec 4) (mx : Bool)
  | scond (q : LF) (unit : BitVec 2) (alt : BitVec 6)
  | sfmt (q : LF) (unit : BitVec 2)
  | mxstat (e : EF)
  | mxcfg (q : LF) (rel : Bool)
  | mxldb (q : LF) (bank : BitVec 1) (strm : Bool)
  | mxrun (q : LF)
  | mxout (q : LF)
  | mxclr (q : LF) (first : BitVec 6) (countM1 : BitVec 6)
  | bstat (e : EF) (bn : BitVec 7)
  | binit (q : LF) (bn : BitVec 7)
  | arv (q : LF) (bn : BitVec 7)
  | arvd (q : LF) (bn : BitVec 7)
  | joinb (q : LF) (bn : BitVec 7)
  | leaveb (q : LF) (bn : BitVec 7)
  | joinc (q : LF) (gt : BitVec 8)
  | leavec (q : LF) (gt : BitVec 8)
  | cstat (e : EF)
  | cpath (e : EF) (path : BitVec 4)
  | cstart (q : LF) (gt : BitVec 8)
  | cabort (q : LF) (gt : BitVec 8)
  | settle (q : LF) (entry : BitVec 5) (verdict : Verdict)
  | cut (q : LF) (reply : BitVec 8) (sub : BitVec 1)
  | save (q : LF) (reply : BitVec 8)
  | restore (q : LF) (reply : BitVec 8) (sub : BitVec 1)
  | scribe (q : LF) (reply : BitVec 8)
  | sflip (q : LF) (reply : BitVec 8) (sub : BitVec 1)
  | selftest (q : LF) (reply : BitVec 8)
  | sister (q : LF) (reply : BitVec 8) (sub : BitVec 1)
  | takeover (q : LF) (reply : BitVec 8)
  | clksel (q : LF) (reply : BitVec 8) (sub : BitVec 1)
  | winset (q : LF) (reply : BitVec 8)
  | bindset (q : LF) (reply : BitVec 8)
  | cfgstat (e : EF)
  | cfgreq (q : LF) (grant : BitVec 8)
  | cfgrel (q : LF) (reply : BitVec 8)
  | spawn (q : LF) (ctx : BitVec 3) (cls : BitVec 2)
  | mapsel (q : LF) (map : BitVec 2) (reply : BitVec 8)
  | trap (x : XF) (code : BitVec 20)
  | tokenArrival (n : Nat)
  | activationStart (cell : Nat) (ctx : Nat)
  | blockCommit (cell : Nat) (ctx : Nat)
  | quiescenceFault (cell : Nat) (ctx : Nat)
  | lateFaultDelivery (cell : Nat) (ctx : Nat)
  | idleLateTrap (cell : Nat) (ctx : Nat)
  | class0Interjection (cell : Nat) (ctx : Nat)
  | nopreExpiry (cell : Nat) (ctx : Nat)
  | updateActivationStart (cell : Nat)
  | atomicHandler (cell : Nat)
  | remoteRequestPerform (n : Nat)
  | presenceRetry (n : Nat)
  | replyArrival (n : Nat) (far : Option FarAnswer)
  | entryAck (n : Nat) (far : Option FarAnswer)
  | entryRefused (n : Nat) (far : Option FarAnswer)
  | winsetApply (cell : Nat) (ctx : Nat)
  | streamStartPulse (cell : Nat) (unit : Nat)
  | streamAltPulse (cell : Nat) (unit : Nat)
  | streamElement (cell : Nat) (unit : Nat)
  | streamFinish (cell : Nat) (unit : Nat)
  | engineCommandStart (cell : Nat) (engine : Nat)
  | mxldbBankReady (cell : Nat)
  | mxrunRowFire (cell : Nat)
  | mxoutReadoutDone (cell : Nat)
  | barrierArrival (n : Nat)
  | arrivalResend (n : Nat)
  | homeBarrierUpdate (n : Nat)
  | killFilterSet (n : Nat)
  | killFilterClear (n : Nat)
  | controlPulse (n : Nat)
  | linkValueArrival (n : Nat)
  | collectiveStart (cell : Nat) (ctx : Nat)
  | collectivePacketCheck (n : Nat)
  | poisonNotice (n : Nat)
  | collectiveFinish (cell : Nat) (ctx : Nat)
  | slotOpen (cell : Nat)
  | slotEnd (cell : Nat)
  | slotExpiry (cell : Nat)
  | spawnAccept (n : Nat)
  | spawnAck (n : Nat)
  | spawnHoldRelease (cell : Nat) (ctx : Nat)
  | cfgreqService (n : Nat)
  | configurationSelect (n : Nat)
  | drainSweep (region : Nat)
  | labelHop (n : Nat)
  | dynamicHop (n : Nat)
  | heldLaunchRelease (k : Nat)
  | energyUpdate (cell : Nat)
  | cutStartPeg (n : Nat)
  | savePoint (cell : Nat)
  | fixedPartWritten (cell : Nat)
  | recordedMessage (n : Nat)
  | cutSweep (region : Nat)
  | earlyCut (cell : Nat)
  | contextSave (cell : Nat) (ctx : Nat)
  | savedContextUpdate (n : Nat)
  | rollback (region : Nat)
  | sisterSync (cell : Nat)
  | commitMirror (cell : Nat)
  | takeoverSwap (cell : Nat)
  | mgmtAccess (n : Nat)
  | scribeStage (n : Nat)
  | sflipTick (n : Nat)
  | hostPageWalk (n : Nat)
  | rmaCompletion (message : Nat)
  | contextRestore (n : Nat)
  | nextBlockPrediction (cell : Nat) (ctx : Nat) (hdr : Nat)
  | jobLoad (job : JobDesc)
  | launch (tenant : Nat) (payload : List Word)
  | bayPowerSample (bay : Nat)
  | budgetExceeded (bay : Nat) (region : Nat) (allow : Word)
  | isdutyWrite (cell : Nat) (value : Word)
  | bvsetWrite (bay : Nat) (value : Word)
  | regulatorSettled (bay : Nat)
  | tripClear (bay : Nat)
  | tempWarn (bay : Nat) (temp : Nat)
  | droop (bay : Nat)
  | currentCap (bay : Nat)
  | quarterRate (bay : Nat)
  | rateRecovery (bay : Nat)
  | thermalTrip (bay : Nat) (temp : Nat)
  | spineRelock (spine : Nat)
  | cutAbort (region : Nat) (cell : Nat)
  | spareCopyDone (dead : Nat) (spare : Nat)
  | automaticTakeover (cell : Nat)
  | selfTestDue (cell : Nat) (spare : Nat)
  | deadlockSweep (region : Nat)
  | markCell (cell : Nat)
  | registerWrite (reg : RegName) (value : Word)
  | bundleVerify (bundle : ScribeBundle)
  | boot (bundle : FwBundle)
  | bayReset (bay : Nat)
  | moduleReset (forced : Bool)
  | tenantScrub (bay : Nat) (tenant : Nat)
  | quote (tenant : Nat) (nonce : List Byte)
  | keyEncapsulation (tenant : Nat) (ciphertext : List Byte)
  | hostAccess (access : HostOp)
  | hostAtomic (access : HostRmw)
  | invalidation (port : Nat) (lo : Nat) (hi : Nat)
  | laser (port : Nat) (on : Bool)
  | up (port : Nat) (on : Bool)
  | llr (port : Nat) (on : Bool)
  | lock (port : Nat)
  | train (port : Nat)
  | abort (port : Nat)
  | laserokChange (port : Nat) (ok : Bool)
  | lockEnd (port : Nat) (codes : List (Option Nat))
  | trainEnd (port : Nat) (margins : List (Nat × Nat))
  | linkChange (port : Nat) (up : Bool)
  | ringLockLoss (port : Nat) (ring : Nat)
  | rmaWritePlacement (packet : RmaPacket)
  | sendMessageReceive (message : UecSend)
  | pathUnusable (peer : Nat) (path : Nat)
  | pathProbe (peer : Nat) (path : Nat) (sample : PathSample)
  | telemetrySample (bay : Nat)
  | bayAbsent (bay : Nat)
  | flowAlarm 
  | flowRestore 
  | firmwareUpload (bundle : FwBundle)
  | rollbackCounterRaise (version : Nat)
  | selftestPeriodSet (hours : Nat)
  | defectReport 
  | loftRowRemap (cell : Nat) (bank : Nat) (row : Nat)
  | loftRefresh (cell : Nat) (bank : Nat)
  | rowIdleClose (cell : Nat) (bank : Nat)
  | selftestEnd (cell : Nat) (failing : Option Nat)
  | envelopeAlarm 
  | attestationExtend (index : Nat) (digest : List Byte)
  | liveFirmwareLoad (bay : Nat)
  deriving DecidableEq, Repr

end Sys2Proof
end

