-- ==== Sys2Proof/WellFormed.lean ====
section
/-! DEFINITION. Which instruction terms have a word: the checks of R98, R177, R178, R96 and of the escape functions' tables that
the types of the fields do not already make. -/

namespace Sys2Proof

/-- T0 of an atomic (R90, R178): none when NORET is set, else a W target or none. -/
def AF.targetOk (f : AF) : Bool :=
  match f.t0 with
  | .none => true
  | .w _ => !f.noret
  | _ => false

/-- Special registers that SPR may name (R96). -/
def sprOk (r : BitVec 6) : Bool := decide (r.toNat < 0x1A)

/-- Special registers that SPW may name (R96): FLAGS, FMODE, TRAPV, EVSEL, EVCNT. -/
def spwOk (r : BitVec 6) : Bool :=
  r.toNat == 0x0A || r.toNat == 0x0B || r.toNat == 0x0C || r.toNat == 0x17 || r.toNat == 0x18

/-- Whether the term is an instruction of the architecture. -/
def Instr.wf : Instr → Bool
  | .amo _ f => f.targetOk
  | .cas f => f.targetOk
  | .upd _ f => f.targetOk
  | .spr r => sprOk r.reg
  | .spw _ r => spwOk r
  | .tsalloc _ l => l != 0
  | .tsfree _ l => l != 0
  | .tkill _ l d => l != 0 && d != 0
  | .sbar _ m x => m != 0 || x
  | .bstat _ b => decide (b.toNat < 96)
  | .binit _ b => decide (b.toNat < 96)
  | .arv _ b => decide (b.toNat < 96)
  | .arvd _ b => decide (b.toNat < 96)
  | .joinb _ b => decide (b.toNat < 96)
  | .leaveb _ b => decide (b.toNat < 96)
  | .spawn _ c k => decide (c.toNat < 4) && k != 0
  | .mapsel _ m _ => m != 3
  | _ => true

end Sys2Proof
end

