-- ==== Sys2Proof/Decode.lean ====
section
/-! DEFINITION. The decoder of instruction words (03: R80 to R98), total on any word and rejecting by name, and after it the
encoder, written from the same encoding tables (R83, R89 to R94, R101, R187). -/

namespace Sys2Proof

/-- Why a word is no instruction (R98). -/
inductive Reject where
  | opcode | pr | target | xop | mustBeZero | hint | fenceScope | aop | atomicTarget | tagAct | retKind | function | immediate
  | register | tooShort
  deriving DecidableEq, Repr

/-- Bits [lo + w - 1 : lo] of a number. -/
def fld (n lo w : Nat) : Nat := n / 2 ^ lo % 2 ^ w

/-- Code of NULT (R105). -/
def NulF.code : NulF → Nat
  | .present => 0
  | .null => 1

/-- Reading of NULT (R105). -/
def NulF.ofCode : Nat → Option NulF
  | 0 => some .present
  | 1 => some .null
  | _ => Option.none

/-- Code of LANE (R107). -/
def LaneF.code : LaneF → Nat
  | .idx => 0
  | .bit => 1

/-- Reading of LANE (R107). -/
def LaneF.ofCode : Nat → Option LaneF
  | 0 => some .idx
  | 1 => some .bit
  | _ => Option.none

/-- Code of reading of an integer lane, 0 .sw and 1 .uw (R89). -/
def Sgn.code : Sgn → Nat
  | .sw => 0
  | .uw => 1

/-- Reading of reading of an integer lane, 0 .sw and 1 .uw (R89). -/
def Sgn.ofCode : Nat → Option Sgn
  | 0 => some .sw
  | 1 => some .uw
  | _ => Option.none

/-- Code of SHR and BFX, 0 .uw and 1 .sw (R111, R113). -/
def ShrF.code : ShrF → Nat
  | .uw => 0
  | .sw => 1

/-- Reading of SHR and BFX, 0 .uw and 1 .sw (R111, R113). -/
def ShrF.ofCode : Nat → Option ShrF
  | 0 => some .uw
  | 1 => some .sw
  | _ => Option.none

/-- Code of BITC (R112). -/
def BitcF.code : BitcF → Nat
  | .pop => 0
  | .clz => 1
  | .ctz => 2

/-- Reading of BITC (R112). -/
def BitcF.ofCode : Nat → Option BitcF
  | 0 => some .pop
  | 1 => some .clz
  | 2 => some .ctz
  | _ => Option.none

/-- Code of EXT (R112). -/
def ExtF.code : ExtF → Nat
  | .sb => 0
  | .ub => 1
  | .sh => 2
  | .uh => 3

/-- Reading of EXT (R112). -/
def ExtF.ofCode : Nat → Option ExtF
  | 0 => some .sb
  | 1 => some .ub
  | 2 => some .sh
  | 3 => some .uh
  | _ => Option.none

/-- Code of LEA shift of B (R109). -/
def LeaF.code : LeaF → Nat
  | .s0 => 0
  | .s1 => 1
  | .s2 => 2
  | .s3 => 3
  | .s4 => 4

/-- Reading of LEA shift of B (R109). -/
def LeaF.ofCode : Nat → Option LeaF
  | 0 => some .s0
  | 1 => some .s1
  | 2 => some .s2
  | 3 => some .s3
  | 4 => some .s4
  | _ => Option.none

/-- Code of ADDS (R109). -/
def AddsF.code : AddsF → Nat
  | .sw => 0
  | .uw => 1
  | .dsw => 2
  | .duw => 3

/-- Reading of ADDS (R109). -/
def AddsF.ofCode : Nat → Option AddsF
  | 0 => some .sw
  | 1 => some .uw
  | 2 => some .dsw
  | 3 => some .duw
  | _ => Option.none

/-- Code of UNI (R115). -/
def UniF.code : UniF → Nat
  | .all => 0
  | .any => 1
  | .eq => 2

/-- Reading of UNI (R115). -/
def UniF.ofCode : Nat → Option UniF
  | 0 => some .all
  | 1 => some .any
  | 2 => some .eq
  | _ => Option.none

/-- Code of PLOG (R114). -/
def PlogF.code : PlogF → Nat
  | .and => 0
  | .or => 1
  | .xor => 2
  | .andn => 3
  | .nand => 4
  | .nor => 5
  | .xnor => 6
  | .orn => 7

/-- Reading of PLOG (R114). -/
def PlogF.ofCode : Nat → Option PlogF
  | 0 => some .and
  | 1 => some .or
  | 2 => some .xor
  | 3 => some .andn
  | 4 => some .nand
  | 5 => some .nor
  | 6 => some .xnor
  | 7 => some .orn
  | _ => Option.none

/-- Code of PRED (R114). -/
def PredF.code : PredF → Nat
  | .nz => 0
  | .z => 1
  | .neg => 2

/-- Reading of PRED (R114). -/
def PredF.ofCode : Nat → Option PredF
  | 0 => some .nz
  | 1 => some .z
  | 2 => some .neg
  | _ => Option.none

/-- Code of FMIN and FMAX (R144). -/
def NanF.code : NanF → Nat
  | .num => 0
  | .nan => 1

/-- Reading of FMIN and FMAX (R144). -/
def NanF.ofCode : Nat → Option NanF
  | 0 => some .num
  | 1 => some .nan
  | _ => Option.none

/-- Code of FAPX (R153). -/
def FapxF.code : FapxF → Nat
  | .rcp => 0
  | .rsq => 1
  | .exp2 => 2
  | .log2 => 3
  | .sin => 4
  | .cos => 5

/-- Reading of FAPX (R153). -/
def FapxF.ofCode : Nat → Option FapxF
  | 0 => some .rcp
  | 1 => some .rsq
  | 2 => some .exp2
  | 3 => some .log2
  | 4 => some .sin
  | 5 => some .cos
  | _ => Option.none

/-- Code of FCMP (R146). -/
def FcmpF.code : FcmpF → Nat
  | .eq => 0
  | .ne => 1
  | .lt => 2
  | .le => 3
  | .un => 4
  | .ord => 5

/-- Reading of FCMP (R146). -/
def FcmpF.ofCode : Nat → Option FcmpF
  | 0 => some .eq
  | 1 => some .ne
  | 2 => some .lt
  | 3 => some .le
  | 4 => some .un
  | 5 => some .ord
  | _ => Option.none

/-- Code of FSGN (R147). -/
def FsgnF.code : FsgnF → Nat
  | .cpy => 0
  | .ncpy => 1
  | .xor => 2
  | .abs => 3
  | .neg => 4

/-- Reading of FSGN (R147). -/
def FsgnF.ofCode : Nat → Option FsgnF
  | 0 => some .cpy
  | 1 => some .ncpy
  | 2 => some .xor
  | 3 => some .abs
  | 4 => some .neg
  | _ => Option.none

/-- Code of CVTFI (R148). -/
def CvtfiF.code : CvtfiF → Nat
  | .sw => 0
  | .uw => 1
  | .swz => 2
  | .uwz => 3

/-- Reading of CVTFI (R148). -/
def CvtfiF.ofCode : Nat → Option CvtfiF
  | 0 => some .sw
  | 1 => some .uw
  | 2 => some .swz
  | 3 => some .uwz
  | _ => Option.none

/-- Code of FRND (R149). -/
def FrndF.code : FrndF → Nat
  | .byRm => 0
  | .rn => 1
  | .rz => 2
  | .ru => 3
  | .rd => 4

/-- Reading of FRND (R149). -/
def FrndF.ofCode : Nat → Option FrndF
  | 0 => some .byRm
  | 1 => some .rn
  | 2 => some .rz
  | 3 => some .ru
  | 4 => some .rd
  | _ => Option.none

/-- Code of FXTR (R150). -/
def FxtrF.code : FxtrF → Nat
  | .exp => 0
  | .sig => 1

/-- Reading of FXTR (R150). -/
def FxtrF.ofCode : Nat → Option FxtrF
  | 0 => some .exp
  | 1 => some .sig
  | _ => Option.none

/-- Code of NARR (R151). -/
def NarrF.code : NarrF → Nat
  | .b16 => 0
  | .bf16 => 1
  | .e4m3 => 2
  | .e5m2 => 3

/-- Reading of NARR (R151). -/
def NarrF.ofCode : Nat → Option NarrF
  | 0 => some .b16
  | 1 => some .bf16
  | 2 => some .e4m3
  | 3 => some .e5m2
  | _ => Option.none

/-- Code of SPL3 (R152). -/
def Spl3F.code : Spl3F → Nat
  | .h => 0
  | .m => 1
  | .l => 2

/-- Reading of SPL3 (R152). -/
def Spl3F.ofCode : Nat → Option Spl3F
  | 0 => some .h
  | 1 => some .m
  | 2 => some .l
  | _ => Option.none

/-- Code of FRED (R155). -/
def FredF.code : FredF → Nat
  | .add => 0
  | .max => 1
  | .min => 2

/-- Reading of FRED (R155). -/
def FredF.ofCode : Nat → Option FredF
  | 0 => some .add
  | 1 => some .max
  | 2 => some .min
  | _ => Option.none

/-- Code of LSCAN and LRED (R157). -/
def FoldF.code : FoldF → Nat
  | .add => 0
  | .fadd => 1
  | .max => 2
  | .min => 3
  | .fmax => 4
  | .fmin => 5
  | .or => 6
  | .and => 7

/-- Reading of LSCAN and LRED (R157). -/
def FoldF.ofCode : Nat → Option FoldF
  | 0 => some .add
  | 1 => some .fadd
  | 2 => some .max
  | 3 => some .min
  | 4 => some .fmax
  | 5 => some .fmin
  | 6 => some .or
  | 7 => some .and
  | _ => Option.none

/-- Code of DRAM row hint of a store (R86). -/
def Hint.code : Hint → Nat
  | .policy => 0
  | .close => 1
  | .keepOpen => 2

/-- Reading of DRAM row hint of a store (R86). -/
def Hint.ofCode : Nat → Option Hint
  | 0 => some .policy
  | 1 => some .close
  | 2 => some .keepOpen
  | _ => Option.none

/-- Code of FENCE scope (R86, R175). -/
def FenceScope.code : FenceScope → Nat
  | .cell => 0
  | .region => 1
  | .wafer => 2
  | .system => 3
  | .engine => 4

/-- Reading of FENCE scope (R86, R175). -/
def FenceScope.ofCode : Nat → Option FenceScope
  | 0 => some .cell
  | 1 => some .region
  | 2 => some .wafer
  | 3 => some .system
  | 4 => some .engine
  | _ => Option.none

/-- Code of scope of an atomic (R90). -/
def Scope.code : Scope → Nat
  | .cell => 0
  | .region => 1
  | .wafer => 2
  | .system => 3

/-- Reading of scope of an atomic (R90). -/
def Scope.ofCode : Nat → Option Scope
  | 0 => some .cell
  | 1 => some .region
  | 2 => some .wafer
  | 3 => some .system
  | _ => Option.none

/-- Code of AMO operation (R91). -/
def AmoOp.code : AmoOp → Nat
  | .add => 0
  | .and => 1
  | .or => 2
  | .xor => 3
  | .smin => 4
  | .smax => 5
  | .umin => 6
  | .umax => 7
  | .swap => 8
  | .fadd => 9
  | .fmin => 10
  | .fmax => 11
  | .incw => 12
  | .decw => 13

/-- Reading of AMO operation (R91). -/
def AmoOp.ofCode : Nat → Option AmoOp
  | 0 => some .add
  | 1 => some .and
  | 2 => some .or
  | 3 => some .xor
  | 4 => some .smin
  | 5 => some .smax
  | 6 => some .umin
  | 7 => some .umax
  | 8 => some .swap
  | 9 => some .fadd
  | 10 => some .fmin
  | 11 => some .fmax
  | 12 => some .incw
  | 13 => some .decw
  | _ => Option.none

/-- Code of tag action of a send (R92). -/
def TagAct.code : TagAct → Nat
  | .keep => 0
  | .next => 1
  | .enter => 2
  | .leave => 3
  | .set => 4
  | .zero => 5

/-- Reading of tag action of a send (R92). -/
def TagAct.ofCode : Nat → Option TagAct
  | 0 => some .keep
  | 1 => some .next
  | 2 => some .enter
  | 3 => some .leave
  | 4 => some .set
  | 5 => some .zero
  | _ => Option.none

/-- Code of kind of RET (R87). -/
def RetKind.code : RetKind → Nat
  | .call => 0
  | .retry => 1
  | .succ => 2

/-- Reading of kind of RET (R87). -/
def RetKind.ofCode : Nat → Option RetKind
  | 0 => some .call
  | 1 => some .retry
  | 2 => some .succ
  | _ => Option.none

/-- Code of SETTLE verdict (R227). -/
def Verdict.code : Verdict → Nat
  | .replay => 0
  | .drop => 1
  | .done => 2

/-- Reading of SETTLE verdict (R227). -/
def Verdict.ofCode : Nat → Option Verdict
  | 0 => some .replay
  | 1 => some .drop
  | 2 => some .done
  | _ => Option.none

/-- Code of PR field (R82): no predicate, true, false. -/
def Pr.code : Pr → Nat
  | .always => 0
  | .onTrue => 1
  | .onFalse => 2

/-- Reading of PR field (R82): no predicate, true, false. -/
def Pr.ofCode : Nat → Option Pr
  | 0 => some .always
  | 1 => some .onTrue
  | 2 => some .onFalse
  | _ => Option.none

/-- The ten bits of a target (R80). -/
def Target.code : Target → Nat
  | .a k => k.toNat
  | .b k => 128 + k.toNat
  | .c k => 256 + k.toNat
  | .p k => 384 + k.toNat
  | .w r => 512 + r.toNat
  | .none => 1023

/-- The target that ten bits name, if any (R80). -/
def Target.ofCode (n : Nat) : Option Target :=
  if n < 128 then some (.a (BitVec.ofNat 7 n))
  else if n < 256 then some (.b (BitVec.ofNat 7 (n - 128)))
  else if n < 384 then some (.c (BitVec.ofNat 7 (n - 256)))
  else if n < 512 then some (.p (BitVec.ofNat 7 (n - 384)))
  else if n < 576 then some (.w (BitVec.ofNat 6 (n - 512)))
  else if n = 1023 then some .none
  else Option.none

/-- Turns a missing reading into a named rejection. -/
def orReject {α : Type} (r : Reject) : Option α → Except Reject α
  | some a => .ok a
  | Option.none => .error r

/-- Requires a condition. -/
def require (r : Reject) (b : Bool) : Except Reject Unit := if b then .ok () else .error r

/-- The predicate of a word (R82). -/
def readPr (n : Nat) : Except Reject Pr := orReject .pr (Pr.ofCode (fld n 23 2))

/-- The target of ten bits (R80). -/
def readTarget (k : Nat) : Except Reject Target := orReject .target (Target.ofCode k)

/-- Whether one bit is set. -/
def bit (n lo : Nat) : Bool := fld n lo 1 == 1

/-- Format G with XOP read by `x` (R83, R89). -/
def readG {α : Type} (n : Nat) (x : Nat → Option α) (k : α → GF → Instr) : Except Reject Instr := do
  let pr ← readPr n
  let a ← orReject .xop (x (fld n 20 3))
  let t1 ← readTarget (fld n 10 10)
  let t0 ← readTarget (fld n 0 10)
  .ok (k a ⟨pr, t1, t0⟩)

/-- XOP 0 only (R89). -/
def xopZero (x : Nat) : Option Unit := if x = 0 then some () else Option.none

/-- An XOP that counts 0 to 7 or, in ARG, 0 to 3 (R89). -/
def xopNum (w : Nat) (x : Nat) : Option (BitVec w) := if x < 2 ^ w then some (BitVec.ofNat w x) else Option.none

/-- Format I with a 13-bit immediate (R83, R84). -/
def readI (n : Nat) (k : IF → Instr) : Except Reject Instr := do
  let pr ← readPr n
  let t0 ← readTarget (fld n 0 10)
  .ok (k ⟨pr, BitVec.ofNat 13 (fld n 10 13), t0⟩)

/-- Format I where only IMM13[4:0] may be nonzero (R89). -/
def readH (n : Nat) (k : HF → Instr) : Except Reject Instr := do
  let pr ← readPr n
  require .mustBeZero (fld n 15 8 == 0)
  let t0 ← readTarget (fld n 0 10)
  .ok (k ⟨pr, BitVec.ofNat 5 (fld n 10 5), t0⟩)

/-- Format I in SPR: the register number (R96). -/
def readR (n : Nat) (k : RF → Instr) : Except Reject Instr := do
  let pr ← readPr n
  require .mustBeZero (fld n 16 7 == 0)
  require .register (sprOk (BitVec.ofNat 6 (fld n 10 6)))
  let t0 ← readTarget (fld n 0 10)
  .ok (k ⟨pr, BitVec.ofNat 6 (fld n 10 6), t0⟩)

/-- Format X: predicate and exit number (R84, R87). -/
def readX (n : Nat) (k : XF → Except Reject Instr) : Except Reject Instr := do
  let pr ← readPr n
  k ⟨pr, BitVec.ofNat 3 (fld n 20 3)⟩

/-- An exit whose OFF20 is zero (R87). -/
def readX0 (n : Nat) (k : XF → Instr) : Except Reject Instr :=
  readX n fun x => do
    require .mustBeZero (fld n 0 20 == 0)
    .ok (k x)

/-- Format M: predicate, LSID, displacement and target (R84). -/
def readM (n : Nat) (k : MF → Instr) : Except Reject Instr := do
  let pr ← readPr n
  let t0 ← readTarget (fld n 0 10)
  .ok (k ⟨pr, BitVec.ofNat 5 (fld n 18 5), BitVec.ofNat 8 (fld n 10 8), t0⟩)

/-- Format S of a store: predicate, LSID, displacement and row hint (R84, R86). -/
def readS (n : Nat) (k : SF → Instr) : Except Reject Instr := do
  let pr ← readPr n
  require .mustBeZero (fld n 2 8 == 0)
  let h ← orReject .hint (Hint.ofCode (fld n 0 2))
  .ok (k ⟨pr, BitVec.ofNat 5 (fld n 18 5), BitVec.ofNat 8 (fld n 10 8), h⟩)

/-- Predicate and LSID in [22:18] (formats S, A and N). -/
def readL (n : Nat) (k : LF → Except Reject Instr) : Except Reject Instr := do
  let pr ← readPr n
  k ⟨pr, BitVec.ofNat 5 (fld n 18 5)⟩

/-- Format A: operation, scope, NORET and the target they admit (R90, R178). -/
def readA {α : Type} (n : Nat) (x : Nat → Option α) (k : α → AF → Instr) : Except Reject Instr := do
  let pr ← readPr n
  let op ← orReject .aop (x (fld n 14 4))
  let sc ← orReject .aop (Scope.ofCode (fld n 12 2))
  require .mustBeZero (fld n 10 1 == 0)
  let t0 ← readTarget (fld n 0 10)
  let f : AF := ⟨pr, BitVec.ofNat 5 (fld n 18 5), sc, bit n 11, t0⟩
  require .atomicTarget f.targetOk
  .ok (k op f)

/-- Format Q: predicate, LSID in [16:12], and the bits of IMM12 the function leaves zero (R187). -/
def readQ (n : Nat) (zeroMask : Nat) (k : LF → Except Reject Instr) : Except Reject Instr := do
  let pr ← readPr n
  require .mustBeZero (fld n 0 12 &&& zeroMask == 0)
  k ⟨pr, BitVec.ofNat 5 (fld n 12 5)⟩

/-- Format E: predicate, target, and the bits of IMM7 the function leaves zero (R187). -/
def readE (n : Nat) (zeroMask : Nat) (k : EF → Except Reject Instr) : Except Reject Instr := do
  let pr ← readPr n
  require .mustBeZero (fld n 10 7 &&& zeroMask == 0)
  let t0 ← readTarget (fld n 0 10)
  k ⟨pr, t0⟩

/-- Accepts an instruction whose immediate fields hold no reserved value. -/
def accept (i : Instr) : Except Reject Instr := if i.wf then .ok i else .error .immediate


/-- The TAG escape functions (R93). -/
def decodeTag (n : Nat) : Nat → Except Reject Instr
  | 32 => readQ n 3840 fun q => .ok (.tblock q (BitVec.ofNat 8 (fld n 0 8)))
  | 33 => readQ n 3840 fun q => .ok (.tunblk q (BitVec.ofNat 8 (fld n 0 8)))
  | 34 => readQ n 4092 fun q => accept (.tsalloc q (BitVec.ofNat 2 (fld n 0 2)))
  | 35 => readQ n 4092 fun q => accept (.tsfree q (BitVec.ofNat 2 (fld n 0 2)))
  | 36 => readQ n 4032 fun q => accept (.tkill q (BitVec.ofNat 2 (fld n 0 2)) (BitVec.ofNat 4 (fld n 2 4)))
  | 37 => readQ n 3840 fun q => .ok (.tbind q (BitVec.ofNat 8 (fld n 0 8)))
  | _ => .error .function

/-- The LINK escape functions (R93). -/
def decodeLink (n : Nat) : Nat → Except Reject Instr
  | 0 => readE n 124 fun e => .ok (.lpeek e (BitVec.ofNat 1 (fld n 10 1)) (bit n 11))
  | 32 => readQ n 0 fun q => do
    let t0 ← readTarget (fld n 0 10)
    .ok (.lpop q (BitVec.ofNat 1 (fld n 10 1)) (bit n 11) t0)
  | 33 => readQ n 4094 fun q => .ok (.lpush q (BitVec.ofNat 1 (fld n 0 1)))
  | 34 => readQ n 3968 fun q => .ok (.csig q (BitVec.ofNat 6 (fld n 0 6)) (bit n 6))
  | _ => .error .function

/-- The STREAM escape functions (R93). -/
def decodeStream (n : Nat) : Nat → Except Reject Instr
  | 32 => readQ n 4092 fun q => .ok (.sdef q (BitVec.ofNat 2 (fld n 0 2)))
  | 33 => readQ n 4088 fun q => .ok (.sgo q (BitVec.ofNat 2 (fld n 0 2)) (bit n 2))
  | 34 => readQ n 4088 fun q => .ok (.sstop q (BitVec.ofNat 2 (fld n 0 2)) (bit n 2))
  | 35 => readQ n 4064 fun q => accept (.sbar q (BitVec.ofNat 4 (fld n 0 4)) (bit n 4))
  | 36 => readQ n 3840 fun q => .ok (.scond q (BitVec.ofNat 2 (fld n 0 2)) (BitVec.ofNat 6 (fld n 2 6)))
  | 37 => readQ n 4092 fun q => .ok (.sfmt q (BitVec.ofNat 2 (fld n 0 2)))
  | _ => .error .function

/-- The MXE escape functions (R93). -/
def decodeMxe (n : Nat) : Nat → Except Reject Instr
  | 0 => readE n 127 fun e => .ok (.mxstat e)
  | 32 => readQ n 4094 fun q => .ok (.mxcfg q (bit n 0))
  | 33 => readQ n 4092 fun q => .ok (.mxldb q (BitVec.ofNat 1 (fld n 0 1)) (bit n 1))
  | 34 => readQ n 4095 fun q => .ok (.mxrun q)
  | 35 => readQ n 4095 fun q => .ok (.mxout q)
  | 36 => readQ n 0 fun q => .ok (.mxclr q (BitVec.ofNat 6 (fld n 0 6)) (BitVec.ofNat 6 (fld n 6 6)))
  | _ => .error .function

/-- The SYNC escape functions (R93). -/
def decodeSync (n : Nat) : Nat → Except Reject Instr
  | 0 => readE n 0 fun e => accept (.bstat e (BitVec.ofNat 7 (fld n 10 7)))
  | 32 => readQ n 3968 fun q => accept (.binit q (BitVec.ofNat 7 (fld n 0 7)))
  | 33 => readQ n 3968 fun q => accept (.arv q (BitVec.ofNat 7 (fld n 0 7)))
  | 34 => readQ n 3968 fun q => accept (.arvd q (BitVec.ofNat 7 (fld n 0 7)))
  | 35 => readQ n 3968 fun q => accept (.joinb q (BitVec.ofNat 7 (fld n 0 7)))
  | 36 => readQ n 3968 fun q => accept (.leaveb q (BitVec.ofNat 7 (fld n 0 7)))
  | 37 => readQ n 3840 fun q => .ok (.joinc q (BitVec.ofNat 8 (fld n 0 8)))
  | 38 => readQ n 3840 fun q => .ok (.leavec q (BitVec.ofNat 8 (fld n 0 8)))
  | _ => .error .function

/-- The COLL escape functions (R93). -/
def decodeColl (n : Nat) : Nat → Except Reject Instr
  | 0 => readE n 127 fun e => .ok (.cstat e)
  | 1 => readE n 112 fun e => .ok (.cpath e (BitVec.ofNat 4 (fld n 10 4)))
  | 32 => readQ n 3840 fun q => .ok (.cstart q (BitVec.ofNat 8 (fld n 0 8)))
  | 33 => readQ n 3840 fun q => .ok (.cabort q (BitVec.ofNat 8 (fld n 0 8)))
  | _ => .error .function

/-- The SYS escape functions (R93). -/
def decodeSys (n : Nat) : Nat → Except Reject Instr
  | 32 => readQ n 3968 fun q => do
    let v ← orReject .immediate (Verdict.ofCode (fld n 5 2))
    .ok (.settle q (BitVec.ofNat 5 (fld n 0 5)) v)
  | 33 => readQ n 3584 fun q => .ok (.cut q (BitVec.ofNat 8 (fld n 0 8)) (BitVec.ofNat 1 (fld n 8 1)))
  | 34 => readQ n 3840 fun q => .ok (.save q (BitVec.ofNat 8 (fld n 0 8)))
  | 35 => readQ n 3584 fun q => .ok (.restore q (BitVec.ofNat 8 (fld n 0 8)) (BitVec.ofNat 1 (fld n 8 1)))
  | 36 => readQ n 3840 fun q => .ok (.scribe q (BitVec.ofNat 8 (fld n 0 8)))
  | 37 => readQ n 3584 fun q => .ok (.sflip q (BitVec.ofNat 8 (fld n 0 8)) (BitVec.ofNat 1 (fld n 8 1)))
  | 38 => readQ n 3840 fun q => .ok (.selftest q (BitVec.ofNat 8 (fld n 0 8)))
  | 39 => readQ n 3584 fun q => .ok (.sister q (BitVec.ofNat 8 (fld n 0 8)) (BitVec.ofNat 1 (fld n 8 1)))
  | 40 => readQ n 3840 fun q => .ok (.takeover q (BitVec.ofNat 8 (fld n 0 8)))
  | 41 => readQ n 3584 fun q => .ok (.clksel q (BitVec.ofNat 8 (fld n 0 8)) (BitVec.ofNat 1 (fld n 8 1)))
  | 42 => readQ n 3840 fun q => .ok (.winset q (BitVec.ofNat 8 (fld n 0 8)))
  | 43 => readQ n 3840 fun q => .ok (.bindset q (BitVec.ofNat 8 (fld n 0 8)))
  | _ => .error .function

/-- The CFG escape functions (R93). -/
def decodeCfg (n : Nat) : Nat → Except Reject Instr
  | 0 => readE n 127 fun e => .ok (.cfgstat e)
  | 32 => readQ n 3840 fun q => .ok (.cfgreq q (BitVec.ofNat 8 (fld n 0 8)))
  | 33 => readQ n 3840 fun q => .ok (.cfgrel q (BitVec.ofNat 8 (fld n 0 8)))
  | 34 => readQ n 4064 fun q => accept (.spawn q (BitVec.ofNat 3 (fld n 0 3)) (BitVec.ofNat 2 (fld n 3 2)))
  | 35 => readQ n 3072 fun q => accept (.mapsel q (BitVec.ofNat 2 (fld n 0 2)) (BitVec.ofNat 8 (fld n 2 8)))
  | _ => .error .function

/-- Primary opcodes 0x00 to 0x0F (R89). -/
def decodeRow0 (n : Nat) : Nat → Except Reject Instr
  | 1 => readG n xopZero fun _ g => .mov g
  | 2 => readG n NulF.ofCode fun x g => .nult x g
  | 3 => readG n xopZero fun _ g => .sel g
  | 4 => readH n .lit
  | 5 => readI n .imm
  | 6 => readG n LaneF.ofCode fun x g => .lane x g
  | 7 => readG n (xopNum 2) fun x g => .arg x g
  | 8 => readX n fun x => .ok (.bro x (BitVec.ofNat 20 (fld n 0 20)))
  | 9 => readX n fun x => .ok (.callo x (BitVec.ofNat 20 (fld n 0 20)))
  | 10 => readX0 n .br
  | 11 => readX0 n .call
  | 12 => readX n fun x => do
    let kind ← orReject .retKind (RetKind.ofCode (fld n 0 20))
    .ok (.ret x kind)
  | 13 => readX0 n .endBlk
  | 14 => readX0 n .yieldBlk
  | 15 => readX n fun x => do
    require .mustBeZero (fld n 12 8 == 0)
    .ok (.scall x (BitVec.ofNat 12 (fld n 0 12)))
  | _ => .error .opcode

/-- Primary opcodes 0x10 to 0x1F (R89). -/
def decodeRow1 (n : Nat) : Nat → Except Reject Instr
  | 0 => readG n xopZero fun _ g => .add g
  | 1 => readG n xopZero fun _ g => .sub g
  | 2 => readG n xopZero fun _ g => .mul g
  | 3 => readG n Sgn.ofCode fun x g => .mulh x g
  | 4 => readG n Sgn.ofCode fun x g => .div x g
  | 5 => readG n Sgn.ofCode fun x g => .rem x g
  | 6 => readG n xopZero fun _ g => .and g
  | 7 => readG n xopZero fun _ g => .or g
  | 8 => readG n xopZero fun _ g => .xor g
  | 9 => readG n xopZero fun _ g => .andn g
  | 10 => readG n xopZero fun _ g => .shl g
  | 11 => readG n ShrF.ofCode fun x g => .shr x g
  | 12 => readG n xopZero fun _ g => .rot g
  | 13 => readG n Sgn.ofCode fun x g => .min x g
  | 14 => readG n Sgn.ofCode fun x g => .max x g
  | 15 => readG n BitcF.ofCode fun x g => .bitc x g
  | _ => .error .opcode

/-- Primary opcodes 0x20 to 0x2F (R89). -/
def decodeRow2 (n : Nat) : Nat → Except Reject Instr
  | 0 => readG n ExtF.ofCode fun x g => .ext x g
  | 1 => readG n ShrF.ofCode fun x g => .bfx x g
  | 2 => readG n xopZero fun _ g => .bfi g
  | 3 => readG n LeaF.ofCode fun x g => .lea x g
  | 4 => readG n xopZero fun _ g => .add3 g
  | 5 => readG n xopZero fun _ g => .mad g
  | 6 => readG n AddsF.ofCode fun x g => .adds x g
  | 7 => readG n Sgn.ofCode fun x g => .absd x g
  | 8 => readG n UniF.ofCode fun x g => .uni x g
  | 9 => readG n xopZero fun _ g => .teq g
  | 10 => readG n xopZero fun _ g => .tne g
  | 11 => readG n Sgn.ofCode fun x g => .tlt x g
  | 12 => readG n Sgn.ofCode fun x g => .tle x g
  | 13 => readG n PlogF.ofCode fun x g => .plog x g
  | 14 => readG n PredF.ofCode fun x g => .pred x g
  | _ => .error .opcode

/-- Primary opcodes 0x30 to 0x3F (R89). -/
def decodeRow3 (n : Nat) : Nat → Except Reject Instr
  | 0 => readI n .addi
  | 1 => readI n .muli
  | 2 => readI n .andi
  | 3 => readI n .ori
  | 4 => readI n .xori
  | 5 => readH n .shli
  | 6 => readH n .shri
  | 7 => readH n .sari
  | 8 => readI n .teqi
  | 9 => readI n .tnei
  | 10 => readI n .tlti
  | 11 => readI n .tltui
  | 12 => readI n .tgei
  | 13 => readI n .tgeui
  | 14 => readI n .addln
  | _ => .error .opcode

/-- Primary opcodes 0x40 to 0x4F (R89). -/
def decodeRow4 (n : Nat) : Nat → Except Reject Instr
  | 0 => readG n xopZero fun _ g => .fadd g
  | 1 => readG n xopZero fun _ g => .fsub g
  | 2 => readG n xopZero fun _ g => .fmul g
  | 3 => readG n xopZero fun _ g => .fma g
  | 4 => readG n xopZero fun _ g => .fms g
  | 5 => readG n xopZero fun _ g => .fnma g
  | 6 => readG n NanF.ofCode fun x g => .fmin x g
  | 7 => readG n NanF.ofCode fun x g => .fmax x g
  | 8 => readG n xopZero fun _ g => .fdiv g
  | 9 => readG n xopZero fun _ g => .fsqrt g
  | 10 => readG n FapxF.ofCode fun x g => .fapx x g
  | 11 => readG n FcmpF.ofCode fun x g => .fcmp x g
  | 12 => readG n FsgnF.ofCode fun x g => .fsgn x g
  | 13 => readG n CvtfiF.ofCode fun x g => .cvtfi x g
  | 14 => readG n Sgn.ofCode fun x g => .cvtif x g
  | 15 => readG n FrndF.ofCode fun x g => .frnd x g
  | _ => .error .opcode

/-- Primary opcodes 0x50 to 0x5F (R89). -/
def decodeRow5 (n : Nat) : Nat → Except Reject Instr
  | 0 => readG n xopZero fun _ g => .fscl g
  | 1 => readG n FxtrF.ofCode fun x g => .fxtr x g
  | 2 => readG n NarrF.ofCode fun x g => .narr x g
  | 3 => readG n Spl3F.ofCode fun x g => .spl3 x g
  | 4 => readG n FredF.ofCode fun x g => .fred x g
  | 5 => readG n xopZero fun _ g => .fdot g
  | 6 => readG n xopZero fun _ g => .flrp g
  | 8 => readG n xopZero fun _ g => .lperm g
  | 9 => readG n (xopNum 3) fun x g => .lbc x g
  | 10 => readG n (xopNum 3) fun x g => .lshf x g
  | 11 => readG n (xopNum 3) fun x g => .lrot x g
  | 12 => readG n FoldF.ofCode fun x g => .lscan x g
  | 13 => readG n FoldF.ofCode fun x g => .lred x g
  | 14 => readG n xopZero fun _ g => .lcmp g
  | 15 => readG n xopZero fun _ g => .lxpd g
  | _ => .error .opcode

/-- Primary opcodes 0x60 to 0x6F (R89). -/
def decodeRow6 (n : Nat) : Nat → Except Reject Instr
  | 0 => readM n .ldw
  | 1 => readM n .ldh
  | 2 => readM n .ldhu
  | 3 => readM n .ldb
  | 4 => readM n .ldbu
  | 5 => readM n .ldv
  | 6 => readM n .ldc
  | 7 => readM n .ldvs
  | 8 => readS n .stw
  | 9 => readS n .sth
  | 10 => readS n .stb
  | 11 => readS n .stv
  | 12 => readS n .stvs
  | 13 => readL n fun q => do
    require .mustBeZero (fld n 0 10 == 0)
    .ok (.clrp q (BitVec.ofNat 8 (fld n 10 8)))
  | 14 => readL n fun q => do
    require .mustBeZero (fld n 3 15 == 0)
    let sc ← orReject .fenceScope (FenceScope.ofCode (fld n 0 3))
    .ok (.fence q sc)
  | 15 => readL n fun q => do
    require .mustBeZero (fld n 0 10 == 0 && fld n 16 2 == 0)
    require .register (spwOk (BitVec.ofNat 6 (fld n 10 6)))
    .ok (.spw q (BitVec.ofNat 6 (fld n 10 6)))
  | _ => .error .opcode

/-- Primary opcodes 0x70 to 0x7F (R89). -/
def decodeRow7 (n : Nat) : Nat → Except Reject Instr
  | 0 => readA n AmoOp.ofCode fun op f => .amo op f
  | 1 => readA n xopZero fun _ f => .cas f
  | 2 => readA n (xopNum 4) fun h f => .upd h f
  | 3 => readR n .spr
  | 4 => readL n fun q => do
    require .mustBeZero (fld n 0 8 == 0)
    let act ← orReject .tagAct (TagAct.ofCode (fld n 14 4))
    .ok (.send q act (BitVec.ofNat 6 (fld n 8 6)))
  | 5 => readL n fun q => do
    require .mustBeZero (fld n 8 6 == 0)
    let act ← orReject .tagAct (TagAct.ofCode (fld n 14 4))
    .ok (.sendm q act (BitVec.ofNat 8 (fld n 0 8)))
  | 6 => decodeTag n (fld n 17 6)
  | 7 => decodeLink n (fld n 17 6)
  | 8 => decodeStream n (fld n 17 6)
  | 9 => decodeMxe n (fld n 17 6)
  | 10 => decodeSync n (fld n 17 6)
  | 11 => decodeColl n (fld n 17 6)
  | 12 => decodeSys n (fld n 17 6)
  | 13 => decodeCfg n (fld n 17 6)
  | 14 => readX n fun x => .ok (.trap x (BitVec.ofNat 20 (fld n 0 20)))
  | _ => .error .opcode

/-- The instruction of a 32-bit word (R83, R97, R98). -/
def decodeNat (n : Nat) : Except Reject Instr :=
  match fld n 29 3 with
  | 0 => decodeRow0 n (fld n 25 4)
  | 1 => decodeRow1 n (fld n 25 4)
  | 2 => decodeRow2 n (fld n 25 4)
  | 3 => decodeRow3 n (fld n 25 4)
  | 4 => decodeRow4 n (fld n 25 4)
  | 5 => decodeRow5 n (fld n 25 4)
  | 6 => decodeRow6 n (fld n 25 4)
  | _ => decodeRow7 n (fld n 25 4)

/-- The instruction of a word. -/
def decodeWord (w : Word) : Except Reject Instr := decodeNat w.toNat

/-- The number that four bytes hold, least significant first (R1). -/
def leNat : List Byte → Nat
  | [] => 0
  | b :: bs => b.toNat + 256 * leNat bs

/-- The instruction that stands first in the bytes, with the bytes after it (R1, R75). -/
def decode : List Byte → Except Reject (Instr × List Byte)
  | b0 :: b1 :: b2 :: b3 :: rest => do
    let i ← decodeNat (leNat [b0, b1, b2, b3])
    .ok (i, rest)
  | _ => .error .tooShort

/-- The bytes of a word, least significant first (R1). -/
def wordBytes (n : Nat) : List Byte :=
  [BitVec.ofNat 8 n, BitVec.ofNat 8 (n / 256), BitVec.ofNat 8 (n / 65536), BitVec.ofNat 8 (n / 16777216)]

/-- The instruction the decoder reads from an instruction whose bits are `w`, the bits above `nbits` being zero. -/
def decodeTableWord (nbits w : Nat) : Option Instr :=
  if w < 2 ^ 32 ∧ w < 2 ^ nbits then
    match decode (wordBytes w) with
    | .ok (i, _) => some i
    | .error _ => Option.none
  else Option.none

/-- OPC and PR of a word (R83). -/
def encHead (opc : Nat) (pr : Pr) : Nat := opc * 33554432 + pr.code * 8388608

/-- The word of format G (R83). -/
def encG (opc x : Nat) (g : GF) : Nat := encHead opc g.pr + x * 1048576 + g.t1.code * 1024 + g.t0.code

/-- The word of format I (R83). -/
def encI (opc : Nat) (i : IF) : Nat := encHead opc i.pr + i.imm.toNat * 1024 + i.t0.code

/-- The word of format I with a five-bit immediate (R89). -/
def encH (opc : Nat) (i : HF) : Nat := encHead opc i.pr + i.imm.toNat * 1024 + i.t0.code

/-- The word of SPR (R96). -/
def encR (opc : Nat) (r : RF) : Nat := encHead opc r.pr + r.reg.toNat * 1024 + r.t0.code

/-- The word of format X (R84). -/
def encX (opc off : Nat) (x : XF) : Nat := encHead opc x.pr + x.exit.toNat * 1048576 + off

/-- The word of format M (R84). -/
def encM (opc : Nat) (m : MF) : Nat := encHead opc m.pr + m.lsid.toNat * 262144 + m.imm.toNat * 1024 + m.t0.code

/-- The word of a store (R84, R86). -/
def encS (opc : Nat) (f : SF) : Nat := encHead opc f.pr + f.lsid.toNat * 262144 + f.imm.toNat * 1024 + f.hint.code

/-- The word of a side effect whose other bits are `rest` (R84, R92). -/
def encL (opc rest : Nat) (q : LF) : Nat := encHead opc q.pr + q.lsid.toNat * 262144 + rest

/-- The word of format A (R90). -/
def encA (opc op : Nat) (f : AF) : Nat :=
  encHead opc f.pr + f.lsid.toNat * 262144 + op * 16384 + f.scope.code * 4096 + (if f.noret then 2048 else 0) + f.t0.code

/-- The word of format Q (R187). -/
def encQ (opc fn imm : Nat) (q : LF) : Nat := encHead opc q.pr + fn * 131072 + q.lsid.toNat * 4096 + imm

/-- The word of format E (R187). -/
def encE (opc fn imm : Nat) (e : EF) : Nat := encHead opc e.pr + fn * 131072 + imm * 1024 + e.t0.code

/-- A one-bit field. -/
def encBit (b : Bool) : Nat := if b then 1 else 0

/-- The word of an instruction, as a number; an event has none. -/
def encodeNat : Instr → Option Nat
  | .mov g => some (encG 0x1 0 g)
  | .nult x g => some (encG 0x2 x.code g)
  | .sel g => some (encG 0x3 0 g)
  | .lit i => some (encH 0x4 i)
  | .imm i => some (encI 0x5 i)
  | .lane x g => some (encG 0x6 x.code g)
  | .arg x g => some (encG 0x7 x.toNat g)
  | .bro x off => some (encX 0x8 off.toNat x)
  | .callo x off => some (encX 0x9 off.toNat x)
  | .br x => some (encX 0xa 0 x)
  | .call x => some (encX 0xb 0 x)
  | .ret x kind => some (encX 0xc kind.code x)
  | .endBlk x => some (encX 0xd 0 x)
  | .yieldBlk x => some (encX 0xe 0 x)
  | .scall x service => some (encX 0xf service.toNat x)
  | .add g => some (encG 0x10 0 g)
  | .sub g => some (encG 0x11 0 g)
  | .mul g => some (encG 0x12 0 g)
  | .mulh x g => some (encG 0x13 x.code g)
  | .div x g => some (encG 0x14 x.code g)
  | .rem x g => some (encG 0x15 x.code g)
  | .and g => some (encG 0x16 0 g)
  | .or g => some (encG 0x17 0 g)
  | .xor g => some (encG 0x18 0 g)
  | .andn g => some (encG 0x19 0 g)
  | .shl g => some (encG 0x1a 0 g)
  | .shr x g => some (encG 0x1b x.code g)
  | .rot g => some (encG 0x1c 0 g)
  | .min x g => some (encG 0x1d x.code g)
  | .max x g => some (encG 0x1e x.code g)
  | .bitc x g => some (encG 0x1f x.code g)
  | .ext x g => some (encG 0x20 x.code g)
  | .bfx x g => some (encG 0x21 x.code g)
  | .bfi g => some (encG 0x22 0 g)
  | .lea x g => some (encG 0x23 x.code g)
  | .add3 g => some (encG 0x24 0 g)
  | .mad g => some (encG 0x25 0 g)
  | .adds x g => some (encG 0x26 x.code g)
  | .absd x g => some (encG 0x27 x.code g)
  | .uni x g => some (encG 0x28 x.code g)
  | .teq g => some (encG 0x29 0 g)
  | .tne g => some (encG 0x2a 0 g)
  | .tlt x g => some (encG 0x2b x.code g)
  | .tle x g => some (encG 0x2c x.code g)
  | .plog x g => some (encG 0x2d x.code g)
  | .pred x g => some (encG 0x2e x.code g)
  | .addi i => some (encI 0x30 i)
  | .muli i => some (encI 0x31 i)
  | .andi i => some (encI 0x32 i)
  | .ori i => some (encI 0x33 i)
  | .xori i => some (encI 0x34 i)
  | .shli i => some (encH 0x35 i)
  | .shri i => some (encH 0x36 i)
  | .sari i => some (encH 0x37 i)
  | .teqi i => some (encI 0x38 i)
  | .tnei i => some (encI 0x39 i)
  | .tlti i => some (encI 0x3a i)
  | .tltui i => some (encI 0x3b i)
  | .tgei i => some (encI 0x3c i)
  | .tgeui i => some (encI 0x3d i)
  | .addln i => some (encI 0x3e i)
  | .fadd g => some (encG 0x40 0 g)
  | .fsub g => some (encG 0x41 0 g)
  | .fmul g => some (encG 0x42 0 g)
  | .fma g => some (encG 0x43 0 g)
  | .fms g => some (encG 0x44 0 g)
  | .fnma g => some (encG 0x45 0 g)
  | .fmin x g => some (encG 0x46 x.code g)
  | .fmax x g => some (encG 0x47 x.code g)
  | .fdiv g => some (encG 0x48 0 g)
  | .fsqrt g => some (encG 0x49 0 g)
  | .fapx x g => some (encG 0x4a x.code g)
  | .fcmp x g => some (encG 0x4b x.code g)
  | .fsgn x g => some (encG 0x4c x.code g)
  | .cvtfi x g => some (encG 0x4d x.code g)
  | .cvtif x g => some (encG 0x4e x.code g)
  | .frnd x g => some (encG 0x4f x.code g)
  | .fscl g => some (encG 0x50 0 g)
  | .fxtr x g => some (encG 0x51 x.code g)
  | .narr x g => some (encG 0x52 x.code g)
  | .spl3 x g => some (encG 0x53 x.code g)
  | .fred x g => some (encG 0x54 x.code g)
  | .fdot g => some (encG 0x55 0 g)
  | .flrp g => some (encG 0x56 0 g)
  | .lperm g => some (encG 0x58 0 g)
  | .lbc x g => some (encG 0x59 x.toNat g)
  | .lshf x g => some (encG 0x5a x.toNat g)
  | .lrot x g => some (encG 0x5b x.toNat g)
  | .lscan x g => some (encG 0x5c x.code g)
  | .lred x g => some (encG 0x5d x.code g)
  | .lcmp g => some (encG 0x5e 0 g)
  | .lxpd g => some (encG 0x5f 0 g)
  | .ldw m => some (encM 0x60 m)
  | .ldh m => some (encM 0x61 m)
  | .ldhu m => some (encM 0x62 m)
  | .ldb m => some (encM 0x63 m)
  | .ldbu m => some (encM 0x64 m)
  | .ldv m => some (encM 0x65 m)
  | .ldc m => some (encM 0x66 m)
  | .ldvs m => some (encM 0x67 m)
  | .stw st => some (encS 0x68 st)
  | .sth st => some (encS 0x69 st)
  | .stb st => some (encS 0x6a st)
  | .stv st => some (encS 0x6b st)
  | .stvs st => some (encS 0x6c st)
  | .clrp q imm => some (encL 0x6d (imm.toNat * 1024) q)
  | .fence q scope => some (encL 0x6e scope.code q)
  | .spw q reg => some (encL 0x6f (reg.toNat * 1024) q)
  | .amo op f => some (encA 0x70 op.code f)
  | .cas f => some (encA 0x71 0 f)
  | .upd op f => some (encA 0x72 op.toNat f)
  | .spr r => some (encR 0x73 r)
  | .send q act ch => some (encL 0x74 (act.code * 16384 + ch.toNat * 256) q)
  | .sendm q act tag => some (encL 0x75 (act.code * 16384 + tag.toNat) q)
  | .tblock q tag => some (encQ 0x76 32 (tag.toNat) q)
  | .tunblk q tag => some (encQ 0x76 33 (tag.toNat) q)
  | .tsalloc q level => some (encQ 0x76 34 (level.toNat) q)
  | .tsfree q level => some (encQ 0x76 35 (level.toNat) q)
  | .tkill q level depth => some (encQ 0x76 36 (level.toNat + depth.toNat * 4) q)
  | .tbind q tag => some (encQ 0x76 37 (tag.toNat) q)
  | .lpeek e link cnt => some (encE 0x77 0 (link.toNat + encBit cnt * 2) e)
  | .lpop q link fwd t0 => some (encQ 0x77 32 (encBit fwd * 2048 + link.toNat * 1024 + t0.code) q)
  | .lpush q out => some (encQ 0x77 33 (out.toNat) q)
  | .csig q chan reg => some (encQ 0x77 34 (chan.toNat + encBit reg * 64) q)
  | .sdef q unit => some (encQ 0x78 32 (unit.toNat) q)
  | .sgo q unit resume => some (encQ 0x78 33 (unit.toNat + encBit resume * 4) q)
  | .sstop q unit rel => some (encQ 0x78 34 (unit.toNat + encBit rel * 4) q)
  | .sbar q mask mx => some (encQ 0x78 35 (mask.toNat + encBit mx * 16) q)
  | .scond q unit alt => some (encQ 0x78 36 (unit.toNat + alt.toNat * 4) q)
  | .sfmt q unit => some (encQ 0x78 37 (unit.toNat) q)
  | .mxstat e => some (encE 0x79 0 0 e)
  | .mxcfg q rel => some (encQ 0x79 32 (encBit rel) q)
  | .mxldb q bank strm => some (encQ 0x79 33 (bank.toNat + encBit strm * 2) q)
  | .mxrun q => some (encQ 0x79 34 0 q)
  | .mxout q => some (encQ 0x79 35 0 q)
  | .mxclr q first countM1 => some (encQ 0x79 36 (first.toNat + countM1.toNat * 64) q)
  | .bstat e bn => some (encE 0x7a 0 (bn.toNat) e)
  | .binit q bn => some (encQ 0x7a 32 (bn.toNat) q)
  | .arv q bn => some (encQ 0x7a 33 (bn.toNat) q)
  | .arvd q bn => some (encQ 0x7a 34 (bn.toNat) q)
  | .joinb q bn => some (encQ 0x7a 35 (bn.toNat) q)
  | .leaveb q bn => some (encQ 0x7a 36 (bn.toNat) q)
  | .joinc q gt => some (encQ 0x7a 37 (gt.toNat) q)
  | .leavec q gt => some (encQ 0x7a 38 (gt.toNat) q)
  | .cstat e => some (encE 0x7b 0 0 e)
  | .cpath e path => some (encE 0x7b 1 (path.toNat) e)
  | .cstart q gt => some (encQ 0x7b 32 (gt.toNat) q)
  | .cabort q gt => some (encQ 0x7b 33 (gt.toNat) q)
  | .settle q entry verdict => some (encQ 0x7c 32 (entry.toNat + verdict.code * 32) q)
  | .cut q reply sub => some (encQ 0x7c 33 (reply.toNat + sub.toNat * 256) q)
  | .save q reply => some (encQ 0x7c 34 (reply.toNat) q)
  | .restore q reply sub => some (encQ 0x7c 35 (reply.toNat + sub.toNat * 256) q)
  | .scribe q reply => some (encQ 0x7c 36 (reply.toNat) q)
  | .sflip q reply sub => some (encQ 0x7c 37 (reply.toNat + sub.toNat * 256) q)
  | .selftest q reply => some (encQ 0x7c 38 (reply.toNat) q)
  | .sister q reply sub => some (encQ 0x7c 39 (reply.toNat + sub.toNat * 256) q)
  | .takeover q reply => some (encQ 0x7c 40 (reply.toNat) q)
  | .clksel q reply sub => some (encQ 0x7c 41 (reply.toNat + sub.toNat * 256) q)
  | .winset q reply => some (encQ 0x7c 42 (reply.toNat) q)
  | .bindset q reply => some (encQ 0x7c 43 (reply.toNat) q)
  | .cfgstat e => some (encE 0x7d 0 0 e)
  | .cfgreq q grant => some (encQ 0x7d 32 (grant.toNat) q)
  | .cfgrel q reply => some (encQ 0x7d 33 (reply.toNat) q)
  | .spawn q ctx cls => some (encQ 0x7d 34 (ctx.toNat + cls.toNat * 8) q)
  | .mapsel q map reply => some (encQ 0x7d 35 (map.toNat + reply.toNat * 4) q)
  | .trap x code => some (encX 0x7e code.toNat x)
  | _ => Option.none

/-- The bytes of an instruction. -/
def encode (i : Instr) : Option (List Byte) := (encodeNat i).map wordBytes

end Sys2Proof
end

