-- ==== Sys2Proof/Machine/State.lean ====
section
/-! DEFINITION. The state of the device as plain data: contexts (R8), cells, bays, ports, regions, the bridge, the messages in
flight, and what the outside world does next. Reset values are those of the register maps; where a map gives none, the value
stands in notes/assumptions/3.md to 6.md. -/

namespace Sys2Proof.Machine

/-- Why a step stops the model. Raised by every instruction's meaning when the context in focus holds no frame, which no step of the
machine does: safe. -/
inductive Fault where
  | noFrame
  deriving DecidableEq, Repr

/-- Instructions without a meaning, by mnemonic. Raised by `exec` alone: safe. -/
inductive Refusal where
  | notModelled (mnemonic : String)
  deriving DecidableEq, Repr

/-- Fault causes (R374). -/
inductive Cause where
  | illegal | target | overrun | noexit | multiexit | incomplete | align | bounds | prot | window | rewrite | stack | tagspace
  | channel | stream | rescale | barOver | barState | collOrder | collGroup | remote | hostpage | ecc | nopre | priv | trap
  | unsettled
  deriving DecidableEq, Repr

/-- A fault that a block meets (R32, R374): what TCAUSE, TADDR and TINFO record. -/
structure BFault where
  cause : Cause
  taddr : Word := 0
  slot : Nat := 0x7F
  lanes : Nat := 0
  lsid : Nat := 0
  deriving DecidableEq, Repr

/-- Context states (R10). -/
inductive CtxState where
  | idle | running | trapped | halted | saved
  deriving DecidableEq, Repr

/-- Window kinds (R285, R408, R429). -/
inductive WinKind where
  | sram | loft | cell | spread | host | peer | mgmt | port
  deriving DecidableEq, Repr

/-- Window modes (R289). -/
inductive WinMode where
  | random | stream | presence | update
  deriving DecidableEq, Repr

/-- The collective tuple of a token (R325) with the sender's rank (R326). -/
structure Tuple where
  gt : Nat
  seq : Nat
  digest : Nat
  rank : Nat
  deriving DecidableEq, Repr

/-- A token (01: Route tags and bindings); `src` is the cell and read unit that sent it with its elements (R335), and `release` marks
a barrier release (R221, R330). The tag of a token queued for a shadow binding is 512 plus its route tag (R325). -/
structure Token where
  tag : Nat
  itag : BitVec 6 := 0
  port : Nat := 0
  lanes : Val
  tuple : Option Tuple := none
  src : Option (Nat × Nat × Nat) := none
  release : Bool := false
  deriving DecidableEq, Repr

/-- Who receives the answer to a request: an instruction of a frame in flight, a pending entry, a context whose entry `idx`, opened in step
`born`, no longer waits for it (R183), a stream unit, the outside, or nobody. -/
inductive Asker where
  | frame (cell ctx serial slot : Nat)
  | entry (cell ctx idx : Nat)
  | freed (cell ctx lsid idx born : Nat)
  | engine (cell unit : Nat)
  | outside (id : Nat)
  | nobody
  deriving DecidableEq, Repr

/-- A memory operation at an owner (R161). -/
inductive MemOp where
  | load | ldc | store | clrp | amo (op : AmoOp) | cas | upd (h : Nat)
  deriving DecidableEq, Repr

/-- One lane of a memory request: the byte key at the owner, the operands, ea, the mode of its window (R289), whether it goes by the loft
ring (R284), whether its block has already emptied the word, which the lane then finds empty (R165, R168), and whether an LDC of its block
consumes the word that it stores (R168). -/
structure LaneReq where
  lane : Nat
  key : Nat
  ea : Word := 0
  b : Word := 0
  c : Word := 0
  mode : WinMode := .random
  ring : Bool := false
  after : Bool := false
  eat : Bool := false
  deriving DecidableEq, Repr

/-- A memory request to one owner (R295), from context `ctx` at `offset` from it (R182); `exportNo` is the export of a peer (R436), and `pmask`
the paths that the collective operation it belongs to allows (R333). -/
structure MemReq where
  op : MemOp
  size : Nat := 4
  hint : Hint := .policy
  noret : Bool := false
  lanes : List LaneReq
  asker : Asker
  offset : Word := 0
  exportNo : Nat := 0
  ctx : Nat := 0
  tuple : Option Tuple := none
  pmask : Nat := 0xFFFF
  deriving DecidableEq, Repr

/-- The answer of an owner: the lanes performed with their values, the lanes refused with their cause (R174, R178), the words
taken (R168), whether it answers a recorded request (R387), and which of several requests of one instruction to one owner it answers (R182,
R259). -/
structure Answer where
  asker : Asker
  vals : List (Nat × Word) := []
  cause : Option Cause := none
  refused : Nat := 0
  taken : List Nat := []
  recorded : Bool := false
  part : Nat := 0
  deriving DecidableEq, Repr

/-- A barrier operation at its home (R220). -/
inductive BarOp where
  | arrive (dropping : Bool) (flags : Option (BitVec 6)) | init (b : Word) | join (count : Nat) | leave (count : Nat)
  deriving DecidableEq, Repr

/-- A spawn message (R230, R362); its asker names the tree, x and y the cell's place in the rectangle. -/
structure SpawnMsg where
  ctx : Nat
  cls : Nat
  hdr : Nat
  arg : Word
  x : Nat
  y : Nat
  w : Nat
  h : Nat
  asker : Asker
  stamp : Nat := 0
  deriving DecidableEq, Repr

/-- A cell's place in a spawn tree: its message, accepted, and the children whose acknowledgement it awaits (R362). -/
structure SpawnTree where
  m : SpawnMsg
  left : Nat
  deriving DecidableEq, Repr

/-- A management function as it travels to its target (R228). -/
structure MgmtFn where
  fn : Nat
  sub : Nat
  addr : Word
  b : Word
  image : List Word := []
  core : Nat
  reply : Nat
  sill : Bool := false
  deriving DecidableEq, Repr

/-- A configuration request at the fabric manager (R229, R231). -/
inductive CfgOp where
  | request (id : Nat) (link : Word) (grant : Nat) | release (handle : Word) (reply : Nat)
  | mapsel (handle : Word) (mapping : Nat) (reply : Nat)
  deriving DecidableEq, Repr

/-- What a message carries. -/
inductive Body where
  | routed (label : Nat) (shadow : Bool) (t : Token) (asker : Asker)
  | token (t : Token) (asker : Asker)
  | mem (r : MemReq)
  | confirm (keys : List Nat) (asker : Asker)
  | cancel (keys : List Nat) (asker : Asker)
  | answer (a : Answer)
  | barrier (bn : Nat) (op : BarOp) (homeWord : Word) (ctx : Nat) (asker : Asker)
  | link (west : Bool) (v : Val)
  | spawn (m : SpawnMsg)
  | spawnAck (m : SpawnMsg)
  | pulse (chan : Nat) (asker : Asker)
  | killSet (ctx level e depth : Nat) (asker : Asker)
  | killClear (ctx level : Nat) (asker : Asker)
  | mgmt (m : MgmtFn) (asker : Asker)
  | register (r : RegName) (value : Option Word) (asker : Asker) (lane : Nat)
  | cfg (op : CfgOp) (ctx : Nat) (asker : Asker)
  | poison (gt seq : Nat) (mismatch : Bool)
  | peg (region : Nat)
  deriving DecidableEq, Repr

/-- A message in flight: where it started, where it goes, the core whose router holds it, its virtual channel pair (R256), its
colour (14: Cuts), how long it waits before it is sent again and how long it waited last (R293), and whether a cut has recorded it
(R387). `inp` is the input of that router that it came in by (0 its own core, 1 to 8 N, E, S, W, N2, E2, S2 and W2, 9 a management path or
bridge), `since` the step in which it came, `sender` the core that sent a token which another cell's boundary has counted as its own
(R384), `path` the path on which it leaves the wafer (R333, R439) and `entropy` the entropy value of that path (R439); `leg` holds the physical
links that are left of the logical hop or management path under way, which the head flit carries (R258, R425, R453). A message on channel 8
travels by the loft ring (R284). -/
structure Msg where
  src : Nat
  dst : Nat
  at_ : Nat
  vc : Nat
  inp : Nat := 0
  since : Nat := 0
  sender : Option Nat := none
  path : Option Nat := none
  entropy : Nat := 0
  leg : List Nat := []
  colour : Bool := false
  wait : Nat := 0
  backoff : Nat := 0
  recorded : Bool := false
  body : Body
  deriving DecidableEq, Repr

/-- One byte range that a local store writes; an LDC of its block may consume the word (R168). -/
structure StLane where
  lane : Nat
  key : Nat
  size : Nat
  val : Word
  ea : Word
  mode : WinMode
  eat : Bool := false
  deriving DecidableEq, Repr

/-- A matrix engine command (R212 to R218); `rowsRecomb` is the order state of the rows an MXOUT reads, judged at firing (R217). -/
inductive MxCmd where
  | load (bank : Nat) (fromStream : Bool) (key : Nat) (ea : Word) (presence : Bool := false)
  | run (word : Word)
  | out (word : Word) (key : Nat) (ea : Word) (presence : Bool)
  | clear (first count : Nat)
  deriving DecidableEq, Repr

/-- What a fired side-effect instruction does at its effect point (R29, R189). -/
inductive Act where
  | nothing
  | store (here : List StLane) (reqs : List (Nat × MemReq)) (regs : List (RegName × Word × Nat × Word)) (hint : Hint)
  | clrp (here : List StLane) (reqs : List (Nat × MemReq))
  | atomic (kind : Nat) (reqs : List (Nat × MemReq)) (cellScope : Bool)
  | sendRoute (label : Nat) (shadow : Bool) (t : Token)
  | sendDyn (dst : Nat) (t : Token) (word : Word)
  | spw (reg : Nat) (v : Word)
  | setBlk (tag : Nat) (blk : Bool)
  | bind (tag : Nat) (w : Word)
  | tsAlloc (level : Nat) (parent : BitVec 6)
  | tsFree (level : Nat)
  | tKill (level e depth : Nat)
  | lpop (west : Bool) (fwd : Bool)
  | lpush (east : Bool) (v : Val)
  | csig (chan : Nat) (wide : Bool)
  | sdef (unit : Nat) (addr : Word)
  | sgo (unit : Nat) (resume : Bool)
  | sstop (unit : Nat) (rel : Bool)
  | scond (unit alt : Nat)
  | sfmt (unit : Nat) (w : Word)
  | mxcfg (rel : Bool) (w : Word)
  | mxcmd (c : MxCmd)
  | arrive (bn : Nat) (dropping : Bool) (home : Word) (dst : Nat) (flags : Option (BitVec 6) := none)
  | joinc (gt : Nat) (members : Nat) (rank : Nat)
  | leavec (gt : Nat)
  | cstart (gt : Nat) (addr : Nat) (desc : List Word)
  | cabort (gt : Nat)
  | settle (entry : Nat) (v : Verdict)
  | mgmt (m : MgmtFn)
  | cfg (op : CfgOp)
  | spawn (m : SpawnMsg) (dst : Nat) (word : Word)
  deriving DecidableEq, Repr

/-- A side effect of a frame, in its LSID position (R31, R33). -/
structure Eff where
  lsid : Nat
  slot : Nat
  act : Act
  deriving DecidableEq, Repr

/-- Operands of one slot (R27). -/
structure Slot where
  a : Option Val := none
  b : Option Val := none
  c : Option Val := none
  p : Option Val := none
  fired : Bool := false
  deriving DecidableEq, Repr

/-- What a taken exit does at commit (R118 to R125). -/
inductive ExitKind where
  | goto (hdr : Nat) | call (hdr : Nat) | ret | trapRet (kind : RetKind) | done | yielded | scall (n : Nat) | trap (n : Nat)
  deriving DecidableEq, Repr

/-- How a load narrows what it read (R163). -/
inductive LoadExt where
  | word | half | halfU | byte | byteU
  deriving DecidableEq, Repr

/-- A load, returning atomic or Reply function that waits for its answer (R32, R166, R178, R189): `overlay` holds, per lane, the bytes
forwarded from stores of its block (R165), and `unsent` the messages of an operation of point Reply that has not departed yet. -/
structure Waiting where
  slot : Nat
  left : List Nat
  got : Val
  ext : LoadExt
  t0 : Target
  lsid : Option Nat
  tlsid : Nat := 0
  eas : Lanes Word := Lanes.all 0
  overlay : List (Nat × Nat × Nat) := []
  unsent : List (Nat × Body) := []
  refused : Nat := 0
  cause : Option Cause := none
  deriving DecidableEq, Repr

/-- A block in execution (R24 to R33). `fetched` counts the words of the block that the fetch has brought and decoded, and `badWord` is the
fault of a word that it brings only after the read descriptors have delivered, with the fetch cycle in whose decoding it is met (R97, R99). -/
structure Frame where
  serial : Nat
  hdr : Nat
  h1 : Word
  h2 : Word
  h3 : Word
  nread : Nat
  nopre : Bool
  descs : List Word
  words : List Word
  lits : List Word
  slots : Tbl Slot := []
  counted : Word := 0
  wroteLo : Word := 0
  wroteHi : Word := 0
  regs : Tbl Val := []
  exit : Option (ExitKind × Nat) := none
  effs : List Eff := []
  flags : Word := 0
  fmode : Word := 0
  sample : Option Nat := none
  waits : List Waiting := []
  readKeys : List Nat := []
  takes : List (Nat × Nat) := []
  eats : List Nat := []
  popsW : Nat := 0
  popsN : Nat := 0
  discards : Nat := 0
  badWord : Option (Nat × BFault) := none
  fetched : Nat := 179
  deriving DecidableEq, Repr

/-- States of a pending entry (R379). -/
inductive EntrySt where
  | free | opened | refused | faulted
  deriving DecidableEq, Repr

/-- A pending-side-effect entry (R379): its two words, what a replay sends again, the answers still to come, and the step that opened it. -/
structure Entry where
  st : EntrySt := .free
  kind : Nat := 0
  cause : Option Cause := none
  lanes : Nat := 0
  lsid : Nat := 0
  slot : Nat := 0
  owner : Nat := 0
  ownerCell : Nat := 0
  addr : Word := 0
  addrs : Lanes Word := Lanes.all 0
  data : Lanes Word := Lanes.all 0
  act : Act := .nothing
  left : Nat := 0
  tuple : Option (Nat × Nat) := none
  born : Nat := 0
  deriving DecidableEq, Repr

/-- A late cause (R375, R376). -/
structure Late where
  cause : Cause
  taddr : Word
  lanes : Nat := 0
  info : Nat := 0
  entry : Option Nat := none
  deriving DecidableEq, Repr

/-- A window entry (R285). -/
structure Win where
  w0 : Word := 0
  base : Word := 0
  w2 : Word := 0
  param : Word := 0
  deriving DecidableEq, Repr

/-- A group table entry (R320). -/
structure Group where
  members : Nat := 0
  rank : Nat := 0
  busy : Bool := false
  poison : Bool := false
  live : Bool := false
  seq : Nat := 0
  digp : Nat := 0
  dig : Nat := 0
  deriving DecidableEq, Repr

/-- A posted collective operation (R323, R324) and its progress (R328). -/
structure Coll where
  gt : Nat
  seq : Nat
  digest : Nat
  addr : Nat
  ftag : Nat
  htag : Nat
  expect : Nat
  pmask : Nat
  arrived : Nat := 0
  started : Bool := false
  ended : Nat := 0
  holdOn : List Nat := []
  deriving DecidableEq, Repr

/-- What an activation starts from: port inputs, iteration tag and arity (R21). -/
structure Input where
  itag : BitVec 6
  argn : Nat
  ports : List Val
  tuple : Option Tuple := none
  deriving DecidableEq, Repr

/-- The interrupted chain of a class-0 interjection (R37, R121). -/
structure Interjected where
  rtag : Nat
  itag : BitVec 6
  argn : Nat
  args : List Val
  cls : Nat
  succ : Nat
  depth : Nat
  tuple : Option Tuple
  deriving DecidableEq, Repr

/-- Trap entry record (R124). -/
structure TrapRec where
  retry : Option Nat
  succ : Option Nat
  depth : Nat
  deriving DecidableEq, Repr

/-- A context (R8). `evNow` is what the present cycle has added to EVCNT (R129). -/
structure Context where
  st : CtxState := .idle
  regs : Tbl (Lanes Word) := []
  args : List Val := [Val.allNull, Val.allNull, Val.allNull, Val.allNull]
  rtag : Nat := 0
  itag : BitVec 6 := 0
  argn : Nat := 1
  cls : Nat := 0
  tuple : Option Tuple := none
  calls : List Nat := []
  pend : Tbl Entry := []
  lateQ : List Late := []
  wins : Tbl Win := []
  chans : Tbl Word := []
  parents : Tbl (Option (BitVec 6)) := []
  flags : Word := 0
  fmode : Word := 0
  trapv : Word := 0
  tcause : Word := 0
  tblock : Word := 0
  taddr : Word := 0
  tinfo : Word := 0
  tl : Bool := false
  trapRec : Option TrapRec := none
  inter : Option Interjected := none
  evsel : Word := 0
  evcnt : Word := 0
  evNow : Word := 0
  nopre : Bool := false
  nopreb : Nat := 65536
  served : Tbl Nat := []
  pc : Option Nat := none
  waitSince : Nat := 0
  yielded : Bool := false
  frame : Option Frame := none
  spec : List Frame := []
  collq : List Coll := []
  cfgOut : Nat := 0
  winsets : List (Nat × Win × MgmtFn) := []
  saves : List MgmtFn := []
  record : Bool := false
  deriving DecidableEq, Repr

/-- A token in an input queue with its place in the cell's arrival order (R16, R39); a collective packet keeps its
sender's core and is `held` while its operation has not started (R326). -/
structure Queued where
  stamp : Nat
  t : Token
  held : Bool := false
  sender : Nat := 0
  deriving DecidableEq, Repr

/-- An entry of the matching store (R17 to R19). `done` is its place among queued activations once complete; `solo` marks an entry
that a change to arity 1 turned into an activation, `born` its place in the order of allocation; `releases` names the ports that barrier releases
filled, and `srcs` the stream elements its tokens brought. -/
structure Join where
  tag : Nat
  itag : BitVec 6
  ports : List (Option Val)
  tuple : Option Tuple := none
  done : Option Nat := none
  solo : Bool := false
  born : Nat := 0
  releases : List Nat := []
  srcs : List (Nat × Nat × Nat) := []
  deriving DecidableEq, Repr

/-- A kill filter (R200). -/
structure Kill where
  ctx : Nat
  level : Nat
  e : Nat
  depth : Nat
  deriving DecidableEq, Repr

/-- States of a stream unit (R208). -/
inductive UnitSt where
  | idle | loaded | armed | running | held
  deriving DecidableEq, Repr

/-- The finish action of a run that waits until other owners have performed the last stores of the run (R192): the requests by their number,
the lanes whose acknowledgement is still to come, and what the action reports. -/
structure UnitEnd where
  epoch : Nat
  left : Nat
  status : Nat
  count : Nat
  flags : Word
  fact : Nat
  fin : Nat
  ftag : Nat
  deriving DecidableEq, Repr

/-- A stream unit (R206 to R210): its descriptor, the next element of its run, the elements performed, those it holds, those
delivered and not yet consumed (R335), what its run has raised, the finish actions that it has still to perform (R192), the pending entries its
command waits for (R304), the late cause that it holds for a context, and for a read unit the words it has asked for, what has come
back, how many elements they make, the elements it has read ahead (R210), and the number of its requests
so far, by which an answer finds its request. -/
structure SUnit where
  st : UnitSt := .idle
  owner : Nat := 0
  desc : List Word := []
  alt : Option Nat := none
  next : Nat := 0
  done : Nat := 0
  pending : List (Option Word) := []
  sent : Nat := 0
  flags : Word := 0
  refused : Option Word := none
  nrefused : Nat := 0
  endings : List UnitEnd := []
  holdOn : List Nat := []
  queued : Bool := false
  daddr : Word := 0
  late : Option (Nat × Late) := none
  got : List (Nat × Word) := []
  asked : List Nat := []
  reading : Nat := 0
  ahead : List (Nat × Option Nat) := []
  epoch : Nat := 0
  deriving DecidableEq, Repr

/-- An element as the matrix engine holds it: an exact number, an infinity, a NaN, or a code held as read that is a signalling NaN (R64). -/
inductive El where
  | fin (neg : Bool) (m : Nat) (e : Int) | inf (neg : Bool) | nan | snan
  deriving DecidableEq, Repr

/-- A row of the A buffer (R216): the stream unit that it comes from, none for a link, and how many of its elements that unit has
delivered (R335). -/
structure ARow where
  els : List El
  full : Bool
  src : Option Nat := none
  fed : Nat := 0
  deriving DecidableEq, Repr

/-- The command the engine runs (R215, R217). -/
structure MxRun where
  cmd : MxCmd
  next : Nat := 0
  flags : Word := 0
  refused : Option Word := none
  loaded : List El := []
  deriving DecidableEq, Repr

/-- The matrix engine (R212 to R218). Accumulators are keyed by row x 16 + column; in recombination state the M accumulators of row
pair i, column pair j of tile t by ((t x 8 + i) x 8 + j) x 8 + k for Mk, and side accumulators by (32t + row) x 16 + column. -/
structure Mx where
  owner : Option Nat := none
  cfg : Word := 0
  bank0 : List El := []
  bank1 : List El := []
  ready0 : Bool := false
  ready1 : Bool := false
  arows : List ARow := []
  acc : Tbl El := []
  mac : Tbl El := []
  side : Tbl El := []
  grp : Tbl (List (El × El)) := []
  recomb : Tbl Bool := []
  sideUsed : Bool := false
  queue : List (MxCmd × List Nat) := []
  run : Option MxRun := none
  waiting : List (Nat × Nat) := []
  late : Option (Nat × Late) := none
  deriving DecidableEq, Repr

/-- A barrier object (R309). -/
structure Barrier where
  init : Bool := false
  phase : Bool := false
  facc : BitVec 6 := 0
  rtag : Nat := 0
  e : Nat := 0
  delta : Int := 0
  arr : Nat := 0
  deriving DecidableEq, Repr

/-- An arrival record (R310); the offset fields are kept in `offset`. -/
structure ArrRec where
  bn : Nat
  cell : Nat
  ctx : Nat
  offset : Nat
  deriving DecidableEq, Repr

/-- A deferred read or a take marker (R292). A late reader or taker finds the word empty that its own block empties (R165, R168): only the
next write of the word serves it. -/
inductive WaitKind where
  | reader | taker | take | lateReader | lateTaker
  deriving DecidableEq, Repr

/-- An entry of a waiter table (R292). -/
structure Waiter where
  bank : Nat
  key : Nat
  kind : WaitKind
  lane : Nat
  asker : Asker
  dst : Nat
  size : Nat
  addrLow : Nat
  deriving DecidableEq, Repr

/-- A request queued at an update slot in arrival order (R39, R179): a built-in handler; `discards` counts the user commits that went
ahead of it (R35), and `recorded` that a cut has recorded it (R387). -/
structure UpdReq where
  stamp : Nat
  r : MemReq
  src : Nat
  discards : Nat := 0
  recorded : Bool := false
  deriving DecidableEq, Repr

/-- What a UPD's handler activation answers (R182). -/
structure UpdToken where
  stamp : Nat
  r : MemReq
  lane : LaneReq
  src : Nat
  recorded : Bool := false
  deriving DecidableEq, Repr

/-- The part of a cell that a cut saves (R383). `gcache` holds the group table entries that SRAM caches, the last used first (R321), and `gtold`
the entries for which the collective context took COLL_ORDER since they were last clean (R327). -/
structure Core where
  ctxs : Tbl Context := []
  bindings : Tbl Word := []
  tokens : List Queued := []
  joins : List Join := []
  readyAt : Tbl Nat := []
  spawnQ : List SpawnMsg := []
  spawnHold : List SpawnMsg := []
  spawnTrees : List SpawnTree := []
  kills : List Kill := []
  pulses : Tbl Nat := []
  units : Tbl SUnit := []
  mx : Mx := {}
  bars : Tbl Barrier := []
  recs : List ArrRec := []
  linkW : List Val := []
  linkN : List Val := []
  waiters : List Waiter := []
  updQ : List UpdReq := []
  updTok : List UpdToken := []
  updCur : Option UpdToken := none
  gcache : List (Nat × Group) := []
  gtold : List Nat := []
  stamp : Nat := 0
  deriving DecidableEq, Repr

/-- A snapshot slot (R383): the saved part of the cell, its SRAM, its full SRAM words, and the recorded messages (R387). The matrix
accumulators stand in it in their 48-bit containers (R65), not in `core`; `colour` and `counts` are the colour and the message counters of the
cell as it was saved. -/
structure Snap where
  core : Core
  acc : Tbl Nat := []
  mac : Tbl Nat := []
  side : Tbl Nat := []
  sram : List Host.Cell
  full : List Nat
  complete : Bool
  sealed_ : Bool
  saved : List Nat := []
  colour : Bool := false
  counts : List Nat := []
  recorded : List Msg := []
  deriving DecidableEq, Repr

/-- A record of the undo log (R391): the line, its bytes when the record copies them, and its full words. -/
structure Undo where
  line : Nat
  copy : Option (List Byte)
  full : List Nat
  deriving DecidableEq, Repr

/-- An open DRAM row (R452). -/
structure OpenRow where
  row : Nat
  keep : Bool
  deriving DecidableEq, Repr

/-- An open collective slot (R330, R331): where it began, and the chain that the context resumes. -/
structure CSlot where
  ctx : Nat
  began : Nat
  resume : Option Context
  deriving DecidableEq, Repr

/-- The collective shadow bank of a cell (R329). -/
structure Shadow where
  bindings : Tbl Word := []
  chans : Tbl Word := []
  labels : Tbl Word := []
  deriving DecidableEq, Repr

/-- A physical cell, a bay controller or a sill processor. `transits` is firmware's note of the logical link that each of its TRANSIT labels
serves: 4 times the core at the link's start, plus the direction (R255); `class0Turn` numbers the first group of 64 cycles whose class-0 issue
cycle is still to come (R37), `issues` and `flits` are the issue and router counters that firmware watches (R405), and `routerError` and
`loftError` say what the self-checking logic of the router and the loft controller reports (R401), `sramErrs` counts the uncorrectable SRAM events
that firmware has seen, and `rowErrs` gives bank, row and step of each corrected loft line (R446). -/
structure Cell where
  core : Core := {}
  pool : Nat := 128
  labels : Tbl Word := []
  transits : Tbl Nat := []
  shadow : Option Shadow := none
  slot : Option CSlot := none
  rows : Tbl OpenRow := []
  secorr : Word := 0
  lecorr : Word := 0
  discard : Word := 0
  dropeff : Word := 0
  energy : Word := 0
  energyAcc : Nat := 0
  energyMark : Nat := 0
  class0Turn : Nat := 0
  cyc : Nat := 0
  npn : Word := 0xFF00
  npe : Word := 0x0001
  nps : Word := 0x0100
  npw : Word := 0x00FF
  isduty : Word := 0x4040
  staged : Nat := 0
  rejects : Nat := 0
  altsel : Bool := false
  defect : Bool := false
  svalid : Bool := false
  active : Bool := false
  bankA : List Word := []
  bankB : List Word := []
  spine : Nat := 6
  region : Option Nat := none
  regpos : Word := 0
  regdim : Word := 0
  colour : Bool := false
  sentOld : Nat := 0
  recvOld : Nat := 0
  sentNew : Nat := 0
  recvNew : Nat := 0
  sentRt : Tbl Nat := []
  recvRt : Tbl Nat := []
  sentDyn : Nat := 0
  recvDyn : Nat := 0
  peg : Bool := false
  savedPoint : Bool := false
  paused : Bool := false
  stopped : Bool := false
  inReset : Bool := true
  slotA : Option Snap := none
  slotB : Option Snap := none
  lastB : Bool := true
  undo : List Undo := []
  undoMark : Nat := 0
  cutAsked : Bool := false
  sister : Option Nat := none
  partner : Option Nat := none
  synced : Bool := false
  mirror : List (Core × List Host.Cell × List Nat) := []
  takeover : Option MgmtFn := none
  sistering : Option MgmtFn := none
  testing : Option MgmtFn := none
  readMark : List (Nat × Asker) := []
  openMark : List (Nat × Nat) := []
  roving : Bool := false
  issues : Nat := 0
  flits : Nat := 0
  routerError : Bool := false
  loftError : Bool := false
  sramErrs : Nat := 0
  rowErrs : List (Nat × Nat × Nat) := []
  remaps : List (Nat × Nat) := []
  deriving DecidableEq, Repr

/-- Issue rate of a bay (R371). -/
inductive Rate where
  | full | half | quarter
  deriving DecidableEq, Repr

/-- A telemetry sample of a bay (R448): `energy` is what BENERGY grew by over the 100 ms of the sample, `counters` those of the bay,
`cells` those of its cells that are not zero. -/
structure Sample where
  energy : Nat
  temp : Nat
  mv : Nat
  mhz : Nat
  nhalf : Nat
  nquart : Nat
  trip : Bool
  counters : List Word
  cells : List (Nat × List Word)
  deriving DecidableEq, Repr

/-- A bay: the power registers (R365), the scribe register (R409), the counters (R445) and its tenant (R416); `alternates` are the alternate
entries that all its routers hold, each the cell of a logical position and the spare that it maps to (R399), `bundleBays` the bays that its last
verified bundle names (R424), `budget` its power budget in units of 16 pJ a microsecond and `overdrawn` for how many microseconds in a row its power has
exceeded it (R366), and `attachDown` says that the attachment router or link of the bay's
controller has failed (R453). -/
structure Bay where
  mv : Nat := 820
  ready : Bool := true
  cap : Nat := 0x3C0
  trip : Bool := false
  warn : Nat := 0x2D0
  temp : Nat := 0
  nquart : Nat := 0
  nhalf : Nat := 0
  benergy : Word := 0
  leak : Nat := 4000
  vbundle : Nat := 0
  depoch : Nat := 0
  bundleDepoch : Nat := 0
  vdigest : List Byte := []
  tenant : Nat := 0
  uncorr : Word := 0
  takeaut : Word := 0
  takeswp : Word := 0
  stpass : Nat := 0
  stfail : Nat := 0
  rate : Rate := .full
  lastEnergy : Word := 0
  power : Nat := 0
  lastRep : Word := 0
  retired : Bool := false
  absent : Bool := false
  releasing : Bool := false
  samples : List Sample := []
  sampleMark : Word := 0
  tempMax : Nat := 0
  tripTemp : Nat := 0
  firmware : List Byte := []
  alternates : List (Nat × Nat) := []
  bundleBays : List Nat := []
  budget : Option Nat := none
  overdrawn : Nat := 0
  attachDown : Bool := false
  deriving DecidableEq, Repr

/-- An optical port (R430) with the command it runs (R432), the path that it sprayed over last (R333), the map that it has announced, the map that
its far end uses (R428), and the root of its page table (R418). -/
structure Port where
  laser : Bool := false
  up : Bool := false
  llr : Bool := false
  link : Bool := false
  laserok : Bool := false
  trained : Nat := 0
  locked : Nat := 0
  pevt : Word := 0
  pmap : Nat := 0xF
  phtr : Tbl Word := []
  peye : Tbl Word := []
  feccor : Word := 0
  fecunc : Word := 0
  plref : Word := 0
  pdrop : Word := 0
  lastPath : Nat := 15
  announced : Option Nat := none
  farMap : Nat := 0xF
  ptRoot : Nat := 0
  cmd : Option Bool := none
  deriving DecidableEq, Repr

/-- State of one path toward a peer (R440, R226): the ECN marks of its last 256 acknowledgements, the step of the last one, and the
retransmission timeouts and trimmed packets in a row since. -/
structure Path where
  level : Nat := 0
  acks : List Bool := []
  ackAt : Nat := 0
  usable : Bool := true
  timeouts : Nat := 0
  trims : Nat := 0
  deriving DecidableEq, Repr

/-- A peer handle (R436, R439): one PDC on one port; `path` is the path that a ROD PDC uses now. -/
structure Peer where
  known : Bool := false
  port : Nat := 0
  mode : DelMode := .rud
  pdc : Nat := 0
  evbase : Nat := 0
  path : Nat := 0
  paths : Tbl Path := []
  deriving DecidableEq, Repr

/-- An exported window, or a receive entry (R417, R437, R438). -/
structure Export where
  known : Bool := false
  tenant : Nat := 0
  cell : Nat := 0
  ctx : Nat := 0
  window : Nat := 0
  completion : Option (Nat × Nat) := none
  receive : Option Nat := none
  deriving DecidableEq, Repr

/-- Progress of an incoming RMA message (R308, R438): the offsets of the words placed, how many were refused, and how many wait for an
update slot. -/
structure RmaMsg where
  message : Nat
  exportNo : Nat
  port : Nat
  spanWords : Nat
  placed : List Nat := []
  refused : Nat := 0
  waiting : Nat := 0
  tuple : Option Tuple := none
  deriving DecidableEq, Repr

/-- A host write on ROD connection `rod` to an export, and how many owners have still to perform words of it (R306). -/
structure RodWrite where
  id : Nat
  rod : Nat
  exportNo : Nat
  left : Nat
  deriving DecidableEq, Repr

/-- An entry of the bridge's log: a host access that it refused (R307, R417). -/
structure BridgeEvent where
  tenant : Nat
  exportNo : Nat
  offset : Nat
  atomic : Bool
  deriving DecidableEq, Repr

/-- Region states (R251). -/
inductive RegionSt where
  | free | loading | resident | draining | saved
  deriving DecidableEq, Repr

/-- A configuration select (R270), with the core and tag its reply goes to. -/
structure Select where
  op : CfgOp
  core : Nat
  deriving DecidableEq, Repr

/-- A cut under way (R384). -/
structure Cut where
  sub : Nat
  req : Option MgmtFn
  deriving DecidableEq, Repr

/-- What firmware copies of a cell of a SAVED region before it gives the cell to other work (R393): its complete slot, and its loft below
the save zone by offset, with the full words. -/
structure SavedCell where
  slot : Snap
  loft : List Host.Cell
  full : List Nat
  deriving DecidableEq, Repr

/-- A SAVED region whose cells serve other work: its size and the copies of its cells, row by row (R393). -/
structure Away where
  w : Nat
  h : Nat
  cells : List SavedCell
  deriving DecidableEq, Repr

/-- A region (R248 to R251); `core` names the management core of a firmware image, `powers` the catalogue's power of each staged mapping,
`share` the region's budget share, `sink` the place and tag of the end token that its job names, `ended` whether the sink has received it,
and `watched` the counters that firmware last found (R405), `plan` the mapping that firmware is changing to under a power budget (R366),
`away` a SAVED region's copies while its cells serve other work (R393), `runtime` the content that the runtime image gives each of its cells
(R348), and `routes` the logical links with transit routers that its static routes pass, once for each route, with whether an XR route of
the fabric manager or of a shadow bank passes there (R255). -/
structure Region where
  st : RegionSt := .free
  gen : Nat := 0
  ox : Nat := 0
  oy : Nat := 0
  w : Nat := 0
  h : Nat := 0
  core : Option Nat := none
  pool : Nat := 128
  tenant : Nat := 0
  job : Option Nat := none
  mapping : Nat := 0
  staged : List (Nat × List CellImage) := []
  notices : List (Nat × Nat × Nat) := []
  firmware : Bool := false
  links : List (Nat × Nat × Nat) := []
  selects : List Select := []
  sums : Option Nat := none
  cut : Option Cut := none
  hold : Bool := false
  complete : Bool := false
  rolling : Option (Option MgmtFn) := none
  powers : List (Nat × Nat) := []
  share : Nat := 0
  plan : Option Nat := none
  away : Option Away := none
  sink : Option (Nat × Nat × Nat) := none
  ended : Bool := false
  watched : Option Nat := none
  runtime : List (Nat × List Word) := []
  routes : List (Nat × Bool) := []
  deriving DecidableEq, Repr

/-- A launch queue of a job table entry with the bridge's copies of TAIL and HEAD (R354, R358). -/
structure LQueue where
  queue : Nat
  root : Nat
  region : Nat
  ctx : Nat
  key : Nat
  size : Nat
  tail : Nat := 0
  head : Nat := 0
  deriving DecidableEq, Repr

/-- A job table entry (R354). -/
structure Job where
  tenant : Nat
  queues : List LQueue
  regions : List Nat
  active : Bool := false
  deriving DecidableEq, Repr

/-- A launch held at the bridge (R359). -/
structure Held where
  job : Nat
  payload : List Word
  deriving DecidableEq, Repr

/-- An XR label between two regions that both their tenants ask for (R415): the channel of a context of a cell of one region, the tag and port of a
cell of the other, by place in the region, and the requests of the two tenants. -/
structure TenantLink where
  src : Nat
  x : Nat
  y : Nat
  ctx : Nat
  chan : Nat
  dst : Nat
  dx : Nat
  dy : Nat
  tag : Nat
  port : Nat
  request : List Byte
  answer : List Byte
  deriving DecidableEq, Repr

/-- An operation of the management port (R442). -/
inductive OperatorOp where
  | defects | telemetry (bay : Nat) | upload (d : FwBundle) | period (hours : Nat) | counter (version : Nat) | reset (forced : Bool)
  deriving DecidableEq, Repr

/-- What the outside world does to the module: it makes an event happen, or a bit error that the event table names no row for is met and
corrected, or is left in memory (R279, R283, R430; notes/assumptions/20.md), or a bay controller's firmware rewrites a HALTED context (R378;
notes/assumptions/67.md); a region is given another share of its bay's budget (R366); firmware gives the cells of a SAVED region to other work, or
gives them back (R393; notes/assumptions/85.md); a locked ring follows its wavelength (R433); the self-checking logic of a cell's router or
loft controller finds an error (R401); or the attachment router or link of a bay controller fails (R453). The module or a bay gets a power budget
(R366); two tenants ask for an XR label between their regions (R415); the driver writes a word of the page tables, or a port's root (R418, R420); a
port's far end announces its map, a ring locks or a lane passes while its command runs (R428, R432); a peer reads or performs an atomic (R435); a
packet on a path times out, is trimmed or is acknowledged (R440); or an operator asks at the management port (R442). -/
inductive OutsideAct where
  | event (i : Instr)
  | sramCorrected (cell : Nat)
  | loftCorrected (cell bank row : Nat)
  | uncorrectable (key : Nat)
  | fecCorrected (port : Nat)
  | fecUncorrectable (port : Nat)
  | contextRewritten (cell ctx : Nat) (v : Context)
  | budgetShare (region share : Nat)
  | cellsGiven (region : Nat)
  | cellsReturned (region : Nat)
  | ringTracks (port ring code : Nat)
  | routerError (cell : Nat)
  | loftError (cell : Nat)
  | attachmentFails (bay : Nat)
  | moduleBudget (power : Nat)
  | bayBudget (bay power : Nat)
  | tenantLink (l : TenantLink)
  | tableWrite (addr entry : Nat)
  | tableRoot (port root : Nat)
  | farMap (port map : Nat)
  | ringLocks (port ring code : Nat)
  | lanePasses (port lane h v : Nat)
  | rmaGet (d : RmaGet)
  | pathTimeout (peer path : Nat)
  | pathTrim (peer path : Nat)
  | pathAck (peer path level : Nat) (ecn : Bool)
  | certRoots (roots : List (List Byte))
  | operator (certificate : List Byte) (op : OperatorOp)
  deriving DecidableEq, Repr

/-- What the module tells parties outside its cores. -/
inductive Report where
  | launchRefused (code : Nat) | launchQueued (job queue : Nat)
  | haltEvent (cell ctx : Nat) (tcause tblock taddr : Word)
  | discardEvent (cell : Nat)
  | tempWarn (bay : Nat) | tripNotice (bay : Nat) | earlyCut (cell : Nat)
  | jobActive (job : Nat) | jobFailed (job : Nat) | jobNoSpace (job : Nat)
  | bootFailed (check : Nat) | hostAnswer (id : Nat) (vals : List (Nat × Word)) | hostRefused (id : Nat)
  | quote (tenant : Nat) (bytes signature certificate : List Byte) | kemFailed (tenant : Nat)
  | bundleVerified (number : Nat) | bundleRefused (number : Nat)
  | defects (words : List Word) | sweep (words : List Word)
  | rmaDone (message refused : Nat) | sendRefused | poisonSent (gt seq : Nat) (mismatch : Bool)
  | firmwareRefused (check : Nat) | firmwareStored | resetRefused | rollbackRefused
  | telemetry (bay : Nat) (samples : List Sample) | operatorRefused | rmaRefused (port exportNo cause : Nat)
  | alarm | sampleAbsent (bay : Nat) | invalidated (port : Nat) | drained (region : Nat)
  deriving DecidableEq, Repr

/-- Where the machine acts: a core, a context and a slot. -/
structure Focus where
  cell : Nat := 0
  ctx : Nat := 0
  slot : Nat := 0
  deriving DecidableEq, Repr

/-- A translation that a bridge port holds: the virtual addresses from `base` over `size` bytes, and the leaf (R418, R419). -/
structure Xlat where
  port : Nat
  base : Nat
  size : Nat
  leaf : Nat
  deriving DecidableEq, Repr

/-- The module (00: Scope). `linkKeys` is what the sill key store and `tss` what the ports' TSS engines hold of the tenants' link keys: the outgoing
and the incoming key of the association of tenant t at port p, under 320 t + p (R414); `certRoots` are the roots of operators' certificates in sill
flash (R442), `bridgeMem` the loft of the bridge wafer, which holds the page tables (R418), and `modBudget` the module's power budget (R366). -/
structure State where
  mem : List Host.Cell := []
  full : List Nat := []
  bad : List Nat := []
  cells : Tbl Cell := []
  bays : Tbl Bay := []
  ports : Tbl Port := []
  regions : Tbl Region := []
  jobs : Tbl (Option Job) := []
  heldLaunches : List Held := []
  catalogue : Tbl (Option Subgraph) := []
  exports : Tbl Export := []
  peers : Tbl Peer := []
  rmas : List RmaMsg := []
  rods : List RodWrite := []
  bridgeLog : List BridgeEvent := []
  embed : Tbl Nat := []
  spines : Tbl Nat := [(0, 400), (1, 600), (2, 800), (3, 900), (4, 1000), (5, 1100), (6, 1200), (7, 1350)]
  spineNext : Tbl Nat := []
  ar : Tbl (List Byte) := []
  encapKeys : Tbl (List Byte) := []
  linkKeys : Tbl (List Byte × List Byte) := []
  tss : Tbl (List Byte × List Byte) := []
  certRoots : List (List Byte) := []
  flashA : Option FwBundle := none
  flashB : Option FwBundle := none
  flashActiveB : Bool := false
  flashNew : Bool := false
  running : Option FwBundle := none
  rollbackCounter : Nat := 0
  fusedKeyDigest : List Byte := []
  fusedSeed : List Byte := []
  identityKey : List Byte := []
  attestKey : List Byte := []
  attestCert : List Byte := []
  booted : Bool := false
  selfTestPeriod : Nat := 24
  alarm : Bool := false
  lowFlow : Bool := false
  modBudget : Option Nat := none
  tlb : List Xlat := []
  bridgeMem : List Host.Cell := []
  hostMem : List Host.Cell := []
  net : List Msg := []
  flips : List (MgmtFn × Nat) := []
  outbox : List Report := []
  inputs : List OutsideAct := []
  focus : Focus := {}
  tickNo : Nat := 0
  deriving DecidableEq, Repr

/-- The machine right after module power-on reset: every core held in reset (R410), every register at its reset value. -/
def State.reset : State := {}

end Sys2Proof.Machine
end

