-- ==== Sys2Proof/Machine/Bits.lean ====
section
/-! DEFINITION. Bit fields of words, their bytes (R1), and sign extension. -/

namespace Sys2Proof.Machine

open Sys2Proof

/-- Bits [lo + w - 1 : lo] of a word, as a number. -/
def bits (x : Word) (lo w : Nat) : Nat := fld x.toNat lo w

/-- Bit `i` of a word. -/
def bit (x : Word) (i : Nat) : Bool := x.getLsbD i

/-- A number modulo 2^32 (R101: wrap). -/
def wordOf (n : Nat) : Word := BitVec.ofNat 32 n

/-- An integer modulo 2^32 (R101: wrap). -/
def wordOfInt (n : Int) : Word := BitVec.ofInt 32 n

/-- Word with bits [lo + w - 1 : lo] replaced by `v`. -/
def setBits (x : Word) (lo w v : Nat) : Word :=
  wordOf (x.toNat - fld x.toNat lo w * 2 ^ lo + v % 2 ^ w * 2 ^ lo)

/-- The number read in two's complement of `w` bits. -/
def signed (n w : Nat) : Int := if n % 2 ^ w < 2 ^ (w - 1) then (n % 2 ^ w : Nat) else ((n % 2 ^ w : Nat) : Int) - 2 ^ w

/-- One or zero. -/
def wbool (b : Bool) : Word := if b then 1 else 0

/-- Number of ones among the low `k` bits. -/
def popCount : Nat → Nat → Nat
  | 0, _ => 0
  | k + 1, n => n % 2 + popCount k (n / 2)

/-- Positions of the ones among the low `k` bits, from `i` upward. -/
def onesFrom : Nat → Nat → Nat → List Nat
  | 0, _, _ => []
  | k + 1, i, n => if n % 2 = 1 then i :: onesFrom k (i + 1) (n / 2) else onesFrom k (i + 1) (n / 2)

/-- Lanes named by an 8-bit mask. -/
def maskLanes (m : Nat) : List Nat := onesFrom 8 0 m

/-- The mask naming a list of lanes. -/
def lanesMask (ls : List Nat) : Nat := ls.foldl (fun a i => a ||| 2 ^ i) 0

/-- `n` rounded up to a multiple of `k`. -/
def roundUp (n k : Nat) : Nat := (n + k - 1) / k * k

/-- Little-endian bytes of a number (R1). -/
def leBytes : Nat → Nat → List Byte
  | 0, _ => []
  | k + 1, n => BitVec.ofNat 8 n :: leBytes k (n / 256)

/-- A null lane reads as zero where a word is required. -/
def laneOr0 (x : Option Word) : Word := x.getD 0

/-- The mask of null lanes of a value (R27). -/
def nullMask (v : Val) : Nat := lanesMask (laneNums.filter fun i => (v.get i).isNone)

end Sys2Proof.Machine
end

