-- ==== Sys2Proof/Machine/Access.lean ====
section
/-! DEFINITION. Where things stand in the state: cores by number, contexts, frames, geometry, and the sending of messages. Physical
cell (X, Y) of bay b is core 1024 b + 32 Y + X; the controller of bay b is core 1048576 + b and sill processor s is core
1049600 + s (notes/assumptions/10.md). -/

namespace Sys2Proof.Machine

open Sys2Proof

/-- Core `c`. -/
def cellOf (s : State) (c : Nat) : Cell := Tbl.get {} s.cells c

/-- Replaces core `c`. -/
def putCell (s : State) (c : Nat) (x : Cell) : State := { s with cells := Tbl.put s.cells c x }

/-- Changes core `c`. -/
def modCell (s : State) (c : Nat) (f : Cell → Cell) : State := putCell s c (f (cellOf s c))

/-- The saved part of core `c`. -/
def coreOf (s : State) (c : Nat) : Core := (cellOf s c).core

/-- Changes the saved part of core `c`. -/
def modCore (s : State) (c : Nat) (f : Core → Core) : State := modCell s c fun x => { x with core := f x.core }

/-- Context `x` of core `c` (R8). -/
def ctxOf (s : State) (c x : Nat) : Context := Tbl.get {} (coreOf s c).ctxs x

/-- Replaces context `x` of core `c`. -/
def putCtx (s : State) (c x : Nat) (v : Context) : State := modCore s c fun k => { k with ctxs := Tbl.put k.ctxs x v }

/-- Changes context `x` of core `c`. -/
def modCtx (s : State) (c x : Nat) (f : Context → Context) : State := putCtx s c x (f (ctxOf s c x))

/-- Replaces the current frame of a context. -/
def putFrame (s : State) (c x : Nat) (f : Frame) : State := modCtx s c x fun v => { v with frame := some f }

/-- The contexts that run user blocks (R8). -/
def userCtxs : List Nat := [0, 1, 2, 3]

/-- The contexts of a core, ctx 4 of its update slot among them (R8). -/
def allCtxs : List Nat := [0, 1, 2, 3, 4]

/-- Bay `b`. -/
def bayAt (s : State) (b : Nat) : Bay := Tbl.get {} s.bays b

/-- Changes bay `b`. -/
def modBay (s : State) (b : Nat) (f : Bay → Bay) : State := { s with bays := Tbl.put s.bays b (f (bayAt s b)) }

/-- Optical port `p`. -/
def portAt (s : State) (p : Nat) : Port := Tbl.get {} s.ports p

/-- Changes optical port `p`. -/
def modPort (s : State) (p : Nat) (f : Port → Port) : State := { s with ports := Tbl.put s.ports p (f (portAt s p)) }

/-- Region `r`. -/
def regionAt (s : State) (r : Nat) : Region := Tbl.get {} s.regions r

/-- Changes region `r`. -/
def modRegion (s : State) (r : Nat) (f : Region → Region) : State :=
  { s with regions := Tbl.put s.regions r (f (regionAt s r)) }

/-- A report to a party outside the cores. -/
def report (s : State) (r : Report) : State := { s with outbox := s.outbox ++ [r] }

/-- Whether core `c` is a cell. -/
def isCellCore (c : Nat) : Bool := decide (c < 1048576)

/-- Whether core `c` is a bay controller. -/
def isBayCore (c : Nat) : Bool := decide (1048576 ≤ c) && decide (c < 1049600)

/-- Whether core `c` is a bay controller or a sill processor (R95). -/
def isMgmtCore (c : Nat) : Bool := decide (1048576 ≤ c) && decide (c < 1049604)

/-- The core of the controller of bay `b`. -/
def bayCore (b : Nat) : Nat := 1048576 + b

/-- The core of sill processor `i`. -/
def sillCore (i : Nat) : Nat := 1049600 + i

/-- The destination that stands for the host at the bridge (R306). -/
def hostDst : Nat := 2000000

/-- The destination that stands for the wafer behind a peer handle (R436). -/
def peerDst (handle : Nat) : Nat := 2000001 + handle

/-- The destination of a request that no core of the region owns (R286). -/
def nowhereDst : Nat := 1999999

/-- The bay of a cell or a bay controller; a sill processor counts as of bay 0's side of the fabric. -/
def bayOf (c : Nat) : Nat := if c < 1048576 then c / 1024 else (c - 1048576) % 1024

/-- The bay that holds logical cell (x, y) on its canonical place (R455): 32 x 32 bays of 30 x 30 logical cells. -/
def canonCore (x y : Nat) : Nat := (32 * (y / 30) + x / 30) * 1024 + (y % 30) * 32 + x % 30

/-- The core at logical cell (x, y), 0 to 959 each way (R455). -/
def coreAt (s : State) (x y : Nat) : Nat := Tbl.get (canonCore (x % 960) (y % 960)) s.embed ((y % 960) * 960 + x % 960)

/-- The logical cell a core holds, if the scribe banks moved it there. -/
def embedInv : Tbl Nat → Nat → Option Nat
  | [], _ => none
  | (l, c) :: t, k => if c = k then some l else embedInv t k

/-- Logical coordinates of a core (R455); a position that holds no logical cell has none. -/
def logicalOf (s : State) (c : Nat) : Option (Nat × Nat) :=
  match embedInv s.embed c with
  | some l => some (l % 960, l / 960)
  | none =>
    let b := c / 1024
    let p := c % 1024
    if c < 1048576 && decide (p % 32 < 30) && decide (p / 32 < 30) then
      let x := (b % 32) * 30 + p % 32
      let y := (b / 32) * 30 + p / 32
      if coreAt s x y = c then some (x, y) else none
    else none

/-- A coordinate moved by a signed offset, around the torus (R258). -/
def torus (a : Nat) (d : Int) : Nat := (((a : Int) + d) % 960).toNat

/-- The core at a logical offset from another (R7). -/
def coreOffset (s : State) (c : Nat) (dx dy : Int) : Option Nat :=
  (logicalOf s c).map fun p => coreAt s (torus p.1 dx) (torus p.2 dy)

/-- Signed logical offset from one coordinate to another in the shorter direction; a tie goes in the + direction (R258). -/
def torusDelta (a b : Nat) : Int :=
  let d := (b + 960 - a) % 960
  if d ≤ 480 then (d : Nat) else (d : Int) - 960

/-- The region of a core (R248). -/
def regionOf (s : State) (c : Nat) : Option Nat := (cellOf s c).region

/-- Whether two cores lie in one region. -/
def sameRegion (s : State) (a b : Nat) : Bool :=
  match regionOf s a with
  | some r => regionOf s b == some r
  | none => a == b

/-- A coordinate counted from a region's origin, around the torus. -/
def relTo (o a : Nat) : Nat := (a + 960 - o % 960) % 960

/-- Signed logical offset between two cores: inside a region counted without leaving it, else in the shorter direction (R258). -/
def deltaOf (s : State) (src dst : Nat) : Int × Int :=
  match logicalOf s src, logicalOf s dst with
  | some a, some b =>
    match (if sameRegion s src dst then regionOf s src else none) with
    | some r =>
      let g := regionAt s r
      ((relTo g.ox b.1 : Int) - relTo g.ox a.1, (relTo g.oy b.2 : Int) - relTo g.oy a.2)
    | none => (torusDelta a.1 b.1, torusDelta a.2 b.2)
  | _, _ => (0, 0)

/-- Every core of a region, row by row (R248). -/
def regionCells (s : State) (r : Nat) : List Nat :=
  let g := regionAt s r
  match g.core with
  | some c => [c]
  | none => (List.range (g.w * g.h)).map fun k => coreAt s (g.ox + k % g.w) (g.oy + k / g.w)

/-- The core at the region's origin. -/
def regionOrigin (s : State) (r : Nat) : Nat :=
  match (regionAt s r).core with
  | some c => c
  | none => coreAt s (regionAt s r).ox (regionAt s r).oy

/-- The cell (x, y) of the region of core `c`, counted from the origin. -/
def regionCell (s : State) (c x y : Nat) : Option Nat :=
  (regionOf s c).bind fun r =>
    let g := regionAt s r
    if x < g.w ∧ y < g.h then
      some (match g.core with
        | some m => m
        | none => coreAt s (g.ox + x) (g.oy + y))
    else none

/-- Whether a message counts as a token or a request of the network (R387, R388). -/
def colourCounts : Body → Bool
  | .routed _ _ _ _ => true
  | .token _ _ => true
  | .mem _ => true
  | .confirm _ _ => true
  | .cancel _ _ => true
  | .barrier _ _ _ _ _ => true
  | .link _ _ => true
  | .spawn _ => true
  | .spawnAck _ => true
  | .pulse _ _ => true
  | .killSet _ _ _ _ _ => true
  | .killClear _ _ _ => true
  | _ => false

/-- Whether a message is one of a region's dynamic messages, which the drain counts: the region's own traffic but for tokens of static routes,
with the replies and acknowledgements (R272). -/
def drainCounts (m : Msg) : Bool :=
  decide (m.vc < 6) && (colourCounts m.body || match m.body with | .answer _ => true | _ => false)

/-- A cell counts a message of its region that departs: a token or request for cuts (R388), a dynamic message for drains (R272). -/
def countSent (m : Msg) (x : Cell) : Cell :=
  let x := if drainCounts m then { x with sentDyn := x.sentDyn + 1 } else x
  if !colourCounts m.body then x
  else if x.savedPoint then { x with sentNew := x.sentNew + 1 } else { x with sentOld := x.sentOld + 1 }

/-- A message departs in its sender's colour, and one of the region is counted (R256, R272, R388). -/
def postMsg (s : State) (m : Msg) : State :=
  let s := { s with net := s.net ++ [{ m with colour := (cellOf s m.src).colour, since := s.tickNo }] }
  if sameRegion s m.src m.dst then modCell s m.src (countSent m) else s

/-- Sends a message from one core to another on a virtual channel pair (R256). -/
def post (s : State) (src dst vc : Nat) (b : Body) : State :=
  postMsg s { src := src, dst := dst, at_ := src, vc := vc, body := b }

/-- A fresh place in the arrival order of a core (R18, R39). -/
def nextStamp (s : State) (c : Nat) : State × Nat :=
  (modCore s c fun k => { k with stamp := k.stamp + 1 }, (coreOf s c).stamp)

/-- Removes the `n`-th element of a list. -/
def dropAt {α : Type} : List α → Nat → List α
  | [], _ => []
  | _ :: t, 0 => t
  | a :: t, n + 1 => a :: dropAt t n

/-- Inserts into a sorted list of keys. -/
def keyInsert : List Nat → Nat → List Nat
  | [], k => [k]
  | a :: t, k => if k < a then k :: a :: t else if k = a then a :: t else a :: keyInsert t k

/-- Removes from a list of keys. -/
def keyErase (l : List Nat) (k : Nat) : List Nat := l.filter fun a => a != k

/-- Removes a numbered entry of a table, which then has its reset value. -/
def tblErase {α : Type} (t : Tbl α) (k : Nat) : Tbl α := t.filter fun p => p.1 != k

/-- Whether a core's engines run: out of reset, not held by a cut or a roll-back, no sister, and its bay not tripped (R371, R386,
R399). -/
def coreActs (s : State) (c : Nat) : Bool :=
  let x := cellOf s c
  !x.inReset && !x.paused && !x.stopped && x.partner.isNone && !(isCellCore c && (bayAt s (bayOf c)).trip)

/-- Whether a duty field lets work be done in a cycle (R367): the first of each aligned group of 64 cycles, up to the field. -/
def dutyCycle (field cyc : Nat) : Bool := decide (64 ≤ field) || decide (cyc % 64 < field)

/-- Whether ISDUTY.ALLOW lets a context's frame issue in this cycle (R367): it limits user frames of class 1 to 3. -/
def dutyOpen (s : State) (c x : Nat) : Bool :=
  x == 4 || (ctxOf s c x).cls == 0 || dutyCycle (bits (cellOf s c).isduty 0 7) (cellOf s c).cyc

/-- Whether ISDUTY.MXALLOW lets the matrix engine work in this cycle (R367). -/
def mxOpen (s : State) (c : Nat) : Bool := dutyCycle (bits (cellOf s c).isduty 8 7) (cellOf s c).cyc

/-- Adds a cost to a core's energy accumulator, scaled by its bay's voltage (R364); each product is rounded down
(notes/assumptions/16.md). -/
def spend (s : State) (c femto : Nat) : State :=
  let mv := (bayAt s (bayOf c)).mv
  modCell s c fun x => { x with energyAcc := x.energyAcc + femto * mv * mv / 640000 }

/-- An issue of a core's block engine: its cost, and its count among the issues that firmware watches (R364, R405). -/
def spendIssue (s : State) (c femto : Nat) : State := modCell (spend s c femto) c fun x => { x with issues := x.issues + 1 }

/-- An access of a cell meets an uncorrectable word, or line of its loft: its bay counts the event, and firmware those of an SRAM (R445, R446;
notes/assumptions/20.md). -/
def noteUncorr (s : State) (c : Nat) (loft : Bool := false) : State :=
  if isCellCore c then
    let s := if loft then s else modCell s c fun x => { x with sramErrs := x.sramErrs + 1 }
    modBay s (bayOf c) fun b => { b with uncorr := b.uncorr + 1 }
  else s

/-- Words of an incoming RMA write refused at their placement (R308, R430). -/
def notePlref (s : State) (p n : Nat) : State :=
  if n = 0 then s else modPort s p fun x => { x with plref := x.plref + wordOf n }

/-- Counts an uncorrectable event where a cause is one. -/
def noteEcc (s : State) (c : Nat) (k : Cause) (loft : Bool := false) : State := if k = .ecc then noteUncorr s c loft else s

/-- Whether a port's MAC and endpoint work: UP takes effect with eight trained lanes, and the link is up (R430). -/
def endpointOn (s : State) (p : Nat) : Bool :=
  let x := portAt s p
  x.up && x.trained == 0xFF && x.link

/-- Adds one event to a context's event counter (R139). -/
def countEvent (s : State) (c x ev n : Nat) : State :=
  let v := ctxOf s c x
  if x < 4 && bit v.evsel 31 && bits v.evsel 0 8 == ev then
    modCtx s c x fun v => { v with evcnt := v.evcnt + wordOf n, evNow := v.evNow + wordOf n }
  else s

/-! ### Save slots -/

/-- Slot A or B of a cell (R382). -/
def slotAt (k : Cell) (b : Bool) : Option Snap := if b then k.slotB else k.slotA

/-- Replaces a slot. -/
def setSlot (k : Cell) (b : Bool) (p : Option Snap) : Cell := if b then { k with slotB := p } else { k with slotA := p }

/-- The idle slot is the one that does not hold the last complete cut (R384). -/
def idleB (k : Cell) : Bool := !k.lastB

/-- The slot that holds a context's newest COMPLETE record: the idle one after SAVE, else that of the last complete cut (R394, R396). -/
def recordB (k : Cell) (x : Nat) : Bool := if (Tbl.get ({} : Context) k.core.ctxs x).record then idleB k else k.lastB

/-- Changes the record of a SAVED context, in the slot that holds it (R395). -/
def onRecord (s : State) (c x : Nat) (f : Context → Context) : State :=
  let k := cellOf s c
  if (ctxOf s c x).st = .saved then
    putCell s c (setSlot k (recordB k x) ((slotAt k (recordB k x)).map fun p =>
      { p with core := { p.core with ctxs := Tbl.put p.core.ctxs x (f (Tbl.get {} p.core.ctxs x)) } }))
  else s

end Sys2Proof.Machine
end

