-- ==== Sys2Proof/Machine/Ops.lean ====
section
/-! DEFINITION. Named operations over memory and presence bits (R279 to R294, R391), registers and bindings, the blocks of a context
(R24 to R32), and the taking of a trap with its return (R45, R124, R125, R134). -/

namespace Sys2Proof.Machine

open Sys2Proof

/-! ### Memory -/

/-- Byte at a key; an unlisted byte reads as zero (notes/assumptions/3.md). -/
def memGet : List Host.Cell → Nat → Byte
  | [], _ => 0
  | (a, b) :: t, k => if a = k then b else memGet t k

/-- Writes one byte, keeping the addresses rising and the zeros unlisted. -/
def memPut : List Host.Cell → Nat → Byte → List Host.Cell
  | [], k, b => if b = 0 then [] else [(k, b)]
  | (a, x) :: t, k, b =>
    if k < a then (if b = 0 then (a, x) :: t else (k, b) :: (a, x) :: t)
    else if k = a then (if b = 0 then t else (k, b) :: t)
    else (a, x) :: memPut t k b

/-- Whether every address of the list is above `lo`, rising, with no zero byte. -/
def memWfFrom : Nat → List Host.Cell → Bool
  | _, [] => true
  | lo, (a, b) :: t => decide (lo ≤ a) && b != 0 && memWfFrom (a + 1) t

/-- The canonical form of a memory. -/
def Memory.wf (m : List Host.Cell) : Bool := memWfFrom 0 m

/-- Writes bytes at rising keys. -/
def memPutBytes : List Host.Cell → Nat → List Byte → List Host.Cell
  | m, _, [] => m
  | m, k, b :: bs => memPutBytes (memPut m k b) (k + 1) bs

/-- Reads `n` bytes, least significant first (R1). -/
def memGetBytes (m : List Host.Cell) (k : Nat) : Nat → List Byte
  | 0 => []
  | n + 1 => memGet m k :: memGetBytes m (k + 1) n

/-- Key of SRAM byte `a` of core `c`. -/
def sramKey (c a : Nat) : Nat := c * 2 ^ 23 + a

/-- Key of loft byte `a` of core `c`. -/
def loftKey (c a : Nat) : Nat := c * 2 ^ 23 + 2 ^ 22 + a

/-- The core that owns a key. -/
def keyCore (k : Nat) : Nat := k / 2 ^ 23

/-- Whether a key lies in a loft. -/
def keyIsLoft (k : Nat) : Bool := k / 2 ^ 22 % 2 == 1

/-- The byte address of a key in its memory. -/
def keyAddr (k : Nat) : Nat := k % 2 ^ 22

/-- The key of the word that holds a byte. -/
def wordKey (k : Nat) : Nat := k / 4 * 4

/-- The key of the loft line that holds a byte. -/
def lineKey (k : Nat) : Nat := k / 64 * 64

/-- The waiter table of a key: SRAM banks 0 to 7 and loft banks 8 to 11 (R279, R282, R292). -/
def bankOf (k : Nat) : Nat := if keyIsLoft k then 8 + k / 1024 % 4 else k / 16 % 8

/-- The 128-bit bank rows and the 64 B loft lines that hold a list of keys, each once. -/
def accessRows (ks : List Nat) : List Nat :=
  ks.foldl (fun l k => keyInsert l (if keyIsLoft k then k / 64 * 64 else k / 16 * 16)) []

/-- The energy of an access to some keys: each SRAM bank row and each loft line once (R364; notes/assumptions/16.md). -/
def spendKeys (s : State) (ks : List Nat) : State :=
  (accessRows ks).foldl (fun s k => spend s (keyCore k) (if keyIsLoft k then 180000 else 1500)) s

/-- The number held by `n` bytes at a key. -/
def readN (s : State) (k n : Nat) : Nat := leNat (memGetBytes s.mem k n)

/-- The word at a key. -/
def readWord (s : State) (k : Nat) : Word := wordOf (readN s k 4)

/-- Writes `n` bytes with no further effect. -/
def rawWrite (s : State) (k n v : Nat) : State := { s with mem := memPutBytes s.mem k (leBytes n v) }

/-- A list of words written with no further effect. -/
def rawWords : State → Nat → List Word → State
  | s, _, [] => s
  | s, k, w :: ws => rawWords (rawWrite s k 4 w.toNat) (k + 4) ws

/-- A list of words read. -/
def readWords (s : State) (k : Nat) : Nat → List Word
  | 0 => []
  | n + 1 => readWord s k :: readWords s (k + 4) n

/-- Whether the word (SRAM) or line (loft) of a key has an uncorrectable error (R279, R283). -/
def isBad (s : State) (k : Nat) : Bool := s.bad.contains (if keyIsLoft k then lineKey k else wordKey k)

/-- The presence bit of the word of a key (R290). -/
def isFull (s : State) (k : Nat) : Bool := s.full.contains (wordKey k)

/-- Sets a presence bit. -/
def setFull (s : State) (k : Nat) : State := { s with full := keyInsert s.full (wordKey k) }

/-- Clears a presence bit. -/
def setEmpty (s : State) (k : Nat) : State := { s with full := keyErase s.full (wordKey k) }

/-- An access to a loft opens its row; a write's hint decides whether it stays open (R452, R86). -/
def touchRow (s : State) (k : Nat) (hint : Hint) : State :=
  if keyIsLoft k then
    let a := keyAddr k
    modCell s (keyCore k) fun c =>
      if hint = .close then { c with rows := tblErase c.rows (a / 1024 % 4) }
      else { c with rows := Tbl.put c.rows (a / 1024 % 4) ⟨a / 4096, hint = .keepOpen⟩ }
  else s

/-- The presence bits of a line, one per word. -/
def lineFull (s : State) (line : Nat) : List Nat := s.full.filter fun w => decide (line ≤ w) && decide (w < line + 64)

/-- Records that the next complete cut will find in the undo log: after a save point those behind its mark (R391;
notes/assumptions/30.md). -/
def undoNow (x : Cell) : List Undo := if x.savedPoint then x.undo.drop x.undoMark else x.undo

/-- Whether the undo log already holds what a write of this line needs (R391): a line copy, or for a presence change any record. -/
def undoHas (s : State) (k : Nat) (copy : Bool) : Bool :=
  (undoNow (cellOf s (keyCore k))).any fun u => u.line == lineKey k && (u.copy.isSome || !copy)

/-- Whether the undo log is full for a record of this kind (R392). -/
def undoFull (s : State) (c : Nat) (copy : Bool) : Bool :=
  let u := (cellOf s c).undo
  decide (512 ≤ u.length) || (copy && decide (224 ≤ (u.filter fun r => r.copy.isSome).length))

/-- Whether writes of a key are logged: loft bytes of a cell below 0x1C_0000 (R391). -/
def undoCovers (k : Nat) : Bool := keyIsLoft k && isCellCore (keyCore k) && decide (keyAddr k % 2 ^ 21 < 0x1C0000)

/-- Whether a loft write must wait for room in the undo log (R172, R392). -/
def undoBlocks (s : State) (k : Nat) (copy : Bool) : Bool :=
  undoCovers k && !undoHas s k copy && undoFull s (keyCore k) copy

/-- Where the `i`th line copy of a cell's undo log stands (R382). -/
def undoCopyKey (c i : Nat) : Nat := loftKey c (0x1FC000 + 64 * i)

/-- Where the `i`th word of a cell's undo directory stands (R382). -/
def undoDirKey (c i : Nat) : Nat := loftKey c (0x1FF800 + 4 * i)

/-- The rows that a new record of the undo log opens: that of the copied line, its copy's and its directory word's (R382, R452). -/
def touchUndo (s : State) (k : Nat) (copy : Bool) : State :=
  let c := keyCore k
  let u := (cellOf s c).undo
  let s := if copy then
      touchRow (touchRow s k .policy) (undoCopyKey c (u.filter fun r => r.copy.isSome).length) .policy
    else s
  touchRow s (undoDirKey c u.length) .policy

/-- Logs the first write of a line since the last complete cut (R391). -/
def undoLog (s : State) (k : Nat) (copy : Bool) : State :=
  if undoCovers k && !undoHas s k copy then
    let line := lineKey k
    let rec_ : Undo := { line := line, copy := if copy then some (memGetBytes s.mem line 64) else none, full := lineFull s line }
    modCell (touchUndo s k copy) (keyCore k) fun c => { c with undo := c.undo ++ [rec_] }
  else s

/-- The cell asks for an early cut once (R392). -/
def askEarlyCut (s : State) (c : Nat) : State := modCell s c fun x => { x with cutAsked := true }

/-- What one lane of an access met. -/
inductive LaneRes where
  | val (w : Word) | taken (w : Word) | done | deferred | retry | refused (c : Cause)
  deriving DecidableEq, Repr

/-- Whether a waiter is the take entry of a word. -/
def isTake (w : Waiter) : Bool := w.kind == .take

/-- Whether a word is taken (R167, R292). -/
def isTaken (s : State) (k : Nat) : Bool :=
  (coreOf s (keyCore k)).waiters.any fun w => w.key == wordKey k && isTake w

/-- Whether the waiter table of a key's bank is full (R292). -/
def waiterFull (s : State) (k : Nat) : Bool :=
  decide (32 ≤ ((coreOf s (keyCore k)).waiters.filter fun w => w.bank == bankOf k).length)

/-- Adds an entry to a waiter table. -/
def addWaiter (s : State) (w : Waiter) : State := modCore s (keyCore w.key) fun k => { k with waiters := k.waiters ++ [w] }

/-- What serving a waiter does: it is served and goes, is served and stays as the take entry, stops the others, or is passed over. -/
inductive Serving where
  | goes | takes | stops | stays
  deriving DecidableEq, Repr

/-- How a waiter is served when its word becomes readable, by a write or by the end of a take (R165, R168, R292). -/
def servingOf (written : Bool) : WaitKind → Serving
  | .reader => .goes
  | .taker => .takes
  | .take => .stops
  | .lateReader => if written then .goes else .stays
  | .lateTaker => if written then .takes else .stays

/-- Splits the waiters of a word into those it serves now and those that stay: readers up to the first taker, which stays as the
take entry (R292). -/
def serveSplit (written : Bool) (key : Nat) : List Waiter → Bool → List Waiter × List Waiter
  | [], _ => ([], [])
  | w :: t, stop =>
    if w.key != key || stop then
      let r := serveSplit written key t stop
      (r.1, w :: r.2)
    else
      match servingOf written w.kind with
      | .goes =>
        let r := serveSplit written key t false
        (w :: r.1, r.2)
      | .takes =>
        let r := serveSplit written key t true
        (w :: r.1, { w with kind := .take } :: r.2)
      | .stops =>
        let r := serveSplit written key t true
        (r.1, w :: r.2)
      | .stays =>
        let r := serveSplit written key t false
        (r.1, w :: r.2)

/-- The part of a word that an access of `size` bytes reads, in the low bits. -/
def subWord (w : Word) (low size : Nat) : Word := wordOf (w.toNat / 2 ^ (8 * low) % 2 ^ (8 * size))

/-- Answers a deferred read (R166). -/
def answerWaiter (s : State) (w : Waiter) : State :=
  let a : Answer := {
    asker := w.asker
    vals := [(w.lane, subWord (readWord s w.key) w.addrLow w.size)]
    taken := if w.kind == .taker || w.kind == .lateTaker then [w.key] else [] }
  post s (keyCore w.key) w.dst 2 (.answer a)

/-- Serves the waiters of a word that is full and not taken (R292). -/
def serveWord (s : State) (k : Nat) (written : Bool) : State :=
  if isFull s k && !isTaken s k then
    let r := serveSplit written (wordKey k) (coreOf s (keyCore k)).waiters false
    r.1.foldl answerWaiter (modCore s (keyCore k) fun c => { c with waiters := r.2 })
  else s

/-- Frees the take entry of an asker on a word. -/
def freeTake (s : State) (k : Nat) (a : Asker) : State :=
  modCore s (keyCore k) fun c => { c with waiters := c.waiters.filter fun w => !(w.key == wordKey k && isTake w && w.asker == a) }

/-- Whether an asker holds the take of a word. -/
def holdsTake (s : State) (k : Nat) (a : Asker) : Bool :=
  (coreOf s (keyCore k)).waiters.any fun w => w.key == wordKey k && isTake w && w.asker == a

/-- A confirm empties the taken word and frees its take entry (R168, R292). -/
def confirmTake (s : State) (k : Nat) (a : Asker) : State :=
  if holdsTake s k a then setEmpty (freeTake (touchRow (undoLog s k true) k .policy) k a) k else s

/-- A cancel frees the take entry and serves the word's waiters again (R168, R292). -/
def cancelTake (s : State) (k : Nat) (a : Asker) : State :=
  if holdsTake s k a then serveWord (freeTake s k a) k false else s

/-- CLRP of one word: full or taken becomes empty, and a take entry lapses (R167). -/
def clearWord (s : State) (k : Nat) : State :=
  if isFull s k then
    let s := undoLog s k true
    setEmpty (modCore s (keyCore k) fun c => { c with waiters := c.waiters.filter fun w => !(w.key == wordKey k && isTake w) }) k
  else s

/-- Who waits for an empty word: a reader or a taker, of a word that its own block has emptied when `after` holds (R165 to R168). -/
def waitKind (ldc after : Bool) : WaitKind :=
  match ldc, after with
  | false, false => .reader
  | true, false => .taker
  | false, true => .lateReader
  | true, true => .lateTaker

/-- One lane of a load at its owner (R166, R167). -/
def loadLane (s : State) (mode : WinMode) (ldc after : Bool) (size : Nat) (k lane : Nat) (asker : Asker) (dst : Nat) :
    State × LaneRes :=
  let s := touchRow s k .policy
  if isBad s k then (noteUncorr s (keyCore k) (keyIsLoft k), .refused .ecc)
  else if mode = .presence then
    if isFull s k && !isTaken s k && !after then
      if ldc then
        if waiterFull s k then (s, .retry)
        else (addWaiter s ⟨bankOf k, wordKey k, .take, lane, asker, dst, size, k % 4⟩, .taken (wordOf (readN s k size)))
      else (s, .val (wordOf (readN s k size)))
    else if waiterFull s k then (s, .retry)
    else (addWaiter s ⟨bankOf k, wordKey k, waitKind ldc after, lane, asker, dst, size, k % 4⟩, .deferred)
  else (s, .val (wordOf (readN s k size)))

/-- A written word's reads are new to the next deadlock sweep, whatever the mode of the write (R291, R406). -/
def unmarkReads (s : State) (k : Nat) : State :=
  modCell s (keyCore k) fun x => { x with readMark := x.readMark.filter fun q => q.1 != wordKey k }

/-- What a store lane would meet at its owner, with nothing changed (R173, R279, R283, R392). -/
def storeCheck (s : State) (mode : WinMode) (size k : Nat) : LaneRes :=
  if mode = .presence && isFull s k then .refused .rewrite
  else if isBad s k && !(!keyIsLoft k && size == 4) then .refused .ecc
  else if undoBlocks s k (mode != .presence) then .retry
  else .done

/-- A word that an LDC of the storing block consumes as the store fills it (R168): the readers ahead of the first LDC are served, and the word
ends empty. -/
def eatWord (s : State) (k : Nat) : State :=
  let r := serveSplit true (wordKey k) (coreOf s (keyCore k)).waiters false
  let now := r.1.filter fun w => w.kind == .reader || w.kind == .lateReader
  let s := now.foldl answerWaiter s
  setEmpty (modCore s (keyCore k) fun c => { c with waiters := c.waiters.filter fun w => !now.contains w }) k

/-- One lane of a store at its owner (R170, R173); a refused one has reached the word's row too (R452). -/
def storeLane (s : State) (mode : WinMode) (size k v : Nat) (hint : Hint) (eat : Bool := false) : State × LaneRes :=
  match storeCheck s mode size k with
  | .done =>
    let s := undoLog s k (mode != .presence)
    let s := touchRow s k hint
    let s := { s with bad := if size = 4 && !keyIsLoft k then keyErase s.bad (wordKey k) else s.bad }
    let s := rawWrite s k size v
    let s := unmarkReads s k
    (if mode = .presence then (if eat then eatWord (setFull s k) k else serveWord (setFull s k) k true) else s, .done)
  | .retry => (askEarlyCut s (keyCore k), .retry)
  | .refused e => (noteEcc (touchRow s k hint) (keyCore k) e (keyIsLoft k), .refused e)
  | r => (s, r)

/-- One lane of a CLRP at its owner (R167). -/
def clrpLane (s : State) (k : Nat) : State × LaneRes :=
  if isBad s k && keyIsLoft k then (noteUncorr (touchRow s k .policy) (keyCore k) true, .refused .ecc)
  else if isFull s k && undoBlocks s k true then (askEarlyCut s (keyCore k), .retry)
  else (touchRow (clearWord s k) k .policy, .done)

/-! ### Registers, bindings and queued activations -/

/-- Reads register `r`; register lanes are never null (R8). -/
def readReg (v : Context) (r : Nat) : Val :=
  let l := Tbl.get (Lanes.all 0) v.regs r
  Lanes.ofFn fun i => some (l.get i)

/-- Writes the non-null lanes of a register (R29). -/
def writeReg (v : Context) (r : Nat) (x : Val) : Context :=
  let old := Tbl.get (Lanes.all 0) v.regs r
  { v with regs := Tbl.put v.regs r (Lanes.ofFn fun i => (x.get i).getD (old.get i)) }

/-- Reset value of a binding (R12): CLASS 0b11, every other field zero. -/
def bindReset : Word := 0x30000000

/-- The binding of a tag (R12). -/
def bindingOf (k : Core) (t : Nat) : Word := Tbl.get bindReset k.bindings t

/-- Binding field VALID (R12). -/
def bValid (b : Word) : Bool := bit b 31
/-- Binding field BLK (R12). -/
def bBlk (b : Word) : Bool := bit b 30
/-- Binding field CLASS (R12). -/
def bClass (b : Word) : Nat := bits b 28 2
/-- Arity, 1 to 4 (R12). -/
def bArity (b : Word) : Nat := bits b 26 2 + 1
/-- Binding field CTX (R12). -/
def bCtx (b : Word) : Nat := bits b 23 3
/-- Header address (R12). -/
def bHdr (b : Word) : Nat := bits b 4 12 * 16

/-- Whether a binding write is rejected (R13). -/
def bindRejected (b : Word) : Bool := decide (4 < bCtx b) || (bCtx b == 4 && bArity b != 1)

/-- The word as the entry holds it: reserved and zero fields read zero (R12, R5). -/
def bindMask (b : Word) : Word := b &&& 0xFF80FFF0

/-- Whether ports 0 to `n` − 1 of an entry are present (R18). -/
def portsPresent : Nat → List (Option Val) → Bool
  | 0, _ => true
  | _ + 1, [] => false
  | n + 1, p :: t => p.isSome && portsPresent n t

/-- Whether a tag's tokens are kept for a write unit (R207): words 6 and 7 of its descriptor name the tag. -/
def tagKept (k : Core) (t : Nat) : Bool :=
  [2, 3].any fun n =>
    let u : SUnit := Tbl.get {} k.units n
    let w := (u.desc[6]?).getD 0
    u.st != .idle && bits w 0 2 == 0 && bits w 2 8 == t

/-- The route tag of a handler (R182). -/
def updTag (h : Nat) : Nat := 0xF0 + h % 16

/-- The route tag that a UPD's token is queued on (R182). -/
def updTagOf (u : UpdToken) : Nat := match u.r.op with | .upd h => updTag h | _ => 0

/-- Places, in the cell's arrival order, of the queued activations of a tag, UPDs among them (R18, R20, R39). -/
def queuedStamps (k : Core) (t : Nat) : List Nat :=
  ((k.tokens.filter fun q => q.t.tag == t && !q.held).map fun q => q.stamp) ++
  ((k.updTok.filter fun u => updTagOf u == t).map fun u => u.stamp) ++
  (k.joins.filter fun j => j.tag == t).filterMap fun j => j.done

/-- Whether a tag with binding `b` is ready (R20). -/
def boundReady (k : Core) (t : Nat) (b : Word) : Bool :=
  bValid b && !bBlk b && !(queuedStamps k t).isEmpty && !tagKept k t

/-- Whether a tag is ready (R20). -/
def tagReady (k : Core) (t : Nat) : Bool := boundReady k t (bindingOf k t)

/-- Tags that hold a queued activation. -/
def queuedTags (k : Core) : List Nat :=
  (k.tokens.foldl (fun a q => if q.held then a else keyInsert a q.t.tag) []) |> fun a =>
  k.updTok.foldl (fun a u => keyInsert a (updTagOf u)) a |> fun a =>
  k.joins.foldl (fun a j => if j.done.isSome then keyInsert a j.tag else a) a

/-- The binding of a queue: a tag of the cell, or a shadow tag from 512 upward (R12, R329). -/
def bindingAt (s : State) (c t : Nat) : Word :=
  if t < 512 then bindingOf (coreOf s c) t
  else match (cellOf s c).shadow with
    | some h => Tbl.get bindReset h.bindings (t - 512)
    | none => bindReset

/-- Whether a tag of a cell is ready (R20); tag 256 + `x` stands for the spawn queue of context `x` (R230). -/
def readyNow (s : State) (c t : Nat) : Bool :=
  let k := coreOf s c
  if 256 ≤ t ∧ t < 512 then k.spawnQ.any fun m => m.ctx + 256 == t else boundReady k t (bindingAt s c t)

/-- Every queue of a cell that may be ready. -/
def queuesOf (k : Core) : List Nat := k.spawnQ.foldl (fun a m => keyInsert a (m.ctx + 256)) (queuedTags k)

/-- Brings up to date since when each tag is ready (R38). -/
def refreshReady (s : State) (c : Nat) : State :=
  let now := (cellOf s c).cyc
  modCore s c fun k => { k with
    readyAt := ((queuesOf k).filter (readyNow s c)).map fun t => (t, Tbl.get now k.readyAt t) }

/-- Ready class-0 tags of a context (R37); its spawn queue has the class of its oldest message (R230). -/
def readyClass0 (k : Core) (x : Nat) : List Nat :=
  ((queuedTags k).filter fun t => decide (t < 256) && bCtx (bindingOf k t) == x && bClass (bindingOf k t) == 0 && tagReady k t) ++
  (match k.spawnQ.find? fun m => m.ctx == x with
   | some m => if m.cls = 0 then [256 + x] else []
   | none => [])

/-- A tag's place in the round robin: shadow tags stand at their route tag, the spawn queue after tag 255 (R38, R230). -/
def robinNo (t : Nat) : Nat := if 512 ≤ t then t - 512 else if 256 ≤ t then 256 else t

/-- The first candidate after `last`, counting on from the highest number to 0 (R38). -/
def nextRobin (cands : List Nat) (last : Nat) : Option Nat :=
  cands.foldl (fun best t =>
    let d := (robinNo t + 257 - last % 257 + 256) % 257
    match best with
    | some b => if d < (robinNo b + 257 - last % 257 + 256) % 257 then some t else some b
    | none => some t) none

/-- Least of a list of places. -/
def least : List Nat → Option Nat
  | [] => none
  | a :: t => match least t with | some b => some (if a ≤ b then a else b) | none => some a

/-- Whether the oldest queued activation of a tag brings a barrier release (R221, R330). -/
def oldestRelease (k : Core) (t : Nat) : Bool :=
  match least (queuedStamps k t) with
  | some n =>
    (k.tokens.any fun q => q.stamp == n && q.t.tag == t && q.t.release) ||
    k.joins.any fun j => j.tag == t && j.done == some n &&
      j.releases.any fun p => decide (p < (if j.solo then 1 else bArity (bindingOf k t)))
  | none => false

/-! ### Frames -/

/-- NINST of a header word (R76). -/
def h0Ninst (h0 : Word) : Nat := bits h0 21 7 + 1

/-- Chunks a block's frame takes (R24). -/
def h0Chunks (h0 : Word) : Nat := (h0Ninst h0 + 15) / 16

/-- Bytes of a core's SRAM: a cell, a bay controller, a sill processor (R279; 15: Management cores). -/
def sramSize (c : Nat) : Nat := if isCellCore c then 0x10000 else if isBayCore c then 0x100000 else 0x400000

/-- Whether a cell's configuration has written its shadow bank (R329); the labels of other cells' shadow routes do not count. -/
def bankWritten (x : Cell) : Bool :=
  match x.shadow with
  | some h => h.bindings.any fun p => bValid p.2
  | none => false

/-- Whether a cell is a collective home: its region's origin, with a configured shadow bank (R281). -/
def isCollHome (s : State) (c : Nat) : Bool :=
  bankWritten (cellOf s c) &&
  match regionOf s c with
  | some r => regionOrigin s r == c
  | none => false

/-- End of program SRAM (R280, R281): below the reserved bytes, and on a collective home 2,048 bytes lower. -/
def progEnd (s : State) (c : Nat) : Nat :=
  sramSize c - roundUp (9216 + 40 * (cellOf s c).pool) 1024 - (if isCollHome s c then 2048 else 0)

/-- Operand positions an instruction uses: A, B, C (R89, R89 to R94; the escapes' tables in 06). -/
def usesA : Instr → Bool
  | .lit _ => false | .imm _ => false | .lane _ _ => false | .arg _ _ => false | .bro _ _ => false | .callo _ _ => false
  | .ret _ _ => false | .endBlk _ => false | .yieldBlk _ => false | .scall _ _ => false | .fence _ _ => false | .spr _ => false
  | .tblock _ _ => false | .tunblk _ _ => false | .tsfree _ _ => false | .lpeek _ _ _ => false | .lpop _ _ _ _ => false
  | .csig _ _ _ => false | .sgo _ _ _ => false | .sstop _ _ _ => false | .sbar _ _ _ => false | .scond _ _ _ => false
  | .mxstat _ => false | .mxcfg _ rel => !rel | .mxldb _ _ strm => !strm | .mxclr _ _ _ => false | .bstat _ _ => false
  | .leavec _ _ => false | .cabort _ _ => false | .settle _ _ _ => false | .cfgstat _ => false | .trap _ _ => false
  | _ => true

/-- Whether an instruction uses operand B. -/
def usesB : Instr → Bool
  | .sel _ => true | .add _ => true | .sub _ => true | .mul _ => true | .mulh _ _ => true | .div _ _ => true | .rem _ _ => true
  | .and _ => true | .or _ => true | .xor _ => true | .andn _ => true | .shl _ => true | .shr _ _ => true | .rot _ => true
  | .min _ _ => true | .max _ _ => true | .bfx _ _ => true | .bfi _ => true | .lea _ _ => true | .add3 _ => true
  | .mad _ => true | .adds _ _ => true | .absd _ _ => true | .teq _ => true | .tne _ => true | .tlt _ _ => true
  | .tle _ _ => true | .plog _ _ => true | .fadd _ => true | .fsub _ => true | .fmul _ => true | .fma _ => true
  | .fms _ => true | .fnma _ => true | .fmin _ _ => true | .fmax _ _ => true | .fdiv _ => true | .fcmp _ _ => true
  | .fsgn x _ => x == .cpy || x == .ncpy || x == .xor
  | .fscl _ => true | .fdot _ => true | .flrp _ => true | .lperm _ => true | .lxpd _ => true | .ldvs _ => true
  | .stw _ => true | .sth _ => true | .stb _ => true | .stv _ => true | .stvs _ => true
  | .amo _ _ => true | .cas _ => true | .upd _ _ => true
  | .send _ act _ => act == .set | .sendm _ act _ => act == .set
  | .mxout _ => true | .binit _ _ => true | .joinb _ _ => true | .leaveb _ _ => true | .joinc _ _ => true
  | .scribe _ _ => true | .selftest _ _ => true | .sister _ _ _ => true | .clksel _ _ _ => true | .winset _ _ => true
  | .bindset _ _ => true | .cfgreq _ _ => true | .spawn _ _ _ => true
  | _ => false

/-- Whether an instruction uses operand C. -/
def usesC : Instr → Bool
  | .sel _ => true | .bfi _ => true | .add3 _ => true | .mad _ => true | .fma _ => true | .fms _ => true | .fnma _ => true
  | .flrp _ => true | .stvs _ => true | .cas _ => true | .sendm _ _ _ => true | .spawn _ _ _ => true
  | _ => false

/-- Whether an instruction is an exit (R22). -/
def isExit : Instr → Bool
  | .bro _ _ => true | .callo _ _ => true | .br _ => true | .call _ => true | .ret _ _ => true | .endBlk _ => true
  | .yieldBlk _ => true | .scall _ _ => true | .trap _ _ => true
  | _ => false

/-- LSID of a load (R85). -/
def loadLsid : Instr → Option Nat
  | .ldw m => some m.lsid.toNat | .ldh m => some m.lsid.toNat | .ldhu m => some m.lsid.toNat | .ldb m => some m.lsid.toNat
  | .ldbu m => some m.lsid.toNat | .ldv m => some m.lsid.toNat | .ldc m => some m.lsid.toNat | .ldvs m => some m.lsid.toNat
  | _ => none

/-- LSID of a store, CLRP, atomic or UPD: what a load of a higher LSID waits for (R165). -/
def memLsid : Instr → Option Nat
  | .stw f => some f.lsid.toNat | .sth f => some f.lsid.toNat | .stb f => some f.lsid.toNat | .stv f => some f.lsid.toNat
  | .stvs f => some f.lsid.toNat | .clrp q _ => some q.lsid.toNat
  | .amo _ f => some f.lsid.toNat | .cas f => some f.lsid.toNat | .upd _ f => some f.lsid.toNat
  | _ => none

/-- Whether an instruction reaches its effect by a reply (R178, R189). -/
def isReply : Instr → Bool
  | .amo _ f => !f.noret | .cas f => !f.noret | .upd _ f => !f.noret
  | .binit _ _ => true | .joinb _ _ => true | .leaveb _ _ => true
  | _ => false

/-- PR of an encoded instruction. -/
def prOf : Instr → Pr
  | .mov g => g.pr | .nult _ g => g.pr | .sel g => g.pr | .lit i => i.pr | .imm i => i.pr | .lane _ g => g.pr | .arg _ g => g.pr
  | .bro x _ => x.pr | .callo x _ => x.pr | .br x => x.pr | .call x => x.pr | .ret x _ => x.pr | .endBlk x => x.pr
  | .yieldBlk x => x.pr | .scall x _ => x.pr | .trap x _ => x.pr
  | .add g => g.pr | .sub g => g.pr | .mul g => g.pr | .mulh _ g => g.pr | .div _ g => g.pr | .rem _ g => g.pr
  | .and g => g.pr | .or g => g.pr | .xor g => g.pr | .andn g => g.pr | .shl g => g.pr | .shr _ g => g.pr | .rot g => g.pr
  | .min _ g => g.pr | .max _ g => g.pr | .bitc _ g => g.pr | .ext _ g => g.pr | .bfx _ g => g.pr | .bfi g => g.pr
  | .lea _ g => g.pr | .add3 g => g.pr | .mad g => g.pr | .adds _ g => g.pr | .absd _ g => g.pr | .uni _ g => g.pr
  | .teq g => g.pr | .tne g => g.pr | .tlt _ g => g.pr | .tle _ g => g.pr | .plog _ g => g.pr | .pred _ g => g.pr
  | .addi i => i.pr | .muli i => i.pr | .andi i => i.pr | .ori i => i.pr | .xori i => i.pr | .shli i => i.pr | .shri i => i.pr
  | .sari i => i.pr | .teqi i => i.pr | .tnei i => i.pr | .tlti i => i.pr | .tltui i => i.pr | .tgei i => i.pr
  | .tgeui i => i.pr | .addln i => i.pr
  | .fadd g => g.pr | .fsub g => g.pr | .fmul g => g.pr | .fma g => g.pr | .fms g => g.pr | .fnma g => g.pr
  | .fmin _ g => g.pr | .fmax _ g => g.pr | .fdiv g => g.pr | .fsqrt g => g.pr | .fapx _ g => g.pr | .fcmp _ g => g.pr
  | .fsgn _ g => g.pr | .cvtfi _ g => g.pr | .cvtif _ g => g.pr | .frnd _ g => g.pr | .fscl g => g.pr | .fxtr _ g => g.pr
  | .narr _ g => g.pr | .spl3 _ g => g.pr | .fred _ g => g.pr | .fdot g => g.pr | .flrp g => g.pr
  | .lperm g => g.pr | .lbc _ g => g.pr | .lshf _ g => g.pr | .lrot _ g => g.pr | .lscan _ g => g.pr | .lred _ g => g.pr
  | .lcmp g => g.pr | .lxpd g => g.pr
  | .ldw m => m.pr | .ldh m => m.pr | .ldhu m => m.pr | .ldb m => m.pr | .ldbu m => m.pr | .ldv m => m.pr | .ldc m => m.pr
  | .ldvs m => m.pr
  | .stw f => f.pr | .sth f => f.pr | .stb f => f.pr | .stv f => f.pr | .stvs f => f.pr | .clrp q _ => q.pr | .fence q _ => q.pr
  | .spw q _ => q.pr | .amo _ f => f.pr | .cas f => f.pr | .upd _ f => f.pr | .spr r => r.pr
  | .send q _ _ => q.pr | .sendm q _ _ => q.pr
  | .tblock q _ => q.pr | .tunblk q _ => q.pr | .tsalloc q _ => q.pr | .tsfree q _ => q.pr | .tkill q _ _ => q.pr
  | .tbind q _ => q.pr | .lpeek e _ _ => e.pr | .lpop q _ _ _ => q.pr | .lpush q _ => q.pr | .csig q _ _ => q.pr
  | .sdef q _ => q.pr | .sgo q _ _ => q.pr | .sstop q _ _ => q.pr | .sbar q _ _ => q.pr | .scond q _ _ => q.pr
  | .sfmt q _ => q.pr | .mxstat e => e.pr | .mxcfg q _ => q.pr | .mxldb q _ _ => q.pr | .mxrun q => q.pr | .mxout q => q.pr
  | .mxclr q _ _ => q.pr | .bstat e _ => e.pr | .binit q _ => q.pr | .arv q _ => q.pr | .arvd q _ => q.pr | .joinb q _ => q.pr
  | .leaveb q _ => q.pr | .joinc q _ => q.pr | .leavec q _ => q.pr | .cstat e => e.pr | .cpath e _ => e.pr | .cstart q _ => q.pr
  | .cabort q _ => q.pr | .settle q _ _ => q.pr | .cut q _ _ => q.pr | .save q _ => q.pr | .restore q _ _ => q.pr
  | .scribe q _ => q.pr | .sflip q _ _ => q.pr | .selftest q _ => q.pr | .sister q _ _ => q.pr | .takeover q _ => q.pr
  | .clksel q _ _ => q.pr | .winset q _ => q.pr | .bindset q _ => q.pr | .cfgstat e => e.pr | .cfgreq q _ => q.pr
  | .cfgrel q _ => q.pr | .spawn q _ _ => q.pr | .mapsel q _ _ => q.pr
  | _ => .always

/-- Address of the word of slot `n` of a frame (R75, R79). -/
def slotAddr (f : Frame) (n : Nat) : Nat := f.hdr + 4 * (4 + f.nread + n)

/-- The fall-through address F of a block (R120). -/
def fallThrough (f : Frame) : Nat := f.hdr + 16 * ((4 + f.nread + f.words.length + f.lits.length + 3) / 4)

/-- The instruction of a slot. -/
def slotInstr (f : Frame) (n : Nat) : Option Instr :=
  match f.words[n]? with
  | some w =>
    match decodeWord w with
    | .ok i => some i
    | .error _ => none
  | none => none

/-- Operands of a slot. -/
def slotOf (f : Frame) (n : Nat) : Slot := Tbl.get {} f.slots n

/-- Whether bit `n` of a mask of registers is set (R77). -/
def regDeclared (f : Frame) (r : Nat) : Bool := if r < 32 then bit f.h2 r else bit f.h3 (r - 32)

/-- Whether a register write has been counted. -/
def regCounted (f : Frame) (r : Nat) : Bool := if r < 32 then bit f.wroteLo r else bit f.wroteHi (r - 32)

/-- Counts a register write and keeps its value for the commit (R29, R32, R33). -/
def countReg (f : Frame) (who r : Nat) (v : Val) : Except BFault Frame :=
  if regDeclared f r && !regCounted f r then
    .ok { f with
      regs := Tbl.put f.regs r v
      wroteLo := if r < 32 then f.wroteLo ||| wordOf (2 ^ r) else f.wroteLo
      wroteHi := if r < 32 then f.wroteHi else f.wroteHi ||| wordOf (2 ^ (r - 32)) }
  else .error { cause := .overrun, taddr := wordOf r, slot := who }

/-- Puts a value on an operand position; a slot of NINST or above, an unused or an occupied position faults TARGET (R32, R81). A word that
the fetch has yet to bring, and that decodes to nothing, takes one value at each position, and its block faults for it in time (R99). -/
def putOperand (f : Frame) (addr who n : Nat) (used : Instr → Bool) (get : Slot → Option Val) (put : Slot → Slot) :
    Except BFault Frame :=
  match slotInstr f n with
  | some i =>
    if used i && (get (slotOf f n)).isNone then .ok { f with slots := Tbl.put f.slots n (put (slotOf f n)) }
    else .error { cause := .target, taddr := wordOf addr, slot := who }
  | none =>
    if n < f.words.length && (get (slotOf f n)).isNone then .ok { f with slots := Tbl.put f.slots n (put (slotOf f n)) }
    else .error { cause := .target, taddr := wordOf addr, slot := who }

/-- Delivers a value to one target (R80, R81): `addr` is the producer's word and `who` its slot. -/
def deliver (f : Frame) (addr who : Nat) (t : Target) (v : Val) : Except BFault Frame :=
  match t with
  | .none => .ok f
  | .w r => countReg f who r.toNat v
  | .a n => putOperand f addr who n.toNat usesA (fun s => s.a) fun s => { s with a := some v }
  | .b n => putOperand f addr who n.toNat usesB (fun s => s.b) fun s => { s with b := some v }
  | .c n => putOperand f addr who n.toNat usesC (fun s => s.c) fun s => { s with c := some v }
  | .p n => putOperand f addr who n.toNat (fun i => prOf i != .always) (fun s => s.p) fun s => { s with p := some v }

/-- Delivers a value to several targets. DESIGN CHOICE: of two faults that one producer's deliveries meet in one cycle the first target's is
recorded, and of two read descriptors' the lower one's (R99; notes/assumptions/93.md). -/
def deliverAll (f : Frame) (addr who : Nat) (v : Val) : List Target → Except BFault Frame
  | [] => .ok f
  | t :: ts =>
    match deliver f addr who t v with
    | .ok f' => deliverAll f' addr who v ts
    | .error e => .error e

/-- Counts a side effect and records what its commit does (R29, R32). -/
def countEffect (f : Frame) (who lsid : Nat) (a : Act) : Except BFault Frame :=
  if bit f.h1 lsid && !bit f.counted lsid then
    .ok { f with counted := f.counted ||| wordOf (2 ^ lsid), effs := f.effs ++ [{ lsid := lsid, slot := who, act := a }] }
  else .error { cause := .overrun, slot := who, lsid := lsid }

/-- Targets of a read descriptor, T1 first as encoded (R77, R78). -/
def descTargets (d : Word) : Option (Target × Target) :=
  match Target.ofCode (bits d 6 10), Target.ofCode (bits d 16 10) with
  | some a, some b => if bits d 0 6 = 0 then some (a, b) else none
  | _, _ => none

/-- Delivers the values of the read descriptors (R78). -/
def readDescs (v : Context) : Frame → Nat → List Word → Except BFault Frame
  | f, _, [] => .ok f
  | f, n, d :: ds =>
    match descTargets d with
    | some (t0, t1) =>
      match deliverAll f (f.hdr + 16 + 4 * n) 0x7F (readReg v (bits d 26 6)) [t0, t1] with
      | .ok f' => readDescs v f' (n + 1) ds
      | .error e => .error e
    | none => .error { cause := .illegal, taddr := wordOf (f.hdr + 16 + 4 * n) }

/-- The LSID that a rejected word's fault record names: that of the instruction where its word has one (R374). -/
def wordLsid (w : Word) : Nat :=
  let o := bits w 25 7
  if (0x60 ≤ o ∧ o ≤ 0x72) ∨ o = 0x74 ∨ o = 0x75 then bits w 18 5
  else if 0x76 ≤ o ∧ o ≤ 0x7D ∧ 32 ≤ bits w 17 6 then bits w 12 5
  else 0

/-- Whether a decoded instruction is rejected in its block (R98): a literal beyond NLIT, a load whose LSID is set in H1, and in
ctx 4 an exit other than END (R41). -/
def blockRejects (h1 : Word) (nlit : Nat) (ctx4 : Bool) (i : Instr) : Bool :=
  match i with
  | .lit l => decide (nlit ≤ l.imm.toNat)
  | .endBlk _ => false
  | _ =>
    (match loadLsid i with
     | some n => bit h1 n
     | none => false) || (ctx4 && isExit i)

/-- The decode faults of a block's words, lowest address first, and the second operation of point Reply (R98, R178, R190). -/
def decodeFault (h1 : Word) (nlit : Nat) (ctx4 : Bool) : Nat → Nat → Nat → List Word → Option BFault
  | _, _, _, [] => none
  | addr, slot, replies, w :: ws =>
    match decodeWord w with
    | .error _ => some { cause := .illegal, taddr := wordOf addr, slot := slot, lsid := wordLsid w }
    | .ok i =>
      if blockRejects h1 nlit ctx4 i || (isReply i && decide (0 < replies)) then
        some { cause := .illegal, taddr := wordOf addr, slot := slot, lsid := wordLsid w }
      else decodeFault h1 nlit ctx4 (addr + 4) (slot + 1) (if isReply i then replies + 1 else replies) ws

/-- Whether any word of a run of SRAM words is uncorrectable (R279). -/
def anyBad (s : State) (c : Nat) : Nat → Nat → Option Nat
  | _, 0 => none
  | a, n + 1 => if isBad s (sramKey c a) then some a else anyBad s c (a + 4) n

/-- The first uncorrectable word that meets a run of SRAM bytes (R279). -/
def spanBad (s : State) (c a n : Nat) : Option Nat := if n = 0 then none else anyBad s c (a / 4 * 4) ((a + n - 1) / 4 - a / 4 + 1)

/-- The words of a frame's block (R76). -/
def blockWords (f : Frame) : Nat := 4 + f.nread + f.words.length + f.lits.length

/-- Whether the fetch of a frame's block has ended and all its words are decoded (R97). -/
def decoded (f : Frame) : Bool := decide (blockWords f ≤ f.fetched)

/-- A fetch cycle brings 32 further words of a block (01: Timing from token to first issue). -/
def fetchOn (f : Frame) : Frame := if decoded f then f else { f with fetched := f.fetched + 32 }

/-- Whether a slot's word is there, and for LIT its literal (R97, R107). -/
def wordHere (f : Frame) (slot : Nat) (i : Instr) : Bool :=
  decide (4 + f.nread + slot < f.fetched) &&
  match i with
  | .lit l => decide (4 + f.nread + f.words.length + l.imm.toNat < f.fetched)
  | _ => true

/-- Whether every word of a frame's block is decoded, and none was rejected (R97). -/
def allDecoded (f : Frame) : Bool := decoded f && f.badWord.isNone

/-- Whether no instruction of a frame has fired (R46, R100). -/
def unstarted (f : Frame) : Bool := f.slots.all fun p => !p.2.fired

/-- The earlier of two faults of a fetch, each with the fetch cycle in whose decoding it is met; an uncorrectable word goes before an
undecodable one of the same cycle (notes/assumptions/87.md). -/
def earlierFault : Option (Nat × BFault) → Option (Nat × BFault) → Option (Nat × BFault)
  | some a, some b => if a.1 ≤ b.1 then some a else some b
  | none, b => b
  | a, none => a

/-- Fetches and checks the block whose header stands at `hdr` (R32, R76 to R79, R97 to R99); no operand is delivered yet. The first fetch
cycle brings 32 words and each later one 32 more, which are decoded in the cycle after: an uncorrectable word is met in its fetch cycle
(R279), an undecodable one in the next, and the second cycle's words are decoded before any instruction fires (01: Timing from token to
first issue). -/
def fetchBlock (s : State) (c x hdr serial : Nat) (v : Context) : Except BFault Frame :=
  let limit := progEnd s c
  let at_ : Word := wordOf hdr
  if limit < hdr + 16 then .error { cause := .bounds, taddr := at_ }
  else if (anyBad s c hdr 4).isSome then .error { cause := .ecc, taddr := at_ }
  else
    let h0 := readWord s (sramKey c hdr)
    let nlit := bits h0 16 5
    let nread := bits h0 11 5
    let ninst := h0Ninst h0
    let total := 4 + nread + ninst + nlit
    if bits h0 28 4 ≠ 0xB ∨ 16 < nread ∨ bits h0 8 3 ≠ 0 ∨ bits h0 0 7 ≠ 0 then .error { cause := .illegal, taddr := at_ }
    else if limit < hdr + 4 * total then .error { cause := .bounds, taddr := at_ }
    else
      match anyBad s c hdr (if total < 32 then total else 32) with
      | some a => .error { cause := .ecc, taddr := wordOf a }
      | none =>
        let h1 := readWord s (sramKey c (hdr + 4))
        let descs := readWords s (sramKey c (hdr + 16)) nread
        let words := readWords s (sramKey c (hdr + 16 + 4 * nread)) ninst
        let f : Frame := {
          serial := serial
          hdr := hdr
          h1 := h1
          h2 := readWord s (sramKey c (hdr + 8))
          h3 := readWord s (sramKey c (hdr + 12))
          nread := nread
          nopre := bit h0 7
          descs := descs
          words := words
          lits := readWords s (sramKey c (hdr + 16 + 4 * (nread + ninst))) nlit
          fmode := v.fmode
          fetched := 64 }
        match (descs.zip (List.range nread)).find? fun d => (descTargets d.1).isNone with
        | some d => .error { cause := .illegal, taddr := wordOf (hdr + 16 + 4 * d.2) }
        | none =>
          if x = 4 ∧ 32 < ninst then .error { cause := .illegal, taddr := at_ }
          else
            let unread := (anyBad s c (hdr + 128) (total - 32)).map fun a =>
              ((a - hdr) / 128 - 1, ({ cause := .ecc, taddr := wordOf a } : BFault))
            let rejected := (decodeFault h1 nlit (x == 4) (hdr + 16 + 4 * nread) 0 0 words).map fun e => ((4 + nread + e.slot) / 32, e)
            match earlierFault unread rejected with
            | none => .ok f
            | some (0, e) => .error e
            | some p => .ok { f with badWord := some p }

/-! ### Faults and traps -/

/-- Fault code (R374). -/
def causeCode : Cause → Nat
  | .illegal => 1 | .target => 2 | .overrun => 3 | .noexit => 4 | .multiexit => 5 | .incomplete => 6 | .align => 7 | .bounds => 8
  | .prot => 9 | .window => 10 | .rewrite => 11 | .stack => 12 | .tagspace => 13 | .channel => 14 | .stream => 15
  | .rescale => 16 | .barOver => 17 | .barState => 18 | .collOrder => 19 | .collGroup => 20 | .remote => 21 | .hostpage => 22
  | .ecc => 23 | .nopre => 24 | .priv => 25 | .trap => 26 | .unsettled => 27

/-- TINFO (R134). -/
def tinfoWord (late sc : Bool) (slot lanes lsid : Nat) : Word :=
  wordOf ((if late then 2 ^ 31 else 0) + (if sc then 2 ^ 30 else 0) + slot % 128 * 2 ^ 16 + lanes % 256 * 2 ^ 8 + lsid % 32)

/-- Every take a frame holds, by key. -/
def frameTakes (f : Frame) : List (Nat × Nat) := f.takes

/-- Whether an asker is an instruction of the frame. -/
def askerOf (c x serial : Nat) : Asker → Bool
  | .frame c' x' n _ => c' == c && x' == x && n == serial
  | _ => false

/-- Removes a frame's waiter entries from every bank (R294). -/
def removeWaiters (s : State) (c x serial : Nat) : State :=
  { s with cells := s.cells.map fun p => (p.1, { p.2 with core := { p.2.core with
      waiters := p.2.core.waiters.filter fun w => !(askerOf c x serial w.asker) || isTake w } }) }

/-- Cancels a take, here or at its owner (R168). -/
def sendCancel (s : State) (c : Nat) (a : Asker) (k : Nat) : State :=
  if keyCore k = c then cancelTake s k a else post s c (keyCore k) 0 (.cancel [k] a)

/-- Discards a context's frames with everything they did (R26, R32, R294). -/
def dropFrames (s : State) (c x : Nat) : State :=
  let v := ctxOf s c x
  match v.frame with
  | none => modCtx s c x fun v => { v with spec := [] }
  | some f =>
    let s := removeWaiters s c x f.serial
    let s := (frameTakes f).foldl (fun s t => sendCancel s c (.frame c x f.serial t.1) t.2) s
    modCtx s c x fun v => { v with frame := none, spec := [] }

/-- The call-stack floor (R121). -/
def callFloor (v : Context) : Nat :=
  if v.tl then (match v.trapRec with | some r => r.depth | none => 0)
  else match v.inter with | some i => i.depth | none => 0

/-- Taking a trap (R45, R124, R134): the record registers are written; with a handler installed and at trap level 0 the context
enters TRAPPED and its next block is the one TRAPV names, otherwise it enters HALTED and the bay controller is told (R378). A NOPRE
section ends (R42). MORE says that late causes wait in the queue (R376). -/
def trapEntry (s : State) (c x : Nat) (cause : Cause) (tblock taddr tinfo : Word) (retry succ : Option Nat) : State :=
  let v := ctxOf s c x
  let v := { v with
    tcause := wordOf (causeCode cause + (if v.lateQ.isEmpty then 0 else 256))
    tblock := tblock
    taddr := taddr
    tinfo := tinfo
    frame := none
    spec := []
    nopre := false
    nopreb := 65536 }
  if v.tl || v.trapv == 0 then
    report (putCtx s c x { v with st := .halted, pc := none }) (.haltEvent c x v.tcause tblock taddr)
  else
    putCtx s c x { v with
      st := .trapped
      tl := true
      trapRec := some ⟨retry, succ, v.calls.length⟩
      pc := some v.trapv.toNat
      waitSince := (cellOf s c).cyc }

/-- The end of an activation (R22, R122, R125): the call stack is cut, and the context becomes IDLE, or, when the chain that ends at trap
level 0 had interjected, the interrupted chain goes on at its successor (R37). At trap level 1 the context becomes IDLE in either case
(notes/assumptions/64.md). -/
def endActivation (s : State) (c x : Nat) : State :=
  let v := ctxOf s c x
  let inter := if v.tl then none else v.inter
  let v := { v with tl := false, trapRec := none, nopre := false, nopreb := 65536, frame := none, spec := [], inter := none }
  match inter with
  | some i =>
    putCtx s c x { v with
      st := .running
      rtag := i.rtag
      itag := i.itag
      argn := i.argn
      args := i.args
      cls := i.cls
      tuple := i.tuple
      calls := v.calls.take i.depth
      pc := some i.succ
      waitSince := (cellOf s c).cyc }
  | none => putCtx s c x { v with st := .idle, calls := [], pc := none }

/-- Return from trap level 1 to an address (R125): its boundary joins two chains, and lies in no NOPRE section (R42). -/
def trapReturn (s : State) (c x : Nat) (target : Option Nat) : State :=
  let v := ctxOf s c x
  match target, v.trapRec with
  | some a, some r =>
    putCtx s c x { v with
      st := .running
      tl := false
      trapRec := none
      calls := v.calls.take r.depth
      pc := some a
      frame := none
      nopre := false
      nopreb := 65536
      waitSince := (cellOf s c).cyc }
  | _, _ => endActivation s c x

/-- Answers an asker from owner core `src` (R166, R174, R178). -/
def sendAnswer (s : State) (src dst : Nat) (a : Answer) : State := post s src dst 2 (.answer a)

/-- A fault of the update handler (R41): it does not commit, its request is refused with REMOTE, and the update slot goes on. -/
def handlerFault (s : State) (c : Nat) : State :=
  let s := dropFrames s c 4
  let s := modCtx s c 4 fun v => { v with st := .idle, pc := none, nopre := false, nopreb := 65536 }
  match (coreOf s c).updCur with
  | none => s
  | some u =>
    let s := modCore s c fun k => { k with updCur := none }
    let a : Answer := {
      asker := u.r.asker
      cause := some .remote
      refused := 2 ^ u.lane.lane
      vals := [(u.lane.lane, u.lane.ea)]
      recorded := u.recorded
      part := u.lane.lane }
    sendAnswer s c u.src a

/-- A context's block is discarded for a fault, and its predicted frames with it (R26, R32, R139). -/
def discardBlock (s : State) (c x : Nat) : State :=
  countEvent (countEvent (dropFrames s c x) c x 4 1) c x 5 (ctxOf s c x).spec.length

/-- A fault of the block in flight (R32, R45, R124): nothing of it is visible, and the context traps. -/
def blockFault (s : State) (c x : Nat) (e : BFault) : State :=
  match (ctxOf s c x).frame with
  | none => s
  | some f =>
    if x = 4 then handlerFault s c
    else
      let s := discardBlock s c x
      trapEntry s c x e.cause (wordOf f.hdr) e.taddr (tinfoWord false false e.slot e.lanes e.lsid) (some f.hdr) (some f.hdr)

/-! ### Starting blocks -/

/-- The NOPRE bit of the header at an address (R42). -/
def headerNopre (s : State) (c hdr : Nat) : Bool := bit (readWord s (sramKey c hdr)) 7

/-- Whether the budget of a NOPRE section has run out (R43). -/
def expired (v : Context) : Bool := v.nopre && decide (v.nopreb = 0)

/-- Whether a context's present boundary lies inside a NOPRE section (R42). -/
def insideNopre (s : State) (c : Nat) (v : Context) : Bool :=
  v.nopre && (match v.pc with | some h => headerNopre s c h | none => false)

/-- Whether a shadow tag of a context is ready (R330). -/
def shadowReady (s : State) (c x : Nat) : Bool :=
  (queuesOf (coreOf s c)).any fun t => decide (512 ≤ t) && bCtx (bindingAt s c t) == x && readyNow s c t

/-- Whether context `x` has the collective slot of its cell (R330). -/
def inSlot (s : State) (c x : Nat) : Bool := match (cellOf s c).slot with | some k => k.ctx == x | none => false

/-- Whether a class-0 activation would interject at a running context's boundary (R37, R42). -/
def wouldInterject (s : State) (c x : Nat) : Option Nat :=
  let v := ctxOf s c x
  if v.st == .running && v.cls != 0 && v.inter.isNone && !insideNopre s c v && !inSlot s c x then
    nextRobin (readyClass0 (coreOf s c) x) (Tbl.get 256 v.served 0)
  else none

/-- Whether a context is about to start, by interjection, an activation whose token is a barrier release (R330). -/
def releaseNext (s : State) (c x : Nat) : Bool :=
  match wouldInterject s c x with
  | some t => oldestRelease (coreOf s c) t
  | none => false

/-- Whether a collective slot is due on a context that is at a boundary where one may open: it has yielded, is IDLE, or is about to start
an activation whose token is a barrier release, outside a NOPRE section and trap level 1 (R330). -/
def slotDue (s : State) (c x : Nat) : Bool :=
  let v := ctxOf s c x
  (cellOf s c).slot.isNone && !v.tl && (v.st == .idle || (v.st == .running && (v.yielded || releaseNext s c x))) && v.frame.isNone &&
  shadowReady s c x

/-- Whether work that waits for a block boundary is due at this one (R37, R46, R288, R394, R384): the next block is then not
started before it. -/
def boundaryDue (s : State) (c x : Nat) : Bool :=
  let cell := cellOf s c
  let v := ctxOf s c x
  !coreActs s c || (!v.tl && !v.lateQ.isEmpty) || !v.winsets.isEmpty || slotDue s c x ||
  (!insideNopre s c v &&
    (!v.saves.isEmpty || cell.takeover.isSome || (wouldInterject s c x).isSome))

/-- Whether a user context waits for a frame: it runs, holds none, and nothing is due at its boundary (R25). -/
def wantsFrame (s : State) (c x : Nat) : Bool :=
  let v := ctxOf s c x
  (v.st == .running || v.st == .trapped) && v.frame.isNone && v.pc.isSome && !boundaryDue s c x

/-- Chunks held by the frames of the user contexts, predicted frames among them (R24). -/
def usedChunks (s : State) (c : Nat) : Nat :=
  userCtxs.foldl (fun n x =>
    let v := ctxOf s c x
    let own := match v.frame with | some f => (f.words.length + 15) / 16 | none => 0
    n + own + (v.spec.map fun f => (f.words.length + 15) / 16).sum) 0

/-- Frames that the user contexts hold, predicted frames among them (R24). -/
def usedFrames (s : State) (c : Nat) : Nat :=
  userCtxs.foldl (fun n x =>
    let v := ctxOf s c x
    n + (if v.frame.isSome then 1 else 0) + v.spec.length) 0

/-- Whether user contexts have room for one more frame of so many chunks (R24). -/
def frameRoom (s : State) (c chunks : Nat) : Bool := decide (usedFrames s c < 7) && decide (usedChunks s c + chunks ≤ 14)

/-- The context with first claim on freed chunks: the one that has waited longest, then the lowest number (R25). -/
def firstClaim (s : State) (c : Nat) : Option Nat :=
  userCtxs.foldl (fun best x =>
    if wantsFrame s c x then
      match best with
      | none => some x
      | some y => if (ctxOf s c x).waitSince < (ctxOf s c y).waitSince then some x else some y
    else best) none

/-- The predicted frame of a successor with the frames predicted after it, if the context holds one (R25, R26). -/
def predicted (v : Context) (hdr : Nat) : Option (Frame × List Frame) :=
  match v.spec with
  | f :: rest => if f.hdr = hdr then some (f, rest) else none
  | [] => none

/-- A decode fault of the second fetch cycle is met before any instruction fires (R99). -/
def firstCycle (f : Frame) : Except BFault Frame :=
  match f.badWord with
  | some (1, e) => .error e
  | _ => .ok f

/-- The energy of the fetch of a block that starts: each 128-bit bank row of it once (R364; notes/assumptions/16.md). -/
def spendFetch (s : State) (c : Nat) : Except BFault Frame → State
  | .ok f => spend s c (1500 * ((7 + f.nread + f.words.length + f.lits.length) / 4))
  | .error _ => s

/-- A block begins in a context with the frames predicted after it (R32, R42): its frame is as the fetch left it, or its fault traps and the
predicted frames go (R139). -/
def beginBlock (s : State) (c x hdr : Nat) (keep : List Frame) (g : Except BFault Frame) : State :=
  match g with
  | .ok f =>
    let v := ctxOf s c x
    putCtx s c x { v with
      frame := some f
      spec := keep
      nopre := f.nopre
      nopreb := if f.nopre && v.nopre then v.nopreb else 65536 }
  | .error e =>
    let s := countEvent (countEvent (noteEcc s c e.cause) c x 4 1) c x 5 keep.length
    trapEntry s c x e.cause (wordOf hdr) e.taddr (tinfoWord false false e.slot e.lanes e.lsid) (some hdr) (some hdr)

/-- What a fetched block of a context meets before its first instruction fires: its read descriptors deliver, and the words of the second
fetch cycle are decoded (R78, R99). -/
def deliverReads (v : Context) (g : Except BFault Frame) : Except BFault Frame :=
  (g.bind fun f => readDescs v f 0 f.descs).bind firstCycle

/-- Starts the block at a context's pc (R21, R32, R42): its frame holds the words as fetched, or the words of its predicted frame
(R100). A header fault traps. -/
def startBlock (s : State) (c x : Nat) : State :=
  let v := ctxOf s c x
  match v.pc with
  | none => s
  | some hdr =>
    let n := nextStamp s c
    let s := n.1
    let p := predicted v hdr
    let keep := match p with | some q => q.2 | none => []
    let lost := match p with | some _ => 0 | none => v.spec.length
    let g := match p with
      | some q => .ok { q.1 with fmode := v.fmode }
      | none => fetchBlock s c x hdr n.2 v
    let s := if 0 < lost then countEvent s c x 5 lost else s
    let s := if p.isSome then s else spendFetch s c g
    beginBlock s c x hdr keep (deliverReads v g)

/-- Gives frames to waiting contexts while frames and chunks last (R24, R25). The first argument bounds the rounds: each context starts, or traps
and then starts or halts. -/
def claimFrames : Nat → State → Nat → State
  | 0, s, _ => s
  | n + 1, s, c =>
    match firstClaim s c with
    | none => s
    | some x =>
      let v := ctxOf s c x
      let room := match v.pc with
        | some h => (predicted v h).isSome || frameRoom s c (h0Chunks (readWord s (sramKey c h)))
        | none => true
      if room then claimFrames n (startBlock s c x) c else s

/-- The fault of a word that the fetch of a context's block has brought (R97, R99). -/
def dueWord (s : State) (c x : Nat) : Option BFault :=
  match (ctxOf s c x).frame with
  | some f =>
    match f.badWord with
    | some (n, e) => if 32 * n < f.fetched then some e else none
    | none => none
  | none => none

/-- Blocks fault for the words that the next cycle decodes, before any instruction fires in it (R99). -/
def lateDecodes (s : State) (c : Nat) : State :=
  allCtxs.foldl (fun s x => match dueWord s c x with | some e => blockFault (noteEcc s c e.cause) c x e | none => s) s

/-- After a step at a core: contexts at a boundary with nothing due start their next block. -/
def settleCore (s : State) (c : Nat) : State := claimFrames 12 (refreshReady (lateDecodes s c) c) c

end Sys2Proof.Machine
end

