-- ==== Sys2Proof/Machine/Operands.lean ====
section
/-! DEFINITION. Operand forms: the firing of an instruction with its operands, matching lanes and null rules (R27 to R30, R102,
R188), and effective addresses with their windows and checks (R159 to R164, R285 to R289). -/

namespace Sys2Proof.Machine

open Sys2Proof

/-! ### Firing -/

/-- What an instruction that fires reads: where it stands, its frame with the slot marked as fired, its context, its operands (all
null where unused), and the lanes that match (R28). -/
structure Env where
  c : Nat
  x : Nat
  slot : Nat
  f : Frame
  v : Context
  a : Val
  b : Val
  cc : Val
  m : Lanes Bool
  deriving DecidableEq, Repr

/-- Lanes that match (R28, R82). -/
def matching (pr : Pr) (p : Val) : Lanes Bool :=
  match pr with
  | .always => Lanes.all true
  | .onTrue => Lanes.ofFn fun i => match p.get i with | some w => w != 0 | none => false
  | .onFalse => Lanes.ofFn fun i => match p.get i with | some w => w == 0 | none => false

/-- Whether every operand position the instruction uses holds a value (R27). -/
def operandsHere (i : Instr) (o : Slot) : Bool :=
  (!usesA i || o.a.isSome) && (!usesB i || o.b.isSome) && (!usesC i || o.c.isSome) && (prOf i == .always || o.p.isSome)

/-- Stores, CLRPs, atomics and UPDs of the frame with an LSID below `n` that have not fired (R165). -/
def lowerUnfired (f : Frame) (n : Nat) : Bool :=
  (List.range f.words.length).any fun k =>
    match slotInstr f k with
    | some i =>
      (match memLsid i with
       | some l => decide (l < n)
       | none => false) && !(slotOf f k).fired
    | none => false

/-- Whether everything the frame must count is counted, except the LSIDs and registers of the two masks (R31, R178, R189). -/
def countedBut (f : Frame) (lsids lo hi : Word) : Bool :=
  ((f.h1 &&& ~~~f.counted) &&& ~~~lsids) == 0 && ((f.h2 &&& ~~~f.wroteLo) &&& ~~~lo) == 0 &&
  ((f.h3 &&& ~~~f.wroteHi) &&& ~~~hi) == 0 && f.exit.isSome

/-- Whether the frame has counted all it must (R31). -/
def complete (f : Frame) : Bool := countedBut f 0 0 0

/-- Whom a message will answer, or answers. -/
def bodyAsker : Body → Option Asker
  | .routed _ _ _ a => some a
  | .token _ a => some a
  | .mem r => some r.asker
  | .answer a => some a.asker
  | .barrier _ _ _ _ a => some a
  | .spawn m => some m.asker
  | .spawnAck m => some m.asker
  | .pulse _ a => some a
  | .killSet _ _ _ _ a => some a
  | .killClear _ _ a => some a
  | .mgmt _ a => some a
  | .register _ _ a _ => some a
  | .cfg _ _ a => some a
  | _ => none

/-- A body with the asker that it names changed. -/
def mapAsker (f : Asker → Asker) : Body → Body
  | .routed l sh t a => .routed l sh t (f a)
  | .token t a => .token t (f a)
  | .mem r => .mem { r with asker := f r.asker }
  | .confirm ks a => .confirm ks (f a)
  | .cancel ks a => .cancel ks (f a)
  | .answer a => .answer { a with asker := f a.asker }
  | .barrier n op w x a => .barrier n op w x (f a)
  | .spawn m => .spawn { m with asker := f m.asker }
  | .spawnAck m => .spawnAck { m with asker := f m.asker }
  | .pulse n a => .pulse n (f a)
  | .killSet x l e d a => .killSet x l e d (f a)
  | .killClear x l a => .killClear x l (f a)
  | .mgmt m a => .mgmt m (f a)
  | .register r v a l => .register r v (f a) l
  | .cfg op x a => .cfg op x (f a)
  | b => b

/-- Whether an asker holds reply reservations of core `c`: an instruction of one of its frames, or a stream unit (R259). -/
def asksFrom (c : Nat) : Asker → Bool
  | .frame d _ _ _ => d == c
  | .engine d _ => d == c
  | _ => false

/-- Adds an element to a list that does not hold it. -/
def addOnce {α : Type} [DecidableEq α] (l : List α) (a : α) : List α := if l.contains a then l else l ++ [a]

/-- Whether a message is a request that a core's own memory performs for it as a load, which needs no reply (R259). -/
def ownLoad (c : Nat) (m : Msg) : Bool :=
  m.dst == c && (match m.body with | .mem r => r.op == .load || r.op == .ldc | _ => false)

/-- Which of several requests of one instruction to one destination a body is (R182, R259): a UPD travels lane by lane, a register access
register by register, and a request to a peer export by export. -/
def bodyPart : Body → Nat
  | .mem r => (match r.op, r.lanes with | .upd _, l :: _ => l.lane | _, _ => r.exportNo)
  | .register _ _ _ lane => lane
  | _ => 0

/-- Replies still to come to core `c`, each as who awaits it, from where, and for which of its requests there (R259): those of requests that
travel or stand at an owner, and those of operations of point Reply that are yet to depart. -/
def replyPairs (s : State) (c : Nat) : List (Asker × Nat × Nat) :=
  let flying := s.net.filterMap fun m =>
    match m.body with
    | .answer a => some (a.asker, m.src, a.part)
    | b => if ownLoad c m then none else (bodyAsker b).map fun a => (a, m.dst, bodyPart b)
  let standing := s.cells.flatMap fun p =>
    let k := p.2.core
    (if p.1 = c then [] else (k.waiters.filter fun w => w.kind != .take).map fun w => (w.asker, p.1, 0)) ++
    (k.updQ.map fun u => (u.r.asker, p.1, 0)) ++ ((k.updTok ++ k.updCur.toList).map fun u => (u.r.asker, p.1, u.lane.lane))
  let unsent := [0, 1, 2, 3].flatMap fun x =>
    match (ctxOf s c x).frame with
    | some f => f.waits.flatMap fun w => w.unsent.map fun u => (Asker.frame c x f.serial w.slot, u.1, bodyPart u.2)
    | none => []
  ((flying ++ standing ++ unsent).filter fun p => asksFrom c p.1).foldl addOnce []

/-- Reply reservations that a core has taken (R259). -/
def replyCount (s : State) (c : Nat) : Nat := (replyPairs s c).length

/-- Whether `n` of a core's 64 reply reservations are free (R259). -/
def replyRoom (s : State) (c n : Nat) : Bool := decide (replyCount s c + n ≤ 64)

/-- Whether an instruction is armed: its word fetched, not fired, with its operands here, and, for a load, with the lower memory operations of its
block fired (R27, R97, R165). -/
def armed (f : Frame) (slot : Nat) (i : Instr) : Bool :=
  let o := slotOf f slot
  decide (slot < f.words.length) && wordHere f slot i && !o.fired && operandsHere i o &&
  (match loadLsid i with
   | some n => !lowerUnfired f n
   | none => true)

/-- The frame with a slot marked as fired. -/
def markFired (f : Frame) (slot : Nat) : Frame :=
  { f with slots := Tbl.put f.slots slot { slotOf f slot with fired := true } }

/-- The environment of a firing instruction. -/
def envOf (s : State) (v : Context) (f : Frame) (i : Instr) : Env :=
  let n := s.focus.slot
  let o := slotOf f n
  { c := s.focus.cell
    x := s.focus.ctx
    slot := n
    f := markFired f n
    v := v
    a := if usesA i then o.a.getD Val.allNull else Val.allNull
    b := if usesB i then o.b.getD Val.allNull else Val.allNull
    cc := if usesC i then o.c.getD Val.allNull else Val.allNull
    m := matching (prOf i) (o.p.getD Val.allNull) }

/-- Register bits of a W target in H2 (R77). -/
def targetLo (t : Target) : Word := match t with | .w r => if r.toNat < 32 then wordOf (2 ^ r.toNat) else 0 | _ => 0

/-- Register bits of a W target in H3 (R77). -/
def targetHi (t : Target) : Word := match t with | .w r => if r.toNat < 32 then 0 else wordOf (2 ^ (r.toNat - 32)) | _ => 0

/-- The operation of point Reply of a frame that may depart: everything else of its block has counted, and no word of it is left to fetch or
to fault, since a block that faults has no effect (R32, R97, R178, R189). -/
def departing (f : Frame) : Option Waiting :=
  if allDecoded f then
    (f.waits.find? fun w => !w.unsent.isEmpty).bind fun w =>
      let own : Word := match w.lsid with | some n => wordOf (2 ^ n) | none => 0
      if countedBut f own (targetLo w.t0) (targetHi w.t0) then some w else none
  else none

/-- The operation of point Reply of a frame departs once it may (R178, R189). -/
def departReply (s : State) (c x : Nat) : State :=
  match (ctxOf s c x).frame with
  | none => s
  | some f =>
    match departing f with
    | none => s
    | some w =>
      let f := { f with waits := f.waits.map fun u => if u.slot = w.slot then { u with unsent := [] } else u }
      w.unsent.foldl (fun s m => post s c m.1 0 m.2) (putFrame s c x f)

/-- Femtojoules of an issue, V-class or M-class (R364). -/
def issueCost (ev : Nat) : Nat := if ev = 1 then 1800 else 2400

/-- Fires the instruction in focus if it is armed and its gate is open; otherwise it waits (R27, R189). `ev` is the issue event of
its class (R36, R139). -/
def fireGate (s : State) (i : Instr) (ev : Nat) (gate : State → Env → Bool) (k : State → Env → State) :
    Host.Outcome State Fault Refusal :=
  let v := ctxOf s s.focus.cell s.focus.ctx
  match v.frame with
  | none => .fault .noFrame
  | some f =>
    let e := envOf s v f i
    if armed f s.focus.slot i && gate s e then
      .next (settleCore (departReply (k (spendIssue (countEvent s e.c e.x ev 1) e.c (issueCost ev)) e) e.c e.x) e.c)
    else .next s

/-- Fires the instruction in focus if it is armed (R27). -/
def fire (s : State) (i : Instr) (ev : Nat) (k : State → Env → State) : Host.Outcome State Fault Refusal :=
  fireGate s i ev (fun _ _ => true) k

/-- Ends a firing: the frame stands, or the block faults. -/
def finish (s : State) (e : Env) (r : Except BFault Frame) : State :=
  match r with
  | .ok f => putFrame s e.c e.x f
  | .error b => blockFault (putFrame s e.c e.x e.f) e.c e.x b

/-- Delivers a value and raises flags (R50, R102). -/
def produce (s : State) (e : Env) (ts : List Target) (r : Val × Word) : State :=
  finish s e (deliverAll { e.f with flags := e.f.flags ||| r.2 } (slotAddr e.f e.slot) e.slot r.1 ts)

/-- A V-class instruction of format G: its value goes to T0 and T1. -/
def fireG (s : State) (i : Instr) (g : GF) (f : Env → Val × Word) : Host.Outcome State Fault Refusal :=
  fire s i 1 fun s e => produce s e [g.t0, g.t1] (f e)

/-- A V-class instruction with one target. -/
def fireT (s : State) (i : Instr) (t : Target) (f : Env → Val × Word) : Host.Outcome State Fault Refusal :=
  fire s i 1 fun s e => produce s e [t] (f e)

/-- The lanes that `f` gives where they match, with no flag. -/
def laneVal (e : Env) (f : Nat → Option Word) : Val := Lanes.ofFn fun i => if e.m.get i then f i else none

/-- The template of R102 over one operand. -/
def map1 (e : Env) (f : Word → Word) : Val × Word := (laneVal e fun i => (e.a.get i).map f, 0)

/-- The template of R102 over two operands. -/
def map2 (e : Env) (f : Word → Word → Word) : Val × Word :=
  (laneVal e fun i => match e.a.get i, e.b.get i with | some a, some b => some (f a b) | _, _ => none, 0)

/-- The template of R102 over three operands. -/
def map3 (e : Env) (f : Word → Word → Word → Word) : Val × Word :=
  (laneVal e fun i =>
    match e.a.get i, e.b.get i, e.cc.get i with | some a, some b, some c => some (f a b c) | _, _, _ => none, 0)

/-- The lanes of a computation that raises flags, and the union of the flags (R50, R141). -/
def flagged (e : Env) (f : Nat → Option (Word × Word)) : Val × Word :=
  let r := Lanes.ofFn fun i => if e.m.get i then f i else none
  (Lanes.ofFn fun i => (r.get i).map fun p => p.1, (r.toList.filterMap fun p => p.map fun q => q.2).foldl (· ||| ·) 0)

/-- The template of R141 over one operand. -/
def fmap1 (e : Env) (f : Word → Word × Word) : Val × Word := flagged e fun i => (e.a.get i).map f

/-- The template of R141 over two operands. -/
def fmap2 (e : Env) (f : Word → Word → Word × Word) : Val × Word :=
  flagged e fun i => match e.a.get i, e.b.get i with | some a, some b => some (f a b) | _, _ => none

/-- The template of R141 over three operands. -/
def fmap3 (e : Env) (f : Word → Word → Word → Word × Word) : Val × Word :=
  flagged e fun i => match e.a.get i, e.b.get i, e.cc.get i with | some a, some b, some c => some (f a b c) | _, _, _ => none

/-- A side effect: its act or its fault at firing, then its counting (R29, R32). -/
def fireQ (s : State) (i : Instr) (lsid : BitVec 5) (f : State → Env → Except BFault Act) : Host.Outcome State Fault Refusal :=
  fire s i 2 fun s e =>
    match f s e with
    | .ok a => finish s e (countEffect e.f e.slot lsid.toNat a)
    | .error b => finish (noteEcc s e.c b.cause) e (.error b)

/-- Whether any lane matches: when a function without operands acts (R175, R188). -/
def anyMatch (e : Env) : Bool := e.m.toList.any id

/-- The acting lane over operand A (R188). -/
def actA (e : Env) : Option (Nat × Word) :=
  laneNums.findSome? fun i => if e.m.get i then (e.a.get i).map fun a => (i, a) else none

/-- The acting lane over operands A and B (R188). -/
def actAB (e : Env) : Option (Nat × Word × Word) :=
  laneNums.findSome? fun i =>
    if e.m.get i then (match e.a.get i, e.b.get i with | some a, some b => some (i, a, b) | _, _ => none) else none

/-- A fault at firing. -/
def ferr (e : Env) (lsid : BitVec 5) (cause : Cause) (taddr : Word) (lanes : Nat := 0) : BFault :=
  { cause := cause, taddr := taddr, slot := e.slot, lanes := lanes, lsid := lsid.toNat }

/-- A scalar function over A: its act when it has an acting lane, nothing otherwise. -/
def fireQ1 (s : State) (i : Instr) (lsid : BitVec 5) (f : State → Env → Nat → Word → Except BFault Act) :
    Host.Outcome State Fault Refusal :=
  fireQ s i lsid fun s e =>
    match actA e with
    | some (l, a) => f s e l a
    | none => .ok .nothing

/-- A scalar function over A and B. -/
def fireQ2 (s : State) (i : Instr) (lsid : BitVec 5) (f : State → Env → Nat → Word → Word → Except BFault Act) :
    Host.Outcome State Fault Refusal :=
  fireQ s i lsid fun s e =>
    match actAB e with
    | some (l, a, b) => f s e l a b
    | none => .ok .nothing

/-- A scalar function without operands. -/
def fireQ0 (s : State) (i : Instr) (lsid : BitVec 5) (f : State → Env → Except BFault Act) : Host.Outcome State Fault Refusal :=
  fireQ s i lsid fun s e => if anyMatch e then f s e else .ok .nothing

/-- An E function: its word in every matching lane, or all null without an acting lane (R188). -/
def fireE (s : State) (i : Instr) (t : Target) (f : State → Env → Except BFault (Option Word)) :
    Host.Outcome State Fault Refusal :=
  fire s i 2 fun s e =>
    match f s e with
    | .ok w => produce s e [t] (laneVal e fun _ => w, 0)
    | .error b => finish s e (.error b)

/-! ### Windows -/

/-- The window entry of an effective address (R159). -/
def winOf (v : Context) (ea : Word) : Win := Tbl.get {} v.wins (bits ea 28 4)

/-- KIND of a window (R285, R408, R429). -/
def winKind (w : Win) : WinKind :=
  match bits w.w0 28 3 with
  | 0 => .sram | 1 => .loft | 2 => .cell | 3 => .spread | 4 => .host | 5 => .peer | 6 => .mgmt | _ => .port

/-- MODE of a window (R285, R289). -/
def winMode (w : Win) : WinMode :=
  match bits w.w0 26 2 with
  | 0 => .random | 1 => .stream | 2 => .presence | _ => .update

/-- Whether a window is local (R159). -/
def isLocal (w : Win) : Bool := winKind w == .sram || winKind w == .loft

/-- Accesses that the table of R161 tells apart. -/
inductive Acc where
  | ldw | load | ldc | clrp | stw | stFull | stPart | amo (op : AmoOp) | cas | upd
  deriving DecidableEq, Repr

/-- Whether an access writes (R160). -/
def accWrites : Acc → Bool
  | .ldw => false | .load => false | _ => true

/-- Whether a window's kind and mode permit an access (R161, R408, R429). -/
def accPermitted (w : Win) (a : Acc) : Bool :=
  let k := winKind w
  let m := winMode w
  let owned := k == .sram || k == .loft || k == .cell || k == .spread
  let reg := k == .mgmt || k == .port
  match a with
  | .ldw => true
  | .stw => true
  | .load => !reg
  | .stFull => !reg
  | .stPart => !reg && m != .presence
  | .ldc => owned && m == .presence
  | .clrp => owned && m == .presence
  | .amo op => (owned && m == .update) || (k == .peer && (op == .add || op == .and || op == .or || op == .xor || op == .swap))
  | .cas => (owned && m == .update) || k == .peer
  | .upd => owned && m == .update

/-- The checks of R160 in order, on one lane; a bay controller that names another bay meets PROT (R408). -/
def accCheck (c : Nat) (w : Win) (a : Acc) (ea : Word) (size : Nat) : Option Cause :=
  if !bit w.w0 31 then some .window
  else if !accPermitted w a then some .window
  else if accWrites a && bit w.w0 25 then some .prot
  else if winKind w = .mgmt ∧ isBayCore c ∧ bits ea 18 10 ≠ bayOf c then some .prot
  else if bits ea 0 28 % size ≠ 0 then some .align
  else if bits w.w2 0 28 < bits ea 0 28 + size then some .bounds
  else none

/-- Where an access is performed. -/
inductive Place where
  | mem (key : Nat) | host (addr : Nat) | peer (handle exportNo offset : Nat) | reg (r : RegName) | nowhere
  deriving DecidableEq, Repr

/-- A key in a core's SRAM or loft. -/
def memKey (c : Nat) (loft : Bool) (addr : Nat) : Nat := if loft then loftKey c (addr % 2 ^ 21) else sramKey c (addr % sramSize c)

/-- The management register of an MGMT offset (R408). -/
def mgmtReg (o : Word) : RegName :=
  if bit o 17 then .bay (bits o 18 10) (bits o 0 7)
  else .cell (bits o 18 10 * 1024 + bits o 12 5 * 32 + bits o 7 5) (bits o 0 7)

/-- Translation of an offset (R287). -/
def translate (s : State) (c : Nat) (w : Win) (o : Nat) : Place :=
  let base := w.base.toNat
  let loft := bit w.w0 23
  match winKind w with
  | .sram => .mem (memKey c false (base + o))
  | .loft => .mem (memKey c true (base + o))
  | .cell =>
    match coreOffset s c (signed (bits w.param 0 11) 11) (signed (bits w.param 11 11) 11) with
    | some d => .mem (memKey d loft (base + o))
    | none => .nowhere
  | .spread =>
    let g := 2 ^ bits w.param 20 4
    let sw := bits w.w0 0 10 + 1
    let n := sw * (bits w.w0 10 10 + 1)
    let blk := o / g
    let m := blk % n
    match regionCell s c (bits w.param 0 10 + m % sw) (bits w.param 10 10 + m / sw) with
    | some d => .mem (memKey d loft (base + blk / n * g + o % g))
    | none => .nowhere
  | .host => .host ((w.param.toNat * 2 ^ 32 + base + o) % 2 ^ 64)
  | .peer => .peer (bits w.param 0 16) (bits w.w0 0 20) (base + o)
  | .mgmt => .reg (mgmtReg (wordOf o))
  | .port => .reg (.port (80 * (c - 1049600) + bits (wordOf o) 8 7) (bits (wordOf o) 0 8))

/-- A lane of an access after its checks. -/
structure LaneAcc where
  lane : Nat
  ea : Word
  w : Win
  place : Place
  deriving DecidableEq, Repr

/-- Checks and translates the lanes of an access. `at_` is the address whose alignment and bounds are checked for the lane, `off`
what the lane adds to it (R160 to R162). DESIGN CHOICE: LANES joins the lanes whose cause is the one recorded, whichever check gave it (R162;
notes/assumptions/93.md). -/
def accLanes (s : State) (e : Env) (lsid : BitVec 5) (a : Acc) (size : Nat) (ls : List (Nat × Word × Nat)) :
    Except BFault (List LaneAcc) :=
  let met := ls.filterMap fun l => (accCheck e.c (winOf e.v l.2.1) a l.2.1 size).map fun k => (l.1, l.2.1 + wordOf l.2.2, k)
  match met with
  | (_, ea, k) :: _ => .error (ferr e lsid k ea (lanesMask ((met.filter fun m => m.2.2 == k).map fun m => m.1)))
  | [] => .ok (ls.map fun l =>
      let w := winOf e.v l.2.1
      { lane := l.1, ea := l.2.1 + wordOf l.2.2, w := w, place := translate s e.c w (bits l.2.1 0 28 + l.2.2) })

/-- Lane addresses of the per-lane forms: lanes that match with A non-null and, where given, B and C (R159, R163, R170). -/
def eachLane (e : Env) (imm : BitVec 8) (unit : Nat) (needB needC : Bool) : List (Nat × Word × Nat) :=
  laneNums.filterMap fun i =>
    match e.a.get i with
    | some a =>
      if e.m.get i && (!needB || (e.b.get i).isSome) && (!needC || (e.cc.get i).isSome) then
        some (i, a + wordOf (imm.toNat * unit), 0)
      else none
    | none => none

/-- Lane addresses of LDV and STV: 32 consecutive aligned bytes from the base lane (R164, R171). -/
def vecLanes (e : Env) (imm : BitVec 8) (take : Nat → Bool) : List (Nat × Word × Nat) :=
  match actA e with
  | some (_, a) => (laneNums.filter fun i => e.m.get i && take i).map fun i => (i, a + wordOf (imm.toNat * 32), 4 * i)
  | none => []

/-- Lane addresses of LDVS and STVS: the stride is that of the base lane, non-null and a multiple of 4 (R164, R171). The
fault names the base lane and its address, with a null stride taken as zero (R162; notes/assumptions/68.md). -/
def strideLanes (e : Env) (lsid : BitVec 5) (imm : BitVec 8) (stride : Val) (take : Nat → Bool) :
    Except BFault (List (Nat × Word × Nat)) :=
  match actA e with
  | some (l, a) =>
    match stride.get l with
    | some d =>
      if d.toNat % 4 = 0 then
        .ok ((laneNums.filter fun i => e.m.get i && take i).map fun i =>
          (i, a + wordOf (imm.toNat * 4) + wordOf i * d, 0))
      else .error (ferr e lsid .align (a + wordOf (imm.toNat * 4) + wordOf l * d) (2 ^ l))
    | none => .error (ferr e lsid .align (a + wordOf (imm.toNat * 4)) (2 ^ l))
  | none => .ok []

/-! ### Order of side effects -/

/-- Inserts a side effect in LSID order. -/
def insertEff (e : Eff) : List Eff → List Eff
  | [] => [e]
  | h :: t => if e.lsid < h.lsid then e :: h :: t else h :: insertEff e t

/-- Side effects in LSID order (R33). -/
def sortEffs (l : List Eff) : List Eff := l.foldr insertEff []

end Sys2Proof.Machine
end

