-- ==== Sys2Proof/Machine/Sys.lean ====
section
/-! DEFINITION. The SYS group at firing (R95, R227, R228): privilege, management addresses, and what departs at commit. -/

namespace Sys2Proof.Machine

open Sys2Proof

/-- AUX of a management address (R228). -/
def maAux (a : Word) : Nat := bits a 23 8
/-- CTX of a management address (R228). -/
def maCtx (a : Word) : Nat := bits a 20 3
/-- The core of the cell that a management address names (R228, R453). -/
def maCell (a : Word) : Nat := bits a 0 10 * 1024 + bits a 15 5 * 32 + bits a 10 5

/-- Whether a field that R228 keeps at zero for function `fn` is set. -/
def maReserved (fn : Nat) (a : Word) : Bool :=
  bit a 31 || (if fn = 43 then false else if fn = 42 then bits a 27 4 != 0 else maAux a != 0)

/-- PRIV unless a bay controller or a sill processor fires the function, whatever its lanes (R95). -/
def privileged (e : Env) (lsid : BitVec 5) (r : Except BFault Act) : Except BFault Act :=
  if isMgmtCore e.c then r else .error (ferr e lsid .priv 0)

/-- A management function that departs at commit (R228). -/
def mgmtAct (e : Env) (lsid : BitVec 5) (fn sub : Nat) (reply : BitVec 8) (l : Nat) (a b : Word) : Except BFault Act :=
  if maReserved fn a || (isBayCore e.c && bits a 0 10 != bayOf e.c) then .error (ferr e lsid .prot a (2 ^ l))
  else .ok (.mgmt {
    fn := fn
    sub := sub
    addr := a
    b := b
    core := e.c
    reply := reply.toNat
    sill := !isBayCore e.c })

/-- Fires a SYS function whose operand is a management address (R228). -/
def fireMgmt1 (s : State) (i : Instr) (q : LF) (fn sub : Nat) (reply : BitVec 8) : Host.Outcome State Fault Refusal :=
  fireQ s i q.lsid fun _ e => privileged e q.lsid (
    match actA e with
    | none => .ok .nothing
    | some (l, a) => mgmtAct e q.lsid fn sub reply l a 0)

/-- Fires a SYS function with an address and a word (R228); `bad` tells the words that fault ILLEGAL. -/
def fireMgmt2 (s : State) (i : Instr) (q : LF) (fn sub : Nat) (reply : BitVec 8) (bad : Word → Bool) :
    Host.Outcome State Fault Refusal :=
  fireQ s i q.lsid fun _ e => privileged e q.lsid (
    match actAB e with
    | none => .ok .nothing
    | some (l, a, b) =>
      if bad b then .error (ferr e q.lsid .illegal (wordOf (slotAddr e.f e.slot)) (2 ^ l))
      else mgmtAct e q.lsid fn sub reply l a b)

/-- CUT (R228, R384). -/
def execCut (q : LF) (reply : BitVec 8) (sub : BitVec 1) (s : State) : Host.Outcome State Fault Refusal :=
  fireMgmt1 s (.cut q reply sub) q 33 sub.toNat reply

/-- SAVE (R228, R394). -/
def execSave (q : LF) (reply : BitVec 8) (s : State) : Host.Outcome State Fault Refusal :=
  fireMgmt1 s (.save q reply) q 34 0 reply

/-- RESTORE (R228, R396). -/
def execRestore (q : LF) (reply : BitVec 8) (sub : BitVec 1) (s : State) : Host.Outcome State Fault Refusal :=
  fireMgmt1 s (.restore q reply sub) q 35 sub.toNat reply

/-- SCRIBE (R228, R423). -/
def execScribe (q : LF) (reply : BitVec 8) (s : State) : Host.Outcome State Fault Refusal :=
  fireMgmt2 s (.scribe q reply) q 36 0 reply fun _ => false

/-- SFLIP (R228, R424). -/
def execSflip (q : LF) (reply : BitVec 8) (sub : BitVec 1) (s : State) : Host.Outcome State Fault Refusal :=
  fireMgmt1 s (.sflip q reply sub) q 37 sub.toNat reply

/-- SELFTEST (R228, R403): a reserved bit of the test set faults ILLEGAL. -/
def execSelftest (q : LF) (reply : BitVec 8) (s : State) : Host.Outcome State Fault Refusal :=
  fireMgmt2 s (.selftest q reply) q 38 0 reply fun b => bits b 7 25 != 0

/-- SISTER (R228, R399). -/
def execSister (q : LF) (reply : BitVec 8) (sub : BitVec 1) (s : State) : Host.Outcome State Fault Refusal :=
  fireMgmt2 s (.sister q reply sub) q 39 sub.toNat reply fun _ => false

/-- TAKEOVER (R228, R402). -/
def execTakeover (q : LF) (reply : BitVec 8) (s : State) : Host.Outcome State Fault Refusal :=
  fireMgmt1 s (.takeover q reply) q 40 0 reply

/-- CLKSEL (R228, R278, R370). -/
def execClksel (q : LF) (reply : BitVec 8) (sub : BitVec 1) (s : State) : Host.Outcome State Fault Refusal :=
  fireMgmt2 s (.clksel q reply sub) q 41 sub.toNat reply fun _ => false

/-- WINSET (R228, R286, R288). -/
def execWinset (q : LF) (reply : BitVec 8) (s : State) : Host.Outcome State Fault Refusal :=
  fireMgmt2 s (.winset q reply) q 42 0 reply fun _ => false

/-- BINDSET (R228, R13). -/
def execBindset (q : LF) (reply : BitVec 8) (s : State) : Host.Outcome State Fault Refusal :=
  fireMgmt2 s (.bindset q reply) q 43 0 reply fun _ => false

/-- SETTLE (R227): at trap level 0 it faults ILLEGAL when it acts. -/
def execSettle (q : LF) (entry : BitVec 5) (verdict : Verdict) (s : State) : Host.Outcome State Fault Refusal :=
  fireQ0 s (.settle q entry verdict) q.lsid fun _ e =>
    if e.v.tl then .ok (.settle entry.toNat verdict)
    else .error (ferr e q.lsid .illegal (wordOf (slotAddr e.f e.slot)))

end Sys2Proof.Machine
end

