-- ==== Sys2Proof/Machine/Cfg.lean ====
section
/-! DEFINITION. The CFG group at firing (R229 to R232, R362). -/

namespace Sys2Proof.Machine

open Sys2Proof

/-- Whether a region drains (R270). -/
def regionDraining (g : Region) : Bool := g.st == .draining

/-- Whether a MAPSEL of a region waits or drains it (R232). -/
def mapselPending (g : Region) : Bool :=
  g.selects.any fun q => match q.op with | .mapsel _ _ _ => true | _ => false

/-- The word CFGSTAT delivers (R232). -/
def cfgWord (v : Context) (g : Region) : Word :=
  wordOf (v.cfgOut % 256 + (if regionDraining g then 256 else 0) + g.mapping % 4 * 512 + (if mapselPending g then 2048 else 0))

/-- CFGSTAT (R232). -/
def execCfgstat (q : EF) (s : State) : Host.Outcome State Fault Refusal :=
  fireE s (.cfgstat q) q.t0 fun s e =>
    if anyMatch e then
      .ok (some (cfgWord e.v (match regionOf s e.c with | some r => regionAt s r | none => {})))
    else .ok none

/-- CFGREQ (R229). DESIGN CHOICE: B[31:24], which R229 wants zero, is not looked at (notes/assumptions/82.md). -/
def execCfgreq (q : LF) (grant : BitVec 8) (s : State) : Host.Outcome State Fault Refusal :=
  fireQ2 s (.cfgreq q grant) q.lsid fun _ _ _ a b => .ok (.cfg (.request (bits a 0 16) b grant.toNat))

/-- CFGREL (R229). -/
def execCfgrel (q : LF) (reply : BitVec 8) (s : State) : Host.Outcome State Fault Refusal :=
  fireQ1 s (.cfgrel q reply) q.lsid fun _ _ _ a => .ok (.cfg (.release a reply.toNat))

/-- MAPSEL is privileged (R95, R231). -/
def execMapsel (q : LF) (map : BitVec 2) (reply : BitVec 8) (s : State) : Host.Outcome State Fault Refusal :=
  fireQ s (.mapsel q map reply) q.lsid fun _ e => privileged e q.lsid (
    match actA e with
    | none => .ok .nothing
    | some (_, a) => .ok (.cfg (.mapsel a map.toNat reply.toNat)))

/-- SPAWN (R230): C is read from lanes 0 and 1, whether or not they match. DESIGN CHOICE: a misaligned A is reported ahead of a rectangle outside the
region (R374; notes/assumptions/93.md). -/
def execSpawn (q : LF) (ctx : BitVec 3) (cls : BitVec 2) (s : State) : Host.Outcome State Fault Refusal :=
  fireQ s (.spawn q ctx cls) q.lsid fun s e =>
    match actAB e, e.cc.l0, e.cc.l1 with
    | some (l, a, b), some o, some wh =>
      let p := (cellOf s e.c).regpos
      let x := (bits p 0 16 : Int) + signed (bits o 0 16) 16
      let y := (bits p 16 16 : Int) + signed (bits o 16 16) 16
      let w := bits wh 0 16 + 1
      let h := bits wh 16 16 + 1
      if bits a 0 4 ≠ 0 then .error (ferr e q.lsid .align a (2 ^ l))
      else
        match regionOf s e.c with
        | none => .error (ferr e q.lsid .bounds o (2 ^ l))
        | some r =>
          let g := regionAt s r
          if 0 ≤ x ∧ 0 ≤ y ∧ x + w ≤ g.w ∧ y + h ≤ g.h then
            match regionCell s e.c x.toNat y.toNat with
            | some d =>
              let m : SpawnMsg := {
                ctx := ctx.toNat
                cls := cls.toNat
                hdr := a.toNat
                arg := b
                x := 0
                y := 0
                w := w
                h := h
                asker := .nobody }
              .ok (.spawn m d o)
            | none => .error (ferr e q.lsid .bounds o (2 ^ l))
          else .error (ferr e q.lsid .bounds o (2 ^ l))
    | _, _, _ => .ok .nothing

end Sys2Proof.Machine
end

