-- ==== Sys2Proof/Config.lean ====
section
/-! DEFINITION. What the spec names and does not describe, as constants with no body (notes/assumptions/5.md and 7.md): nothing can
be proved about the value of one, so a claim about the machine holds whatever it is. -/

namespace Sys2Proof.Config

/-- Whether a signature over a message verifies under the key that the first list gives (R410, R422: ML-DSA-87). -/
opaque signatureOk : List Byte → List Byte → List Byte → Bool

/-- The bay key that the sill processor certifies at boot (R422). -/
opaque bayKey : Nat → List Byte

/-- The boot ROM, which no write can change (R410). -/
opaque bootRom : List Byte

/-- The device identity key, derived from the fused seed (R412). -/
opaque identityKey : List Byte → List Byte

/-- The attestation key, derived from the seed and AR0 to AR2 (R412). -/
opaque attestationKey : List Byte → List Byte → List Byte

/-- The public part of a key (R412). -/
opaque publicKey : List Byte → List Byte

/-- A signature with a key, the first list, over a message (R412, R413). -/
opaque sign : List Byte → List Byte → List Byte

/-- A fresh ML-KEM-1024 encapsulation key (R413), by the number of the step that makes it. -/
opaque encapsulationKey : Nat → List Byte

/-- The shared secret of a ciphertext under an encapsulation key, or none when decapsulation fails (R414). -/
opaque decapsulate : List Byte → List Byte → Option (List Byte)

/-- The key of one direction of the TSS association at a port, derived from a shared secret with SHAKE256 (R414): outgoing where the flag is false;
the input layout of the derivation is not given. -/
opaque linkKey : List Byte → Nat → Bool → List Byte

/-- The bridge port that a core's requests to the host pass (R306, R418). -/
opaque bridgePort : Nat → Nat

/-- Byte of the last token of a send that its message does not reach (R437), by step and place. -/
opaque padByte : Nat → Nat → Byte

/-- Femtojoules, by step, of what R364 counts where the spec does not give the number of events: flits of messages other than tokens, operand
bits that matrix multiplier cells see change, pre-adders, additions at a readout, and accesses other than those that
notes/assumptions/16.md counts. -/
opaque openEnergy : Nat → Nat

/-- Whether a client certificate is one that a root certificate of the module's sill flash vouches for (R442): TLS 1.3 decides that. -/
opaque certOk : List Byte → List Byte → Bool

/-- Microseconds since module reset at the step numbered by the argument (R226: the age of a path's sample). -/
opaque micros : Nat → Nat

/-- Whether the scribe finds an embedding of a bay's 900 logical cells round the defective cells that the list gives by their router number
(R444). -/
opaque embeds : List Nat → Bool

/-- Seconds since module reset at the step numbered by the argument (R443: LASTREP). -/
opaque seconds : Nat → Nat

/-- A 48-bit accumulator value that the spec does not state (R336: a classical run into rows 16 to 31 of a recombination tile), by
step and element. -/
opaque freeAccumulator : Nat → Nat → Nat

/-- The sign and the fraction of a NaN in the wide accumulator format, which R65 leaves open but for a fraction of zero, by step. -/
opaque freeNanFraction : Nat → Nat

/-- The scale code that a FIXED policy with SCALE 0xFF stands for, which R53 shuts out and no rule replaces, by word 5 of the descriptor. -/
opaque freeScale : Nat → Nat

end Sys2Proof.Config
end

