-- ==== Sys2Proof/Machine/Hash.lean ====
section
/-! DEFINITION. The checksums and digests that the spec names: CRC-16 (R224), CRC-32 (R423), SHA3-384 (R411, R422). The last two are
the published algorithms of those names (notes/assumptions/7.md). -/

namespace Sys2Proof.Machine

open Sys2Proof

/-- One bit of a most-significant-bit-first CRC of width 16. -/
def crc16Bits : Nat → Nat → Nat
  | 0, r => r
  | k + 1, r => crc16Bits k (if r / 2 ^ 15 % 2 = 1 then Nat.xor (r * 2 % 2 ^ 16) 0x1021 else r * 2 % 2 ^ 16)

/-- CRC-16 with polynomial 0x1021, from register `r` (R224). -/
def crc16From : Nat → List Byte → Nat
  | r, [] => r
  | r, b :: bs => crc16From (crc16Bits 8 (Nat.xor r (b.toNat * 2 ^ 8))) bs

/-- The digest of a descriptor (R224): initial value 0xFFFF. -/
def crc16 (bs : List Byte) : Nat := crc16From 0xFFFF bs

/-- Bits of a least-significant-bit-first CRC-32. -/
def crc32Bits : Nat → Nat → Nat
  | 0, r => r
  | k + 1, r => crc32Bits k (if r % 2 = 1 then Nat.xor (r / 2) 0xEDB88320 else r / 2)

/-- CRC-32 from register `r`. -/
def crc32From : Nat → List Byte → Nat
  | r, [] => r
  | r, b :: bs => crc32From (crc32Bits 8 (Nat.xor r b.toNat)) bs

/-- CRC-32 of a bank image (R423). -/
def crc32 (bs : List Byte) : Nat := Nat.xor (crc32From 0xFFFFFFFF bs) 0xFFFFFFFF

/-! ### Keccak -/

/-- Left rotation of a 64-bit lane. -/
def rol64 (x k : Nat) : Nat := if k = 0 then x else x * 2 ^ k % 2 ^ 64 + x / 2 ^ (64 - k)

/-- Lane (x, y) of a state of 25 lanes. -/
def kLane (a : List Nat) (x y : Nat) : Nat := (a[x % 5 + 5 * (y % 5)]?).getD 0

/-- The state whose lanes `f` gives. -/
def kMake (f : Nat → Nat → Nat) : List Nat := (List.range 25).map fun i => f (i % 5) (i / 5)

/-- Rotation distances of rho, by lane. -/
def kRho : List Nat := [0, 1, 62, 28, 27, 36, 44, 6, 55, 20, 3, 10, 43, 25, 39, 41, 45, 15, 21, 8, 18, 2, 61, 56, 14]

/-- Round constants of iota. -/
def kRound : List Nat :=
  [0x1, 0x8082, 0x800000000000808A, 0x8000000080008000, 0x808B, 0x80000001, 0x8000000080008081, 0x8000000000008009, 0x8A, 0x88,
   0x80008009, 0x8000000A] ++
  [0x8000808B, 0x800000000000008B, 0x8000000000008089, 0x8000000000008003, 0x8000000000008002, 0x8000000000000080, 0x800A,
   0x800000008000000A, 0x8000000080008081, 0x8000000000008080, 0x80000001, 0x8000000080008008]

/-- One round of Keccak-f. -/
def kStep (a : List Nat) (rc : Nat) : List Nat :=
  let cols := (List.range 5).map fun x =>
    [1, 2, 3, 4].foldl (fun v y => Nat.xor v (kLane a x y)) (kLane a x 0)
  let g (i : Nat) : Nat := (cols[i % 5]?).getD 0
  let t := kMake fun x y => Nat.xor (kLane a x y) (Nat.xor (g (x + 4)) (rol64 (g (x + 1)) 1))
  let b := kMake fun x y =>
    let u := x + 3 * y
    rol64 (kLane t u x) ((kRho[u % 5 + 5 * (x % 5)]?).getD 0)
  let n := kMake fun x y =>
    Nat.xor (kLane b x y) (Nat.land (2 ^ 64 - 1 - kLane b (x + 1) y) (kLane b (x + 2) y))
  match n with
  | h :: r => Nat.xor h rc :: r
  | [] => []

/-- Keccak-f. -/
def kF (a : List Nat) : List Nat := kRound.foldl kStep a

/-- Lanes of a block of bytes. -/
def kLanes : Nat → List Byte → List Nat
  | 0, _ => []
  | n + 1, bs => (bs.take 8).foldr (fun b v => b.toNat + 256 * v) 0 :: kLanes n (bs.drop 8)

/-- Absorbs one padded block. -/
def kAbsorb (a : List Nat) (block : List Byte) : List Nat :=
  kF ((a.zip (kLanes 25 block)).map fun p => Nat.xor p.1 p.2)

/-- Absorbs full blocks of `r` bytes and then the padded rest; the first argument bounds the blocks. -/
def kAbsorbAll : Nat → Nat → Nat → List Nat → List Byte → List Nat
  | 0, _, _, a, _ => a
  | n + 1, r, dom, a, bs =>
    if bs.length < r then
      let pad := r - bs.length
      let tail : List Byte := if pad = 1 then [BitVec.ofNat 8 (dom + 128)]
        else BitVec.ofNat 8 dom :: (List.replicate (pad - 2) 0 ++ [128])
      kAbsorb a (bs ++ tail)
    else kAbsorbAll n r dom (kAbsorb a (bs.take r)) (bs.drop r)

/-- SHA3-384. -/
def sha3 (bs : List Byte) : List Byte :=
  let a := kAbsorbAll (bs.length / 104 + 1) 104 6 (List.replicate 25 0) bs
  (a.take 6).flatMap fun l => leBytes 8 l

end Sys2Proof.Machine
end

