-- ==== Sys2Proof/Machine/Load.lean ====
section
/-! DEFINITION. Loads: what they see of their block (R165), their performance at local owners, their requests to remote ones, and
their completion (R163 to R168, R293). -/

namespace Sys2Proof.Machine

open Sys2Proof

/-- What a side effect of the block stores: address, size and value, in lane order. -/
def actStores : Act → List (Word × Nat × Word)
  | .store here reqs regs _ =>
    (here.map fun l => (l.ea, l.size, l.val)) ++
    (reqs.flatMap fun r => r.2.lanes.map fun l => (l.ea, r.2.size, l.b)) ++
    regs.map fun r => (r.2.2.2, 4, r.2.1)
  | _ => []

/-- Words that a side effect of the block empties. -/
def actClears : Act → List Word
  | .clrp here reqs => (here.map fun l => l.ea) ++ reqs.flatMap fun r => r.2.lanes.map fun l => l.ea
  | _ => []

/-- Bytes of one lane that lower stores of the block supply, and whether a lower CLRP made its word appear empty (R165). -/
structure Overlay where
  mask : Nat
  val : Nat
  empty : Bool
  deriving DecidableEq, Repr

/-- One stored range laid over a lane's bytes. -/
def overlayStore (ea : Word) (size : Nat) (o : Overlay) (st : Word × Nat × Word) : Overlay :=
  (List.range size).foldl (fun o k =>
    let d := (ea + wordOf k - st.1).toNat
    if d < st.2.1 then
      { mask := o.mask ||| 2 ^ k
        val := o.val - fld o.val (8 * k) 8 * 2 ^ (8 * k) + fld st.2.2.toNat (8 * d) 8 * 2 ^ (8 * k)
        empty := false }
    else o) o

/-- One side effect laid over a lane's bytes. -/
def overlayAct (ea : Word) (size : Nat) (o : Overlay) (e : Eff) : Overlay :=
  let o := if (actClears e.act).any fun a => a.toNat / 4 == ea.toNat / 4 then { mask := 0, val := 0, empty := true } else o
  (actStores e.act).foldl (overlayStore ea size) o

/-- What a load of LSID `n` sees of its block in one lane (R165). -/
def overlayOf (f : Frame) (n : Nat) (ea : Word) (size : Nat) : Overlay :=
  (sortEffs (f.effs.filter fun e => decide (e.lsid < n))).foldl (overlayAct ea size) ⟨0, 0, false⟩

/-- Whether an LDC of the block consumes the word that a side effect's last lane at an address stores; none where it stores there nothing
(R168). -/
def actEats (a : Act) (ea : Word) : Option Bool :=
  match a with
  | .store here reqs _ _ =>
    ((((here.filter fun l => l.ea == ea).map fun l => l.eat) ++
      ((reqs.flatMap fun q => q.2.lanes).filter fun l => l.ea == ea).map fun l => l.eat)).getLast?
  | _ => none

/-- The last of the lower side effects of a block that stores at an address, and whether an LDC of the block consumes the word (R165,
R168). -/
def supplier (f : Frame) (n : Nat) (ea : Word) : Option (Nat × Bool) :=
  (sortEffs (f.effs.filter fun e => decide (e.lsid < n))).foldl (fun o e =>
    match actEats e.act ea with | some b => some (e.lsid, b) | none => o) none

/-- Changes the last element of a list that a predicate holds of. -/
def mapLast {α : Type} (p : α → Bool) (g : α → α) : List α → List α
  | [] => []
  | a :: t => if t.any p then a :: mapLast p g t else if p a then g a :: t else a :: t

/-- The last lane of a side effect at an address is consumed as it stores (R168). -/
def markAct (ea : Word) : Act → Act
  | .store here reqs regs hint =>
    .store (mapLast (fun l => l.ea == ea) (fun l => { l with eat := true }) here)
      (reqs.map fun q => (q.1, { q.2 with lanes := mapLast (fun l => l.ea == ea) (fun l => { l with eat := true }) q.2.lanes }))
      regs hint
  | a => a

/-- An LDC that forwards from a store of its block consumes what that store writes (R168). -/
def markEat (f : Frame) (lsid : Nat) (ea : Word) (key : Nat) : Frame :=
  { f with
    effs := f.effs.map fun e => if e.lsid = lsid then { e with act := markAct ea e.act } else e
    eats := f.eats ++ [key] }

/-- The bytes of `w` under an overlay of mask `mask` and value `val`. -/
def mergeBytes (w : Word) (mask val : Nat) : Word :=
  wordOf ((List.range 4).foldl (fun n k =>
    n + (if mask / 2 ^ k % 2 = 1 then fld val (8 * k) 8 else bits w (8 * k) 8) * 2 ^ (8 * k)) 0)

/-- A load's narrowing of what it read (R163). -/
def extend (x : LoadExt) (w : Word) : Word :=
  match x with
  | .word => w
  | .half => wordOfInt (signed w.toNat 16)
  | .halfU => wordOf (bits w 0 16)
  | .byte => wordOfInt (signed w.toNat 8)
  | .byteU => wordOf (bits w 0 8)

/-- A lane's arrival in a waiting load: forwarded bytes are laid over it (R165). -/
def arrive (w : Waiting) (lane : Nat) (v : Word) : Waiting :=
  let o := (w.overlay.find? fun p => p.1 == lane).getD (lane, 0, 0)
  { w with
    left := w.left.filter fun l => l != lane
    got := Lanes.ofFn fun i => if i = lane then some (extend w.ext (mergeBytes v o.2.1 o.2.2)) else w.got.get i }

/-- Removes a waiting operation from its frame and delivers its value; a returning operation counts its LSID (R163, R178). -/
def completeWaiting (f : Frame) (w : Waiting) : Except BFault Frame :=
  let f := { f with waits := f.waits.filter fun u => u.slot != w.slot }
  match deliver f (slotAddr f w.slot) w.slot w.t0 w.got with
  | .error e => .error e
  | .ok f =>
    match w.lsid with
    | some n => countEffect f w.slot n .nothing
    | none => .ok f

/-- Whether a request is a read by the loft ring (R284). -/
def byRing (r : MemReq) : Bool := !r.lanes.isEmpty && r.lanes.all fun l => l.ring

/-- The channel on which a request departs: VC0, or the loft ring (R256, R284). -/
def reqVc (r : MemReq) : Nat := if byRing r then 8 else 0

/-- Groups lanes by destination: lanes of one owner travel as one request (R179, R295), those by the loft ring apart (R284), and those of one peer
for each export (R436). -/
def addReq (reqs : List (Nat × MemReq)) (dst : Nat) (r : MemReq) : List (Nat × MemReq) :=
  match reqs with
  | [] => [(dst, r)]
  | h :: t =>
    if h.1 = dst ∧ h.2.exportNo = r.exportNo ∧ byRing h.2 = byRing r then
      (h.1, { h.2 with lanes := h.2.lanes ++ r.lanes }) :: t
    else h :: addReq t dst r

/-- Destination, lane and the fields that differ by kind, of a remote lane; registers travel apart. -/
def remoteLane (proto : MemReq) (l : LaneAcc) (b c : Word) : Option (Nat × MemReq) :=
  let lane (k : Nat) : LaneReq := {
    lane := l.lane
    key := k
    ea := l.ea
    b := b
    c := c
    mode := winMode l.w
    ring := bit l.w.w0 22 && winKind l.w == WinKind.cell }
  match l.place with
  | .mem k => some (keyCore k, { proto with lanes := [lane k] })
  | .host a => some (hostDst, { proto with lanes := [lane a] })
  | .peer h x o => some (peerDst h, { proto with lanes := [lane o], exportNo := x })
  | .nowhere => some (nowhereDst, { proto with lanes := [lane 0] })
  | .reg _ => none

/-! ### Lanes at their owner -/

/-- A refused lane noted in an answer, with the first cause (R174). -/
def refuseLane (a : Answer) (lane : Nat) (k : Cause) : Answer :=
  { a with
    cause := match a.cause with | some j => some j | none => some k
    refused := a.refused ||| 2 ^ lane }

/-- A performed lane noted in an answer. -/
def gaveLane (a : Answer) (lane : Nat) (v : Word) : Answer := { a with vals := a.vals ++ [(lane, v)] }

/-- State and answer while the lanes of a request are performed; `retry` and `hold` say that nothing of it may stand (R172, R293), and
`open_` that a lane is deferred. -/
structure Perf where
  s : State
  a : Answer
  retry : Bool := false
  hold : Bool := false
  open_ : Bool := false
  deriving DecidableEq, Repr

/-- Whether an operation reads memory and no more. -/
def isLoadOp : MemOp → Bool
  | .load => true | .ldc => true | _ => false

/-- One lane of a load, store or CLRP at its owner (R166, R167, R173, R174). -/
def performLane (r : MemReq) (dst : Nat) (p : Perf) (l : LaneReq) : Perf :=
  let q := match r.op with
    | .store => storeLane p.s l.mode r.size l.key l.b.toNat r.hint l.eat
    | .clrp => clrpLane p.s l.key
    | _ => loadLane p.s l.mode (r.op == MemOp.ldc) l.after r.size l.key l.lane r.asker dst
  match q.2 with
  | .val w => { p with s := q.1, a := gaveLane p.a l.lane w }
  | .taken w => { p with s := q.1, a := { gaveLane p.a l.lane w with taken := p.a.taken ++ [wordKey l.key] } }
  | .done => { p with s := q.1, a := gaveLane p.a l.lane 0 }
  | .deferred => { p with s := q.1, open_ := true }
  | .retry => if isLoadOp r.op then { p with retry := true } else { p with s := q.1, hold := true }
  | .refused k => { p with s := q.1, a := refuseLane p.a l.lane k }

/-- The lanes of a request performed in one step at their owner (R295). -/
def performLanes (s : State) (r : MemReq) (dst : Nat) : Perf :=
  r.lanes.foldl (performLane r dst) { s := spendKeys s (r.lanes.map fun l => l.key), a := { asker := r.asker } }

/-! ### Loads -/

/-- What the lanes of a load come to: the frame, the waiting record, the lanes that the cell's own memory performs, and the requests to
other owners and to registers. -/
structure LoadAcc where
  f : Frame
  w : Waiting
  own : List LaneReq := []
  reqs : List (Nat × MemReq) := []
  regs : List (RegName × Nat) := []
  deriving DecidableEq, Repr

/-- One lane of a load (R165 to R168, R344): its block's stores supply it, or it joins the request to its owner. `joined` says that the
lanes of the cell's own memory go with a request to the cell itself (R295). -/
def loadOne (e : Env) (ldc joined : Bool) (size : Nat) (lsid : Nat) (acc : LoadAcc) (l : LaneAcc) : LoadAcc :=
  let o := overlayOf e.f lsid l.ea size
  let key := match l.place with | .mem k => k | _ => 0
  let own := isLocal l.w || (match l.place with | .mem k => keyCore k == e.c | _ => false)
  let from_ := supplier acc.f lsid l.ea
  let eaten := ldc && (match from_ with | some p => p.2 | none => false)
  let f := if own && (winMode l.w == .update || e.x == 4) then
      { acc.f with readKeys := keyInsert acc.f.readKeys (wordKey key) } else acc.f
  if o.mask = 2 ^ size - 1 ∧ eaten = false then
    let w := { acc.w with overlay := acc.w.overlay ++ [(l.lane, o.mask, o.val)] }
    { acc with
      w := arrive w l.lane 0
      f := match ldc, from_ with | true, some p => markEat f p.1 l.ea key | _, _ => f }
  else
    let w := if o.mask = 0 ∨ eaten then acc.w else { acc.w with overlay := acc.w.overlay ++ [(l.lane, o.mask, o.val)] }
    let after := o.empty || eaten
    let acc := { acc with f := f, w := w }
    if isLocal l.w && !joined then
      { acc with own := acc.own ++ [{ lane := l.lane, key := key, ea := l.ea, mode := winMode l.w, after := after }] }
    else
      match l.place with
      | .reg r => { acc with regs := acc.regs ++ [(r, l.lane)] }
      | _ =>
        let proto : MemReq := {
          op := if ldc then .ldc else .load
          size := size
          lanes := []
          asker := .frame e.c e.x e.f.serial e.slot
          ctx := e.x }
        match remoteLane proto l 0 0 with
        | some q => { acc with reqs := addReq acc.reqs q.1 { q.2 with lanes := q.2.lanes.map fun n => { n with after := after } } }
        | none => acc

/-- The lanes of a load that the cell's own memory performs, in one step (R295); when a waiter table is full nothing changes and they
are sent again as one request (R293). -/
def loadOwn (s : State) (e : Env) (ldc : Bool) (size : Nat) (acc : LoadAcc) : State × LoadAcc :=
  if acc.own.isEmpty then (s, acc)
  else
    let r : MemReq := {
      op := if ldc then .ldc else .load
      size := size
      asker := .frame e.c e.x e.f.serial e.slot
      lanes := acc.own
      ctx := e.x }
    let p := performLanes s r e.c
    if p.retry then ({ s with net := s.net ++ [{ src := e.c, dst := e.c, at_ := e.c, vc := 2, wait := 64, body := .mem r }] }, acc)
    else
      (p.s, { acc with
        f := { acc.f with takes := acc.f.takes ++ p.a.taken.map fun k => (e.slot, k) }
        w := p.a.vals.foldl (fun w v => arrive w v.1 v.2) acc.w })

/-- Lanes of a local load that meet an uncorrectable error (R166, R279, R283). -/
def badLanes (s : State) (ls : List LaneAcc) : List LaneAcc :=
  ls.filter fun l => isLocal l.w && (match l.place with | .mem k => isBad s k | _ => false)

/-- Addresses of a load's lanes as a value. -/
def easOf (ls : List LaneAcc) : Lanes Word :=
  Lanes.ofFn fun i => match ls.find? fun l => l.lane == i with | some l => l.ea | none => 0

/-- The management path of a register access: VC4 to the core that holds it (R408, R430). -/
def regHome (r : RegName) : Nat :=
  match r with
  | .cell c _ => c
  | .bay b _ => bayCore b
  | .port p _ => sillCore (p / 80)

/-- Performs a load after its checks (R163 to R168): local lanes at once, remote lanes by request. -/
def doLoad (s : State) (e : Env) (m : MF) (ldc : Bool) (size : Nat) (ext : LoadExt) (ls : List LaneAcc) : State :=
  match badLanes s ls with
  | b :: bs => finish (noteUncorr s e.c (match b.place with | .mem k => keyIsLoft k | _ => false)) e
      (.error (ferr e m.lsid .ecc b.ea (lanesMask ((b :: bs).map fun l => l.lane))))
  | [] =>
    let remote := ls.any fun l => !isLocal l.w
    if e.x == 4 && remote then
      finish s e (.error (ferr e m.lsid .remote (match ls.find? fun l => !isLocal l.w with | some l => l.ea | none => 0)))
    else
      let w0 : Waiting := {
        slot := e.slot
        left := ls.map fun l => l.lane
        got := Val.allNull
        ext := ext
        t0 := m.t0
        lsid := none
        tlsid := m.lsid.toNat
        eas := easOf ls }
      let joined := ls.any fun l => !isLocal l.w && (match l.place with | .mem k => keyCore k == e.c | _ => false)
      let q := loadOwn s e ldc size (ls.foldl (loadOne e ldc joined size m.lsid.toNat) { f := e.f, w := w0 })
      let r := q.2
      let asker : Asker := .frame e.c e.x e.f.serial e.slot
      let s := r.reqs.foldl (fun s q => post s e.c q.1 (reqVc q.2) (.mem q.2)) q.1
      let s := r.regs.foldl (fun s q => post s e.c (regHome q.1) 4 (.register q.1 none asker q.2)) s
      if r.w.left.isEmpty then finish s { e with f := r.f } (completeWaiting r.f r.w)
      else putFrame s e.c e.x { r.f with waits := r.f.waits ++ [r.w] }

/-- How many replies the lanes of a load cause: one for each request that its lanes outside the cell's own windows make, and one for each
register (R259). -/
def farReplies (ls : List LaneAcc) : Nat :=
  let far := ls.filter fun l => !isLocal l.w
  (far.foldl (fun rs l =>
    match remoteLane { op := .load, lanes := [], asker := .nobody } l 0 0 with | some q => addReq rs q.1 q.2 | none => rs) []).length +
  (far.filter fun l => match l.place with | .reg _ => true | _ => false).length

/-- Lanes of a load, or its fault. -/
abbrev LaneForm := Env → Except BFault (List (Nat × Word × Nat))

/-- Fires a load: it issues once a reply reservation is free for each reply that it causes (R165, R259). -/
def fireLoad (s : State) (i : Instr) (m : MF) (a : Acc) (size asize : Nat) (ext : LoadExt) (form : LaneForm) :
    Host.Outcome State Fault Refusal :=
  let lanes (s : State) (e : Env) : Except BFault (List LaneAcc) :=
    match form e with
    | .ok l => accLanes s e m.lsid a asize l
    | .error b => .error b
  fireGate s i 2
    (fun s e =>
      match lanes s e with
      | .ok ls => !(ls.any fun l => !isLocal l.w) || replyRoom s e.c (farReplies ls)
      | .error _ => true)
    fun s e =>
      match lanes s e with
      | .ok ls => doLoad s e m (a == .ldc) size ext ls
      | .error b => finish s e (.error b)

/-- LDW (R163). -/
def execLdw (m : MF) (s : State) : Host.Outcome State Fault Refusal :=
  fireLoad s (.ldw m) m .ldw 4 4 .word fun e => .ok (eachLane e m.imm 4 false false)

/-- LDH (R163). -/
def execLdh (m : MF) (s : State) : Host.Outcome State Fault Refusal :=
  fireLoad s (.ldh m) m .load 2 2 .half fun e => .ok (eachLane e m.imm 2 false false)

/-- LDHU (R163). -/
def execLdhu (m : MF) (s : State) : Host.Outcome State Fault Refusal :=
  fireLoad s (.ldhu m) m .load 2 2 .halfU fun e => .ok (eachLane e m.imm 2 false false)

/-- LDB (R163). -/
def execLdb (m : MF) (s : State) : Host.Outcome State Fault Refusal :=
  fireLoad s (.ldb m) m .load 1 1 .byte fun e => .ok (eachLane e m.imm 1 false false)

/-- LDBU (R163). -/
def execLdbu (m : MF) (s : State) : Host.Outcome State Fault Refusal :=
  fireLoad s (.ldbu m) m .load 1 1 .byteU fun e => .ok (eachLane e m.imm 1 false false)

/-- LDV: eight consecutive words (R164). -/
def execLdv (m : MF) (s : State) : Host.Outcome State Fault Refusal :=
  fireLoad s (.ldv m) m .load 4 32 .word fun e => .ok (vecLanes e m.imm fun _ => true)

/-- LDC: a load that takes its words (R167, R168). -/
def execLdc (m : MF) (s : State) : Host.Outcome State Fault Refusal :=
  fireLoad s (.ldc m) m .ldc 4 4 .word fun e => .ok (eachLane e m.imm 4 false false)

/-- LDVS: words at a stride (R164). -/
def execLdvs (m : MF) (s : State) : Host.Outcome State Fault Refusal :=
  fireLoad s (.ldvs m) m .load 4 4 .word fun e => strideLanes e m.lsid m.imm e.b fun _ => true

end Sys2Proof.Machine
end

