-- ==== Sys2Proof/Machine/Atomic.lean ====
section
/-! DEFINITION. Atomics: AMO, CAS and UPD (R177 to R185). -/

namespace Sys2Proof.Machine

open Sys2Proof

/-- A word whose bits [15:0] and [31:16] hold two signed offsets. -/
def offsetWord (d : Int × Int) : Word := wordOf ((wordOfInt d.1).toNat % 2 ^ 16 + (wordOfInt d.2).toNat % 2 ^ 16 * 2 ^ 16)

/-- Offset of the issuer from an owner (R182). -/
def issuerOffset (s : State) (owner issuer : Nat) : Word := offsetWord (deltaOf s owner issuer)

/-- Requests of an atomic whose lanes passed their checks: one for each owner, and one for each lane of UPD (R179, R182). -/
def atomicReqs (s : State) (e : Env) (op : MemOp) (noret : Bool) (asker : Asker) (ls : List LaneAcc) : List (Nat × MemReq) :=
  let proto : MemReq := { op := op, noret := noret, lanes := [], asker := asker, ctx := e.x }
  let one := ls.filterMap fun l => remoteLane proto l (laneOr0 (e.b.get l.lane)) (laneOr0 (e.cc.get l.lane))
  let all : List (Nat × MemReq) := match op with
    | .upd _ => one
    | _ => one.foldl (fun rs q => addReq rs q.1 q.2) []
  all.map fun q => (q.1, { q.2 with offset := issuerOffset s q.1 e.c })

/-- Kind of the pending entry of an atomic (R379). -/
def atomicKind : MemOp → Nat
  | .amo _ => 2 | .cas => 2 | .upd _ => 3 | _ => 0

/-- Adds the operation of point Reply to its frame; with nothing to wait for it completes at once (R178). -/
def awaitReply (s : State) (e : Env) (lsid : BitVec 5) (t0 : Target) (lanes : List Nat) (eas : Lanes Word)
    (unsent : List (Nat × Body)) : State :=
  let w : Waiting := {
    slot := e.slot
    left := lanes
    got := Val.allNull
    ext := .word
    t0 := t0
    lsid := some lsid.toNat
    tlsid := lsid.toNat
    eas := eas
    unsent := unsent }
  if lanes.isEmpty then finish s e (completeWaiting e.f w)
  else putFrame s e.c e.x { e.f with waits := e.f.waits ++ [w] }

/-- Whether a reply reservation is free (R259). -/
def replyFree (s : State) (c : Nat) : Bool := replyRoom s c 1

/-- Whether the replies of a returning atomic have their reservations, one for each request (R182, R259). -/
def atomicRoom (s : State) (e : Env) (lsid : BitVec 5) (a : Acc) (op : MemOp) (needC : Bool) : Bool :=
  match accLanes s e lsid a 4 (eachLane e 0 4 true needC) with
  | .error _ => true
  | .ok ls => replyRoom s e.c (atomicReqs s e op false .nobody ls).length

/-- Fires an atomic (R177 to R183): a returning one once its reply reservations are free (R259). -/
def fireAtomic (s : State) (i : Instr) (f : AF) (a : Acc) (op : MemOp) (needC : Bool) : Host.Outcome State Fault Refusal :=
  fireGate s i 2 (fun s e => f.noret || atomicRoom s e f.lsid a op needC) fun s e =>
    match accLanes s e f.lsid a 4 (eachLane e 0 4 true needC) with
    | .error b => finish s e (.error b)
    | .ok ls =>
      if f.noret then
        finish s e (countEffect e.f e.slot f.lsid.toNat
          (.atomic (atomicKind op) (atomicReqs s e op true .nobody ls) (f.scope == .cell)))
      else
        let reqs := atomicReqs s e op false (.frame e.c e.x e.f.serial e.slot) ls
        awaitReply s e f.lsid f.t0 (ls.map fun l => l.lane) (easOf ls) (reqs.map fun q => (q.1, .mem q.2))

/-- AMO (R180). -/
def execAmo (op : AmoOp) (f : AF) (s : State) : Host.Outcome State Fault Refusal :=
  fireAtomic s (.amo op f) f (.amo op) (.amo op) false

/-- CAS (R181). -/
def execCas (f : AF) (s : State) : Host.Outcome State Fault Refusal :=
  fireAtomic s (.cas f) f .cas .cas true

/-- UPD (R182). -/
def execUpd (op : BitVec 4) (f : AF) (s : State) : Host.Outcome State Fault Refusal :=
  fireAtomic s (.upd op f) f .upd (.upd op.toNat) false

end Sys2Proof.Machine
end

