-- ==== Sys2Proof/Machine/Send.lean ====
section
/-! DEFINITION. SEND and SENDM (R193 to R196), with the collective tuple of R325. -/

namespace Sys2Proof.Machine

open Sys2Proof

/-- Level of an iteration tag (R11). -/
def itagLevel (t : BitVec 6) : Nat := t.toNat / 16

/-- Iteration of an iteration tag (R11). -/
def itagIter (t : BitVec 6) : Nat := t.toNat % 16

/-- The parent tag of a level, or none while its row is not allocated (R199). -/
def parentOf (v : Context) (level : Nat) : Option (BitVec 6) := Tbl.get none v.parents level

/-- The iteration tag that a token carries (R92, R194); `b` is lane 0 of B. -/
def sentTag (v : Context) (act : TagAct) (b : Word) : Except Cause (BitVec 6) :=
  let l := itagLevel v.itag
  let i := itagIter v.itag
  match act with
  | .keep => .ok v.itag
  | .next => .ok (BitVec.ofNat 6 (16 * l + (i + 1) % 16))
  | .enter => if l = 3 then .error .tagspace else .ok (BitVec.ofNat 6 (16 * (l + 1)))
  | .leave =>
    if l = 0 then .error .tagspace
    else match parentOf v l with
      | some p => .ok p
      | none => .error .tagspace
  | .set => .ok (BitVec.ofNat 6 (16 * l + bits b 0 4))
  | .zero => .ok 0

/-- A's lanes where they match. -/
def matchedA (e : Env) : Val := laneVal e fun i => e.a.get i

/-- Whether any lane of a value is non-null. -/
def anyLane (v : Val) : Bool := v.toList.any fun l => l.isSome

/-- Whether a send acts (R193): `c` tells whether its destination word is needed. -/
def sendActs (e : Env) (act : TagAct) (c : Bool) : Bool :=
  anyLane (matchedA e) && (act != .set || e.b.l0.isSome) && (!c || e.cc.l0.isSome)

/-- The channel entry that a SEND reads: during a collective slot, channels 56 to 63 of its context are those of the shadow bank
(R329). The flag tells that they are. -/
def channelOf (s : State) (c x ch : Nat) : Word × Bool :=
  let cell := cellOf s c
  match cell.slot, cell.shadow with
  | some k, some sh =>
    if k.ctx = x ∧ 56 ≤ ch then (Tbl.get 0 sh.chans (ch - 56), true) else (Tbl.get 0 (ctxOf s c x).chans ch, false)
  | _, _ => (Tbl.get 0 (ctxOf s c x).chans ch, false)

/-- SEND along a static route (R193 to R195). -/
def execSend (q : LF) (act : TagAct) (ch : BitVec 6) (s : State) : Host.Outcome State Fault Refusal :=
  fireQ s (.send q act ch) q.lsid fun s e =>
    if sendActs e act false then
      let h := channelOf s e.c e.x ch.toNat
      match sentTag e.v act (laneOr0 e.b.l0) with
      | .error k => .error (ferr e q.lsid k (wordOf e.v.itag.toNat))
      | .ok t =>
        if bit h.1 31 then
          .ok (.sendRoute (bits h.1 0 9) h.2
            { tag := 0, itag := t, port := bits h.1 9 2, lanes := matchedA e, tuple := e.v.tuple })
        else .error (ferr e q.lsid .channel (wordOf ch.toNat))
    else .ok .nothing

/-- The cell that a destination or home word names, when it lies in the issuing region; offsets wrap modulo 960 (R196, R246, R312). -/
def wordCell (s : State) (c : Nat) (w : Word) : Option Nat :=
  let g := regionOf s c
  match g with
  | none => none
  | some _ =>
    let x := (bits (cellOf s c).regpos 0 16 : Int) + signed (bits w 0 11) 11
    let y := (bits (cellOf s c).regpos 16 16 : Int) + signed (bits w 11 11) 11
    regionCell s c (x % 960).toNat (y % 960).toNat

/-- SENDM to a cell of the region (R196). -/
def execSendm (q : LF) (act : TagAct) (tag : BitVec 8) (s : State) : Host.Outcome State Fault Refusal :=
  fireQ s (.sendm q act tag) q.lsid fun s e =>
    if sendActs e act true then
      let w := laneOr0 e.cc.l0
      match sentTag e.v act (laneOr0 e.b.l0) with
      | .error k => .error (ferr e q.lsid k (wordOf e.v.itag.toNat))
      | .ok t =>
        match (if bits w 24 8 = 0 then wordCell s e.c w else none) with
        | some d =>
          .ok (.sendDyn d { tag := tag.toNat, itag := t, port := bits w 22 2, lanes := matchedA e, tuple := e.v.tuple } w)
        | none => .error (ferr e q.lsid .channel w)
    else .ok .nothing

end Sys2Proof.Machine
end

