-- ==== Sys2Proof/Machine/Sync.lean ====
section
/-! DEFINITION. The SYNC group: barriers and group membership (R219 to R223, R309 to R322). -/

namespace Sys2Proof.Machine

open Sys2Proof

/-- The word BSTAT delivers (R222). -/
def barrierStat (b : Barrier) : Word :=
  wordOf (b.arr % 2 ^ 11 + b.e % 2 ^ 11 * 2 ^ 11 + (if b.phase then 2 ^ 22 else 0) + (if b.init then 2 ^ 23 else 0) +
    b.facc.toNat * 2 ^ 24)

/-- BSTAT: an object of the issuing cell (R222). -/
def execBstat (q : EF) (bn : BitVec 7) (s : State) : Host.Outcome State Fault Refusal :=
  fireE s (.bstat q bn) q.t0 fun s e =>
    .ok (if anyMatch e then some (barrierStat (Tbl.get {} (coreOf s e.c).bars bn.toNat)) else none)

/-- TADDR of a barrier fault: the home word with the barrier index (R316). -/
def barrierTaddr (home : Word) (bn : Nat) : Word := wordOf (bits home 0 22 + bn % 128 * 2 ^ 22)

/-- The home cell of a barrier, or CHANNEL at firing (R312). -/
def barrierHome (s : State) (e : Env) (lsid : BitVec 5) (l : Nat) (w : Word) : Except BFault Nat :=
  match (if bits w 22 10 = 0 then wordCell s e.c w else none) with
  | some d => .ok d
  | none => .error (ferr e lsid .channel w (2 ^ l))

/-- ILLEGAL at firing for a B word with a bit set from `lo` upward (R220). -/
def barrierWord (e : Env) (lsid : BitVec 5) (l lo : Nat) (b : Word) : Except BFault Unit :=
  if b.toNat < 2 ^ lo then .ok () else .error (ferr e lsid .illegal (wordOf (slotAddr e.f e.slot)) (2 ^ l))

/-- An operation of point Reply at a barrier's home (R189, R220). -/
def fireHome (s : State) (i : Instr) (q : LF) (bn : BitVec 7) (lo : Nat) (op : Word → BarOp) :
    Host.Outcome State Fault Refusal :=
  fireGate s i 2 (fun s e => replyFree s e.c) fun s e =>
    match actAB e with
    | none => finish s e (countEffect e.f e.slot q.lsid.toNat .nothing)
    | some (l, a, b) =>
      match barrierHome s e q.lsid l a, barrierWord e q.lsid l lo b with
      | .error x, _ => finish s e (.error x)
      | _, .error x => finish s e (.error x)
      | .ok d, .ok _ =>
        awaitReply s e q.lsid .none [l] (Lanes.all (barrierTaddr a bn.toNat))
          [(d, .barrier bn.toNat (op b) a e.x (.frame e.c e.x e.f.serial e.slot))]

/-- BINIT (R220). -/
def execBinit (q : LF) (bn : BitVec 7) (s : State) : Host.Outcome State Fault Refusal :=
  fireHome s (.binit q bn) q bn 19 .init

/-- JOINB (R220). -/
def execJoinb (q : LF) (bn : BitVec 7) (s : State) : Host.Outcome State Fault Refusal :=
  fireHome s (.joinb q bn) q bn 11 fun b => .join b.toNat

/-- LEAVEB (R220). -/
def execLeaveb (q : LF) (bn : BitVec 7) (s : State) : Host.Outcome State Fault Refusal :=
  fireHome s (.leaveb q bn) q bn 11 fun b => .leave b.toNat

/-- An arrival (R220, R312). -/
def fireArrive (s : State) (i : Instr) (q : LF) (bn : BitVec 7) (dropping : Bool) : Host.Outcome State Fault Refusal :=
  fireQ1 s i q.lsid fun s e l a =>
    match barrierHome s e q.lsid l a with
    | .ok d => .ok (.arrive bn.toNat dropping a d)
    | .error x => .error x

/-- ARV (R220). -/
def execArv (q : LF) (bn : BitVec 7) (s : State) : Host.Outcome State Fault Refusal := fireArrive s (.arv q bn) q bn false

/-- ARVD (R220). -/
def execArvd (q : LF) (bn : BitVec 7) (s : State) : Host.Outcome State Fault Refusal := fireArrive s (.arvd q bn) q bn true

/-! ### Groups -/

/-- The context that the shadow bindings of a cell name (R319, R329). -/
def shadowCtx (s : State) (c : Nat) : Option Nat :=
  match (cellOf s c).shadow with
  | some h => (h.bindings.find? fun p => bValid p.2).map fun p => bCtx p.2
  | none => none

/-- The collective context of a cell, on a collective home (R281, R319). -/
def collCtx (s : State) (c : Nat) : Option Nat := if isCollHome s c then shadowCtx s c else none

/-- Word 32 of a group entry (R320). -/
def groupWord (g : Group) : Word :=
  wordOf (g.rank % 1024 * 2 ^ 19 + (if g.busy then 2 ^ 18 else 0) + (if g.poison then 2 ^ 17 else 0) +
    (if g.live then 2 ^ 16 else 0) + g.seq % 2 ^ 16)

/-- The loft key of entry `gt` of a core's group table (R320). -/
def groupKey (c gt : Nat) : Nat := loftKey c (0x1B7800 + 136 * gt)

/-- The 136 bytes of a group entry (R320). -/
def groupBytes (g : Group) : List Byte :=
  leBytes 128 g.members ++ leBytes 4 (groupWord g).toNat ++ leBytes 4 (g.digp % 2 ^ 16 * 2 ^ 16 + g.dig % 2 ^ 16)

/-- A group entry as the loft holds it (R320). -/
def readGroup (s : State) (c gt : Nat) : Group :=
  let k := groupKey c gt
  let w := readWord s (k + 128)
  let d := readWord s (k + 132)
  { members := readN s k 128
    rank := bits w 19 10
    busy := bit w 18
    poison := bit w 17
    live := bit w 16
    seq := bits w 0 16
    digp := bits d 16 16
    dig := bits d 0 16 }

/-- Group entry `gt` of a core's table: the one that SRAM caches, else the one in the loft (R320, R321). -/
def groupOf (s : State) (c gt : Nat) : Group :=
  match (coreOf s c).gcache.find? fun p => p.1 == gt with
  | some p => p.2
  | none => readGroup s c gt

/-- The loft lines that hold group entry `gt` (R320). -/
def groupLines (c gt : Nat) : List Nat :=
  let k := groupKey c gt
  [k, k + 64, k + 128, k + 135].foldl (fun l a => keyInsert l (lineKey a)) []

/-- The rows of a group entry's lines (R452). -/
def touchGroup (s : State) (c gt : Nat) : State := (groupLines c gt).foldl (fun s a => touchRow s a .policy) s

/-- Writes an entry back into the loft, logged as any loft write (R321, R391). -/
def writeGroup (s : State) (c : Nat) (p : Nat × Group) : State :=
  let s := touchGroup ((groupLines c p.1).foldl (fun s a => undoLog s a true) s) c p.1
  { s with mem := memPutBytes s.mem (groupKey c p.1) (groupBytes p.2) }

/-- Whether the undo log has no room for the lines of an entry (R392). -/
def groupBlocked (s : State) (c gt : Nat) : Bool :=
  let us := (cellOf s c).undo
  let n := ((groupLines c gt).filter fun a => undoCovers a && !undoHas s a true).length
  n != 0 && (decide (224 < (us.filter fun u => u.copy.isSome).length + n) || decide (512 < us.length + n))

/-- Whether the cache takes entry `gt`: it holds the entry, has room, or can write the least recently used one back (R321, R392). -/
def groupRoom (s : State) (c gt : Nat) : Bool :=
  let q := (coreOf s c).gcache
  (q.any fun p => p.1 == gt) || decide (q.length < 15) || (match q.getLast? with | some p => !groupBlocked s c p.1 | none => true)

/-- The cache makes room: with more than 15 entries the least recently used goes back to the loft (R321). -/
def evictGroup (s : State) (c : Nat) : State :=
  let q := (coreOf s c).gcache
  if q.length ≤ 15 then s
  else
    match q.getLast? with
    | some p => modCore (writeGroup s c p) c fun k => { k with gcache := q.dropLast }
    | none => s

/-- Changes a group entry, read from the loft where the cache misses it; it is then the last used of the cache (R321). -/
def modGroup (s : State) (c gt : Nat) (f : Group → Group) : State :=
  let q := (coreOf s c).gcache
  let g := f (groupOf s c gt)
  let s := if q.any fun p => p.1 == gt then s else touchGroup s c gt
  evictGroup (modCore s c fun k => { k with gcache := (gt, g) :: k.gcache.filter fun p => p.1 != gt }) c

/-- An operation uses entry `gt` (R321). -/
def useGroup (s : State) (c gt : Nat) : State := modGroup s c gt fun g => g

/-- Every cached entry goes back to the loft (R321). -/
def flushGroups (s : State) (c : Nat) : State := (coreOf s c).gcache.foldl (fun s p => writeGroup s c p) s

/-- A core forgets that its collective context took COLL_ORDER for an entry (R327). -/
def forgetTold (s : State) (c gt : Nat) : State := modCore s c fun k => { k with gtold := k.gtold.filter fun n => n != gt }

/-- COLL_GROUP for an entry (R374). -/
def collErr (e : Env) (lsid : BitVec 5) (gt : Nat) : BFault := ferr e lsid .collGroup (wordOf gt)

/-- COLL_GROUP unless the collective context issues the function (R319). -/
def inCollCtx (s : State) (e : Env) (lsid : BitVec 5) (gt : Nat) (r : Except BFault Act) : Except BFault Act :=
  if collCtx s e.c == some e.x then r else .error (collErr e lsid gt)

/-- JOINC (R223, R279, R322): the member map is read when the instruction fires. -/
def execJoinc (q : LF) (gt : BitVec 8) (s : State) : Host.Outcome State Fault Refusal :=
  fireQ2 s (.joinc q gt) q.lsid fun s e _ a b =>
    inCollCtx s e q.lsid gt.toNat (
      if progEnd s e.c < a.toNat + 128 then .error (ferr e q.lsid .bounds a)
      else
        let map := readN s (sramKey e.c a.toNat) 128
        let rank := bits b 0 10
        if (groupOf s e.c gt.toNat).live then .error (collErr e q.lsid gt.toNat)
        else
          match spanBad s e.c a.toNat 128 with
          | some at_ => .error (ferr e q.lsid .ecc (wordOf at_))
          | none =>
            if map / 2 ^ rank % 2 = 0 then .error (collErr e q.lsid gt.toNat)
            else .ok (.joinc gt.toNat map rank))

/-- Whether a collective on an entry is posted or runs (R223). -/
def collBusy (v : Context) (gt : Nat) : Bool := v.collq.any fun o => o.gt == gt

/-- LEAVEC (R223). -/
def execLeavec (q : LF) (gt : BitVec 8) (s : State) : Host.Outcome State Fault Refusal :=
  fireQ0 s (.leavec q gt) q.lsid fun s e =>
    inCollCtx s e q.lsid gt.toNat (
      if !(groupOf s e.c gt.toNat).live || collBusy e.v gt.toNat then .error (collErr e q.lsid gt.toNat)
      else .ok (.leavec gt.toNat))

end Sys2Proof.Machine
end

