-- ==== Sys2Proof/Machine/Coll.lean ====
section
/-! DEFINITION. The COLL group (R224 to R226, R319 to R324). -/

namespace Sys2Proof.Machine

open Sys2Proof

/-- CSTAT: an entry of the collective context's table (R225, R319); a cell without a collective context has no table, and its entries read as
the reset entry (notes/assumptions/77.md). -/
def execCstat (q : EF) (s : State) : Host.Outcome State Fault Refusal :=
  fireE s (.cstat q) q.t0 fun s e =>
    match actA e with
    | none => .ok none
    | some (_, a) =>
      match collCtx s e.c with
      | some _ => .ok (some (groupWord (groupOf s e.c (bits a 0 8))))
      | none => .ok (some 0)

/-- ECN-marked acknowledgements among the last 256 of a path (R440); the field holds no more than 255 (R226). -/
def markedOf (p : Path) : Nat := let n := (p.acks.filter id).length; if n < 255 then n else 255

/-- The word CPATH delivers (R226). -/
def pathWord (p : Path) (age : Nat) : Word :=
  wordOf (p.level % 256 + markedOf p * 2 ^ 8 + (if p.usable then 2 ^ 16 else 0) + (if age < 255 then age else 255) * 2 ^ 24)

/-- CPATH (R226): an unknown handle delivers all lanes null. -/
def execCpath (q : EF) (path : BitVec 4) (s : State) : Host.Outcome State Fault Refusal :=
  fireE s (.cpath q path) q.t0 fun s e =>
    match actA e with
    | none => .ok none
    | some (_, a) =>
      let p : Peer := Tbl.get {} s.peers (bits a 0 16)
      let q : Path := Tbl.get {} p.paths path.toNat
      .ok (if p.known then some (pathWord q (Config.micros s.tickNo - Config.micros q.ackAt)) else none)

/-- Whether a collective descriptor has a reserved field set or a handler tag out of range (R323). -/
def collDescBad (d : List Word) : Bool :=
  let w0 := (d[0]?).getD 0
  let w1 := (d[1]?).getD 0
  bits w0 16 16 != 0 || bits w1 27 5 != 0 || decide (bits w0 0 8 < 0xE0) || decide (0xEF < bits w0 0 8)

/-- CSTART (R224, R279, R323): the descriptor is read when the instruction fires. -/
def execCstart (q : LF) (gt : BitVec 8) (s : State) : Host.Outcome State Fault Refusal :=
  fireQ1 s (.cstart q gt) q.lsid fun s e _ a =>
    inCollCtx s e q.lsid gt.toNat (
      if bits a 0 4 ≠ 0 then .error (ferr e q.lsid .align a)
      else if progEnd s e.c < a.toNat + 32 then .error (ferr e q.lsid .bounds a)
      else
        let d := readWords s (sramKey e.c a.toNat) 8
        let g := groupOf s e.c gt.toNat
        if !g.live || g.poison then .error (collErr e q.lsid gt.toNat)
        else
          match spanBad s e.c a.toNat 32 with
          | some at_ => .error (ferr e q.lsid .ecc (wordOf at_))
          | none =>
            if collDescBad d then .error (collErr e q.lsid gt.toNat)
            else .ok (.cstart gt.toNat a.toNat d))

/-- CABORT (R225). -/
def execCabort (q : LF) (gt : BitVec 8) (s : State) : Host.Outcome State Fault Refusal :=
  fireQ0 s (.cabort q gt) q.lsid fun s e => inCollCtx s e q.lsid gt.toNat (.ok (.cabort gt.toNat))

end Sys2Proof.Machine
end

