-- ==== Sys2Proof/Machine/Fp.lean ====
section
/-! DEFINITION. Exact arithmetic on dyadic numbers, and their one rounding into a binary format (R47 to R49, R141). -/

namespace Sys2Proof.Machine

open Sys2Proof

/-- Rounding directions of FMODE.RM (R49). -/
inductive Rm where
  | near | zero | up | down
  deriving DecidableEq, Repr

/-- A binary format: precision, exponents of the least and the greatest normal binade, largest significand, and the width of its
code (R52). -/
structure Fmt where
  p : Nat
  emin : Int
  emax : Int
  maxM : Nat
  width : Nat
  deriving DecidableEq, Repr

/-- Where one rounding took a number: `m` times 2^`q`, and what it signals. -/
structure Rounded where
  m : Nat
  q : Int
  inexact : Bool
  tiny : Bool
  tooBig : Bool
  deriving DecidableEq, Repr

/-- FLAGS.NX (R49). -/
def flNX : Word := 1
/-- FLAGS.UF (R49). -/
def flUF : Word := 2
/-- FLAGS.OF (R49). -/
def flOF : Word := 4
/-- FLAGS.DZ (R49). -/
def flDZ : Word := 8
/-- FLAGS.NV (R49). -/
def flNV : Word := 16
/-- FLAGS.SO (R49). -/
def flSO : Word := 32

/-- binary32 (R47). -/
def b32 : Fmt := ⟨24, -126, 127, 0xFFFFFF, 32⟩
/-- binary16 (R52). -/
def b16 : Fmt := ⟨11, -14, 15, 0x7FF, 16⟩
/-- BF16 (R52). -/
def bf16 : Fmt := ⟨8, -126, 127, 0xFF, 16⟩
/-- E4M3 (R52): its largest code stands for NaN. -/
def e4m3 : Fmt := ⟨4, -6, 8, 14, 8⟩
/-- E5M2 (R52). -/
def e5m2 : Fmt := ⟨3, -14, 15, 7, 8⟩
/-- E3M2 (R52). -/
def e3m2 : Fmt := ⟨3, -2, 4, 7, 6⟩
/-- E2M3 (R52). -/
def e2m3 : Fmt := ⟨4, 0, 2, 15, 6⟩
/-- E2M1 (R52). -/
def e2m1 : Fmt := ⟨2, 0, 2, 3, 4⟩

/-- FMODE.RM (R49). -/
def rmOf (fmode : Word) : Rm :=
  match bits fmode 0 2 with
  | 0 => .near | 1 => .zero | 2 => .up | _ => .down

/-- The canonical quiet NaN (R48). -/
def canonNan : Word := 0x7FC00000

/-- Whether a binary32 word is a NaN. -/
def isNan (w : Word) : Bool := bits w 23 8 == 255 && bits w 0 23 != 0

/-- Whether a binary32 word is a signalling NaN (R48). -/
def isSnan (w : Word) : Bool := isNan w && !bit w 22

/-- NV for a signalling NaN operand (R48). -/
def snanFlag (w : Word) : Word := if isSnan w then flNV else 0

/-- The value of a code of a format that has subnormals, by sign, exponent field and fraction field. -/
def fmtFinite (f : Fmt) (neg : Bool) (ex fr : Nat) : El :=
  if ex = 0 then .fin neg fr (f.emin - (f.p - 1 : Nat))
  else .fin neg (fr + 2 ^ (f.p - 1)) (f.emin - (f.p - 1 : Nat) + ex - 1)

/-- The exact value of a binary32 word. -/
def fpDec (w : Word) : El :=
  if bits w 23 8 = 255 then (if bits w 0 23 = 0 then .inf w.msb else .nan)
  else fmtFinite b32 w.msb (bits w 23 8) (bits w 0 23)

/-- Exponent of the highest one of a nonzero number m times 2^e. -/
def topExp (m : Nat) (e : Int) : Int := e + (Nat.log2 m : Nat)

/-- `m` times 2^`e` as a multiple of 2^`q`, rounded, and whether that changed it. With `st` the value lies strictly between `m` and
`m + 1` units; the caller then keeps `e` below `q`. -/
def roundAt (rm : Rm) (neg : Bool) (m : Nat) (e : Int) (st : Bool) (q : Int) : Nat × Bool :=
  if q ≤ e then (m * 2 ^ (e - q).toNat, st)
  else
    let k := (q - e).toNat
    let hi := m / 2 ^ k
    let lo := m % 2 ^ k
    let half := 2 ^ (k - 1)
    let inexact := lo != 0 || st
    let up := match rm with
      | .near => decide (half < lo) || (lo == half && (st || hi % 2 == 1))
      | .zero => false
      | .up => !neg && inexact
      | .down => neg && inexact
    (if up then hi + 1 else hi, inexact)

/-- One rounding into a format. Tininess is judged after rounding (R47), overflow on the rounded value. -/
def roundFmt (f : Fmt) (rm : Rm) (neg : Bool) (m : Nat) (e : Int) (st : Bool) : Rounded :=
  if m = 0 then ⟨0, f.emin - (f.p - 1 : Nat), st, st, false⟩
  else
    let top := topExp m e
    let lsb := f.emin - (f.p - 1 : Nat)
    let free := top - (f.p - 1 : Nat)
    let q := if free < lsb then lsb else free
    let r := roundAt rm neg m e st q
    let tiny := decide (top < f.emin) && !(decide (top = f.emin - 1) && (roundAt rm neg m e st free).1 == 2 ^ f.p)
    let big := f.emax - (f.p - 1 : Nat)
    ⟨r.1, q, r.2, tiny, decide (big < q) || (decide (q = big) && decide (f.maxM < r.1))⟩

/-- The code of a rounded number that does not overflow. -/
def packFmt (f : Fmt) (neg : Bool) (r : Rounded) : Nat :=
  (if neg then 2 ^ (f.width - 1) else 0) + (r.q - (f.emin - (f.p - 1 : Nat))).toNat * 2 ^ (f.p - 1) + r.m

/-- The code of the largest finite number. -/
def maxCode (f : Fmt) (neg : Bool) : Nat :=
  packFmt f neg ⟨f.maxM, f.emax - (f.p - 1 : Nat), false, false, false⟩

/-- Flags of a rounding that does not overflow. -/
def roundFlags (r : Rounded) : Word := if r.inexact then (if r.tiny then flUF ||| flNX else flNX) else 0

/-- An infinity in binary32. -/
def infWord (neg : Bool) : Word := if neg then 0xFF800000 else 0x7F800000

/-- Whether overflow in this direction delivers an infinity (R47). -/
def overflowToInf (rm : Rm) (neg : Bool) : Bool :=
  match rm with
  | .near => true | .zero => false | .up => !neg | .down => neg

/-- A finite number (with a sticky rest) as binary32, with its flags (R47). -/
def roundB32St (rm : Rm) (neg : Bool) (m : Nat) (e : Int) (st : Bool) : Word × Word :=
  let r := roundFmt b32 rm neg m e st
  if r.tooBig then
    (if overflowToInf rm neg then infWord neg else wordOf (maxCode b32 neg), flOF ||| flNX)
  else (wordOf (packFmt b32 neg r), roundFlags r)

/-- An exact value as binary32, with its flags. -/
def roundB32 (rm : Rm) (x : El) : Word × Word :=
  match x with
  | .nan | .snan => (canonNan, 0)
  | .inf n => (infWord n, 0)
  | .fin n m e => roundB32St rm n m e false

/-- Sign change. -/
def elNeg : El → El
  | .fin n m e => .fin (!n) m e
  | .inf n => .inf (!n)
  | .nan => .nan
  | .snan => .snan

/-- Whether a value is a zero. -/
def elIsZero : El → Bool
  | .fin _ m _ => m == 0
  | _ => false

/-- Whether a value is finite. -/
def elIsFinite : El → Bool
  | .fin _ _ _ => true
  | _ => false

/-- The exact sum, NaN with NV when infinities cancel; an exact zero takes the sign of R143; a
signalling NaN raises NV. -/
def elAdd (rm : Rm) (x y : El) : El × Word :=
  match x, y with
  | .snan, _ => (.nan, flNV)
  | _, .snan => (.nan, flNV)
  | .nan, _ => (.nan, 0)
  | _, .nan => (.nan, 0)
  | .inf a, .inf b => if a = b then (.inf a, 0) else (.nan, flNV)
  | .inf a, _ => (.inf a, 0)
  | _, .inf b => (.inf b, 0)
  | .fin a m e, .fin b n g =>
    if m = 0 && n = 0 then (.fin (if a = b then a else rm = .down) 0 e, 0)
    else
      let q := if e < g then e else g
      let i : Int := (m * 2 ^ (e - q).toNat : Nat)
      let j : Int := (n * 2 ^ (g - q).toNat : Nat)
      let t := (if a then -i else i) + (if b then -j else j)
      if t = 0 then (.fin (rm = .down) 0 q, 0) else (.fin (decide (t < 0)) t.natAbs q, 0)

/-- The exact product, NaN with NV for an infinity times zero or a signalling NaN. -/
def elMul (x y : El) : El × Word :=
  match x, y with
  | .snan, _ => (.nan, flNV)
  | _, .snan => (.nan, flNV)
  | .nan, _ => (.nan, 0)
  | _, .nan => (.nan, 0)
  | .inf a, .inf b => (.inf (a != b), 0)
  | .inf a, .fin b n _ => if n = 0 then (.nan, flNV) else (.inf (a != b), 0)
  | .fin a m _, .inf b => if m = 0 then (.nan, flNV) else (.inf (a != b), 0)
  | .fin a m e, .fin b n g => (.fin (a != b) (m * n) (e + g), 0)

/-- The value as a dyadic integer pair (signed significand, exponent) of a finite number. -/
def elInt : El → Int × Int
  | .fin n m e => (if n then -(m : Int) else m, e)
  | _ => (0, 0)

/-- Whether x < y, both not NaN. -/
def elLt (x y : El) : Bool :=
  match x, y with
  | .nan, _ | .snan, _ => false
  | _, .nan | _, .snan => false
  | .inf a, .inf b => a && !b
  | .inf a, _ => a
  | _, .inf b => !b
  | _, _ =>
    let a := elInt x
    let b := elInt y
    let q := if a.2 < b.2 then a.2 else b.2
    decide (a.1 * 2 ^ (a.2 - q).toNat < b.1 * 2 ^ (b.2 - q).toNat)

/-- Addition of words (R143). -/
def fpAdd (rm : Rm) (a b : Word) : Word × Word :=
  let s := elAdd rm (fpDec a) (fpDec b)
  let r := roundB32 rm s.1
  (r.1, snanFlag a ||| snanFlag b ||| s.2 ||| r.2)

/-- The sign bit inverted, for subtraction; a NaN keeps its kind. -/
def flipSign (a : Word) : Word := a ^^^ 0x80000000

/-- Multiplication of words (R143). -/
def fpMul (rm : Rm) (a b : Word) : Word × Word :=
  let s := elMul (fpDec a) (fpDec b)
  let r := roundB32 rm s.1
  (r.1, snanFlag a ||| snanFlag b ||| s.2 ||| r.2)

/-- (±(A × B)) + (±C) with one rounding (R143, R145). -/
def fpFused (rm : Rm) (negP negC : Bool) (a b c : Word) : Word × Word :=
  let p := elMul (fpDec a) (fpDec b)
  let p' := if negP then elNeg p.1 else p.1
  let c' := if negC then elNeg (fpDec c) else fpDec c
  let s := elAdd rm p' c'
  let r := roundB32 rm s.1
  (r.1, snanFlag a ||| snanFlag b ||| snanFlag c ||| p.2 ||| s.2 ||| r.2)

/-- The finite quotient m 2^e / n 2^g, n nonzero, rounded. -/
def divRound (rm : Rm) (neg : Bool) (m : Nat) (e : Int) (n : Nat) (g : Int) : Word × Word :=
  let k := 64 + Nat.log2 n
  roundB32St rm neg (m * 2 ^ k / n) (e - g - (k : Nat)) (m * 2 ^ k % n != 0)

/-- Division of words (R143). -/
def fpDiv (rm : Rm) (a b : Word) : Word × Word :=
  let sn := snanFlag a ||| snanFlag b
  match fpDec a, fpDec b with
  | .nan, _ | .snan, _ => (canonNan, sn)
  | _, .nan | _, .snan => (canonNan, sn)
  | .inf _, .inf _ => (canonNan, flNV)
  | .inf x, .fin y _ _ => (infWord (x != y), 0)
  | .fin x _ _, .inf y => (wordOf (if x != y then 2 ^ 31 else 0), 0)
  | .fin x m e, .fin y n g =>
    if n = 0 then (if m = 0 then (canonNan, flNV) else (infWord (x != y), flDZ))
    else if m = 0 then (wordOf (if x != y then 2 ^ 31 else 0), 0)
    else divRound rm (x != y) m e n g

/-- Integer square root by its bits, below `b`, from the root `r` found so far. -/
def isqrtFrom : Nat → Nat → Nat → Nat
  | 0, _, r => r
  | b + 1, n, r => isqrtFrom b n (if (r + 2 ^ b) * (r + 2 ^ b) ≤ n then r + 2 ^ b else r)

/-- The largest r with r² ≤ n. -/
def isqrt (n : Nat) : Nat := isqrtFrom (Nat.log2 n / 2 + 1) n 0

/-- Square root of a word (R143). -/
def fpSqrt (rm : Rm) (a : Word) : Word × Word :=
  match fpDec a with
  | .nan | .snan => (canonNan, snanFlag a)
  | .inf n => if n then (canonNan, flNV) else (a, 0)
  | .fin n m e =>
    if m = 0 then (a, 0)
    else if n then (canonNan, flNV)
    else
      let o := if e % 2 = 0 then (m, e) else (m * 2, e - 1)
      let x := o.1 * 2 ^ 80
      let r := isqrt x
      roundB32St rm false r (o.2 / 2 - 40) (r * r != x)

/-- A × 2^n (R143). -/
def fpScale (rm : Rm) (a : Word) (n : Int) : Word × Word :=
  match fpDec a with
  | .fin s m e =>
    if m = 0 then (a, 0)
    else roundB32St rm s m (e + n) false
  | .inf _ => (a, 0)
  | .nan | .snan => (canonNan, snanFlag a)

/-- FMIN and FMAX (R144). -/
def fpMinMax (isMax propagate : Bool) (a b : Word) : Word × Word :=
  let fl := snanFlag a ||| snanFlag b
  if isNan a && isNan b then (canonNan, fl)
  else if isNan a then (if propagate then canonNan else b, fl)
  else if isNan b then (if propagate then canonNan else a, fl)
  else
    let x := fpDec a
    let y := fpDec b
    let less := elLt x y || (!elLt y x && a.msb && !b.msb)
    (if less != isMax then a else b, fl)

/-- A rounded to an integer: sign, magnitude, and whether that changed it. -/
def roundToInt (rm : Rm) (neg : Bool) (m : Nat) (e : Int) : Nat × Bool :=
  if m = 0 then (0, false) else roundAt rm neg m e false 0

end Sys2Proof.Machine
end

