-- ==== Sys2Proof/Machine/Fapx.lean ====
section
/-! DEFINITION. FAPX (R153): each function is bracketed by two dyadic numbers, ever closer, until both round to the same binary32
number. The working precision and its limit are the model's (notes/assumptions/9.md). -/

namespace Sys2Proof.Machine

open Sys2Proof

/-- Slack, in units of the last working place, that covers every truncation of the series below. -/
def fapxSlack : Nat := 2 ^ 20

/-- sum of x^(2i+1)/(2i+1), term by term, with x2 = x², all scaled by 2^w; `sg` alternates the signs. -/
def oddSeries : Nat → Nat → Nat → Nat → Nat → Bool → Int → Int
  | 0, _, _, _, _, _, acc => acc
  | n + 1, w, x2, pw, i, alt, acc =>
    let t : Int := (pw / (2 * i + 1) : Nat)
    oddSeries n w x2 (pw * x2 / 2 ^ w) (i + 1) alt (if alt && i % 2 == 1 then acc - t else acc + t)

/-- atan(1/k) scaled by 2^w. -/
def atanInv (w k : Nat) : Int := oddSeries (w / 2 + 2) w (2 ^ w / (k * k)) (2 ^ w / k) 0 true 0

/-- π scaled by 2^w (Machin). -/
def piFix (w : Nat) : Int := 16 * atanInv w 5 - 4 * atanInv w 239

/-- ln t scaled by 2^w, for t = p / q with 2/3 < t < 3/2. -/
def lnFix (w : Nat) (p q : Nat) : Int :=
  let d := if q ≤ p then p - q else q - p
  let z := d * 2 ^ w / (p + q)
  let s := oddSeries (w / 2 + 2) w (z * z / 2 ^ w) z 0 false 0
  if q ≤ p then 2 * s else -(2 * s)

/-- ln 2 scaled by 2^w, as ln (4/3) + ln (3/2). -/
def ln2Fix (w : Nat) : Int := lnFix w 4 3 - lnFix w 2 3

/-- 1 + x + x²/2! + … scaled by 2^w, for 0 ≤ x < 1. -/
def expSeries : Nat → Nat → Nat → Nat → Nat → Nat → Nat
  | 0, _, _, _, _, acc => acc
  | n + 1, w, x, term, i, acc => expSeries n w x (term * x / (2 ^ w * (i + 1))) (i + 1) (acc + term)

/-- x − x³/3! + … (odd) or 1 − x²/2! + … (even) scaled by 2^w. -/
def trigSeries : Nat → Nat → Nat → Nat → Nat → Bool → Int → Int
  | 0, _, _, _, _, _, acc => acc
  | n + 1, w, x2, term, i, minus, acc =>
    trigSeries n w x2 (term * x2 / (2 ^ w * ((i + 1) * (i + 2)))) (i + 2) (!minus) (if minus then acc - term else acc + term)

/-- The word and flags that both ends of a bracket of v ± slack (scaled by 2^w, times 2^k, sign `neg`) round to, if they agree. -/
def bracket (neg : Bool) (v : Int) (w : Nat) (k : Int) : Option (Word × Word) :=
  if v ≤ fapxSlack then none
  else
    let lo := (v - fapxSlack).toNat
    let hi := (v + fapxSlack).toNat
    let a := roundB32St .near neg lo (k - (w : Nat)) true
    let b := roundB32St .near neg hi (k - (w : Nat)) true
    if a = b then some a else none

/-- 2^f scaled by 2^w for the fraction f = m / 2^j, 0 < f < 1. -/
def exp2Fix (w m j : Nat) : Int :=
  let x := ((ln2Fix w).toNat * m) / 2 ^ j
  (expSeries (w / 2 + 4) w x (2 ^ w) 0 0 : Nat)

/-- sin (π m / 2^j) scaled by 2^w, for 0 < m / 2^j ≤ 1/4. -/
def sinFix (w m j : Nat) : Int :=
  let x := (piFix w).toNat * m / 2 ^ j
  trigSeries (w / 4 + 4) w (x * x / 2 ^ w) x 1 false 0

/-- cos (π m / 2^j) scaled by 2^w, for 0 ≤ m / 2^j ≤ 1/4. -/
def cosFix (w m j : Nat) : Int :=
  let x := (piFix w).toNat * m / 2 ^ j
  trigSeries (w / 4 + 4) w (x * x / 2 ^ w) (2 ^ w) 0 false 0

/-- The working precisions tried in turn. -/
def fapxWidths : List Nat := [128, 256, 512, 1024]

/-- The first precision that decides the rounding. -/
def refine (f : Nat → Option (Word × Word)) : Word × Word :=
  (fapxWidths.findSome? f).getD (canonNan, flNX)

/-- 1/√A for A = m 2^e > 0. -/
def rsqrtRound (m : Nat) (e : Int) : Word × Word :=
  let o := if e % 2 = 0 then (m, e) else (m * 2, e - 1)
  let k := 64 + Nat.log2 o.1
  let r := isqrt (2 ^ (2 * k) / o.1)
  roundB32St .near false r (-(o.2 / 2) - (k : Nat)) (r * r * o.1 != 2 ^ (2 * k))

/-- 2^A for finite nonzero A = ±m 2^e (R153). -/
def exp2Round (neg : Bool) (m : Nat) (e : Int) : Word × Word :=
  if 8 ≤ topExp m e then (if neg then (0, flUF ||| flNX) else (infWord false, flOF ||| flNX))
  else
    let j := (-e).toNat
    let n0 := m * 2 ^ e.toNat
    let whole : Int := (n0 / 2 ^ j : Nat)
    let frac := n0 % 2 ^ j
    let n : Int := if neg then (if frac = 0 then -whole else -whole - 1) else whole
    let fr := if neg && frac != 0 then 2 ^ j - frac else frac
    if 128 ≤ n then (infWord false, flOF ||| flNX)
    else if fr = 0 then (if n ≤ -150 then (0, flUF ||| flNX) else roundB32St .near false 1 n false)
    else if n < -150 then (0, flUF ||| flNX)
    else refine fun w => bracket false (exp2Fix w fr j) w n

/-- log2 A for A = m 2^e > 0 (R153). -/
def log2Round (m : Nat) (e : Int) : Word × Word :=
  let t := topExp m e
  let p := 2 ^ Nat.log2 m
  if m = p then (roundB32St .near (decide (t < 0)) t.natAbs 0 false)
  else
    let up := decide (4 * p < 3 * m)
    let n : Int := if up then t + 1 else t
    refine fun w =>
      let l := lnFix w m (if up then 2 * p else p)
      let v := n * 2 ^ w + l * 2 ^ w / ln2Fix w
      bracket (decide (v < 0)) (v.natAbs : Nat) w 0

/-- sin or cos of π A for finite A = ±m 2^e: quarter turns and the rest are split exactly (R153). -/
def trigRound (cosine neg : Bool) (m : Nat) (e : Int) : Word × Word :=
  let j := (-e).toNat + 2
  let x := m * 2 ^ (e + (j : Nat)).toNat % 2 ^ (j + 1)
  let oct := x / 2 ^ (j - 2)
  let y := x % 2 ^ (j - 2)
  let up := 2 ^ (j - 2) - y
  let q := if cosine then oct + 2 else oct
  let minus := (decide (4 ≤ q % 8)) != (neg && !cosine)
  match q % 4 with
  | 0 => if y = 0 then (0, 0) else refine fun w => bracket minus (sinFix w y j) w 0
  | 1 => refine fun w => bracket minus (cosFix w up j) w 0
  | 2 => if y = 0 then (if minus then 0xBF800000 else 0x3F800000, 0) else refine fun w => bracket minus (cosFix w y j) w 0
  | _ => refine fun w => bracket minus (sinFix w up j) w 0

/-- FAPX of one word (R153). -/
def fpApprox (x : FapxF) (a : Word) : Word × Word :=
  match fpDec a with
  | .nan | .snan => (canonNan, snanFlag a)
  | .inf n =>
    match x with
    | .rcp => (if n then 0x80000000 else 0, 0)
    | .rsq => if n then (canonNan, flNV) else (0, 0)
    | .exp2 => (if n then 0 else a, 0)
    | .log2 => if n then (canonNan, flNV) else (a, 0)
    | .sin => (canonNan, flNV)
    | .cos => (canonNan, flNV)
  | .fin n m e =>
    match x with
    | .rcp => if m = 0 then (infWord n, flDZ) else divRound .near n 1 0 m e
    | .rsq => if m = 0 then (infWord n, flDZ) else if n then (canonNan, flNV) else rsqrtRound m e
    | .exp2 => if m = 0 then (0x3F800000, 0) else exp2Round n m e
    | .log2 => if m = 0 then (infWord true, flDZ) else if n then (canonNan, flNV) else log2Round m e
    | .sin => if m = 0 then (a, 0) else trigRound false n m e
    | .cos => if m = 0 then (0x3F800000, 0) else trigRound true n m e

end Sys2Proof.Machine
end

