-- ==== Sys2Proof/Machine/Flags.lean ====
section
/-! DEFINITION. The lane functions that raise flags (R141 to R153): each gives a result word and the flags of R49 it signals. -/

namespace Sys2Proof.Machine

open Sys2Proof

/-- FSCL: the exponent is clamped to −512 to 511 (R143). -/
def fScl (rm : Rm) (a b : Word) : Word × Word :=
  fpScale rm a (if b.toInt < -512 then -512 else if 511 < b.toInt then 511 else b.toInt)

/-- FLRP: two roundings and the union of their flags (R143). -/
def fLrp (rm : Rm) (a b c : Word) : Word × Word :=
  let d := fpAdd rm b (flipSign a)
  let r := fpFused rm false false c d.1 a
  (r.1, d.2 ||| r.2)

/-- FCMP (R146). -/
def fCmp (x : FcmpF) (a b : Word) : Word × Word :=
  let un := isNan a || isNan b
  let lt := elLt (fpDec a) (fpDec b)
  let gt := elLt (fpDec b) (fpDec a)
  let sn := snanFlag a ||| snanFlag b
  match x with
  | .eq => (wbool (!un && !lt && !gt), sn)
  | .ne => (wbool (un || lt || gt), sn)
  | .lt => (wbool (!un && lt), if un then flNV else 0)
  | .le => (wbool (!un && !gt), if un then flNV else 0)
  | .un => (wbool un, sn)
  | .ord => (wbool (!un), sn)

/-- FSGN on one lane (R147); `b` is read by the first three forms alone. -/
def fSgn (x : FsgnF) (a b : Word) : Word :=
  let rest := a &&& 0x7FFFFFFF
  let s := match x with
    | .cpy => b.msb
    | .ncpy => !b.msb
    | .xor => a.msb != b.msb
    | .abs => false
    | .neg => !a.msb
  if s then rest ||| 0x80000000 else rest

/-- CVTFI (R148). -/
def cvtFI (rm : Rm) (x : CvtfiF) (a : Word) : Word × Word :=
  let isSigned := x == .sw || x == .swz
  let dir := match x with
    | .sw => rm | .uw => rm | .swz => .zero | .uwz => .zero
  let top : Word := if isSigned then 0x7FFFFFFF else 0xFFFFFFFF
  let bottom : Word := if isSigned then 0x80000000 else 0
  match fpDec a with
  | .nan | .snan => (0, flNV)
  | .inf n => (if n then bottom else top, flNV)
  | .fin n m e =>
    let r := roundToInt dir n m e
    let v : Int := if n then -(r.1 : Int) else r.1
    let lo : Int := if isSigned then -(2 ^ 31) else 0
    let hi : Int := if isSigned then 2 ^ 31 - 1 else 2 ^ 32 - 1
    if v < lo then (bottom, flNV)
    else if hi < v then (top, flNV)
    else (wordOfInt v, if r.2 then flNX else 0)

/-- CVTIF (R148). -/
def cvtIF (rm : Rm) (x : Sgn) (a : Word) : Word × Word :=
  match x with
  | .sw => if a = 0 then (0, 0) else roundB32St rm a.msb a.toInt.natAbs 0 false
  | .uw => if a = 0 then (0, 0) else roundB32St rm false a.toNat 0 false

/-- FRND (R149). -/
def fRnd (rm : Rm) (x : FrndF) (a : Word) : Word × Word :=
  let dir := match x with
    | .byRm => rm | .rn => .near | .rz => .zero | .ru => .up | .rd => .down
  match fpDec a with
  | .nan | .snan => (canonNan, snanFlag a)
  | .inf _ => (a, 0)
  | .fin n m e => ((roundB32St .near n (roundToInt dir n m e).1 0 false).1, 0)

/-- FXTR (R150). -/
def fXtr (x : FxtrF) (a : Word) : Word × Word :=
  match x with
  | .exp =>
    match fpDec a with
    | .nan | .snan => (0x80000000, flNV)
    | .inf _ => (0x7FFFFFFF, flNV)
    | .fin _ m e => if m = 0 then (0x80000000, flNV) else (wordOfInt (topExp m e), 0)
  | .sig =>
    match fpDec a with
    | .nan | .snan => (canonNan, snanFlag a)
    | .inf _ => (a, 0)
    | .fin n m _ => if m = 0 then (a, 0) else roundB32St .near n m (-(Nat.log2 m : Nat)) false

/-- A rounded number of a narrow format delivered as binary32; it always fits. -/
def asB32 (neg : Bool) (r : Rounded) : Word := (roundB32St .near neg r.m r.q false).1

/-- NARR (R151). -/
def narrow (rm : Rm) (x : NarrF) (a : Word) : Word × Word :=
  let f := match x with
    | .b16 => b16 | .bf16 => bf16 | .e4m3 => e4m3 | .e5m2 => e5m2
  let clamps := x == .e4m3 || x == .e5m2
  let big (n : Bool) : Word := asB32 n ⟨f.maxM, f.emax - (f.p - 1 : Nat), false, false, false⟩
  match fpDec a with
  | .nan | .snan => (canonNan, snanFlag a)
  | .inf n => if x = .e4m3 then (big n, flNV) else (a, 0)
  | .fin n m e =>
    let r := roundFmt f rm n m e false
    if r.tooBig then
      if clamps then (big n, flNX)
      else (if overflowToInf rm n then infWord n else big n, flOF ||| flNX)
    else (asB32 n r, roundFlags r)

/-- One piece of SPL3 (R152): a BF16 rounding of an exact value. -/
def spl3Round (rm : Rm) (x : El) : Word × Word :=
  match x with
  | .nan | .snan => (canonNan, 0)
  | .inf n => (infWord n, 0)
  | .fin n m e =>
    let r := roundFmt bf16 rm n m e false
    if r.tooBig then
      (if overflowToInf rm n then infWord n else asB32 n ⟨0xFF, 120, false, false, false⟩, flOF ||| flNX)
    else (asB32 n r, roundFlags r)

/-- SPL3 (R152). -/
def spl3 (rm : Rm) (x : Spl3F) (a : Word) : Word × Word :=
  if isNan a then (canonNan, snanFlag a)
  else
    let h := spl3Round rm (fpDec a)
    let rest := (elAdd rm (fpDec a) (elNeg (fpDec h.1))).1
    let m := spl3Round rm rest
    let rest2 := (elAdd rm rest (elNeg (fpDec m.1))).1
    match x with
    | .h => h
    | .m => if elIsFinite (fpDec h.1) then m else (0, 0)
    | .l => if elIsFinite (fpDec h.1) then spl3Round rm rest2 else (0, 0)

end Sys2Proof.Machine
end

