-- ==== Sys2Proof/Machine/Formats.lean ====
section
/-! DEFINITION. Storage formats of the stream units (R52 to R63): element codes, bursts and their scales. -/

namespace Sys2Proof.Machine

open Sys2Proof

/-- Bits of an element of a format code (R52). -/
def elemBits (code : Nat) : Nat :=
  match code with
  | 0 => 32 | 1 => 16 | 2 => 16 | 3 => 8 | 4 => 8 | 5 => 6 | 6 => 6 | 7 => 4 | 8 => 8 | 9 => 8 | 10 => 6 | 11 => 6 | 12 => 4
  | 13 => 8 | 14 => 8 | 15 => 8 | 16 => 16 | 17 => 32 | 18 => 4 | 19 => 8 | _ => 32

/-- Whether a format has a scale per burst (R52). -/
def isScaled (code : Nat) : Bool := (decide (8 ≤ code) && decide (code ≤ 13)) || code == 19

/-- The floating-point format of an element (R52); other codes have none. -/
def elemFmt (code : Nat) : Option Fmt :=
  match code with
  | 0 => some b32 | 1 => some b16 | 2 => some bf16 | 3 => some e4m3 | 4 => some e5m2 | 5 => some e3m2 | 6 => some e2m3
  | 7 => some e2m1 | 8 => some e4m3 | 9 => some e5m2 | 10 => some e3m2 | 11 => some e2m3 | 12 => some e2m1 | _ => none

/-- emax_elem (R52). -/
def elemEmax (code : Nat) : Int :=
  match code with
  | 8 => 8 | 9 => 15 | 10 => 4 | 11 => 2 | 12 => 2 | _ => 0

/-- Whether a format has infinities (R52): B32, B16, BF16 and E5M2. -/
def fmtHasInf (f : Fmt) : Bool := f.width == 32 || f.width == 16 || (f.width == 8 && f.p == 3)

/-- Bytes of a burst of `l` elements (R54). -/
def burstBytes (code l : Nat) : Nat := 1 + (l * elemBits code + 7) / 8

/-- The value of a code of a floating-point format, with NV for a signalling NaN (R52, R55). -/
def decodeFloat (f : Fmt) (n : Nat) : El × Word :=
  let m := f.p - 1
  let eb := f.width - 1 - m
  let neg := decide (n / 2 ^ (f.width - 1) % 2 = 1)
  let ex := n / 2 ^ m % 2 ^ eb
  let fr := n % 2 ^ m
  if fmtHasInf f && ex == 2 ^ eb - 1 then
    if fr = 0 then (.inf neg, 0) else (.nan, if fr / 2 ^ (m - 1) % 2 = 0 then flNV else 0)
  else if f.width = 8 && ex == 2 ^ eb - 1 && fr == 2 ^ m - 1 then (.nan, 0)
  else (fmtFinite f neg ex fr, 0)

/-- One term of a dyad in units of 1/64 (R61). -/
def dyTerm (s k : Nat) : Int := if k = 7 then 0 else if s = 1 then -(2 ^ (6 - k)) else 2 ^ (6 - k)

/-- The value of a dyad code (R61). -/
def dyValue (n : Nat) : El :=
  let t := dyTerm (n / 128 % 2) (n / 16 % 8) + dyTerm (n / 8 % 2) (n % 8)
  .fin (decide (t < 0)) t.natAbs (-6)

/-- Multiplies by a power of two. -/
def elScale (x : El) (k : Int) : El :=
  match x with
  | .fin n m e => .fin n m (e + k)
  | y => y

/-- The exact value of a scaled element before its burst's scale, with its flags (R52, R55). -/
def decodeScaledEl (code n : Nat) : El × Word :=
  match elemFmt code with
  | some f => decodeFloat f n
  | none =>
    if code = 13 then
      let v := signed n 8
      (.fin (decide (v < 0)) v.natAbs (-6), 0)
    else (dyValue n, 0)

/-- The lane word of an unscaled element code, with its flags (R52, R55, R57). -/
def decodeElem (code n : Nat) : Word × Word :=
  match elemFmt code with
  | some f =>
    let d := decodeFloat f n
    let r := roundB32 .near d.1
    (r.1, d.2 ||| r.2)
  | none =>
    match code with
    | 14 => (wordOfInt (signed n 8), 0)
    | 16 => (wordOfInt (signed n 16), 0)
    | 18 => (wordOfInt (signed n 4), 0)
    | _ => (wordOf n, 0)

/-- The value of element code `n` of a burst with scale byte `sc`: the element and its scale's exponent (R53, R64); a signalling NaN
element raises NV under any scale (R55). -/
def burstEl (code sc n : Nat) : El × Int × Word :=
  let d := decodeScaledEl code n
  if sc = 255 then (.nan, 0, d.2) else (d.1, (sc : Int) - 127, d.2)

/-- The lane word of an element of a burst (R53, R55). -/
def decodeBurstElem (code sc n : Nat) : Word × Word :=
  let d := burstEl code sc n
  let r := roundB32 .near (elScale d.1 d.2.1)
  (r.1, d.2.2 ||| r.2)

/-- The NaN code of a format, or none where it has none (R56). -/
def nanCode (f : Fmt) : Option Nat :=
  if f.width = 32 then some 0x7FC00000
  else if f.width = 16 then (if f.p = 11 then some 0x7E00 else some 0x7FC0)
  else if f.width = 8 then (if f.p = 4 then some 0x7F else some 0x7E)
  else none

/-- Encoding of an exact value into a floating-point format (R56); `sat` is the saturation of R60, which stores no infinity. -/
def encodeFloat (f : Fmt) (sat : Bool) (x : El) : Nat × Word :=
  match x with
  | .nan | .snan => match nanCode f with | some c => (c, 0) | none => (0, flNV)
  | .inf n =>
    if fmtHasInf f && !sat then
      ((if n then 2 ^ (f.width - 1) else 0) + 2 ^ (f.width - 1) - 2 ^ (f.p - 1), 0)
    else (maxCode f n, flNV)
  | .fin n m e =>
    let r := roundFmt f .near n m e false
    if r.tooBig then
      if decide (16 ≤ f.width) then ((if n then 2 ^ (f.width - 1) else 0) + 2 ^ (f.width - 1) - 2 ^ (f.p - 1), flOF ||| flNX)
      else (maxCode f n, flNX)
    else (packFmt f n r, roundFlags r)

/-- Canonical positive dyad codes by magnitude in units of 1/64 (R62). -/
def dyTable : List (Nat × Nat) :=
  [(1, 0x67), (2, 0x57), (3, 0x56), (4, 0x47), (5, 0x46), (6, 0x45), (7, 0x3E), (8, 0x37), (9, 0x36), (10, 0x35), (12, 0x34),
   (14, 0x2D), (15, 0x2E), (16, 0x27), (17, 0x26), (18, 0x25), (20, 0x24), (24, 0x23), (28, 0x1C), (30, 0x1D)] ++
  [(31, 0x1E), (32, 0x17), (33, 0x16), (34, 0x15), (36, 0x14), (40, 0x13), (48, 0x12), (56, 0x0B), (60, 0x0C), (62, 0x0D),
   (63, 0x0E), (64, 0x07), (65, 0x06), (66, 0x05), (68, 0x04), (72, 0x03), (80, 0x02), (96, 0x01), (128, 0x00)]

/-- Whether 2 m 2^k exceeds n. -/
def twiceAbove (m : Nat) (k : Int) (n : Nat) : Bool :=
  if 0 ≤ k then decide (n < 2 * m * 2 ^ k.toNat) else decide (n * 2 ^ (-k).toNat < 2 * m)

/-- The nearest magnitude of the table to m 2^k units, a tie going to the smaller (R63), starting from magnitude `g`. -/
def dyNearest (m : Nat) (k : Int) : Nat × Nat → List (Nat × Nat) → Nat × Nat
  | g, [] => g
  | g, h :: t => if twiceAbove m k (g.1 + h.1) then dyNearest m k h t else g

/-- Whether m 2^k units are exactly `g` units. -/
def dyExact (m : Nat) (k : Int) (g : Nat) : Bool :=
  if 0 ≤ k then m * 2 ^ k.toNat == g else m == g * 2 ^ (-k).toNat

/-- Encoding into a dyad (R62, R63). -/
def encodeDy (x : El) : Nat × Word :=
  match x with
  | .nan | .snan => (0x77, flNV)
  | .inf n => (if n then 0x88 else 0, flNV)
  | .fin n m e =>
    if m = 0 then (0x77, 0)
    else
      let g := dyNearest m (e + 6) (0, 0x77) dyTable
      if g.1 = 0 then (0x77, flUF ||| flNX)
      else
        let c := if n then (if g.2 % 8 = 7 then Nat.xor g.2 0x80 else Nat.xor g.2 0x88) else g.2
        (c, if dyExact m (e + 6) g.1 then 0 else flNX)

/-- Encoding into MXINT8 (R57): n is clamped to its range with NX. DESIGN CHOICE: an element in range that n does not give exactly raises NX alone,
UF not even where it becomes 0 (notes/assumptions/92.md). -/
def encodeMxint (x : El) : Nat × Word :=
  match x with
  | .nan | .snan => (0, flNV)
  | .inf n => (if n then 0x80 else 0x7F, flNV)
  | .fin n m e =>
    let r := roundToInt .near n m (e + 6)
    if n then (if 128 < r.1 then (0x80, flNX) else ((256 - r.1) % 256, if r.2 then flNX else 0))
    else if 127 < r.1 then (0x7F, flNX)
    else (r.1, if r.2 then flNX else 0)

/-- Encoding of one scaled element after division by its burst's scale (R56, R57, R63). -/
def encodeScaledEl (code : Nat) (sat : Bool) (x : El) : Nat × Word :=
  match elemFmt code with
  | some f => encodeFloat f sat x
  | none => if code = 13 then encodeMxint x else encodeDy x

/-- The code of a null element (R58). -/
def zeroCode (code : Nat) : Nat := if code = 19 then 0x77 else 0

/-- Saturation of a signed integer into a range (R57). -/
def satInt (lo hi v : Int) (w : Nat) : Nat × Word :=
  if v < lo then ((lo % 2 ^ w).toNat, flNV) else if hi < v then ((hi % 2 ^ w).toNat, flNV) else ((v % 2 ^ w).toNat, 0)

/-- The code of an unscaled element from a lane (R56 to R58). -/
def encodeElem (code : Nat) (lane : Option Word) : Nat × Word :=
  match lane with
  | none => (0, 0)
  | some a =>
    match elemFmt code with
    | some f =>
      let r := encodeFloat f false (fpDec a)
      (r.1, r.2 ||| snanFlag a)
    | none =>
      match code with
      | 14 => satInt (-128) 127 a.toInt 8
      | 15 => satInt 0 255 a.toInt 8
      | 16 => satInt (-32768) 32767 a.toInt 16
      | 18 => satInt (-8) 7 a.toInt 4
      | _ => (a.toNat, 0)

/-- The larger of two exact magnitudes. -/
def elMaxMag (x y : El) : El :=
  match x, y with
  | .fin _ m e, .fin _ n g => if elLt (.fin false m e) (.fin false n g) then .fin false n g else .fin false m e
  | _, _ => x

/-- Largest finite magnitude of the lanes of a burst (R59). -/
def burstMax (lanes : List (Option Word)) : El :=
  lanes.foldl (fun a l =>
    match l with
    | some w => match fpDec w with | .fin _ m e => elMaxMag a (.fin false m e) | _ => a
    | none => a) (.fin false 0 0)

/-- Whether a lane of a burst is infinite. -/
def burstHasInf (lanes : List (Option Word)) : Bool :=
  lanes.any fun l => match l with | some w => (match fpDec w with | .inf _ => true | _ => false) | none => false

/-- The exponent of a COMPUTED scale (R59, R60). -/
def computedScale (code : Nat) (lanes : List (Option Word)) : Int :=
  match burstMax lanes with
  | .fin _ m e => if m = 0 then -127 else
      let k := topExp m e - elemEmax code
      if k < -127 then -127 else k
  | _ => -127

/-- Whether a finite element exceeds its format's range under a FIXED scale of exponent `k` (R60). -/
def fixedOver (code : Nat) (k : Int) (a : Word) : Bool :=
  match fpDec a with
  | .inf _ => true
  | .nan | .snan => false
  | .fin n m e =>
    match elemFmt code with
    | some f => (roundFmt f .near n m (e - k) false).tooBig
    | none =>
      if code = 13 then
        let r := (roundToInt .near n m (e - k + 6)).1
        decide ((if n then 128 else 127) < r)
      else twiceAbove m (e - k + 6) 256

/-- What the encoding of a burst gives: its scale byte, its element codes and its flags; none when it stops for RESCALE (R60). -/
def encodeBurst (code : Nat) (fixed : Option Nat) (trap : Bool) (lanes : List (Option Word)) :
    Option (Nat × List Nat × Word) :=
  let k : Int := match fixed with
    | some sc => (sc : Int) - 127
    | none => computedScale code lanes
  let isOver := match fixed with
    | some _ => lanes.any fun l => match l with | some a => fixedOver code k a | none => false
    | none => burstHasInf lanes
  if isOver && trap then none
  else
    let cs := lanes.map fun l =>
      match l with
      | none => (zeroCode code, (0 : Word))
      | some a =>
        let r := encodeScaledEl code true (elScale (fpDec a) (-k))
        (r.1, r.2 ||| snanFlag a)
    some ((k + 127).toNat, cs.map fun p => p.1, (cs.foldl (fun f p => f ||| p.2) 0) ||| (if isOver then flSO else 0))

/-- Elements packed as a bit stream (R54), as one number. -/
def packCodes (w : Nat) : List Nat → Nat
  | [] => 0
  | c :: cs => c % 2 ^ w + 2 ^ w * packCodes w cs

end Sys2Proof.Machine
end

