-- ==== Sys2Proof/Machine/Stream.lean ====
section
/-! DEFINITION. The STREAM group (R205 to R211): what its functions do at firing and at commit. Units 0 to 3 are RS0, RS1, WS0 and
WS1. -/

namespace Sys2Proof.Machine

open Sys2Proof

/-! ### Units and descriptors -/

/-- Stream unit `n` of a core. -/
def unitOf (s : State) (c n : Nat) : SUnit := Tbl.get {} (coreOf s c).units n

/-- Replaces a stream unit. -/
def putUnit (s : State) (c n : Nat) (u : SUnit) : State := modCore s c fun k => { k with units := Tbl.put k.units n u }

/-- Word `i` of a descriptor (R206). -/
def descWord (d : List Word) (i : Nat) : Word := (d[i]?).getD 0

/-- COUNT of counter `j`; 0 acts as 1 (R206). -/
def descCount (d : List Word) (j : Nat) : Nat := let n := bits (descWord d (1 + j)) 0 16; if n = 0 then 1 else n

/-- STRIDE of counter `j` (R206). -/
def descStride (d : List Word) (j : Nat) : Int := signed (bits (descWord d (1 + j)) 16 16) 16

/-- FMT (R206). -/
def descFmt (d : List Word) : Nat := bits (descWord d 5) 0 5
/-- Burst length (R206). -/
def descBlen (d : List Word) : Nat := bits (descWord d 5) 5 6 + 1
/-- RAW (R206). -/
def descRaw (d : List Word) : Nat := bits (descWord d 6) 16 9
/-- TIDX (R206). -/
def descTidx (d : List Word) : Nat := bits (descWord d 6) 2 8
/-- TKIND (R206). -/
def descTkind (d : List Word) : Nat := bits (descWord d 6) 0 2
/-- FACT (R206). -/
def descFact (d : List Word) : Nat := bits (descWord d 7) 14 2
/-- FTAG (R206). -/
def descFtag (d : List Word) : Nat := bits (descWord d 7) 16 8
/-- FIN (R206). -/
def descFin (d : List Word) : Nat := bits (descWord d 7) 8 6
/-- START (R206). -/
def descStart (d : List Word) : Nat := bits (descWord d 7) 0 6
/-- SEN (R206). -/
def descSen (d : List Word) : Bool := bit (descWord d 7) 6

/-- Elements of a run (R207). -/
def descTotal (d : List Word) : Nat := descCount d 0 * descCount d 1 * descCount d 2 * descCount d 3

/-- Offset, in elements, of element `n` of the run (R207): counter 0 is the innermost. -/
def elemOffset (d : List Word) (n : Nat) : Int :=
  let c0 := descCount d 0
  let c1 := descCount d 1
  let c2 := descCount d 2
  (n % c0 : Nat) * descStride d 0 + (n / c0 % c1 : Nat) * descStride d 1 + (n / c0 / c1 % c2 : Nat) * descStride d 2 +
  (n / c0 / c1 / c2 : Nat) * descStride d 3

/-- Address and size of the first and last accesses that element offset `o` needs (R54, R207): a scaled burst or a bit stream is
reached by bytes. -/
def elemSpan (d : List Word) (o : Int) : List (Word × Nat) :=
  let w := elemBits (descFmt d)
  let base : Int := (descWord d 0).toNat
  if isScaled (descFmt d) then
    let n : Int := burstBytes (descFmt d) (descBlen d)
    let a := base + o / (descBlen d : Nat) * n
    [(wordOfInt a, 1), (wordOfInt (a + n - 1), 1)]
  else if w < 8 then [(wordOfInt (base + o * w / 8), 1), (wordOfInt (base + (o * w + w - 1) / 8), 1)]
  else [(wordOfInt (base + o * (w / 8 : Nat)), w / 8)]

/-- The access class of a unit's accesses of `size` bytes (R209). -/
def unitAcc (reads : Bool) (size : Nat) : Acc := if reads then .load else if size = 4 then .stFull else .stPart

/-- Offsets reached at the ends of the counters, each alone and together (R209). -/
def endOffsets (d : List Word) : List Int :=
  let r (j : Nat) : Int := ((descCount d j : Nat) - 1 : Int) * descStride d j
  let rs := [r 0, r 1, r 2, r 3]
  let lo := rs.foldl (fun a x => if x < 0 then a + x else a) 0
  let hi := rs.foldl (fun a x => if 0 < x then a + x else a) 0
  0 :: lo :: hi :: rs

/-- Whether a scaled or sub-byte layout breaks R207. -/
def layoutBad (d : List Word) : Bool :=
  (isScaled (descFmt d) || decide (elemBits (descFmt d) < 8)) &&
  (descStride d 0 != 1 || descCount d 0 % descBlen d != 0 ||
   [1, 2, 3].any fun j => descStride d j % (descBlen d : Nat) != 0)

/-- The checks of a descriptor on unit `n` for context `x` (R209). -/
def descBad (s : State) (c x n : Nat) (d : List Word) : Bool :=
  let v := ctxOf s c x
  let reads := decide (n < 2)
  let k := descTkind d
  bits (descWord d 5) 22 10 != 0 || bits (descWord d 6) 25 7 != 0 || bits (descWord d 6) 10 6 != 0 ||
  bits (descWord d 7) 24 8 != 0 || bit (descWord d 7) 7 ||
  decide (20 < descFmt d) || decide (1 < bits (descWord d 5) 11 2) || descRaw d == 0 || decide (256 < descRaw d) ||
  decide ((if reads then 2 else 1) < k) ||
  (k == 0 && reads && (decide (63 < descTidx d) || !bit (Tbl.get 0 v.chans (descTidx d)) 31)) ||
  (k == 0 && !reads && (let b := bindingOf (coreOf s c) (descTidx d)
    !bValid b || bCtx b != x || bArity b != 1)) ||
  (k != 0 && (coreOf s c).mx.owner != some x) ||
  layoutBad d ||
  (endOffsets d).any fun o => (elemSpan d o).any fun p => (accCheck c (winOf v p.1) (unitAcc reads p.2) p.1 p.2).isSome

/-! ### Completion -/

/-- The lanes of a completion token (R191). -/
def completionOf (l0 l1 l2 l3 : Word) : Val := ⟨some l0, some l1, some l2, some l3, none, none, none, none⟩

/-- Sends a completion token to a tag of the core that issued the operation (R191). -/
def sendCompletion (s : State) (c tag : Nat) (l0 l1 l2 l3 : Word) : State :=
  post s c c 2 (.token { tag := tag, lanes := completionOf l0 l1 l2 l3 } .nobody)

/-- Adds one pulse to a channel of a core; 15 stays 15 (R205). -/
def addPulse (s : State) (c ch : Nat) : State :=
  modCore s c fun k => { k with pulses := Tbl.put k.pulses ch (let n := Tbl.get 0 k.pulses ch; if 15 ≤ n then 15 else n + 1) }

/-- Flags that an engine raises for a context, and for the record of a SAVED one (R51, R395). -/
def raiseFlags (s : State) (c x : Nat) (f : Word) : State :=
  let more (v : Context) : Context := { v with flags := v.flags ||| (f &&& 0x3F) }
  if f = 0 then s else modCtx (onRecord s c x more) c x more

/-- The finish action of a unit's run as it stands, `left` lanes of its last stores not yet acknowledged (R191, R192, R208). -/
def endOf (u : SUnit) (status left : Nat) : UnitEnd := {
  epoch := u.epoch
  left := left
  status := status
  count := u.done - u.nrefused
  flags := u.flags &&& 0x3F
  fact := descFact u.desc
  fin := descFin u.desc
  ftag := descFtag u.desc }

/-- A finish action of unit `n` (R191, R208): a pulse, a token, both or neither. -/
def performEnd (s : State) (c n : Nat) (e : UnitEnd) : State :=
  let s := if e.fact % 2 = 1 then addPulse s c e.fin else s
  if 2 ≤ e.fact then sendCompletion s c e.ftag (wordOf e.status) (wordOf e.count) e.flags (wordOf n) else s

/-- Lanes of a write unit's last stores whose owners have still to perform them (R192). -/
def storesOut (u : SUnit) (n : Nat) : Nat := if n < 2 then 0 else u.asked.length - u.got.length

/-- The finish action of a unit's run follows once other owners have performed its stores, `left` of which are still to be acknowledged (R192). -/
def unitEnds (s : State) (c n status left : Nat) : State :=
  let e := endOf (unitOf s c n) status left
  if left = 0 then performEnd s c n e
  else putUnit s c n { unitOf s c n with endings := (unitOf s c n).endings ++ [e] }

/-- The finish action of a unit whose stores are performed (R191, R208). -/
def unitFinish (s : State) (c n status : Nat) : State := unitEnds s c n status 0

/-- Late causes of a context that have no entry (R376). -/
def entrylessLate (v : Context) : Nat := (v.lateQ.filter fun l => l.entry.isNone).length

/-- Queues a late cause with no entry, if a place is free (R376); it joins the queue in the record of a SAVED context (R395). -/
def pushLate (s : State) (c x : Nat) (l : Late) : Option State :=
  let more (v : Context) : Context := { v with lateQ := v.lateQ ++ [l] }
  if entrylessLate (ctxOf s c x) < 8 then some (modCtx (onRecord s c x more) c x more) else none

/-- Gives the held reports of a context's engines their places, as far as there are some (R376). -/
def flushLate (s : State) (c x : Nat) : State :=
  let s := [0, 1, 2, 3].foldl (fun s n =>
    let u := unitOf s c n
    match u.late with
    | some (y, l) =>
      if y = x then
        match pushLate s c x l with
        | some s => putUnit s c n { unitOf s c n with late := none }
        | none => s
      else s
    | none => s) s
  let m := (coreOf s c).mx
  match m.late with
  | some (y, l) =>
    if y = x then
      match pushLate s c x l with
      | some s => modCore s c fun k => { k with mx := { k.mx with late := none } }
      | none => s
    else s
  | none => s

/-- Queues a unit's late cause, or holds it until a place is free (R376). -/
def unitLate (s : State) (c n : Nat) (l : Late) : State :=
  let u := unitOf s c n
  match pushLate s c u.owner l with
  | some s => s
  | none => putUnit s c n { u with late := some (u.owner, l) }

/-- A unit at the start of its run; elements that a readout has passed to it stay (R217). -/
def unitRewind (u : SUnit) : SUnit :=
  { u with
    next := 0
    done := 0
    pending := if descTkind u.desc = 1 then u.pending else []
    flags := 0
    refused := none
    nrefused := 0
    got := []
    asked := []
    ahead := [] }

/-! ### Effects at commit -/

/-- STREAM at commit (R208, R374). -/
def streamErr (n : Nat) (taddr : Word) (slot : Nat) : BFault := { cause := .stream, taddr := taddr, slot := slot, lsid := n % 4 }

/-- Whether a unit belongs to another context (R208). -/
def unitForeign (u : SUnit) (x : Nat) : Bool := u.st != .idle && u.owner != x

/-- SDEF at commit (R206, R208, R209). DESIGN CHOICE: a descriptor that is not 32-byte aligned in the program's SRAM faults STREAM
(notes/assumptions/72.md). -/
def commitSdef (s : State) (c x slot lsid n : Nat) (addr : Word) : Except BFault State :=
  let u := unitOf s c n
  let d := readWords s (sramKey c addr.toNat) 8
  if unitForeign u x || !(u.st == .idle || u.st == .loaded) || addr.toNat % 32 != 0 || decide (progEnd s c < addr.toNat + 32)
  then .error (streamErr n addr slot)
  else
    match spanBad s c addr.toNat 32 with
    | some a => .error { cause := .ecc, taddr := wordOf a, slot := slot, lsid := lsid }
    | none =>
      if descBad s c x n d then .error (streamErr n addr slot)
      else .ok (putUnit s c n { unitRewind u with
        st := .loaded
        owner := x
        desc := d
        pending := []
        alt := none
        daddr := addr })

/-- SGO at commit (R208, R210): `waits` are the entries that its accesses wait for (R304). -/
def commitSgo (s : State) (c x slot n : Nat) (resume : Bool) (waits : List Nat) : Except BFault State :=
  let u := unitOf s c n
  if unitForeign u x || !(u.st == .held || (u.st == .loaded && !resume)) || descBad s c x n u.desc then
    .error (streamErr n u.daddr slot)
  else if resume then .ok (putUnit s c n { u with st := .running, holdOn := waits, queued := true })
  else .ok (putUnit s c n { unitRewind u with
    st := if descSen u.desc then .armed else .running
    alt := none
    holdOn := waits
    queued := true })

/-- SCOND at commit (R208). -/
def commitScond (s : State) (c x slot n alt : Nat) (waits : List Nat) : Except BFault State :=
  let u := unitOf s c n
  if unitForeign u x || u.st != .loaded || descBad s c x n u.desc then .error (streamErr n u.daddr slot)
  else .ok (putUnit s c n { unitRewind u with
    st := .armed
    alt := some alt
    holdOn := waits
    queued := true })

/-- A unit stops: it is LOADED, and its finish action with STOPPED follows the stores that are under way (R192, R208). -/
def stopUnit (s : State) (c n : Nat) : State :=
  let s := unitEnds s c n 1 (storesOut (unitOf s c n) n)
  putUnit s c n { unitRewind (unitOf s c n) with st := .loaded, queued := false }

/-- SSTOP at commit (R208). -/
def commitSstop (s : State) (c x slot n : Nat) (rel : Bool) : Except BFault State :=
  let u := unitOf s c n
  if unitForeign u x then .error (streamErr n u.daddr slot)
  else
    match u.st with
    | .idle => .error (streamErr n u.daddr slot)
    | .armed => .ok (stopUnit s c n)
    | .running => .ok (stopUnit s c n)
    | _ => .ok (putUnit s c n (if rel then { sent := u.sent, epoch := u.epoch, late := u.late, endings := u.endings }
        else { unitRewind u with st := .loaded, queued := false }))

/-- SFMT at commit (R208, R210). -/
def commitSfmt (s : State) (c x slot n : Nat) (w : Word) : Except BFault State :=
  let u := unitOf s c n
  let d := (u.desc.zip (List.range 8)).map fun p => if p.2 = 5 then w else p.1
  if unitForeign u x || !(u.st == .loaded || u.st == .held) || descBad s c x n d then .error (streamErr n u.daddr slot)
  else .ok (putUnit s c n { u with desc := d })

/-! ### Firing -/

/-- SDEF (R206). -/
def execSdef (q : LF) (unit : BitVec 2) (s : State) : Host.Outcome State Fault Refusal :=
  fireQ1 s (.sdef q unit) q.lsid fun _ _ _ a => .ok (.sdef unit.toNat a)

/-- SGO (R208). -/
def execSgo (q : LF) (unit : BitVec 2) (resume : Bool) (s : State) : Host.Outcome State Fault Refusal :=
  fireQ0 s (.sgo q unit resume) q.lsid fun _ _ => .ok (.sgo unit.toNat resume)

/-- SSTOP (R208). -/
def execSstop (q : LF) (unit : BitVec 2) (rel : Bool) (s : State) : Host.Outcome State Fault Refusal :=
  fireQ0 s (.sstop q unit rel) q.lsid fun _ _ => .ok (.sstop unit.toNat rel)

/-- SCOND (R208). -/
def execScond (q : LF) (unit : BitVec 2) (alt : BitVec 6) (s : State) : Host.Outcome State Fault Refusal :=
  fireQ0 s (.scond q unit alt) q.lsid fun _ _ => .ok (.scond unit.toNat alt.toNat)

/-- SFMT (R210). -/
def execSfmt (q : LF) (unit : BitVec 2) (s : State) : Host.Outcome State Fault Refusal :=
  fireQ1 s (.sfmt q unit) q.lsid fun _ _ _ a => .ok (.sfmt unit.toNat a)

/-- Whether a unit is between commands (R211). -/
def unitSettled (u : SUnit) : Bool := u.st == .idle || u.st == .loaded || u.st == .held

/-- SBAR counts once its units and, where asked, the matrix engine are settled (R211). -/
def execSbar (q : LF) (mask : BitVec 4) (mx : Bool) (s : State) : Host.Outcome State Fault Refusal :=
  fireGate s (.sbar q mask mx) 2
    (fun s e => !anyMatch e ||
      ((onesFrom 4 0 mask.toNat).all (fun n => unitSettled (unitOf s e.c n)) &&
       (!mx || (let m := (coreOf s e.c).mx; m.queue.isEmpty && m.run.isNone))))
    fun s e => finish s e (countEffect e.f e.slot q.lsid.toNat .nothing)

end Sys2Proof.Machine
end

