-- ==== Sys2Proof/Machine/Net.lean ====
section
/-! DEFINITION. Messages in flight: which one may be taken next, and what its arrival counts (R256 to R261, R271, R300, R387). -/

namespace Sys2Proof.Machine

open Sys2Proof

/-- Whether two messages keep their order (R261, R300): same source and destination, and on VC0 to VC3 the same virtual channel pair, on
VC4 to VC7 the same channel and, once ejected, the same input. -/
def samePath (a b : Msg) : Bool :=
  a.src == b.src && a.dst == b.dst &&
  (if a.vc < 4 then a.vc / 2 == b.vc / 2 else a.vc == b.vc && (decide (a.vc < 6) || a.inp == b.inp))

/-- The core that sent a message (R384). -/
def senderOf (m : Msg) : Nat := m.sender.getD m.src

/-- Whether a message stands in an input buffer of its router (R257): one to the core's own tables passes none, the loft ring passes none (R284),
and the bridges and optical ports are no router inputs (notes/assumptions/53.md). -/
def buffered (m : Msg) : Bool := senderOf m != m.dst && m.wait == 0 && decide (m.vc < 8) && decide (m.inp < 10)

/-- Whether an earlier message stands before message `n` in the same buffer (R257). -/
def blocked (s : State) (n : Nat) (m : Msg) : Bool :=
  buffered m && (s.net.take n).any fun a => buffered a && a.at_ == m.at_ && a.inp == m.inp && a.vc == m.vc

/-- Whether a buffer of router `c` has a credit (R257): its four flits hold one message. -/
def hasCredit (s : State) (c inp vc : Nat) : Bool := !s.net.any fun a => buffered a && a.at_ == c && a.inp == inp && a.vc == vc

/-- Whether an earlier message that travels keeps message `n` back (R261, R300). -/
def overtaken (s : State) (n : Nat) (m : Msg) : Bool := (s.net.take n).any fun a => a.wait == 0 && samePath a m

/-- Whether a body is an operation that the owner performs as it arrives, in departure order with what its update slot performs (R300). -/
def inOrder : Body → Bool
  | .mem _ => true
  | .confirm _ _ => true
  | .cancel _ _ => true
  | .barrier _ _ _ _ _ => true
  | _ => false

/-- Whether an update slot has still to perform an earlier request of the same source (R300). -/
def behindUpdate (s : State) (m : Msg) : Bool :=
  let k := coreOf s m.dst
  decide (m.vc / 2 = 0) && inOrder m.body &&
  ((k.updQ.any fun u => u.src == m.src) || (k.updTok.any fun u => u.src == m.src) ||
    (match k.updCur with | some u => u.src == m.src | none => false))

/-- Whether an earlier write of the same ROD connection to the same export is not yet performed (R306). -/
def behindRod (s : State) (a : Asker) : Bool :=
  match a with
  | .outside id =>
    match s.rods.find? fun w => w.id == id with
    | some w => (s.rods.takeWhile fun v => v.id != id).any fun v => v.rod == w.rod && v.exportNo == w.exportNo
    | none => false
  | _ => false

/-- Whether a body belongs to the management network, which the holds of R271 and R384 leave open: sweeps travel on it. -/
def isManagement : Body → Bool
  | .mgmt _ _ => true
  | .register _ _ _ _ => true
  | .cfg _ _ _ => true
  | .peg _ => true
  | _ => false

/-- Whether a region's boundary holds arrivals for cell `d` (R271, R384, R397): the region drains or is held, or the start peg of a cut
has reached the cell. -/
def boundaryHolds (s : State) (r d : Nat) : Bool :=
  let g := regionAt s r
  g.st == .draining || g.hold || (cellOf s d).peg

/-- Whether a body is a reply or acknowledgement, which a stopped cell accepts (R387). -/
def isAnswer : Body → Bool
  | .answer _ => true
  | _ => false

/-- Whether a message from outside waits at the boundary of its destination's region (R271): the answers and completion tokens on VC2 and VC3 for
the region's own requests and operations pass, and the sweeps' management network is open (R272, R390; notes/assumptions/75.md). -/
def heldOutside (s : State) (m : Msg) : Bool :=
  match regionOf s m.dst with
  | some r => boundaryHolds s r m.dst && regionOf s m.src != some r && m.vc / 2 != 1 && !isAnswer m.body && !isManagement m.body
  | none => false

/-- Whether a message stands inside the boundary that holds it (R271). -/
def heldInside (s : State) (m : Msg) : Bool := heldOutside s m && regionOf s m.at_ == regionOf s m.dst

/-- Whether a message has the colour that its destination does not have now. -/
def otherColour (s : State) (m : Msg) : Bool :=
  colourCounts m.body && sameRegion s m.src m.dst && m.colour != (cellOf s m.dst).colour

/-- Whether a message of the new colour waits for its cell's save point (R387). -/
def newBeforeSave (s : State) (m : Msg) : Bool := otherColour s m && !(cellOf s m.dst).savedPoint

/-- Whether a message of the old colour must first be recorded (R387). -/
def mustRecord (s : State) (m : Msg) : Bool := otherColour s m && (cellOf s m.dst).savedPoint && !m.recorded

/-- Whether a core's router ejects (R386, R393). -/
def ejects (s : State) (c : Nat) : Bool := let x := cellOf s c; !x.paused && !x.stopped

/-- The message `n`, when it stands at its destination and nothing keeps it from being handled there; the loft ring reads past the router and
the block engine (R284). -/
def arrived (s : State) (n : Nat) : Option Msg :=
  match s.net[n]? with
  | some m =>
    if m.at_ == m.dst && m.wait == 0 && !overtaken s n m && !heldOutside s m && !newBeforeSave s m && !mustRecord s m &&
        (ejects s m.dst || m.vc == 8 || ((isManagement m.body || isAnswer m.body) && !(cellOf s m.dst).paused)) then some m else none
  | none => none

/-- Removes a message from flight. -/
def takeMsg (s : State) (n : Nat) : State := { s with net := dropAt s.net n }

/-- Changes message `n` in place. -/
def setMsg : List Msg → Nat → Msg → List Msg
  | [], _, _ => []
  | _ :: t, 0, m => m :: t
  | a :: t, n + 1, m => a :: setMsg t n m

/-- Changes message `n`. -/
def putMsg (s : State) (n : Nat) (m : Msg) : State := { s with net := setMsg s.net n m }

/-- Counts the reception of a message (R272, R388); a recorded one has been counted (R390). -/
def countRecv (s : State) (m : Msg) : State :=
  if !m.recorded && sameRegion s m.src m.dst then
    modCell s m.dst fun x =>
      let x := if drainCounts m then { x with recvDyn := x.recvDyn + 1 } else x
      if !colourCounts m.body then x
      else if x.savedPoint && m.colour == x.colour then { x with recvNew := x.recvNew + 1 } else { x with recvOld := x.recvOld + 1 }
  else s

/-- Takes an arrived message and counts it. -/
def receive (s : State) (n : Nat) (m : Msg) : State := countRecv (takeMsg s n) m

/-- Whether a core answers nothing: it is held in reset, or stands for a place outside the region (R286, R410). -/
def isDead (s : State) (c : Nat) : Bool := c == nowhereDst || (cellOf s c).inReset

/-- Back-off of a request refused with RETRY (R293). -/
def nextWait (backoff : Nat) : Nat := if backoff = 0 then 64 else if 4096 ≤ 2 * backoff then 4096 else 2 * backoff

/-- Returns a refused request to its issuer, to be sent again after its back-off (R293, R310). -/
def parkMsg (s : State) (m : Msg) : State :=
  { s with net := s.net ++ [{ m with at_ := m.src, inp := 0, wait := nextWait m.backoff }] }

/-- The destination of the answers to a message's request: cores by number. -/
def answerTo (a : Asker) (src : Nat) : Nat :=
  match a with
  | .frame c _ _ _ => c
  | .entry c _ _ => c
  | .freed c _ _ _ _ => c
  | .engine c _ => c
  | _ => src

/-- Sends an answer to whoever asked, by the way that the request came; nobody gets none (R174, R178, R284). -/
def reply (s : State) (c : Nat) (m : Msg) (a : Answer) : State :=
  match a.asker with
  | .nobody => s
  | _ => post s c (answerTo a.asker m.src) (if m.vc = 8 then 8 else 2) (.answer { a with recorded := m.recorded })

end Sys2Proof.Machine
end

