-- ==== Sys2Proof/Machine/Queue.lean ====
section
/-! DEFINITION. Tokens at a cell: input queues, the matching store, discards, ready tags and the selection among them (R12 to R21,
R38, R39, R200). -/

namespace Sys2Proof.Machine

open Sys2Proof

/-! ### Discards -/

/-- Counts discarded tokens of a cell (R15, R200). -/
def countDiscard (s : State) (c n : Nat) : State := modCell s c fun x => { x with discard := x.discard + wordOf n }

/-- Discards a token and tells the bay controller (R15). -/
def discardEvent (s : State) (c : Nat) : State := report (countDiscard s c 1) (.discardEvent c)

/-- Elements of a stream unit that an activation has taken from their queue are consumed (R335). -/
def consumeElems (s : State) (p : Nat × Nat × Nat) : State :=
  let u := unitOf s p.1 p.2.1
  putUnit s p.1 p.2.1 { u with sent := u.sent - p.2.2 }

/-- A token has left its queue (R335). -/
def consumeSrc (s : State) (t : Token) : State :=
  match t.src with
  | some p => consumeElems s p
  | none => s

/-- Whether a kill filter removes a token of a context (R200). -/
def killMatches (f : Kill) (x : Nat) (itag : BitVec 6) : Bool :=
  f.ctx == x && itagLevel itag == f.level &&
  (let d := (itagIter itag + 16 - f.e % 16) % 16
   decide (1 ≤ d) && decide (d ≤ f.depth))

/-- Whether a cell's filters remove a token with this binding (R200). -/
def isKilled (k : Core) (b : Word) (itag : BitVec 6) : Bool := k.kills.any fun f => killMatches f (bCtx b) itag

/-! ### Arrival -/

/-- Fills port `p` of a list of ports. -/
def setPort : List (Option Val) → Nat → Val → List (Option Val)
  | [], _, _ => []
  | _ :: t, 0, v => some v :: t
  | o :: t, n + 1, v => o :: setPort t n v

/-- A join with no port present, allocated at place `stamp`. -/
def emptyJoin (t : Token) (tag stamp : Nat) : Join :=
  { tag := tag, itag := t.itag, ports := [none, none, none, none], tuple := t.tuple, born := stamp }

/-- Whether a token has the key of a matching entry (R17). DESIGN CHOICE: an activation that a change of arity to 1 has queued matches no token
any more, whatever arity follows (R19; notes/assumptions/91.md). -/
def joinKey (j : Join) (tag : Nat) (t : Token) : Bool := j.tag == tag && j.itag == t.itag && !j.solo

/-- A join is complete exactly when ports 0 to arity − 1 are present (R18); one that stays complete keeps its place. -/
def completeJoin (arity stamp : Nat) (j : Join) : Join :=
  { j with done := if portsPresent arity j.ports then some (j.done.getD stamp) else none }

/-- Fills a port of the first join with the key; its activation will carry the tuple of the last token (R325). -/
def fillJoin (tag arity stamp : Nat) (t : Token) : List Join → List Join
  | [] => []
  | j :: js =>
    if joinKey j tag t then
      completeJoin arity stamp { j with
        ports := setPort j.ports t.port t.lanes
        tuple := t.tuple
        releases := if t.release then t.port :: j.releases else j.releases
        srcs := match t.src with | some p => p :: j.srcs | none => j.srcs } :: js
    else j :: fillJoin tag arity stamp t js

/-- What an arriving token meets: it is taken, discarded with an event, removed by a kill filter, or waits (R15 to R17, R200). -/
inductive Arrival where
  | taken (s : State) | discarded (s : State) | waits
  deriving DecidableEq, Repr

/-- Tokens in a cell's token pool, those of UPDs among them (R16, R182). -/
def poolLoad (k : Core) : Nat := k.tokens.length + k.updTok.length

/-- Tokens that a tag's input queue holds, those of UPDs among them (R16, R182). -/
def tagLoad (k : Core) (tag : Nat) : Nat :=
  (k.tokens.filter fun q => q.t.tag == tag).length + (k.updTok.filter fun u => updTagOf u == tag).length

/-- Whether a tag's queue takes one more token (R16). -/
def queueRoom (x : Cell) (tag : Nat) : Bool := decide (poolLoad x.core < x.pool) && decide (tagLoad x.core tag < 16)

/-- A token arrives at queue `tag` of cell `c` (R15 to R18). -/
def arriveToken (s : State) (c tag : Nat) (t : Token) : Arrival :=
  let k := coreOf s c
  let b := bindingAt s c tag
  if !bValid b || decide (bArity b ≤ t.port) then .discarded (discardEvent (consumeSrc s t) c)
  else if isKilled k b t.itag then .discarded (countDiscard (consumeSrc s t) c 1)
  else
    let n := nextStamp s c
    if bArity b = 1 then
      if queueRoom (cellOf s c) tag then
        .taken (modCore n.1 c fun k => { k with tokens := k.tokens ++ [{ stamp := n.2, t := { t with tag := tag } }] })
      else .waits
    else
      match k.joins.find? fun j => joinKey j tag t with
      | some j =>
        if ((j.ports[t.port]?).join).isSome then .waits
        else .taken (modCore n.1 c fun k => { k with joins := fillJoin tag (bArity b) n.2 t k.joins })
      | none =>
        if 64 ≤ k.joins.length then .waits
        else .taken (modCore n.1 c fun k => { k with
          joins := k.joins ++ fillJoin tag (bArity b) n.2 t [emptyJoin t tag n.2] })

/-! ### Binding changes -/

/-- The queued activations that a change of a tag's arity to 1 makes of its joins, in the order of their allocation (R19, R39). -/
def soloJoins (tag : Nat) (js : List Join) : List Join :=
  js.map fun j => if j.tag = tag ∧ j.solo = false then { j with done := some j.born, solo := true } else j

/-- Whether a join of the tag lacks port 0 (R19). -/
def lacksPort0 (tag : Nat) (j : Join) : Bool := j.tag == tag && !j.solo && ((j.ports[0]?).join).isNone

/-- Tells the bay controller of `n` discarded tokens (R15, R19). -/
def discardEvents : Nat → State → Nat → State
  | 0, s, _ => s
  | n + 1, s, c => discardEvents n (discardEvent s c) c

/-- Joins of a tag as they are complete under a new arity, those that become so in the order of their allocation (R18, R19). -/
def completeAll (tag arity stamp : Nat) : List Join → List Join
  | [] => []
  | j :: js =>
    if j.tag = tag ∧ j.solo = false then completeJoin arity stamp j :: completeAll tag arity (stamp + 1) js
    else j :: completeAll tag arity stamp js

/-- Writes a binding with what the change does to the tag's tokens (R12, R14, R18, R19). -/
def writeBinding (s : State) (c tag : Nat) (w : Word) : State :=
  let old := bindingOf (coreOf s c) tag
  let s := modCore s c fun k => { k with bindings := Tbl.put k.bindings tag (bindMask w) }
  let k := coreOf s c
  if bArity w = 1 then
    if bArity old = 1 then s
    else
      let gone := k.joins.filter (lacksPort0 tag)
      let s := (gone.flatMap fun j => j.srcs).foldl consumeElems s
      discardEvents gone.length (modCore s c fun k => { k with joins := soloJoins tag (k.joins.filter fun j => !lacksPort0 tag j) }) c
  else modCore s c fun k => { k with joins := completeAll tag (bArity w) k.stamp k.joins, stamp := k.stamp + k.joins.length }

/-! ### Kill filters -/

/-- Whether the filter removes a queued token. -/
def killsQueued (s : State) (c : Nat) (f : Kill) (q : Queued) : Bool := killMatches f (bCtx (bindingAt s c q.t.tag)) q.t.itag

/-- Tokens that a join holds. -/
def joinTokens (j : Join) : Nat := (j.ports.filter fun p => p.isSome).length

/-- A UPD whose token leaves its queue other than through the update slot is refused with REMOTE (R182; notes/assumptions/65.md). -/
def refuseUpd (s : State) (c : Nat) (u : UpdToken) : State :=
  match u.r.asker with
  | .nobody => s
  | a => sendAnswer s c u.src { asker := a, cause := some .remote, refused := 2 ^ u.lane.lane, vals := [(u.lane.lane, u.lane.ea)] }

/-- A kill filter reaches a cell: it replaces the filter of its context and level, and removes what it matches (R200). -/
def setKill (s : State) (c : Nat) (f : Kill) : State :=
  let k := coreOf s c
  let gone := k.tokens.filter (killsQueued s c f)
  let hits (j : Join) : Bool := killMatches f (bCtx (bindingAt s c j.tag)) j.itag
  let upds := k.updTok.filter fun u => killMatches f (bCtx (bindingAt s c (updTagOf u))) 0
  let n := gone.length + upds.length + ((k.joins.filter hits).map joinTokens).sum
  let s := upds.foldl (fun s u => refuseUpd s c u) s
  let s := gone.foldl (fun s q => consumeSrc s q.t) s
  let s := ((k.joins.filter hits).flatMap fun j => j.srcs).foldl consumeElems s
  countDiscard (modCore s c fun k => { k with
    kills := (k.kills.filter fun g => !(g.ctx == f.ctx && g.level == f.level)) ++ [f]
    tokens := k.tokens.filter fun q => !killsQueued s c f q
    updTok := k.updTok.filter fun u => !upds.contains u
    joins := k.joins.filter fun j => !hits j }) c n

/-- A clear reaches a cell (R201). -/
def clearKill (s : State) (c x level : Nat) : State :=
  modCore s c fun k => { k with kills := k.kills.filter fun g => !(g.ctx == x && g.level == level) }

/-! ### Selection -/

/-- CTX of a queue's binding; a spawn queue names its own. -/
def queueCtx (s : State) (c t : Nat) : Nat := if 256 ≤ t ∧ t < 512 then t - 256 else bCtx (bindingAt s c t)

/-- CLASS of a queue; a spawn queue has that of its oldest message (R230). -/
def queueClass (s : State) (c t : Nat) : Nat :=
  if 256 ≤ t ∧ t < 512 then
    match (coreOf s c).spawnQ.find? fun m => m.ctx + 256 == t with
    | some m => m.cls
    | none => 3
  else bClass (bindingAt s c t)

/-- Ready queues of a context; during its slot only shadow tags, and only then (R20, R332). -/
def readyQueues (s : State) (c x : Nat) : List Nat :=
  (queuesOf (coreOf s c)).filter fun t => queueCtx s c t == x && readyNow s c t && (decide (512 ≤ t) == inSlot s c x)

/-- Effective class (R38). -/
def effClass (s : State) (c t : Nat) : Nat :=
  let b := queueClass s c t
  let now := (cellOf s c).cyc
  if b = 0 then 0
  else
    let w := (now - Tbl.get now (coreOf s c).readyAt t) / 4096
    if b - w < 1 then 1 else b - w

/-- The scheduler's choice for an idle context: class and queue (R38). -/
def pickTag (s : State) (c x : Nat) : Option (Nat × Nat) :=
  let rs := readyQueues s c x
  [0, 1, 2, 3].findSome? fun cls =>
    (nextRobin (rs.filter fun t => effClass s c t == cls) (Tbl.get 256 (ctxOf s c x).served cls)).map fun t => (cls, t)

/-- What the oldest queued activation of a queue brings, and the state without it (R21); `release` is what a barrier release ORs
into FLAGS (R221), `upd` the UPD that it answers (R182). -/
structure Taken where
  s : State
  input : Input
  release : Word := 0
  isRelease : Bool := false
  upd : Option UpdToken := none
  hdr : Nat
  deriving DecidableEq, Repr

/-- Lane 0 [5:0] of a value (R221). -/
def releaseFlags (v : Val) : Word := laneOr0 v.l0 &&& 0x3F

/-- Takes the oldest activation of a spawn queue (R230). -/
def takeSpawn (s : State) (c x : Nat) : Option Taken :=
  (coreOf s c).spawnQ.find? (fun m => m.ctx == x) |>.map fun m =>
    let v : Val := ⟨some m.arg, some (wordOf (m.x % 2 ^ 16 + m.y * 2 ^ 16)), none, none, none, none, none, none⟩
    { s := modCore s c fun k => { k with spawnQ := k.spawnQ.filter fun q => q.stamp != m.stamp }
      input := { itag := 0, argn := 1, ports := [v] }
      hdr := m.hdr }

/-- The token of a UPD's handler (R182). -/
def updLanes (u : UpdToken) : Val :=
  let k := u.lane.key
  let addr := wordOf ((if keyIsLoft k then 2 ^ 28 else 0) + keyAddr k)
  let info := wordOf (u.r.ctx % 8 + u.lane.lane % 8 * 16 + if u.r.noret then 0 else 128)
  ⟨some addr, some u.lane.b, some u.r.offset, some info, none, none, none, none⟩

/-- Takes the oldest activation of a tag when it is a UPD's (R182). -/
def takeUpd (s : State) (c t n : Nat) : Option Taken :=
  ((coreOf s c).updTok.find? fun u => u.stamp == n && updTagOf u == t).map fun u =>
    { s := modCore s c fun k => { k with updTok := k.updTok.filter fun v => v.stamp != n }
      input := { itag := 0, argn := 1, ports := [updLanes u] }
      upd := some u
      hdr := bHdr (bindingAt s c t) }

/-- Takes the oldest activation of a tag when it is a matching entry (R18, R19, R21, R335). -/
def takeJoin (s : State) (c t n : Nat) : Option Taken :=
  let b := bindingAt s c t
  ((coreOf s c).joins.find? fun j => j.tag == t && j.done == some n).map fun j =>
    let ar := if j.solo then 1 else bArity b
    let port (i : Nat) : Val := ((j.ports[i]?).join).getD Val.allNull
    let fl := (j.releases.filter fun p => decide (p < ar)).map fun p => releaseFlags (port p)
    { s := modCore (j.srcs.foldl consumeElems s) c fun k => { k with joins := k.joins.filter fun p => !(p.tag == t && p.done == some n) }
      input := { itag := j.itag, argn := ar, ports := (List.range ar).map port, tuple := j.tuple }
      release := fl.foldl (· ||| ·) 0
      isRelease := !fl.isEmpty
      hdr := bHdr b }

/-- Removes the oldest queued activation of a queue (R18, R19, R21, R335). -/
def takeOldest (s : State) (c t : Nat) : Option Taken :=
  if 256 ≤ t ∧ t < 512 then takeSpawn s c (t - 256)
  else
    let k := coreOf s c
    let b := bindingAt s c t
    match least (queuedStamps k t) with
    | none => none
    | some n =>
      match k.tokens.find? fun q => q.stamp == n && q.t.tag == t with
      | some q =>
        some {
          s := modCore (consumeSrc s q.t) c fun k => { k with tokens := k.tokens.filter fun p => p.stamp != n }
          input := { itag := q.t.itag, argn := 1, ports := [q.t.lanes], tuple := q.t.tuple }
          release := if q.t.release then releaseFlags q.t.lanes else 0
          isRelease := q.t.release
          hdr := bHdr b }
      | none =>
        match takeUpd s c t n with
        | some k => some k
        | none => takeJoin s c t n

/-! ### The update slot's order -/

/-- Whether the update slot is free. -/
def slotIdle (s : State) (c : Nat) : Bool := (ctxOf s c 4).frame.isNone && (coreOf s c).updCur.isNone

/-- Tags bound to the update slot that are ready (R20, R39). -/
def slotTags (k : Core) : List Nat := (queuedTags k).filter fun t => decide (t < 256) && bCtx (bindingOf k t) == 4 && tagReady k t

/-- Places of queued activations of the update slot that may start (R39): a tag that is not ready is passed over. -/
def updStamps (s : State) (c : Nat) : List Nat :=
  let k := coreOf s c
  k.updQ.map (fun u => u.stamp) ++ (slotTags k).flatMap (queuedStamps k)

/-- The argument buffer that a list of inputs fills (R21). -/
def argBuffer (ps : List Val) : List Val := (List.range 4).map fun i => (ps[i]?).getD Val.allNull

end Sys2Proof.Machine
end

