-- ==== Sys2Proof/Machine/Store.lean ====
section
/-! DEFINITION. Stores, CLRP and FENCE (R170 to R176). -/

namespace Sys2Proof.Machine

open Sys2Proof

/-- The low bytes of a stored word. -/
def storePart (w : Word) (size : Nat) : Word := wordOf (w.toNat % 2 ^ (8 * size))

/-- The act of a store whose lanes passed their checks: local byte ranges, requests by owner, and management registers, each in
lane order (R170 to R173, R408); a store to a peer carries the collective tuple of its activation (R325). -/
def storeAct (e : Env) (size : Nat) (hint : Hint) (ls : List LaneAcc) : Act :=
  let val (l : LaneAcc) : Word := storePart (laneOr0 (e.b.get l.lane)) size
  let here := ls.filterMap fun l =>
    match l.place with
    | .mem k =>
      if isLocal l.w then
        some { lane := l.lane, key := k, size := size, val := val l, ea := l.ea, mode := winMode l.w : StLane } else none
    | _ => none
  let reqs := (ls.filter fun l => !isLocal l.w).foldl (fun rs l =>
    match remoteLane { op := .store, size := size, lanes := [], asker := .nobody, hint := hint, ctx := e.x } l (val l) 0 with
    | some q => addReq rs q.1 q.2
    | none => rs) []
  let regs := ls.filterMap fun l => match l.place with | .reg r => some (r, val l, l.lane, l.ea) | _ => none
  .store here (reqs.map fun q => if hostDst < q.1 then (q.1, { q.2 with tuple := e.v.tuple }) else q) regs hint

/-- Fires a store. -/
def fireStore (s : State) (i : Instr) (f : SF) (a : Acc) (size asize : Nat) (form : LaneForm) : Host.Outcome State Fault Refusal :=
  fireQ s i f.lsid fun s e =>
    match form e with
    | .error b => .error b
    | .ok l =>
      match accLanes s e f.lsid a asize l with
      | .ok ls => .ok (storeAct e size f.hint ls)
      | .error b => .error b

/-- STW (R170). -/
def execStw (st : SF) (s : State) : Host.Outcome State Fault Refusal :=
  fireStore s (.stw st) st .stw 4 4 fun e => .ok (eachLane e st.imm 4 true false)

/-- STH (R170). -/
def execSth (st : SF) (s : State) : Host.Outcome State Fault Refusal :=
  fireStore s (.sth st) st .stPart 2 2 fun e => .ok (eachLane e st.imm 2 true false)

/-- STB (R170). -/
def execStb (st : SF) (s : State) : Host.Outcome State Fault Refusal :=
  fireStore s (.stb st) st .stPart 1 1 fun e => .ok (eachLane e st.imm 1 true false)

/-- STV: eight consecutive words, null lanes of B skipped (R171). -/
def execStv (st : SF) (s : State) : Host.Outcome State Fault Refusal :=
  fireStore s (.stv st) st .stFull 4 32 fun e => .ok (vecLanes e st.imm fun i => (e.b.get i).isSome)

/-- STVS: words at a stride (R171). -/
def execStvs (st : SF) (s : State) : Host.Outcome State Fault Refusal :=
  fireStore s (.stvs st) st .stFull 4 4 fun e => strideLanes e st.lsid st.imm e.cc fun i => (e.b.get i).isSome

/-- CLRP: words become empty (R167, R170). -/
def execClrp (q : LF) (imm : BitVec 8) (s : State) : Host.Outcome State Fault Refusal :=
  fireQ s (.clrp q imm) q.lsid fun s e =>
    match accLanes s e q.lsid .clrp 4 (eachLane e imm 4 false false) with
    | .error b => .error b
    | .ok ls =>
      let here := ls.filterMap fun l =>
        match l.place with
        | .mem k =>
          if isLocal l.w then some { lane := l.lane, key := k, size := 4, val := 0, ea := l.ea, mode := winMode l.w : StLane }
          else none
        | _ => none
      let reqs := (ls.filter fun l => !isLocal l.w).foldl (fun rs l =>
        match remoteLane { op := .clrp, lanes := [], asker := .nobody, ctx := e.x } l 0 0 with
        | some r => addReq rs r.1 r.2
        | none => rs) []
      .ok (.clrp here reqs)

/-! ### FENCE -/

/-- Destinations of the messages of an act: its owners (R174). -/
def actDsts : Act → List Nat
  | .store _ reqs regs _ => reqs.map (fun q => q.1) ++ regs.map fun r => regHome r.1
  | .clrp _ reqs => reqs.map fun q => q.1
  | .atomic _ reqs _ => reqs.map fun q => q.1
  | .sendDyn d _ _ => [d]
  | .arrive _ _ _ d _ => [d]
  | .spawn _ d _ => [d]
  | _ => []

/-- Cores that a pending entry waits for (R175): the owners of its lanes, or the one it records. -/
def entryOwners (p : Entry) : List Nat := match actDsts p.act with | [] => [p.ownerCell] | ds => ds

/-- Whether a pending entry has an owner within a scope (R175). -/
def entryInScope (s : State) (c : Nat) (sc : FenceScope) (p : Entry) : Bool :=
  (entryOwners p).any fun o =>
    match sc with
    | .cell => o == c
    | .region => sameRegion s o c && decide (o < hostDst)
    | .wafer => decide (o < hostDst)
    | .system => true
    | .engine => false

/-- Whether a stream unit is between commands with all its writes performed (R175, R192, R272). -/
def unitQuiet (u : SUnit) : Bool := (u.st == .idle || u.st == .loaded || u.st == .held) && u.endings.isEmpty

/-- Whether a context's stream, matrix and collective commands have all completed (R175). -/
def enginesDone (s : State) (c x : Nat) : Bool :=
  let k := coreOf s c
  ((k.units.filter fun u => u.2.owner == x).all fun u => unitQuiet u.2) &&
  (k.mx.owner != some x || (k.mx.queue.isEmpty && k.mx.run.isNone)) &&
  (ctxOf s c x).collq.isEmpty

/-- Whether the condition of a fence holds (R175). -/
def fenceOpen (s : State) (c x : Nat) (sc : FenceScope) : Bool :=
  if sc = .engine then enginesDone s c x
  else !((ctxOf s c x).pend.any fun p => p.2.st != .free && entryInScope s c sc p.2)

/-- The first refused entry that a fence awaits (R176). -/
def fenceRefused (s : State) (c x : Nat) (sc : FenceScope) : Option (Nat × Entry) :=
  (ctxOf s c x).pend.find? fun p => p.2.st == .refused && entryInScope s c sc p.2

/-- TINFO of a late cause carried by an entry (R375). -/
def entryTinfo (i : Nat) (p : Entry) : Word := tinfoWord true false p.slot p.lanes i

/-- Delivers the late fault of the entry a fence awaits: the fence's block does not commit and is retried (R176, R376, R380). A handler's
fence is a fault of the handler (R41). -/
def fenceFault (s : State) (c x : Nat) (i : Nat) (p : Entry) (f : Frame) : State :=
  let t := if x = 4 then s else discardBlock s c x
  let v := ctxOf t c x
  let q := v.lateQ.filter fun l => l.entry != some i
  let s := putCtx t c x { v with pend := Tbl.put v.pend i { p with st := .faulted }, lateQ := q }
  if x = 4 then handlerFault s c else trapEntry s c x (p.cause.getD .remote) (wordOf f.hdr) p.addr (entryTinfo i p) (some f.hdr) (some f.hdr)

/-- FENCE counts once its condition holds (R175); a refused entry that it awaits faults its block (R176). -/
def execFence (q : LF) (scope : FenceScope) (s : State) : Host.Outcome State Fault Refusal :=
  fireGate s (.fence q scope) 2
    (fun s e => !anyMatch e || fenceOpen s e.c e.x scope || (fenceRefused s e.c e.x scope).isSome)
    fun s e =>
      if anyMatch e && !fenceOpen s e.c e.x scope then
        match fenceRefused s e.c e.x scope with
        | some (i, p) => fenceFault s e.c e.x i p e.f
        | none => finish s e (.ok e.f)
      else finish s e (countEffect e.f e.slot q.lsid.toNat .nothing)

end Sys2Proof.Machine
end

