-- ==== Sys2Proof/Machine/Entries.lean ====
section
/-! DEFINITION. The pending-side-effect table (R33, R34, R342, R379 to R381): opening an entry with the departure of its messages,
answers to it, late causes without an entry, and SETTLE. -/

namespace Sys2Proof.Machine

open Sys2Proof

/-! ### The table -/

/-- Pending entry `i` of a context. -/
def entryOf (v : Context) (i : Nat) : Entry := Tbl.get {} v.pend i

/-- Replaces a pending entry. -/
def putEntry (s : State) (c x i : Nat) (p : Entry) : State := modCtx s c x fun v => { v with pend := Tbl.put v.pend i p }

/-- Free indexes of the table, lowest first (R342). -/
def freeEntries (v : Context) : List Nat := (List.range 32).filter fun i => (entryOf v i).st == .free

/-- Engine commands that waited for an acknowledgement wait for it no longer (R304). -/
def releaseWaits (s : State) (c x i : Nat) : State :=
  let s := modCore s c fun k => { k with
    units := k.units.map fun p =>
      (p.1, if p.2.owner = x then { p.2 with holdOn := p.2.holdOn.filter fun j => j != i } else p.2)
    mx := if k.mx.owner == some x then
        { k.mx with queue := k.mx.queue.map fun q => (q.1, q.2.filter fun j => j != i) } else k.mx }
  modCtx s c x fun v => { v with collq := v.collq.map fun o => { o with holdOn := o.holdOn.filter fun j => j != i } }

/-- Frees a pending entry (R380). -/
def freeEntry (s : State) (c x i : Nat) : State := releaseWaits (putEntry s c x i {}) c x i

/-! ### Labels -/

/-- The label entry of a router (R252, R329). -/
def labelWord (s : State) (c label : Nat) (shadow : Bool) : Word :=
  let cell := cellOf s c
  if shadow then (match cell.shadow with | some h => Tbl.get 0 h.labels label | none => 0) else Tbl.get 0 cell.labels label

/-- KIND of a label entry (R252). -/
def labelKind (w : Word) : Nat := bits w 29 2

/-- Whether a router passes a token on a label (R253). -/
def labelPasses (s : State) (c : Nat) (w : Word) : Bool :=
  bit w 31 && labelKind w != 3 &&
  (labelKind w == 1 || bit w 28 || regionOf s c == some (bits w 0 12) )

/-- The cell at a physical position of the wafer (R453). -/
def waferCell (x y : Nat) : Nat := (32 * (y / 32) + x / 32) * 1024 + y % 32 * 32 + x % 32

/-- The physical column of a cell on the wafer (R453). -/
def waferX (c : Nat) : Nat := c / 1024 % 32 * 32 + c % 32

/-- The physical row of a cell on the wafer (R453). -/
def waferY (c : Nat) : Nat := c / 32768 * 32 + c / 32 % 32

/-- The physical cell that an output reaches (R247, R252): rows and columns of the wafer wrap, express links move two. -/
def physMove (c out : Nat) : Nat :=
  let b := c / 1024
  let x := b % 32 * 32 + c % 32
  let y := b / 32 * 32 + c / 32 % 32
  let n := if out / 4 = 0 then 1 else 2
  let x' := match out % 4 with | 1 => (x + n) % 1024 | 3 => (x + 1024 - n) % 1024 | _ => x
  let y' := match out % 4 with | 0 => (y + 1024 - n) % 1024 | 2 => (y + n) % 1024 | _ => y
  (y' / 32 * 32 + x' / 32) * 1024 + y' % 32 * 32 + x' % 32

/-- The bank that a router uses (R423, R424). -/
def activeBank (x : Cell) : List Word := if x.active then x.bankB else x.bankA

/-- Word `i` of a bank image. -/
def imgWord (img : List Word) (i : Nat) : Word := (img[i]?).getD 0

/-- The logical position in its bay that an image serves (R421). -/
def imgPlace (img : List Word) : Option (Nat × Nat) :=
  let w := imgWord img 2
  if bit w 31 then none else some (bits w 0 10, bits w 16 10)

/-- The logical position that a cell has while the alternate entries are in use: its own, or for a spare that of ALTROLE (R421). -/
def imgAltPlace (img : List Word) : Option (Nat × Nat) :=
  match imgPlace img with
  | some p => some p
  | none =>
    let w := imgWord img 11
    if bit w 31 then none else some (bits w 0 10, bits w 16 10)

/-- Offset of a direction, 0 N, 1 E, 2 S, 3 W. -/
def dirOffset (d : Nat) : Int × Int := match d with | 0 => (0, -1) | 1 => (1, 0) | 2 => (0, 1) | _ => (-1, 0)

/-- The router at the end of a hop (R253): a router that holds no bank image joins the logical neighbour that the embedding gives
(R247, R455), any other the physical cell its output leads to. -/
def linkEnd (s : State) (c out : Nat) : Nat :=
  if (activeBank (cellOf s c)).isEmpty && decide (out < 4) then
    (coreOffset s c (dirOffset out).1 (dirOffset out).2).getD (physMove c out)
  else physMove c out

/-- Physical links, in order, of the logical link of core `c` in direction `d`, 0 N, 1 E, 2 S, 3 W (R247, R421, R425); without a bank
image it is one mesh link (R455). -/
def hopLinks (s : State) (c d : Nat) : List Nat :=
  let x := cellOf s c
  match (activeBank x)[(if x.altsel then 7 else 3) + d]? with
  | some w => (List.range (bits w 0 3)).map fun j => bits w (3 + 3 * j) 3
  | none => [d]

/-- The links of the path of a router in direction `d` in word `w` and the next three of its active bank (R421). -/
def bankPath (x : Cell) (w d : Nat) : List Nat :=
  match (activeBank x)[w + d]? with
  | some v => (List.range (bits v 0 3)).map fun j => bits v (3 + 3 * j) 3
  | none => []

/-- The outputs that a token on a FORWARD or TRANSIT label passes until the end of its logical link, and its label there (R254). -/
def labelChain : Nat → State → Nat → Word → Bool → List Nat × Nat
  | 0, _, _, w, _ => ([], bits w 13 9)
  | n + 1, s, c, w, sh =>
    let d := physMove c (bits w 22 4)
    let v := labelWord s d (bits w 13 9) sh
    if bit v 31 && labelKind v == 1 then
      let q := labelChain n s d v sh
      (bits w 22 4 :: q.1, q.2)
    else ([bits w 22 4], bits w 13 9)

/-- The way of a FORWARD label while the alternate entries are in use: where they give its logical link another path, the links of that path and
the label at its end (R401, R421). -/
def altWay (s : State) (c : Nat) (w : Word) (sh : Bool) : Option (List Nat × Nat) :=
  let x := cellOf s c
  if x.altsel && labelKind w == 0 then
    let q := labelChain 4 s c w sh
    (([0, 1, 2, 3].find? fun d => bankPath x 3 d == q.1 && bankPath x 7 d != q.1)).map fun d => (bankPath x 7 d, q.2)
  else none

/-- The cell at which a static route ejects (R253); the first argument bounds its length. -/
def routeEnd : Nat → State → Nat → Nat → Bool → Nat
  | 0, _, c, _, _ => c
  | n + 1, s, c, label, shadow =>
    let w := labelWord s c label shadow
    if bit w 31 && labelKind w != 2 && isCellCore c then
      match altWay s c w shadow with
      | some q => routeEnd n s (q.1.foldl physMove c) q.2 shadow
      | none => routeEnd n s (linkEnd s c (bits w 22 4)) (bits w 13 9) shadow
    else c

/-! ### Departure -/

/-- Kind of the pending entry that an act takes, if it takes one (R33, R189, R379). -/
def actKind : Act → Option Nat
  | .store _ reqs regs _ => if reqs.isEmpty && regs.isEmpty then none else some 0
  | .clrp _ reqs => if reqs.isEmpty then none else some 1
  | .atomic k reqs _ => if reqs.isEmpty then none else some k
  | .sendRoute _ _ _ => some 4
  | .sendDyn _ _ _ => some 5
  | .arrive _ _ _ _ _ => some 6
  | .tsFree _ => some 7
  | .tKill _ _ _ => some 7
  | .csig _ wide => if wide then some 7 else none
  | .mgmt _ => some 7
  | .cfg _ => some 7
  | .spawn _ _ _ => some 7
  | _ => none

/-- FLAGS that an arrival carries (R221). -/
def arrivalFlags (v : Context) : Option (BitVec 6) := if bit v.fmode 2 then some (BitVec.ofNat 6 v.flags.toNat) else none

/-- An arrival keeps the FLAGS of its own block's commit (R221); any other act stays as it is. -/
def withFlags (v : Context) (a : Act) : Act :=
  match a with
  | .arrive bn dr home d _ => .arrive bn dr home d (arrivalFlags v)
  | _ => a

/-- Cells that a region-wide function reaches (R200, R201, R205). -/
def regionWide (s : State) (c : Nat) : List Nat := match regionOf s c with | some r => regionCells s r | none => [c]

/-- The root of the spanning tree of a core's region, by which region-wide functions travel: the origin cell (R256; notes/assumptions/14.md). -/
def treeRoot (s : State) (c : Nat) : Nat := match regionOf s c with | some r => regionOrigin s r | none => c

/-- Cells that a message on the spanning tree of region `r` goes on to: east along the region's first row, and south (R362, R384). -/
def treeChildren (s : State) (c r : Nat) : List Nat :=
  let g := regionAt s r
  let x := bits (cellOf s c).regpos 0 16
  let y := bits (cellOf s c).regpos 16 16
  (if y = 0 ∧ x + 1 < g.w then (regionCell s c (x + 1) y).toList else []) ++
  (if y + 1 < g.h then (regionCell s c x (y + 1)).toList else [])

/-- The fabric manager that hears a core's configuration functions: its bay's controller (R268). -/
def fabricManager (c : Nat) : Nat := if isCellCore c || isBayCore c then bayCore (bayOf c) else c

/-- Who hears of a request that its entry, opened in step `born`, does not wait for (R183). -/
def laterOf (c x lsid born : Nat) (a : Asker) : Asker :=
  match a with
  | .entry _ _ i => .freed c x lsid i born
  | _ => a

/-- Messages of an act with destination and virtual channel, in the order of their departure; a collective packet names its sender's rank
and its operation's paths (R325, R326, R333). A request of a SCOPE CELL atomic to another owner departs on an entry that its own router
frees at once (R183). -/
def actSends (s : State) (c x lsid : Nat) (a : Act) (asker : Asker) : List (Nat × Nat × Body) :=
  let ranked (t : Option Tuple) : Option Tuple := t.map fun u => { u with rank := (groupOf s c u.gt).rank }
  let own (t : Token) : Token := { t with tuple := ranked t.tuple }
  let allowed (t : Option Tuple) : Nat :=
    match t.bind fun u => (ctxOf s c x).collq.find? fun o => o.gt == u.gt && o.seq == u.seq with
    | some o => if o.pmask = 0 then 0xFFFF else o.pmask
    | none => 0xFFFF
  let mem (q : Nat × MemReq) : Nat × Nat × Body :=
    (q.1, 0, .mem { q.2 with asker := asker, tuple := ranked q.2.tuple, pmask := allowed q.2.tuple })
  match a with
  | .store _ reqs regs _ => reqs.map mem ++ regs.map fun r => (regHome r.1, 4, .register r.1 (some r.2.1) asker r.2.2.1)
  | .clrp _ reqs => reqs.map mem
  | .atomic _ reqs cw => reqs.map fun q =>
      (q.1, 0, .mem { q.2 with asker := if cw && q.1 != c then laterOf c x lsid s.tickNo asker else asker })
  | .sendRoute l sh t => [(routeEnd 4096 s c l sh, 6 + bits (labelWord s c l sh) 27 1, .routed l sh (own t) asker)]
  | .sendDyn d t _ => [(d, 0, .token (own t) asker)]
  | .arrive bn dr home d fl => [(d, 0, .barrier bn (.arrive dr fl) home x asker)]
  | .tsFree l => [(treeRoot s c, 4, .killClear x l asker)]
  | .tKill l e n => [(treeRoot s c, 4, .killSet x l e n asker)]
  | .csig ch _ => [(treeRoot s c, 4, .pulse ch asker)]
  | .mgmt m => [(maCell m.addr, 4, .mgmt m asker)]
  | .cfg op => [(fabricManager c, 4, .cfg op x asker)]
  | .spawn m d _ => [(d, 4, .spawn { m with asker := asker })]
  | _ => []

/-- Sends the messages of an act; a static token is counted at its source label (R272). -/
def sendAct (s : State) (c x lsid : Nat) (a : Act) (asker : Asker) : State :=
  let s := match a with
    | .sendRoute l sh _ =>
      if sameRegion s c (routeEnd 4096 s c l sh) then
        modCell s c fun k =>
          let n := if sh then 512 + l else l
          { k with sentRt := Tbl.put k.sentRt n (Tbl.get 0 k.sentRt n + 1) }
      else s
    | _ => s
  (actSends s c x lsid a asker).foldl (fun s m => post s c m.1 m.2.1 m.2.2) s

/-- The lanes of every request of an act. -/
def actLanes : Act → List LaneReq
  | .store _ reqs _ _ => reqs.flatMap fun q => q.2.lanes
  | .clrp _ reqs => reqs.flatMap fun q => q.2.lanes
  | .atomic _ reqs _ => reqs.flatMap fun q => q.2.lanes
  | _ => []

/-- A word of each lane of an act's requests and register writes. -/
def laneTable (a : Act) (f : LaneReq → Word) (g : RegName × Word × Nat × Word → Word) : Lanes Word :=
  let regs := match a with | .store _ _ rs _ => rs | _ => []
  Lanes.ofFn fun i =>
    match (actLanes a).find? fun l => l.lane == i with
    | some l => f l
    | none => match regs.find? fun r => r.2.2.1 == i with | some r => g r | none => 0

/-- What a token or a spawn message carries in each lane, a null lane as 0 (R230, R379). -/
def tokenTable : Act → Option (Lanes Word)
  | .sendRoute _ _ t => some (Lanes.ofFn fun i => laneOr0 (t.lanes.get i))
  | .sendDyn _ t _ => some (Lanes.ofFn fun i => laneOr0 (t.lanes.get i))
  | .spawn m _ _ => some (Lanes.ofFn fun i => if i = 0 then m.arg else 0)
  | _ => none

/-- TADDR of an entry whose act has no lane addresses (R312, R316, R374): the destination or home word, or the address. -/
def actAddr : Act → Word
  | .arrive bn _ home _ _ => barrierTaddr home bn
  | .mgmt m => m.addr
  | .sendDyn _ _ w => w
  | .spawn _ _ w => w
  | _ => 0

/-- The core that an act's entry records as its owner (R379). -/
def actOwner (s : State) (c : Nat) (a : Act) : Nat :=
  match a with
  | .sendRoute l sh _ => routeEnd 4096 s c l sh
  | .mgmt m => maCell m.addr
  | .cfg _ => fabricManager c
  | _ => (actDsts a).headD c

/-- The entry of an act (R379). -/
def entryFor (s : State) (c : Nat) (a : Act) (kind lsid slot : Nat) (tuple : Option Tuple) (left : Nat) : Entry :=
  let o := actOwner s c a
  { st := .opened
    kind := kind
    lsid := lsid
    slot := slot
    owner := if isCellCore o then (let w := offsetWord (deltaOf s c o); bits w 0 11 + bits w 16 11 * 2 ^ 11) else 0
    ownerCell := o
    addr := actAddr a
    addrs := laneTable a (fun l => l.ea) fun r => r.2.2.2
    data := (tokenTable a).getD (laneTable a (fun l => l.b) fun r => r.2.1)
    act := a
    left := left
    tuple := tuple.map fun t => (t.gt, t.seq)
    born := s.tickNo }

/-- Answers that the entry of an act awaits: one for each message, but that of a SCOPE CELL atomic awaits only the update slot of its own
cell (R183), and that of a region-wide function one from each cell of the region (R200, R201, R205). -/
def awaits (s : State) (c : Nat) (a : Act) (sends : List (Nat × Nat × Body)) : Nat :=
  match a with
  | .atomic _ _ true => (sends.filter fun m => m.1 == c).length
  | .tsFree _ => (regionWide s c).length
  | .tKill _ _ _ => (regionWide s c).length
  | .csig _ _ => (regionWide s c).length
  | _ => sends.length

/-- An act of a committing block takes entry `i` and departs (R33, R183, R342); a function with nobody to wait for is acknowledged at
once. -/
def openEntry (s : State) (c x i kind lsid slot : Nat) (a : Act) : State :=
  let v := ctxOf s c x
  let a := withFlags v a
  let m := actSends s c x lsid a (.entry c x i)
  if m.isEmpty then s
  else sendAct (putEntry s c x i (entryFor s c a kind lsid slot v.tuple (awaits s c a m))) c x lsid a (.entry c x i)

/-! ### Answers -/

/-- Notes an answer in an entry: refused lanes, and the first cause (R174, R379). -/
def noteAnswer (p : Entry) (a : Answer) : Entry :=
  { p with
    left := p.left - 1
    lanes := if a.cause.isSome then p.lanes ||| a.refused else p.lanes
    cause := match p.cause with | some k => some k | none => a.cause }

/-- The lowest of a mask of lanes. -/
def lowestLane (m : Nat) : Nat := (laneNums.find? fun i => m / 2 ^ i % 2 == 1).getD 0

/-- TADDR of a refused entry (R374): the address of its lowest refused lane. -/
def refusedAddr (p : Entry) : Word := if p.lanes = 0 then p.addr else if p.kind ≤ 3 then p.addrs.get (lowestLane p.lanes) else p.addr

/-- A pending entry with an answer noted: the last answer frees it, or makes it REFUSED and queues its cause (R376, R380). -/
def ctxAnswer (v : Context) (i : Nat) (a : Answer) : Context :=
  let p := noteAnswer (entryOf v i) a
  if p.left = 0 then
    match p.cause with
    | none => { v with pend := Tbl.put v.pend i {} }
    | some k =>
      let p := { p with st := .refused, addr := refusedAddr p }
      { v with
        pend := Tbl.put v.pend i p
        lateQ := v.lateQ ++ [{ cause := k, taddr := p.addr, lanes := p.lanes, info := i, entry := some i }] }
  else { v with pend := Tbl.put v.pend i p }

/-- An answer to a pending entry of a context (R380). -/
def answerEntry (s : State) (c x i : Nat) (a : Answer) : State :=
  let v := ctxOf s c x
  if (entryOf v i).st = .opened then
    let w := ctxAnswer v i a
    let s := putCtx s c x w
    if (entryOf w i).st = .free then releaseWaits s c x i else s
  else s

/-- A context's entry notes a refusal that it does not count among its answers, while it is OPEN for another request of its act (R183, R185). -/
def noteLater (v : Context) (i born : Nat) (a : Answer) : Context :=
  let p := entryOf v i
  if p.st = .opened ∧ p.born = born then { v with pend := Tbl.put v.pend i { noteAnswer p a with left := p.left } } else v

/-- A refusal of a request of a NORET atomic of SCOPE CELL (R183, R185, R375): on its entry while that is open for another of its requests,
else a late cause with no entry; with every place taken it is held. -/
def answerFreed (s : State) (c x lsid i born : Nat) (a : Answer) : Option State :=
  let p := entryOf (ctxOf s c x) i
  match a.cause with
  | none => some s
  | some k =>
    if p.st = .opened ∧ p.born = born then some (modCtx s c x fun v => noteLater v i born a)
    else pushLate s c x { cause := k, taddr := (a.vals.head?.map fun p => p.2).getD 0, lanes := a.refused, info := lsid }

/-! ### SETTLE -/

/-- The lanes of a request that a mask names. -/
def maskReq (m : Nat) (q : Nat × MemReq) : Nat × MemReq :=
  (q.1, { q.2 with lanes := q.2.lanes.filter fun l => m / 2 ^ l.lane % 2 == 1 })

/-- Requests with a lane left. -/
def maskReqs (m : Nat) (rs : List (Nat × MemReq)) : List (Nat × MemReq) :=
  (rs.map (maskReq m)).filter fun q => !q.2.lanes.isEmpty

/-- What a replay sends again (R381). -/
def replayAct (p : Entry) : Act :=
  match p.act with
  | .store h reqs regs hint => .store h (maskReqs p.lanes reqs) (regs.filter fun r => p.lanes / 2 ^ r.2.2.1 % 2 == 1) hint
  | .clrp h reqs => .clrp h (maskReqs p.lanes reqs)
  | .atomic k reqs sc => .atomic k (maskReqs p.lanes reqs) sc
  | a => a

/-- SETTLE at commit (R227, R381). -/
def settleEntry (s : State) (c x i : Nat) (v : Verdict) : State :=
  let p := entryOf (ctxOf s c x) i
  if p.st = .faulted then
    match v with
    | .done => freeEntry s c x i
    | .drop => freeEntry (modCell s c fun k => { k with dropeff := k.dropeff + 1 }) c x i
    | .replay =>
      let a := replayAct p
      let n := awaits s c a (actSends s c x p.lsid a (.entry c x i))
      let s := sendAct (putEntry s c x i { p with
        st := .opened
        act := a
        cause := none
        lanes := 0
        addr := actAddr a
        left := n
        born := s.tickNo }) c x p.lsid a (.entry c x i)
      if n = 0 then freeEntry s c x i else s
  else s

end Sys2Proof.Machine
end

