-- ==== Sys2Proof/Machine/Collective.lean ====
section
/-! DEFINITION. Collective operations of a home (R224, R319 to R328): posting, the packet check, poison and completion. -/

namespace Sys2Proof.Machine

open Sys2Proof

/-- The operation of an entry that runs (R324). -/
def collRunning (v : Context) (gt : Nat) : Option Coll := v.collq.find? fun o => o.gt == gt && o.started

/-- Operations of an entry that wait, oldest first (R324). -/
def collQueued (v : Context) (gt : Nat) : List Coll := v.collq.filter fun o => o.gt == gt && !o.started

/-- Commands in the engine's queue (R324). -/
def collQueueLen (v : Context) : Nat := (v.collq.filter fun o => !o.started).length

/-- The finish token of an operation (R191, R328). -/
def collFinish (s : State) (c : Nat) (o : Coll) (status : Nat) : State :=
  sendCompletion s c o.ftag (wordOf status) (wordOf o.seq) 0 (wordOf o.gt)

/-- Whether a queued token is a waiting packet of an entry (R326). -/
def heldPacket (gt : Nat) (q : Queued) : Bool :=
  q.held && (match q.t.tuple with | some u => u.gt == gt | none => false)

/-- Whether a tuple names one of these operations of an entry. -/
def ofSeqs (gt : Nat) (seqs : List Nat) (t : Option Tuple) : Bool :=
  match t with
  | some u => u.gt == gt && seqs.contains u.seq
  | none => false

/-- Whether a queued token goes with the operations that end: one of their waiting packets, and on CABORT one that its tag has queued, which
would be combined no more (R225, R327, R328). -/
def endsWith (gt status : Nat) (seqs : List Nat) (q : Queued) : Bool :=
  (q.held || (status == 5 && decide (512 ≤ q.t.tag))) && ofSeqs gt seqs q.t.tuple

/-- Whether a matching entry goes with the operations that CABORT ends. -/
def joinEnds (gt status : Nat) (seqs : List Nat) (j : Join) : Bool :=
  status == 5 && decide (512 ≤ j.tag) && ofSeqs gt seqs j.tuple

/-- Finishes the running and queued operations of an entry in sequence order and discards their packets that wait (R225, R327, R328). -/
def collDrop (s : State) (c x gt status : Nat) : State :=
  let ops := (ctxOf s c x).collq.filter fun o => o.gt == gt
  let seqs := ops.map fun o => o.seq
  let s := ops.foldl (fun s o => collFinish s c o status) s
  let k := coreOf s c
  let n := (k.tokens.filter (endsWith gt status seqs)).length + ((k.joins.filter (joinEnds gt status seqs)).map joinTokens).sum
  let s := countDiscard (modCore s c fun k => { k with
    tokens := k.tokens.filter fun q => !endsWith gt status seqs q
    joins := k.joins.filter fun j => !joinEnds gt status seqs j }) c n
  let s := modCtx s c x fun v => { v with collq := v.collq.filter fun o => o.gt != gt }
  modGroup s c gt fun g => { g with busy := false }

/-- COLL_ORDER for a mismatch at sequence `seq` (R224). -/
def collOrder (gt seq : Nat) : Late := { cause := .collOrder, taddr := wordOf (gt + seq % 2 ^ 16 * 2 ^ 16) }

/-- Poisons an entry; a mismatched party takes COLL_ORDER, once (R327). With no place for the cause nothing happens yet (R376). -/
def collPoison (s : State) (c x gt seq : Nat) (mismatch : Bool) : Option State :=
  let told := (coreOf s c).gtold.contains gt
  let r := if mismatch && !told then pushLate s c x (collOrder gt seq) else some s
  r.map fun s =>
    let s := modGroup (collDrop s c x gt 6) c gt fun g => { g with poison := true }
    if mismatch then modCore s c fun k => { k with gtold := keyInsert k.gtold gt } else s

/-- A poison notice to the home that sent a packet (R326, R327); one for a home on another wafer leaves by the bridge. -/
def collNotice (s : State) (c dst gt seq : Nat) (mismatch : Bool) : State :=
  if hostDst ≤ dst then report s (.poisonSent gt seq mismatch) else post s c dst 2 (.poison gt seq mismatch)

/-- What the packet check of R326 says. -/
inductive Verdict326 where
  | discard | notice | queue | waits | ahead | mismatch
  deriving DecidableEq, Repr

/-- The packet check of R326 on the collective context `x` of a home. DESIGN CHOICE: a late packet of an aborted operation whose successor runs is
queued as R326 says of one with DIGP (R225; notes/assumptions/94.md). -/
def collCheck (s : State) (c x : Nat) (u : Tuple) : Verdict326 :=
  let v := ctxOf s c x
  let g := groupOf s c u.gt
  let run := collRunning v u.gt
  let isRun (o : Coll) : Bool := o.seq == u.seq
  if !g.live || g.members / 2 ^ u.rank % 2 == 0 then .discard
  else if g.poison then .notice
  else
    match run with
    | some o =>
      if isRun o then (if u.digest = g.dig then .queue else .mismatch)
      else if (o.seq + 65535) % 65536 = u.seq then (if u.digest = g.digp then .queue else .mismatch)
      else
        match (collQueued v u.gt).find? isRun with
        | some q => if u.digest = q.digest then .waits else .mismatch
        | none =>
          let d := (u.seq + 65536 - g.seq) % 65536
          if 0 < d ∧ d < 32768 then .ahead else .discard
    | none =>
      match (collQueued v u.gt).find? isRun with
      | some q => if u.digest = q.digest then .waits else .mismatch
      | none =>
        let d := (u.seq + 65536 - g.seq) % 65536
        if 0 < d ∧ d < 32768 then .ahead else .discard

/-- Counts a delivered packet of an operation (R328). -/
def collArrived (s : State) (c x : Nat) (u : Tuple) : State :=
  modCtx s c x fun v => { v with
    collq := v.collq.map fun o => if o.gt = u.gt ∧ o.seq = u.seq then { o with arrived := o.arrived + 1 } else o }

/-- The handler activation of `k` packets, or of the start token where no packet is expected, has ended (R328). A start token's
activation is known by rank 1024. -/
def collEnded (s : State) (c x k : Nat) (t : Option Tuple) : State :=
  match t with
  | none => s
  | some u =>
    modCtx s c x fun v => { v with
      collq := v.collq.map fun o =>
        if o.gt = u.gt ∧ o.seq = u.seq ∧ ((o.expect == 0) == (u.rank == 1024)) = true then { o with ended := o.ended + k } else o }

/-- CSTART at commit (R224, R324): a waiting packet of the new sequence with another digest poisons the entry (R326). -/
def commitCstart (s : State) (c x gt addr : Nat) (desc : List Word) (waits : List Nat) : State :=
  let w0 := (desc[0]?).getD 0
  let w1 := (desc[1]?).getD 0
  let seq := ((groupOf s c gt).seq + 1) % 65536
  let digest := crc16 (desc.flatMap fun w => leBytes 4 w.toNat)
  let op : Coll := {
    gt := gt
    seq := seq
    digest := digest
    addr := addr
    ftag := bits w0 8 8
    htag := bits w0 0 8
    expect := bits w1 16 11
    pmask := bits w1 0 16
    holdOn := waits }
  let s := modGroup s c gt fun g => { g with seq := seq }
  let s := modCtx s c x fun v => { v with collq := v.collq ++ [op] }
  let bad := (coreOf s c).tokens.find? fun q =>
    heldPacket gt q && (match q.t.tuple with | some u => u.seq == seq && u.digest != digest | none => false)
  match bad with
  | none => s
  | some q =>
    match collPoison s c x gt seq true with
    | some s => collNotice s c q.sender gt seq true
    | none => s

end Sys2Proof.Machine
end

