-- ==== Sys2Proof/Machine/Exits.lean ====
section
/-! DEFINITION. Exits (R117 to R126). A taken exit is counted here; its stack and trap effects take place at commit (R118). -/

namespace Sys2Proof.Machine

open Sys2Proof

/-- The mask of FAULTED pending entries (R126). -/
def faultedMask (v : Context) : Nat := v.pend.foldl (fun m p => if p.2.st == .faulted then m ||| 2 ^ p.1 else m) 0

/-- Counts a taken exit; a second one faults MULTIEXIT (R31, R32). -/
def countExit (f : Frame) (slot : Nat) (k : ExitKind) : Except BFault Frame :=
  match f.exit with
  | none => .ok { f with exit := some (k, slot) }
  | some _ => .error { cause := .multiexit, slot := slot }

/-- UNSETTLED at an exit that leaves trap level 1 (R125, R126). -/
def checkSettled (e : Env) (k : Except BFault ExitKind) : Except BFault ExitKind :=
  if e.v.tl && faultedMask e.v != 0 then .error { cause := .unsettled, taddr := wordOf (faultedMask e.v), slot := e.slot } else k

/-- ILLEGAL with the address of the exit's word (R126). -/
def exitIllegal (e : Env) : Except BFault ExitKind :=
  .error { cause := .illegal, taddr := wordOf (slotAddr e.f e.slot), slot := e.slot }

/-- STACK when a call finds the stack full (R120). -/
def checkCall (e : Env) (k : ExitKind) : Except BFault ExitKind :=
  if e.v.calls.length < 16 then .ok k else .error { cause := .stack, slot := e.slot }

/-- Fires an exit: it is taken when lane 0 matches (R30, R118). -/
def fireExit (s : State) (i : Instr) (f : Env → Except BFault ExitKind) : Host.Outcome State Fault Refusal :=
  fire s i 2 fun s e =>
    if e.m.l0 then
      finish s e (match f e with
        | .ok k => countExit e.f e.slot k
        | .error b => .error b)
    else finish s e (.ok e.f)

/-- Fires BR or CALL: taken only when lane 0 of A is present too (R118, R119). -/
def fireBranch (s : State) (i : Instr) (f : Env → Nat → Except BFault ExitKind) : Host.Outcome State Fault Refusal :=
  fire s i 2 fun s e =>
    match e.m.l0, e.a.l0 with
    | true, some a =>
      finish s e (match (if bits a 0 4 ≠ 0 then
            .error { cause := .align, taddr := a, slot := e.slot, lanes := 1 } else f e a.toNat) with
        | .ok k => countExit e.f e.slot k
        | .error b => .error b)
    | _, _ => finish s e (.ok e.f)

/-- The header address at a signed distance of OFF20 (R87, R119). -/
def offTarget (e : Env) (off : BitVec 20) : Nat := (wordOfInt ((e.f.hdr : Int) + 16 * off.toInt)).toNat

/-- BRO (R119). -/
def execBro (x : XF) (off : BitVec 20) (s : State) : Host.Outcome State Fault Refusal :=
  fireExit s (.bro x off) fun e => .ok (.goto (offTarget e off))

/-- CALLO (R119, R120). -/
def execCallo (x : XF) (off : BitVec 20) (s : State) : Host.Outcome State Fault Refusal :=
  fireExit s (.callo x off) fun e => checkCall e (.call (offTarget e off))

/-- BR (R119). -/
def execBr (x : XF) (s : State) : Host.Outcome State Fault Refusal :=
  fireBranch s (.br x) fun _ a => .ok (.goto a)

/-- CALL (R119, R120). -/
def execCall (x : XF) (s : State) : Host.Outcome State Fault Refusal :=
  fireBranch s (.call x) fun e a => checkCall e (.call a)

/-- RET: kind 0 returns from a call, kinds 1 and 2 from trap level 1 (R121, R125). -/
def execRet (x : XF) (kind : RetKind) (s : State) : Host.Outcome State Fault Refusal :=
  fireExit s (.ret x kind) fun e =>
    match kind with
    | .call => if e.v.calls.length ≤ callFloor e.v then .error { cause := .stack, slot := e.slot } else .ok .ret
    | .retry => if e.v.tl then checkSettled e (.ok (.trapRet .retry)) else exitIllegal e
    | .succ => if e.v.tl then checkSettled e (.ok (.trapRet .succ)) else exitIllegal e

/-- END (R122, R125). -/
def execEndBlk (x : XF) (s : State) : Host.Outcome State Fault Refusal :=
  fireExit s (.endBlk x) fun e => checkSettled e (.ok .done)

/-- YIELD (R22, R122). -/
def execYieldBlk (x : XF) (s : State) : Host.Outcome State Fault Refusal :=
  fireExit s (.yieldBlk x) fun e => checkSettled e (.ok .yielded)

/-- SCALL (R123). -/
def execScall (x : XF) (service : BitVec 12) (s : State) : Host.Outcome State Fault Refusal :=
  fireExit s (.scall x service) fun e => if e.v.tl then exitIllegal e else .ok (.scall service.toNat)

/-- TRAP (R123). -/
def execTrap (x : XF) (code : BitVec 20) (s : State) : Host.Outcome State Fault Refusal :=
  fireExit s (.trap x code) fun e => if e.v.tl then exitIllegal e else .ok (.trap code.toNat)

end Sys2Proof.Machine
end

