-- ==== Sys2Proof/Machine/Link.lean ====
section
/-! DEFINITION. The LINK group: neighbour links and control pulses (R202 to R205). A link is named by whether it is the W link, an
output by whether it is the E output. -/

namespace Sys2Proof.Machine

open Sys2Proof

/-- ASRC of the engine's configuration (R212). -/
def mxAsrc (m : Mx) : Nat := bits m.cfg 10 2

/-- Whether the matrix engine holds an input link as its A source (R204). -/
def mxHoldsIn (m : Mx) (west : Bool) : Bool := m.owner.isSome && mxAsrc m == (if west then 1 else 2)

/-- Whether the matrix engine holds an output as its forwarding output (R204, R212). -/
def mxHoldsOut (m : Mx) (east : Bool) : Bool := mxHoldsIn m east && bit m.cfg 12

/-- An input link queue. -/
def linkQ (k : Core) (west : Bool) : List Val := if west then k.linkW else k.linkN

/-- Entries of a link that a frame has reserved (R203). -/
def popsOf (f : Frame) (west : Bool) : Nat := if west then f.popsW else f.popsN

/-- Whether another context's frame of the cell holds reservations on a link (R203). -/
def linkReserved (s : State) (c x : Nat) (west : Bool) : Bool :=
  [0, 1, 2, 3, 4].any fun y =>
    y != x && (match (ctxOf s c y).frame with | some f => decide (0 < popsOf f west) | none => false)

/-- Whether an LPOP of the frame on the same link with a lower LSID has not fired (R203). -/
def lowerPopUnfired (f : Frame) (west : Bool) (n : Nat) : Bool :=
  (List.range f.words.length).any fun k =>
    match slotInstr f k with
    | some (.lpop q l _ _) => (l == 0) == west && decide (q.lsid.toNat < n) && !(slotOf f k).fired
    | _ => false

/-- The lanes of a link entry that match (R202, R203). -/
def nullUnmatched (e : Env) (v : Val) : Val := laneVal e fun i => v.get i

/-- LPEEK (R202, R204). -/
def execLpeek (q : EF) (link : BitVec 1) (cnt : Bool) (s : State) : Host.Outcome State Fault Refusal :=
  fire s (.lpeek q link cnt) 2 fun s e =>
    let k := coreOf s e.c
    let west := link == 0
    if mxHoldsIn k.mx west then
      finish s e (.error { cause := .channel, taddr := wordOf link.toNat, slot := e.slot })
    else
      produce s e [q.t0] (
        if cnt then laneVal e fun _ => some (wordOf (linkQ k west).length)
        else match linkQ k west with
          | h :: _ => nullUnmatched e h
          | [] => Val.allNull, 0)

/-- LPOP (R203, R204). DESIGN CHOICE: it waits behind an LPOP of its block on the same link with a lower LSID that has not fired, as behind an empty
link (notes/assumptions/95.md). -/
def execLpop (q : LF) (link : BitVec 1) (fwd : Bool) (t0 : Target) (s : State) : Host.Outcome State Fault Refusal :=
  let west := link == 0
  fireGate s (.lpop q link fwd t0) 2
    (fun s e =>
      let k := coreOf s e.c
      !anyMatch e || mxHoldsIn k.mx west || (fwd && mxHoldsOut k.mx west) ||
      (!lowerPopUnfired e.f west q.lsid.toNat && !linkReserved s e.c e.x west &&
        decide (popsOf e.f west < (linkQ k west).length)))
    fun s e =>
      let k := coreOf s e.c
      if !anyMatch e then
        finish s e (match deliver e.f (slotAddr e.f e.slot) e.slot t0 Val.allNull with
          | .ok f => countEffect f e.slot q.lsid.toNat .nothing
          | .error b => .error b)
      else if mxHoldsIn k.mx west || (fwd && mxHoldsOut k.mx west) then
        finish s e (.error (ferr e q.lsid .channel (wordOf link.toNat)))
      else
        let v := ((linkQ k west)[popsOf e.f west]?).getD Val.allNull
        let f := if west then { e.f with popsW := e.f.popsW + 1 } else { e.f with popsN := e.f.popsN + 1 }
        finish s e (match deliver f (slotAddr f e.slot) e.slot t0 (nullUnmatched e v) with
          | .ok f => countEffect f e.slot q.lsid.toNat (.lpop west fwd)
          | .error b => .error b)

/-- The logical neighbour that an output feeds, E or S. -/
def linkDest (s : State) (c : Nat) (east : Bool) : Option Nat :=
  if east then coreOffset s c 1 0 else coreOffset s c 0 1

/-- Whether the cell has a neighbour of its region on an output (R204): a region that spans the torus has one past its last column or row
(R246, R248). -/
def linkInside (s : State) (c : Nat) (east : Bool) : Bool :=
  let cell := cellOf s c
  cell.region.isSome &&
  (if east then decide (bits cell.regpos 0 16 + 1 < bits cell.regdim 0 16) || bits cell.regdim 0 16 == 960
   else decide (bits cell.regpos 16 16 + 1 < bits cell.regdim 16 16) || bits cell.regdim 16 16 == 960)

/-- LPUSH (R204). -/
def execLpush (q : LF) (out : BitVec 1) (s : State) : Host.Outcome State Fault Refusal :=
  fireQ s (.lpush q out) q.lsid fun s e =>
    let east := out == 0
    if anyLane (matchedA e) then
      if mxHoldsOut (coreOf s e.c).mx east || !linkInside s e.c east then
        .error (ferr e q.lsid .channel (wordOf out.toNat))
      else .ok (.lpush east (matchedA e))
    else .ok .nothing

/-- CSIG (R205). -/
def execCsig (q : LF) (chan : BitVec 6) (reg : Bool) (s : State) : Host.Outcome State Fault Refusal :=
  fireQ0 s (.csig q chan reg) q.lsid fun _ _ => .ok (.csig chan.toNat reg)

end Sys2Proof.Machine
end

