-- ==== Sys2Proof/Machine/Mxe.lean ====
section
/-! DEFINITION. The MXE group (R212 to R218): what its functions check at firing and what they queue. -/

namespace Sys2Proof.Machine

open Sys2Proof

/-- MODE (R212). -/
def mxMode (m : Mx) : Nat := bits m.cfg 0 3
/-- Whether the configuration selects recombination order (R212). -/
def mxRecomb (m : Mx) : Bool := bit m.cfg 3
/-- A buffer row slots (R212). -/
def mxDepth (m : Mx) : Nat := bits m.cfg 6 4 + 1
/-- K (R212). -/
def mxK (m : Mx) : Nat := bits m.cfg 13 8 + 1

/-- Whether the engine is idle with an empty queue (R211, R212). -/
def mxIdle (m : Mx) : Bool := m.queue.isEmpty && m.run.isNone

/-- Largest K of a mode and order (R213); 0 where the order is reserved. -/
def mxMaxK (mode : Nat) (recomb : Bool) : Nat :=
  match mode, recomb with
  | 0, false => 128 | 0, true => 64 | 1, false => 40 | 1, true => 16 | 2, false => 256 | 2, true => 64
  | 3, false => 256 | 4, false => 256 | 5, false => 256 | _, _ => 0

/-- Whether a configuration word is invalid (R213). -/
def mxCfgBad (w : Word) : Bool :=
  bits w 21 11 != 0 || bits w 10 2 == 3 || bits w 4 2 == 3 || decide (5 < bits w 0 3) ||
  decide (mxMaxK (bits w 0 3) (bit w 3) < bits w 13 8 + 1) || (bit w 3 && decide (bits w 6 4 + 1 < 9))

/-- Whether a waiting MXCFG's frame is still in flight (R212). -/
def mxWaitAlive (s : State) (c : Nat) (p : Nat × Nat) : Bool :=
  match (ctxOf s c p.1).frame with
  | some f => f.serial == p.2
  | none => false

/-- Waiting MXCFGs in firing order (R212). -/
def mxWaiters (s : State) (c : Nat) : List (Nat × Nat) := (coreOf s c).mx.waiting.filter (mxWaitAlive s c)

/-- Whether the gate of an MXCFG is open (R212): the engine is idle and its context owns it, or nobody does and no MXCFG that fired
earlier waits. -/
def mxGate (s : State) (c x serial : Nat) : Bool :=
  let m := (coreOf s c).mx
  mxIdle m && (m.owner == some x || (m.owner.isNone &&
    (match mxWaiters s c with | h :: _ => h == (x, serial) | [] => true)))

/-- Puts an MXCFG at the end of the firing order, once (R212). -/
def mxQueueUp (s : State) (c x serial : Nat) : State :=
  if (mxWaiters s c).contains (x, serial) then s
  else modCore s c fun k => { k with mx := { k.mx with waiting := k.mx.waiting ++ [(x, serial)] } }

/-- ILLEGAL with the address of the instruction's word (R374). -/
def illegalHere (e : Env) (lsid : BitVec 5) (lanes : Nat := 0) : BFault :=
  ferr e lsid .illegal (wordOf (slotAddr e.f e.slot)) lanes

/-- MXCFG (R212, R213). Without REL it joins the firing order when it fires and counts once its gate opens; with REL it counts once the
engine is idle. -/
def execMxcfg (q : LF) (rel : Bool) (s : State) : Host.Outcome State Fault Refusal :=
  let i : Instr := .mxcfg q rel
  let v := ctxOf s s.focus.cell s.focus.ctx
  match v.frame with
  | none => .fault .noFrame
  | some f =>
    let e := envOf s v f i
    let acts := if rel then anyMatch e else (actA e).isSome
    let w := match actA e with | some p => p.2 | none => 0
    let s := if armed f s.focus.slot i && acts && !rel && !mxCfgBad w then mxQueueUp s e.c e.x f.serial else s
    fireGate s i 2
      (fun s e => !acts || (if rel then (coreOf s e.c).mx.owner != some e.x || mxIdle (coreOf s e.c).mx
        else mxCfgBad w || mxGate s e.c e.x e.f.serial))
      fun s e =>
        if !acts then finish s e (countEffect e.f e.slot q.lsid.toNat .nothing)
        else if rel then
          if (coreOf s e.c).mx.owner == some e.x then
            finish s e (countEffect e.f e.slot q.lsid.toNat (.mxcfg true 0))
          else finish s e (.error (ferr e q.lsid .prot 0))
        else if mxCfgBad w then finish s e (.error (illegalHere e q.lsid))
        else finish s e (countEffect e.f e.slot q.lsid.toNat (.mxcfg false w))

/-- The word MXSTAT delivers (R218). DESIGN CHOICE: a row that is being filled counts as present (notes/assumptions/71.md). -/
def mxStatus (m : Mx) : Word :=
  wordOf ((if m.sideUsed then 2 ^ 15 else 0) + m.queue.length % 8 * 2 ^ 12 + m.arows.length % 32 * 2 ^ 7 +
    (if m.ready1 then 64 else 0) + (if m.ready0 then 32 else 0) + (if m.run.isSome then 16 else 0) +
    (match m.owner with | some x => x % 8 * 2 + 1 | none => 0))

/-- MXSTAT (R218); from a context that does not own the engine it faults PROT (R212). -/
def execMxstat (q : EF) (s : State) : Host.Outcome State Fault Refusal :=
  fireE s (.mxstat q) q.t0 fun s e =>
    let m := (coreOf s e.c).mx
    if anyMatch e then
      if m.owner == some e.x then .ok (some (mxStatus m)) else .error { cause := .prot, slot := e.slot }
    else .ok none

/-- Checks of a run of `n` bytes in elements of `unit` bytes through a window of KIND SRAM, with its key (R214, R217). -/
def mxSpan (s : State) (e : Env) (lsid : BitVec 5) (a : Acc) (ea : Word) (n unit : Nat) : Except BFault Nat :=
  let w := winOf e.v ea
  if bit w.w0 31 && winKind w != .sram then .error (ferr e lsid .window ea)
  else
    match accCheck e.c w a ea unit with
    | some k => .error (ferr e lsid k ea)
    | none =>
      let o := bits ea 0 28
      if bits w.w2 0 28 < o + n then
        .error (ferr e lsid .bounds (ea + wordOf ((bits w.w2 0 28 - o) / unit * unit)))
      else .ok (match translate s e.c w o with | .mem k => k | _ => 0)

/-- Bytes of a B element in SRAM (R214). -/
def mxElBytes (mode : Nat) : Nat := match mode with | 0 => 2 | 1 => 4 | _ => 1

/-- PROT from a context that does not own the engine (R212). -/
def mxOwned (s : State) (e : Env) (lsid : BitVec 5) (k : Mx → Except BFault Act) : Except BFault Act :=
  let m := (coreOf s e.c).mx
  if m.owner == some e.x then k m else .error (ferr e lsid .prot 0)

/-- MXLDB (R214). -/
def execMxldb (q : LF) (bank : BitVec 1) (strm : Bool) (s : State) : Host.Outcome State Fault Refusal :=
  fireQ s (.mxldb q bank strm) q.lsid fun s e =>
    if strm then
      (if anyMatch e then mxOwned s e q.lsid fun _ => .ok (.mxcmd (.load bank.toNat true 0 0 false)) else .ok .nothing)
    else
      match actA e with
      | none => .ok .nothing
      | some (_, a) =>
        mxOwned s e q.lsid fun m =>
          match mxSpan s e q.lsid .load a (mxK m * 16 * mxElBytes (mxMode m)) (mxElBytes (mxMode m)) with
          | .ok k => .ok (.mxcmd (.load bank.toNat false k a (winMode (winOf e.v a) == .presence)))
          | .error b => .error b

/-- Rows of a run word (R215). -/
def runRows (w : Word) : Nat := bits w 0 7 + 1
/-- ABASE of a run word (R215). -/
def runBase (w : Word) : Nat := bits w 7 6
/-- Whether a run is classical (R215). -/
def runClassical (m : Mx) (w : Word) : Bool := bit w 15 || !mxRecomb m

/-- Whether a run word is invalid (R215). -/
def runBad (m : Mx) (w : Word) : Bool :=
  bits w 25 7 != 0 ||
  (if runClassical m w then decide (64 < runBase w + runRows w)
   else !(runRows w == 16 || runRows w == 32) || !(runBase w == 0 || runBase w == 32) ||
        decide (64 < runBase w + 2 * runRows w))

/-- MXRUN (R215). -/
def execMxrun (q : LF) (s : State) : Host.Outcome State Fault Refusal :=
  fireQ1 s (.mxrun q) q.lsid fun s e _ a =>
    mxOwned s e q.lsid fun m => if runBad m a then .error (illegalHere e q.lsid) else .ok (.mxcmd (.run a))

/-- Whether an accumulator row is in recombination state (R217). -/
def rowRecomb (m : Mx) (r : Nat) : Bool := Tbl.get (mxRecomb m) m.recomb r

/-- The order that a command leaves a row in (R217). -/
def orderAfter (m : Mx) (r : Nat) (now : Bool) : MxCmd → Bool
  | .run w =>
    if runClassical m w then (if runBase w ≤ r ∧ r < runBase w + runRows w then false else now)
    else if runBase w ≤ r ∧ r < runBase w + 2 * runRows w then true else now
  | _ => now

/-- Commands of a side effect. -/
def actMx : Act → List MxCmd
  | .mxcmd c => [c]
  | _ => []

/-- The order of a row as the running command, the queue and the block's lower-LSID runs will leave it (R217). -/
def orderAt (m : Mx) (f : Frame) (lsid r : Nat) : Bool :=
  let runs := (match m.run with | some u => [u.cmd] | none => []) ++ (m.queue.map fun p => p.1) ++
    (sortEffs (f.effs.filter fun e => decide (e.lsid < lsid))).flatMap fun e => actMx e.act
  runs.foldl (orderAfter m r) (rowRecomb m r)

/-- Whether an MXRUN of the frame with a lower LSID has not fired: the state of the rows is then not yet known (R217). -/
def lowerRunUnfired (f : Frame) (n : Nat) : Bool :=
  (List.range f.words.length).any fun k =>
    match slotInstr f k with
    | some (.mxrun q) => decide (q.lsid.toNat < n) && !(slotOf f k).fired
    | _ => false

/-- First row, row count, DEST and OFMT of a readout word (R217). -/
def outFirst (w : Word) : Nat := bits w 0 6
/-- Rows of a readout word (R217). -/
def outCount (w : Word) : Nat := bits w 6 7 + 1
/-- DEST of a readout word (R217). -/
def outDest (w : Word) : Nat := bits w 13 2
/-- OFMT of a readout word (R217). -/
def outFmt (w : Word) : Nat := bits w 15 2

/-- MXOUT (R217). DESIGN CHOICE: it waits until the MXRUNs of its block with lower LSIDs have fired, since these decide the order that its rows will
have (notes/assumptions/95.md). -/
def execMxout (q : LF) (s : State) : Host.Outcome State Fault Refusal :=
  fireGate s (.mxout q) 2 (fun _ e => !lowerRunUnfired e.f q.lsid.toNat) fun s e =>
    finish s e (match actAB e with
      | none => countEffect e.f e.slot q.lsid.toNat .nothing
      | some (_, a, b) =>
        let r := mxOwned s e q.lsid fun m =>
          if bits a 27 5 ≠ 0 ∨ outFmt a = 3 ∨ outDest a = 3 ∨ (outFmt a = 1 ∧ mxMode m ≠ 2) ∨ 64 < outFirst a + outCount a ∨
              ((List.range (outCount a)).any fun k =>
                orderAt m e.f q.lsid.toNat (outFirst a + k) && decide (16 ≤ (outFirst a + k) % 32)) = true then
            .error (illegalHere e q.lsid)
          else if outDest a = 0 then
            match mxSpan s e q.lsid .stFull b (outCount a * 16 * (if outFmt a = 2 then 8 else 4)) 4 with
            | .ok k => .ok (.mxcmd (.out a k b (winMode (winOf e.v b) == .presence)))
            | .error x => .error x
          else .ok (.mxcmd (.out a 0 0 false))
        match r with
        | .ok act => countEffect e.f e.slot q.lsid.toNat act
        | .error x => .error x)

/-- MXCLR (R218). -/
def execMxclr (q : LF) (first countM1 : BitVec 6) (s : State) : Host.Outcome State Fault Refusal :=
  fireQ0 s (.mxclr q first countM1) q.lsid fun s e =>
    mxOwned s e q.lsid fun _ =>
      if 64 < first.toNat + countM1.toNat + 1 then .error (illegalHere e q.lsid)
      else .ok (.mxcmd (.clear first.toNat (countM1.toNat + 1)))

end Sys2Proof.Machine
end

