-- ==== Sys2Proof/Machine/MatrixArith.lean ====
section
/-! DEFINITION. Arithmetic of the matrix engine (R64 to R73, R336): how elements enter, how rows fire, and how rows are read out. -/

namespace Sys2Proof.Machine

open Sys2Proof

/-! ### Elements -/

/-- Zero. -/
def elZero : El := .fin false 0 0

/-- An integer as an element. -/
def intEl (v : Int) : El := .fin (decide (v < 0)) v.natAbs 0

/-- The integer that an element of INT8 mode holds. -/
def elToInt (x : El) : Int := (elInt x).1 * 2 ^ (elInt x).2.toNat

/-- Storage code of A elements (R64). -/
def mxACode (mode : Nat) : Nat := match mode with | 0 => 2 | 1 => 0 | 2 => 14 | 4 => 4 | _ => 3

/-- Storage code of B elements (R64). -/
def mxBCode (mode : Nat) : Nat := if mode = 5 then 19 else mxACode mode

/-- A decoded element as a code held as read: a signalling NaN stays one (R55, R64). -/
def heldEl (d : El × Word) : El := if d.1 = .nan ∧ d.2 ≠ 0 then .snan else d.1

/-- The value of an element code held as read (R64). -/
def mxDecode (code n : Nat) : El :=
  match elemFmt code with
  | some f => heldEl (decodeFloat f n)
  | none => if code = 14 then intEl (signed n 8) else dyValue n

/-- A lane that enters in INT8 mode (R216). -/
def enterInt (w : Word) : El × Word :=
  let r := satInt (-128) 127 w.toInt 8
  (intEl (signed r.1 8), r.2)

/-- A binary32 or integer lane that enters (R64, R216). DESIGN CHOICE: a DY8 operand beyond its range raises the flags of its encoding alone, and no
SO, since no burst scale overflows (R63, R64; notes/assumptions/92.md). -/
def enterLane (mode code : Nat) (w : Word) : El × Word :=
  if mode = 2 then enterInt w
  else if code = 0 then (fpDec w, 0)
  else
    let r := if code = 19 then encodeDy (fpDec w) else encodeElem code (some w)
    (mxDecode code r.1, r.2)

/-- Whether a scaled stream format has the element format of a storage code (R64). -/
def sameElement (scode code : Nat) : Bool := (scode == 8 && code == 3) || (scode == 9 && code == 4) || (scode == 19 && code == 19)

/-- An element whose burst scale is held apart from it as an exact power of two (R64): its significand has more than the 24 bits of a binary32
value, by which its split knows it. -/
def heldApart (x : El) : El :=
  match x with
  | .fin n m e => .fin n (m * 2 ^ 24) (e - 24)
  | y => y

/-- An element of a scaled stream that enters: code `n` of a burst with scale byte `sc` (R64). -/
def enterScaled (mode code scode sc n : Nat) : El × Word :=
  if mode = 2 then
    let d := decodeBurstElem scode sc n
    let r := enterInt d.1
    (r.1, d.2 ||| r.2)
  else
    let b := burstEl scode sc n
    if sameElement scode code then (elScale (heldEl (b.1, b.2.2)) b.2.1, b.2.2)
    else if code = 0 then (heldApart (elScale b.1 b.2.1), b.2.2)
    else
      let r := match elemFmt code with
        | some f => encodeFloat f false b.1
        | none => encodeDy b.1
      (elScale (mxDecode code r.1) b.2.1, b.2.2 ||| r.2)

/-! ### Wide accumulators -/

/-- The wide accumulator format (R65). -/
def waFmt : Fmt := ⟨32, -510, 511, 0xFFFFFFFF, 42⟩

/-- Rounding to nearest even in a format whose range is not left. -/
def roundTo (f : Fmt) (x : El) : El :=
  match x with
  | .fin n m e => let r := roundFmt f .near n m e false; if r.tooBig then .inf n else .fin n r.m r.q
  | y => y

/-- 48-bit two's complement (R67). -/
def wrap48 (v : Int) : Int := (v + 2 ^ 47) % 2 ^ 48 - 2 ^ 47

/-- One accumulator addition (R65, R67). -/
def accAdd (mode : Nat) (x y : El) : El × Word :=
  if mode = 2 then (intEl (wrap48 (elToInt x + elToInt y)), 0)
  else let s := elAdd .near x y; (roundTo waFmt s.1, s.2)

/-- One accumulator subtraction. -/
def accSub (mode : Nat) (x y : El) : El × Word := accAdd mode x (elNeg y)

/-- The code of a value in the 48-bit container (R65, R217); `free` fills the sign and the fraction of a NaN, which R65 leaves open but for a
fraction that is not zero (notes/assumptions/5.md). -/
def waCode (free : Nat) (x : El) : Nat :=
  match x with
  | .nan | .snan => free % 2 * 2 ^ 41 + 1023 * 2 ^ 31 + 1 + free / 2 % (2 ^ 31 - 1)
  | .inf n => (if n then 2 ^ 41 else 0) + 1023 * 2 ^ 31
  | .fin n m e =>
    let sign : Nat := if n then 2 ^ 41 else 0
    let small : Nat := m * 2 ^ (e + 541).toNat
    let normal : Nat := (topExp m e + 511).toNat * 2 ^ 31 + m * 2 ^ 31 / 2 ^ Nat.log2 m % 2 ^ 31
    sign + (if m = 0 then 0 else if topExp m e < -510 then small else normal)

/-- An accumulator in its 48-bit container (R65, R67). -/
def accCode (mode free : Nat) (x : El) : Nat := if mode = 2 then (elToInt x % 2 ^ 48).toNat else waCode free x

/-- The value of a 42-bit code (R65). -/
def waDecode (n : Nat) : El :=
  let neg := decide (n / 2 ^ 41 % 2 = 1)
  let ex : Nat := n / 2 ^ 31 % 1024
  let fr : Nat := n % 2 ^ 31
  if ex = 1023 then (if fr = 0 then .inf neg else .nan)
  else if ex = 0 then .fin neg fr (-541)
  else .fin neg (fr + 2 ^ 31) ((ex : Int) - 511 - 31)

/-- The accumulator that a 48-bit container holds (R65, R67). -/
def accDecode (mode n : Nat) : El := if mode = 2 then intEl (wrap48 n) else waDecode (n % 2 ^ 42)

/-! ### Products -/

/-- BF16 with a 10-bit significand and two more bits of exponent (R69). DESIGN CHOICE for the 10-bit pieces of S3 mode, whose exponent
range R69 does not give: the same as that of BF16 pre-sums (notes/assumptions/81.md). -/
def wide10 : Fmt := ⟨10, -510, 511, 0x3FF, 20⟩
/-- A 26-bit significand (R69). DESIGN CHOICE: R69 gives S3 pre-sums no exponent range; they take that of BF16 pre-sums, two bits wider
than binary32's (notes/assumptions/81.md). -/
def wide26 : Fmt := ⟨26, -510, 511, 0x3FFFFFF, 36⟩

/-- One piece of a split: an overflow takes the largest finite value (R73). -/
def pieceOf (f : Fmt) (x : El) : El :=
  match x with
  | .fin n m e =>
    let r := roundFmt f .near n m e false
    if r.tooBig then .fin n f.maxM (f.emax - (f.p - 1 : Nat)) else .fin n r.m r.q
  | y => y

/-- The three pieces of a split of a value within the range of the pieces' format (R73). -/
def splitIn (f : Fmt) (x : El) : El × El × El :=
  let h := pieceOf f x
  let r := (elAdd .near x (elNeg h)).1
  let m := pieceOf f r
  (h, m, pieceOf f (elAdd .near r (elNeg m)).1)

/-- The power of two that stays outside the split of an operand whose scale is held apart (R64, R73); one with at most 24 bits of significand is a
binary32 value, which is split as it is. A pre-sum, of up to 26 bits (R69), lies well inside the range of its pieces, so that its split is the
same either way. -/
def splitShift (x : El) : Int :=
  match x with
  | .fin _ m e => if 2 ^ 24 ≤ m then topExp m e else 0
  | _ => 0

/-- The three pieces of a split (R64, R73): a burst scale stays outside the split. -/
def split3 (f : Fmt) (x : El) : El × El × El :=
  let k := splitShift x
  let p := splitIn f (elScale x (-k))
  (elScale p.1 k, elScale p.2.1 k, elScale p.2.2 k)

/-- The products that one pair of operands gives; `f` is the format of the pieces in S3 mode (R66, R73). A NaN operand of S3 mode raises
NV. -/
def products (mode : Nat) (f : Fmt) (a b : El) : List (El × Word) :=
  if mode = 1 then
    if elIsFinite a && elIsFinite b then
      let x := split3 f a
      let y := split3 f b
      [elMul x.1 y.1, elMul x.1 y.2.1, elMul x.2.1 y.1, elMul x.1 y.2.2, elMul x.2.2 y.1, elMul x.2.1 y.2.1]
    else
      let r := elMul a b
      [(r.1, if r.1 = .nan then flNV else r.2)]
  else [elMul a b]

/-- The exact sum of products, with the flags of products and sum (R66). -/
def sumProducts (ps : List (El × Word)) : El × Word :=
  match ps with
  | [] => (elZero, 0)
  | p :: t => t.foldl (fun s q => let r := elAdd .near s.1 q.1; (r.1, s.2 ||| q.2 ||| r.2)) p

/-- Element `n` of a row, zero beyond its end. -/
def elAt (l : List El) (n : Nat) : El := (l[n]?).getD elZero

/-! ### Rows read as values -/

/-- Key of the M accumulator Mk of row pair `i`, column pair `j` of tile `t` (R68). -/
def mKey (t i j k : Nat) : Nat := ((t * 8 + i) * 8 + j) * 8 + k

/-- Key of an element (R71). -/
def elKey (row col : Nat) : Nat := row * 16 + col

/-- The M accumulators read out in the order of R70: element (row `k`, column `col`) of tile `t`. -/
def postAdd (m : Mx) (t k col : Nat) : El × Word :=
  let mode := mxMode m
  let g (n : Nat) : El := Tbl.get elZero m.mac (mKey t (k % 8) (col % 8) n)
  let u := accAdd mode (g 1) (g 6)
  let u7 := accAdd mode u.1 (g 7)
  let r : El × Word :=
    if k < 8 then
      if col < 8 then accAdd mode (g 1) (g 2)
      else
        let a := accAdd mode u.1 (g 5)
        let b := accAdd mode a.1 (g 3)
        (b.1, u.2 ||| a.2 ||| b.2)
    else
      let b := if col < 8 then accSub mode u7.1 (g 4) else accAdd mode u7.1 (g 5)
      (b.1, u.2 ||| u7.2 ||| b.2)
  match m.side.find? fun p => p.1 == elKey (32 * t + k) col with
  | some p => let b := accAdd mode r.1 p.2; (b.1, r.2 ||| b.2)
  | none => r

/-- Whether a run has written a row since it was last cleared (R212, R336). -/
def rowWritten (m : Mx) (r : Nat) : Bool := m.recomb.any fun p => p.1 == r

/-- The unstated value of an element of rows 16 to 31 of a recombination tile that a run has written. -/
def freeEl (mode tick row col : Nat) : El :=
  accDecode mode (Config.freeAccumulator tick (elKey row col))

/-- The wide value of an element as readout forms it (R66, R70, R217, R336): a pending group of a classical row is added. -/
def wideValue (m : Mx) (tick row col : Nat) : El × Word :=
  let mode := mxMode m
  if rowRecomb m row then
    if row % 32 < 16 then postAdd m (row / 32) (row % 32) col
    else if rowWritten m row then (freeEl mode tick row col, 0)
    else (elZero, 0)
  else
    let a := Tbl.get elZero m.acc (elKey row col)
    match Tbl.get [] m.grp (elKey row col) with
    | [] => (a, 0)
    | ps =>
      let s := sumProducts (ps.flatMap fun p => products mode bf16 p.1 p.2)
      let r := accAdd mode a s.1
      (r.1, s.2 ||| r.2)

/-! ### Zeroing and change of order -/

/-- Clears the M accumulators and side accumulators of a row pair (R217, R218); rows 16 to 31 that the pair's runs have written hold zero
again. -/
def zeroPair (m : Mx) (t i : Nat) : Mx :=
  { m with
    recomb := m.recomb.filter fun p => !(p.2 && (p.1 == 32 * t + i + 16 || p.1 == 32 * t + i + 24))
    mac := m.mac.filter fun p => !(p.1 / 64 == t * 8 + i)
    side := m.side.filter fun p => !(p.1 / 16 == 32 * t + i || p.1 / 16 == 32 * t + i + 8) }

/-- Clears a classical row. -/
def zeroRow (m : Mx) (row : Nat) : Mx :=
  { m with
    acc := m.acc.filter fun p => p.1 / 16 != row
    grp := m.grp.filter fun p => p.1 / 16 != row }

/-- Zeroes a row as its order has it (R217, R218): in recombination state its pair goes with it. -/
def clearRow (m : Mx) (row : Nat) : Mx :=
  if rowRecomb m row then zeroPair m (row / 32) (row % 8) else zeroRow m row

/-- Writes a row of accumulators. -/
def putRow (m : Mx) (row : Nat) (xs : List El) : Mx :=
  { m with acc := (xs.zip (List.range 16)).foldl (fun t p => Tbl.put t (elKey row p.2) p.1) m.acc }

/-- The wide values of a row and their flags. -/
def wideRow (m : Mx) (tick row : Nat) : List El × Word :=
  let r := (List.range 16).map fun c => wideValue m tick row c
  (r.map fun p => p.1, r.foldl (fun f p => f ||| p.2) 0)

/-- Brings a row into classical order, from zero or from what it holds (R215, R336). -/
def makeClassical (m : Mx) (tick row : Nat) (zero : Bool) : Mx × Word :=
  if zero then
    let z := zeroRow m row
    ({ z with recomb := Tbl.put z.recomb row false }, 0)
  else if rowRecomb m row then
    let w := wideRow m tick row
    let z := putRow (zeroRow m row) row w.1
    ({ z with recomb := Tbl.put z.recomb row false }, w.2)
  else ({ m with recomb := Tbl.put m.recomb row false }, 0)

/-- Writes a row of side accumulators. -/
def putSide (m : Mx) (row : Nat) (xs : List El) : Mx :=
  { m with side := (xs.zip (List.range 16)).foldl (fun t p => Tbl.put t (elKey row p.2) p.1) m.side }

/-- Marks the four accumulator rows of a row pair as in recombination state. -/
def markPair (m : Mx) (t i : Nat) : Mx :=
  { m with recomb := [i, i + 8, i + 16, i + 24].foldl (fun r k => Tbl.put r (32 * t + k) true) m.recomb }

/-- Brings a row pair into recombination order, from zero or from what it holds (R215, R336). -/
def makeRecomb (m : Mx) (tick t i : Nat) (zero : Bool) : Mx × Word :=
  let lo := 32 * t + i
  let hi := 32 * t + i + 8
  if zero then (markPair (zeroPair (zeroRow (zeroRow m lo) hi) t i) t i, 0)
  else if rowRecomb m lo && rowRecomb m hi then (markPair m t i, 0)
  else
    let a := wideRow m tick lo
    let b := wideRow m tick hi
    let z := zeroPair (zeroRow (zeroRow m lo) hi) t i
    ({ markPair (putSide (putSide z lo a.1) hi b.1) t i with sideUsed := true }, a.2 ||| b.2)

/-! ### Classical rows -/

/-- Adds complete groups of 8 to an accumulator; what is left stays pending (R66, R336). The first argument bounds the groups. -/
def addGroups (mode : Nat) : Nat → El → List (El × El) → Word → El × List (El × El) × Word
  | 0, a, ps, f => (a, ps, f)
  | n + 1, a, ps, f =>
    if ps.length < 8 then (a, ps, f)
    else
      let s := sumProducts ((ps.take 8).flatMap fun p => products mode bf16 p.1 p.2)
      let r := accAdd mode a s.1
      addGroups mode n r.1 (ps.drop 8) (f ||| s.2 ||| r.2)

/-- A row fires in classical order into accumulator row `row` (R66, R67, R73): `b` is the bank, row-major. -/
def fireClassical (m : Mx) (a b : List El) (row : Nat) : Mx × Word :=
  let mode := mxMode m
  let k := mxK m
  (List.range 16).foldl (fun st c =>
    let key := elKey row c
    let ps := Tbl.get [] st.1.grp key ++ (List.range k).map fun n => (elAt a n, elAt b (n * 16 + c))
    let r := addGroups mode (k / 8 + 1) (Tbl.get elZero st.1.acc key) ps st.2
    ({ st.1 with acc := Tbl.put st.1.acc key r.1, grp := Tbl.put st.1.grp key r.2.1 }, r.2.2)) (m, (0 : Word))

/-! ### Recombination row pairs -/

/-- A pre-sum with its rounding (R69). -/
def preSum (mode : Nat) (x y : El) : El × Word :=
  let s := elAdd .near x y
  (match mode with
   | 0 => roundTo wide10 s.1
   | 1 => roundTo wide26 s.1
   | _ => s.1, s.2)

/-- The four elements of a slice of A or B: 11, 12, 21, 22. -/
structure Quad where
  q11 : El
  q12 : El
  q21 : El
  q22 : El
  deriving DecidableEq, Repr

/-- Whether a slice holds an infinity or a NaN (R71). -/
def quadTainted (q : Quad) : Bool := !(elIsFinite q.q11 && elIsFinite q.q12 && elIsFinite q.q21 && elIsFinite q.q22)

/-- Slice `p` of a chunk at `k0` of rows `a0` and `a1` (R68). -/
def aQuad (a0 a1 : List El) (k p : Nat) (k0 : Nat) : Quad :=
  let g (l : List El) (n : Nat) : El := if n < k then elAt l n else elZero
  ⟨g a0 (k0 + p), g a0 (k0 + 8 + p), g a1 (k0 + p), g a1 (k0 + 8 + p)⟩

/-- Slice `p` of a chunk of column pair `j` of the bank (R68). -/
def bQuad (b : List El) (k p k0 j : Nat) : Quad :=
  let g (n c : Nat) : El := if n < k then elAt b (n * 16 + c) else elZero
  ⟨g (k0 + p) j, g (k0 + p) (j + 8), g (k0 + 8 + p) j, g (k0 + 8 + p) (j + 8)⟩

/-- The operand pairs of M1 to M7 for a slice, with the flags of the pre-sums (R68, R69). -/
def mTerms (mode : Nat) (a b : Quad) : List (El × El) × Word :=
  let s1 := preSum mode a.q21 a.q22
  let s2 := preSum mode s1.1 (elNeg a.q11)
  let s3 := preSum mode a.q11 (elNeg a.q21)
  let s4 := preSum mode a.q12 (elNeg s2.1)
  let t1 := preSum mode b.q12 (elNeg b.q11)
  let t2 := preSum mode b.q22 (elNeg t1.1)
  let t3 := preSum mode b.q22 (elNeg b.q12)
  let t4 := preSum mode t2.1 (elNeg b.q21)
  ([(a.q11, b.q11), (a.q12, b.q21), (s4.1, b.q22), (a.q22, t4.1), (s1.1, t1.1), (s2.1, t2.1), (s3.1, t3.1)],
   s1.2 ||| s2.2 ||| s3.2 ||| s4.2 ||| t1.2 ||| t2.2 ||| t3.2 ||| t4.2)

/-- The two classical products of a slice for each of the four outputs (R71): columns j and j + 8 of rows i and i + 8. DESIGN CHOICE: in S3
mode the finite ones split into the 10-bit pieces of recombination order (R69), not into the BF16 pieces of R73
(notes/assumptions/81.md). -/
def sideTerms (mode : Nat) (a b : Quad) : List (List (El × Word)) :=
  let two (x y z w : El) := products mode wide10 x y ++ products mode wide10 z w
  [two a.q11 b.q11 a.q12 b.q21, two a.q11 b.q12 a.q12 b.q22, two a.q21 b.q11 a.q22 b.q21, two a.q21 b.q12 a.q22 b.q22]

/-- Adds a sum of products to an entry of a table of accumulators. -/
def accInto (mode key : Nat) (t : Tbl El) (ps : List (El × Word)) : Tbl El × Word :=
  let s := sumProducts ps
  let r := accAdd mode (Tbl.get elZero t key) s.1
  (Tbl.put t key r.1, s.2 ||| r.2)

/-- One chunk of a row pair and a column pair (R68, R71): `tainted` tells the slices left out. -/
def fireChunk (m : Mx) (qa : List Quad) (qb : List Quad) (tainted : List Bool) (t i j : Nat) : Mx × Word :=
  let mode := mxMode m
  let sl := (qa.zip qb).zip tainted
  let clean := (sl.filter fun q => !q.2).map fun q => mTerms mode q.1.1 q.1.2
  let bad := (sl.filter fun q => q.2).map fun q => sideTerms mode q.1.1 q.1.2
  let fl := clean.foldl (fun f q => f ||| q.2) 0
  let r := (List.range 7).foldl (fun (st : Tbl El × Word) k =>
    let ps := clean.flatMap fun q => match q.1[k]? with | some p => products mode wide10 p.1 p.2 | none => []
    let x := accInto mode (mKey t i j (k + 1)) st.1 ps
    (x.1, st.2 ||| x.2)) (m.mac, fl)
  let m := { m with mac := r.1 }
  if bad.isEmpty then (m, r.2)
  else
    let q := (List.range 4).foldl (fun (st : Tbl El × Word) n =>
      let key := elKey (32 * t + i + 8 * (n / 2)) (j + 8 * (n % 2))
      let x := accInto mode key st.1 (bad.flatMap fun l => (l[n]?).getD [])
      (x.1, st.2 ||| x.2)) (m.side, r.2)
    ({ m with side := q.1, sideUsed := true }, q.2)

/-- FIN of the engine, resolved at its claim (R71, R72, R212). -/
def mxFinOn (m : Mx) : Bool := bits m.cfg 4 2 == 2

/-- A chunk of a row pair: its A slices, the B slices of each column pair, and which slices are tainted (R68, R71). -/
def chunkAt (m : Mx) (a0 a1 b : List El) (ch : Nat) : List Quad × List (List Quad) × List Bool :=
  let k := mxK m
  let qa := (List.range 8).map fun p => aQuad a0 a1 k p (16 * ch)
  let cols := (List.range 8).map fun j => (List.range 8).map fun p => bQuad b k p (16 * ch) j
  (qa, cols, (List.range 8).map fun p =>
    !mxFinOn m && ((match qa[p]? with | some q => quadTainted q | none => false) ||
      cols.any fun l => match l[p]? with | some q => quadTainted q | none => false))

/-- A row pair fires in recombination order into tile `t` (R68 to R73). -/
def fireRecomb (m : Mx) (a0 a1 b : List El) (t i : Nat) : Mx × Word :=
  (List.range ((mxK m + 15) / 16)).foldl (fun st ch =>
    let x := chunkAt m a0 a1 b ch
    (x.2.1.zip (List.range 8)).foldl (fun st c =>
      let r := fireChunk st.1 x.1 c.1 x.2.2 t i c.2
      (r.1, st.2 ||| r.2)) st) (m, (0 : Word))

/-- WA additions of a row's classical firing: one for each of its 16 accumulators and each group that it completes (R66, R364); INT8 mode
adds in 48-bit integers instead (R67). -/
def rowAdds (m : Mx) (row : Nat) : Nat :=
  if mxMode m = 2 then 0 else 16 * (((Tbl.get [] m.grp (elKey row 0)).length + mxK m) / 8)

/-- WA additions of a row pair's firing in recombination order: for each chunk and column pair one for each of M1 to M7 where a slice is clean,
and one for each of the four side accumulators where a slice is tainted (R68, R71, R364). -/
def pairAdds (m : Mx) (a0 a1 b : List El) : Nat :=
  if mxMode m = 2 then 0
  else (List.range ((mxK m + 15) / 16)).foldl (fun n ch =>
    let taint := (chunkAt m a0 a1 b ch).2.2
    n + 8 * ((if taint.all id then 0 else 7) + if taint.any id then 4 else 0)) 0

/-- WA additions by which one row is read out (R66, R70, R71, R364; notes/assumptions/16.md): in recombination state those that R70 writes, U once
for each column pair, and one for each side accumulator; in classical order one for each pending group. INT8 mode adds none. -/
def readAdds (m : Mx) (row : Nat) : Nat :=
  if mxMode m = 2 then 0
  else if rowRecomb m row then
    (if 16 ≤ row % 32 then 0 else if row % 32 < 8 then 32 else 40) + (m.side.filter fun p => p.1 / 16 == row).length
  else if (Tbl.get [] m.grp (elKey row 0)).isEmpty then 0 else 16

/-- WA additions of bringing a row into classical order (R336). -/
def classicalAdds (m : Mx) (row : Nat) (zero : Bool) : Nat := if !zero && rowRecomb m row then readAdds m row else 0

/-- WA additions of bringing a row pair into recombination order (R336). -/
def recombAdds (m : Mx) (t i : Nat) (zero : Bool) : Nat :=
  let lo := 32 * t + i
  if zero || (rowRecomb m lo && rowRecomb m (lo + 8)) then 0 else readAdds m lo + readAdds m (lo + 8)

/-- Pre-adder operations of a row pair: S1 to S4 of each slice (R68, R364). -/
def pairPreAdds (m : Mx) : Nat := (mxK m + 15) / 16 * 8 * 4

/-- Pre-adder operations of a B tile under a recombination configuration: T1 to T4 of each slice of each column pair, as its entries arrive (R68,
R214, R364). -/
def tilePreAdds (m : Mx) : Nat := if bit m.cfg 3 then (mxK m + 15) / 16 * 8 * 8 * 4 else 0

/-- Whether an operand is other than zero. -/
def liveEl (x : El) : Bool := match x with | .fin _ m _ => m != 0 | _ => true

/-- Multiplier cells that fire for one pair of operands, both nonzero (R73, R364); any other cell is gated. -/
def firings (mode : Nat) (f : Fmt) (a b : El) : Nat :=
  if elIsFinite a && elIsFinite b then ((products mode f a b).filter fun p => liveEl p.1).length
  else if liveEl a && liveEl b then 1 else 0

/-- Multiplier cells that fire for a row in classical order (R66, R364). -/
def rowFirings (m : Mx) (a b : List El) : Nat :=
  ((List.range 16).map fun c => ((List.range (mxK m)).map fun n => firings (mxMode m) bf16 (elAt a n) (elAt b (n * 16 + c))).sum).sum

/-- Multiplier cells that fire for one slice of a row pair and a column pair (R68, R71, R364). -/
def sliceFirings (mode : Nat) (tainted : Bool) (a b : Quad) : Nat :=
  let ps : List (El × El) :=
    if tainted then
      [(a.q11, b.q11), (a.q12, b.q21), (a.q11, b.q12), (a.q12, b.q22), (a.q21, b.q11), (a.q22, b.q21), (a.q21, b.q12), (a.q22, b.q22)]
    else (mTerms mode a b).1
  (ps.map fun p => firings mode wide10 p.1 p.2).sum

/-- Multiplier cells that fire for a row pair in recombination order (R68, R364). -/
def pairFirings (m : Mx) (a0 a1 b : List El) : Nat :=
  ((List.range ((mxK m + 15) / 16)).map fun ch =>
    let x := chunkAt m a0 a1 b ch
    (x.2.1.map fun qb => (((x.1.zip qb).zip x.2.2).map fun q => sliceFirings (mxMode m) q.2 q.1.1 q.1.2).sum).sum).sum

/-! ### Readout -/

/-- One element of a readout as a number of 4 or 8 bytes, with its flags (R66, R67, R217). -/
def outElem (mode fmt tick : Nat) (x : El) : Nat × Word :=
  match fmt with
  | 0 => let r := roundB32 .near x; (r.1.toNat, r.2)
  | 1 =>
    let v := elToInt x
    if v < -(2 ^ 31) then (2 ^ 31, flNV) else if 2 ^ 31 - 1 < v then (2 ^ 31 - 1, flNV) else ((wordOfInt v).toNat, 0)
  | _ => (if mode = 2 then (elToInt x % 2 ^ 64).toNat else waCode (Config.freeNanFraction tick) x, 0)

/-! ### The A buffer -/

/-- Whether a row slot of the A buffer is free (R216). -/
def slotFree (m : Mx) : Bool := decide (m.arows.length < mxDepth m)

/-- The row that a source is filling (R216). -/
def openRow (m : Mx) (src : Option Nat) : Option ARow := m.arows.find? fun r => !r.full && r.src == src

/-- Whether the A buffer takes an element of a source: it is filling a row, or a slot is free (R216). -/
def takesElement (m : Mx) (src : Option Nat) : Bool := (openRow m src).isSome || slotFree m

/-- A row with further elements; it is full at K of them (R216). -/
def growRow (k : Nat) (r : ARow) (xs : List El) : ARow :=
  { r with
    els := (r.els ++ xs).take k
    full := decide (k ≤ r.els.length + xs.length)
    fed := if r.src.isSome then r.fed + xs.length else 0 }

/-- Adds elements to the row that their source is filling, or to a new one (R216). -/
def addToRow (m : Mx) (src : Option Nat) (xs : List El) : Mx :=
  let k := mxK m
  if (openRow m src).isSome then
    { m with arows := m.arows.map fun r => if !r.full && r.src == src then growRow k r xs else r }
  else { m with arows := m.arows ++ [growRow k { els := [], full := false, src := src } xs] }

/-- The end of a stream's run pads the row that it is filling with zeros (R216). -/
def padRow (m : Mx) (src : Option Nat) : Mx :=
  { m with arows := m.arows.map fun r =>
      if !r.full && r.src == src then
        { r with els := r.els ++ List.replicate (mxK m - r.els.length) elZero, full := true }
      else r }

/-- The end of a run of stream unit `n` that feeds the A buffer (R216). -/
def endRows (s : State) (c n : Nat) : State :=
  if n < 2 then modCore s c fun k => { k with mx := padRow k.mx (some n) } else s

/-- Elements of rows that have left the A buffer are consumed, for the units that delivered them (R335). -/
def consumeRows (s : State) (c : Nat) (rows : List ARow) : State :=
  rows.foldl (fun s r =>
    match r.src with
    | some n => putUnit s c n { unitOf s c n with sent := (unitOf s c n).sent - r.fed }
    | none => s) s

/-- Copies link entries into row slots while there are some and room for them (R216); the first argument bounds them. -/
def pullLink : Nat → State → Nat → State
  | 0, s, _ => s
  | n + 1, s, c =>
    let k := coreOf s c
    let west := mxAsrc k.mx == 1
    if k.mx.owner.isSome && (mxAsrc k.mx == 1 || mxAsrc k.mx == 2) && takesElement k.mx none then
      match linkQ k west with
      | [] => s
      | v :: t =>
        let mode := mxMode k.mx
        let xs := v.toList.map fun l => match l with | some w => enterLane mode (mxACode mode) w | none => (elZero, 0)
        let fl := ((xs.zip (List.range 8)).filter fun p =>
          decide ((match openRow k.mx none with | some r => r.els.length | none => 0) + p.2 < mxK k.mx)).foldl
            (fun f p => f ||| p.1.2) (0 : Word)
        let s := modCore s c fun k => { k with
          mx := addToRow k.mx none (xs.map fun p => p.1)
          linkW := if west then t else k.linkW
          linkN := if west then k.linkN else t }
        pullLink n (match k.mx.owner with | some x => raiseFlags s c x fl | none => s) c
    else s

end Sys2Proof.Machine
end

