-- ==== Sys2Proof/Machine/Special.lean ====
section
/-! DEFINITION. Special registers: SPR and SPW (R96, R127 to R140). -/

namespace Sys2Proof.Machine

open Sys2Proof

/-- Occupied pending entries (R135). -/
def pendCount (v : Context) : Nat := (v.pend.filter fun p => p.2.st != .free).length

/-- FAULTED pending entries (R135). -/
def pendFaulted (v : Context) : Nat := (v.pend.filter fun p => p.2.st == .faulted).length

/-- The value of special register `r` as SPR reads it (R130 to R140); `cyc` is the block's sample of the cycle count. -/
def sprValue (s : State) (c x : Nat) (v : Context) (cyc r : Nat) : Word :=
  let cell := cellOf s c
  match r with
  | 0x00 => wordOf ((if x = 4 then 0 else v.cls % 4) * 16 + (if v.tl then 8 else 0) + x)
  | 0x01 => wordOf (v.rtag % 256)
  | 0x02 => wordOf v.itag.toNat
  | 0x03 => wordOf v.argn
  | 0x04 => cell.regpos
  | 0x05 => cell.regdim
  | 0x06 => cell.npn
  | 0x07 => cell.npe
  | 0x08 => cell.nps
  | 0x09 => cell.npw
  | 0x0A => v.flags
  | 0x0B => v.fmode
  | 0x0C => v.trapv
  | 0x0D => v.tcause
  | 0x0E => v.tblock
  | 0x0F => v.taddr
  | 0x10 => v.tinfo
  | 0x11 => wordOf (pendFaulted v * 256 + pendCount v)
  | 0x12 => wordOf cyc
  | 0x13 => wordOf (cyc / 2 ^ 32)
  | 0x14 => wordOf (Tbl.get 0 s.spines cell.spine % 4096 * 2 ^ 16 + cell.spine)
  | 0x15 => wordOf v.nopreb
  | 0x16 => cell.energy
  | 0x17 => if x = 4 then 0 else v.evsel
  | 0x18 => if x = 4 then 0 else v.evcnt
  | 0x19 => wordOf v.calls.length
  | _ => 0

/-- Writes a special register under its access codes (R4, R5, R128, R133, R139); what the cycle of a commit has counted is added to the
value written to EVCNT (R129). -/
def spwWrite (x : Nat) (v : Context) (r : Nat) (w : Word) : Context :=
  match r with
  | 0x0A => { v with flags := w &&& 0x3F }
  | 0x0B => { v with fmode := w &&& 0x1F }
  | 0x0C => { v with trapv := w &&& 0xFFF0 }
  | 0x17 => if x = 4 then v else { v with evsel := w &&& 0x800000FF }
  | 0x18 => if x = 4 then v else { v with evcnt := w + v.evNow }
  | _ => v

/-- SPR: the register's value in every matching lane; the block's reads of the cycle count share one sample (R127). -/
def execSpr (r : RF) (s : State) : Host.Outcome State Fault Refusal :=
  fire s (.spr r) 2 fun s e =>
    let now := e.f.sample.getD (cellOf s e.c).cyc
    let f := if r.reg.toNat = 0x12 ∨ r.reg.toNat = 0x13 then { e.f with sample := some now } else e.f
    produce s { e with f := f } [r.t0] (laneVal e fun _ => some (sprValue s e.c e.x (ctxOf s e.c e.x) now r.reg.toNat), 0)

/-- SPW: at commit it writes the word of the lowest acting lane (R128). -/
def execSpw (q : LF) (reg : BitVec 6) (s : State) : Host.Outcome State Fault Refusal :=
  fireQ1 s (.spw q reg) q.lsid fun _ _ _ a => .ok (.spw reg.toNat a)

end Sys2Proof.Machine
end

