-- ==== Sys2Proof/Machine/Commit.lean ====
section
/-! DEFINITION. Block commit (R31 to R35, R100, R118 to R125, R172, R173, R189, R298, R344, R391, R400). -/

namespace Sys2Proof.Machine

open Sys2Proof

/-- What a commit meets: its effects, a fault, or something to wait for. -/
inductive Try where
  | ok (s : State) | fault (b : BFault) | hold (s : State)
  deriving DecidableEq, Repr

/-- The next part of a commit. -/
def Try.bind (r : Try) (k : State → Try) : Try :=
  match r with
  | .ok s => k s
  | .fault b => .fault b
  | .hold s => .hold s

/-! ### Local memory -/

/-- Local store lanes in order: the state, the lanes refused, and whether one waits for the undo log (R172, R173). -/
def storeHere (s : State) (hint : Hint) : List StLane → State × List (StLane × Cause) × Bool
  | [] => (s, [], false)
  | l :: ls =>
    let r := storeLane s l.mode l.size l.key l.val.toNat hint l.eat
    match r.2 with
    | .refused k => let q := storeHere r.1 hint ls; (q.1, (l, k) :: q.2.1, q.2.2)
    | .retry => let q := storeHere r.1 hint ls; (q.1, q.2.1, true)
    | _ => storeHere r.1 hint ls

/-- CLRP lanes in order. -/
def clearHere (s : State) : List StLane → State × List (StLane × Cause) × Bool
  | [] => (s, [], false)
  | l :: ls =>
    let r := clrpLane s l.key
    match r.2 with
    | .refused k => let q := clearHere r.1 ls; (q.1, (l, k) :: q.2.1, q.2.2)
    | .retry => let q := clearHere r.1 ls; (q.1, q.2.1, true)
    | _ => clearHere r.1 ls

/-- The fault of refused lanes, the lowest first (R173, R374), or the state. -/
def localTry (e : Eff) (r : State × List (StLane × Cause) × Bool) : Try :=
  match r.2.1 with
  | (l, k) :: t =>
    .fault {
      cause := k
      taddr := l.ea
      slot := e.slot
      lanes := lanesMask ((((l, k) :: t).filter fun p => p.2 == k).map fun p => p.1.lane)
      lsid := e.lsid }
  | [] => if r.2.2 then .hold r.1 else .ok r.1

/-! ### Links -/

/-- Entries that a link queue holds or will receive (R203, R204). -/
def linkLoad (s : State) (d : Nat) (west : Bool) : Nat :=
  (linkQ (coreOf s d) west).length +
  (s.net.filter fun m => m.dst == d && (match m.body with | .link w _ => w == west | _ => false)).length

/-- Places a value in an output (R203, R204): a full downstream queue holds the commit, and a value pushed past the region's edge is
discarded and counted (notes/assumptions/13.md). -/
def pushLink (s : State) (c : Nat) (east : Bool) (v : Val) : Try :=
  match (if linkInside s c east then linkDest s c east else none) with
  | none => .ok (countDiscard s c 1)
  | some d => if 8 ≤ linkLoad s d east then .hold s else .ok (post s c d 5 (.link east v))

/-- Removes the head of a link queue. -/
def dropLink (s : State) (c : Nat) (west : Bool) : State :=
  modCore s c fun k => if west then { k with linkW := k.linkW.drop 1 } else { k with linkN := k.linkN.drop 1 }

/-! ### Matrix engine -/

/-- FIN as the engine keeps it: 1 or 2 (R212). -/
def mxFin (w fmode : Word) : Word := if bits w 4 2 = 0 then setBits w 4 2 (if bit fmode 4 then 2 else 1) else w

/-- MXCFG at commit (R212): the claim clears the engine and lets no A row stay; the elements of a discarded row count as consumed
(notes/assumptions/70.md). -/
def claimMx (s : State) (c x serial : Nat) (w fmode : Word) : State :=
  modCore (consumeRows s c (coreOf s c).mx.arows) c fun k => { k with
    mx := { owner := some x, cfg := mxFin w fmode, waiting := k.mx.waiting.filter fun p => p != (x, serial), late := k.mx.late } }

/-- Release of the engine (R212). -/
def releaseMx (s : State) (c : Nat) : State := modCore s c fun k => { k with mx := { k.mx with owner := none } }

/-- A command enters the engine's queue of 4 (R189, R218). -/
def queueMx (s : State) (c : Nat) (m : MxCmd) (waits : List Nat) : Try :=
  if 4 ≤ (coreOf s c).mx.queue.length then .hold s
  else .ok (modCore s c fun k => { k with mx := { k.mx with queue := k.mx.queue ++ [(m, waits)] } })

/-! ### Acts -/

/-- The result of a stream function. -/
def tryStream (e : Eff) (r : Except BFault State) : Try :=
  match r with
  | .ok s => .ok s
  | .error b => .fault { b with slot := e.slot }

/-- A bank or window image in the issuer's SRAM is read as its request departs (R228, R423). DESIGN CHOICE: operand B is not checked; an
address outside the SRAM wraps modulo its size, and no alignment is asked of it (notes/assumptions/82.md). -/
def fillImage (s : State) (a : Act) : Act :=
  match a with
  | .mgmt m =>
    let at_ := sramKey m.core (m.b.toNat % sramSize m.core)
    if m.fn = 36 then .mgmt { m with image := readWords s at_ 64 }
    else if m.fn = 42 then .mgmt { m with image := readWords s at_ 4 }
    else a
  | _ => a

/-- Opens a pending entry for an act that takes one (R342). -/
def openAct (s : State) (c x : Nat) (e : Eff) (a : Act) : State :=
  match actKind a with
  | none => s
  | some k =>
    match freeEntries (ctxOf s c x) with
    | i :: _ => openEntry s c x i k e.lsid e.slot (fillImage s a)
    | [] => s

/-- An act on a group entry, once the cache takes the entry (R321, R392). -/
def withGroup (s : State) (c gt : Nat) (f : State → Try) : Try := if groupRoom s c gt then f s else .hold (askEarlyCut s c)

/-- One side effect at commit; `waits` are the entries that lower LSIDs of the block opened (R31, R33, R189, R304). -/
def commitAct (s : State) (c x : Nat) (f : Frame) (e : Eff) (waits : List Nat) : Try :=
  match e.act with
  | .nothing => .ok s
  | .spw _ _ => .ok s
  | .store here _ _ hint => (localTry e (storeHere s hint here)).bind fun s =>
      .ok (openAct (spendKeys s (here.map fun l => l.key)) c x e e.act)
  | .clrp here _ => (localTry e (clearHere s here)).bind fun s =>
      .ok (openAct (spendKeys s (here.map fun l => l.key)) c x e e.act)
  | .setBlk t b => .ok (writeBinding s c t (setBits (bindingOf (coreOf s c) t) 30 1 (if b then 1 else 0)))
  | .bind t w => .ok (writeBinding s c t w)
  | .tsAlloc l p => .ok (modCtx s c x fun v => { v with parents := Tbl.put v.parents l (some p) })
  | .tsFree l => .ok (openAct (modCtx s c x fun v => { v with parents := Tbl.put v.parents l none }) c x e e.act)
  | .lpop west fwd =>
    match linkQ (coreOf s c) west with
    | v :: _ => if fwd then pushLink (dropLink s c west) c west v else .ok (dropLink s c west)
    | [] => .ok s
  | .lpush east v => pushLink s c east v
  | .csig ch wide => .ok (if wide then openAct s c x e e.act else addPulse s c ch)
  | .sdef n a => tryStream e (commitSdef s c x e.slot e.lsid n a)
  | .sgo n r => tryStream e (commitSgo (if r then s else endRows s c n) c x e.slot n r waits)
  | .sstop n r => tryStream e (commitSstop (endRows s c n) c x e.slot n r)
  | .scond n a => tryStream e (commitScond s c x e.slot n a waits)
  | .sfmt n w => tryStream e (commitSfmt s c x e.slot n w)
  | .mxcfg rel w => .ok (if rel then releaseMx s c else pullLink 512 (claimMx s c x f.serial w f.fmode) c)
  | .mxcmd m => queueMx s c m waits
  | .joinc gt members rank =>
    withGroup s c gt fun s => .ok (forgetTold (modGroup s c gt fun _ => { members := members, rank := rank, live := true }) c gt)
  | .leavec gt => withGroup s c gt fun s => .ok (forgetTold (modGroup s c gt fun _ => {}) c gt)
  | .cstart gt a d =>
    if 4 ≤ collQueueLen (ctxOf s c x) then .hold s else withGroup s c gt fun s => .ok (commitCstart s c x gt a d waits)
  | .cabort gt =>
    withGroup s c gt fun s => .ok (forgetTold (modGroup (collDrop s c x gt 5) c gt fun g => { g with poison := false }) c gt)
  | .settle i v => .ok (settleEntry s c x i v)
  | .mgmt m =>
    let at_ := m.b.toNat % sramSize m.core
    let words := if m.fn = 36 then 64 else if m.fn = 42 then 4 else 0
    match spanBad s m.core at_ (4 * words) with
    | some a => .fault { cause := .ecc, taddr := wordOf a, slot := e.slot, lsid := e.lsid }
    | none => .ok (openAct s c x e e.act)
  | .cfg op =>
    let s := match op with
      | .request _ _ _ => modCtx s c x fun v => { v with cfgOut := v.cfgOut + 1 }
      | _ => s
    .ok (openAct s c x e e.act)
  | _ => .ok (openAct s c x e e.act)

/-- Open entries of a context. -/
def openOnes (v : Context) : List Nat := (List.range 32).filter fun i => (entryOf v i).st == .opened

/-- The side effects of a block in LSID order; `before` are the entries open when the commit began (R33, R297, R304). -/
def commitActs (c x : Nat) (f : Frame) (before : List Nat) : State → List Eff → Try
  | s, [] => .ok s
  | s, e :: es =>
    (commitAct s c x f e ((openOnes (ctxOf s c x)).filter fun i => !before.contains i)).bind fun s =>
      commitActs c x f before s es

/-- Entries of SCOPE CELL atomics are freed as the router accepts their requests, but for those that the cell's own update slot has still
to queue (R183). -/
def freeScoped (s : State) (c x : Nat) : State :=
  (List.range 32).foldl (fun s i =>
    let p := entryOf (ctxOf s c x) i
    match p.act with
    | .atomic _ _ true => if p.st = .opened ∧ p.left = 0 then freeEntry s c x i else s
    | _ => s) s

/-! ### The words a commit writes -/

/-- Keys of the words that a block's local effects write (R35). -/
def writtenKeys (f : Frame) : List Nat :=
  f.effs.flatMap (fun e =>
    match e.act with
    | .store here _ _ _ => here.map fun l => wordKey l.key
    | .clrp here _ => here.map fun l => wordKey l.key
    | _ => []) ++ f.eats.map wordKey ++ f.takes.map fun t => t.2

/-- Whether two lists of keys meet. -/
def keysMeet (a b : List Nat) : Bool := a.any fun k => b.contains k

/-- Discards a context's predicted frames from the first one that a predicate names (R26, R100). -/
def cutSpec (s : State) (c x : Nat) (p : Frame → Bool) : State :=
  let v := ctxOf s c x
  let keep := v.spec.takeWhile fun f => !p f
  let lost := v.spec.length - keep.length
  if lost = 0 then s else countEvent (putCtx s c x { v with spec := keep }) c x 5 lost

/-- Whether a frame holds one of the words written (R100). -/
def holdsWords (c : Nat) (keys : List Nat) (f : Frame) : Bool :=
  let n := 4 * (4 + f.nread + f.words.length + f.lits.length)
  keys.any fun k => decide (sramKey c f.hdr ≤ k) && decide (k < sramKey c f.hdr + n)

/-- The frame of a context whose fetch is still under way and whose words a commit writes (R100). -/
def fetchMet (s : State) (c : Nat) (keys : List Nat) (x : Nat) : Option Frame :=
  match (ctxOf s c x).frame with
  | some f => if !decoded f && holdsWords c keys f then some f else none
  | none => none

/-- Whether a commit of context `x` waits for the last fetch cycle of another context's frame that has issued and whose words it writes
(R100). -/
def fetchWaits (s : State) (c x : Nat) (keys : List Nat) : Bool :=
  allCtxs.any fun y => y != x && (match fetchMet s c keys y with | some f => !unstarted f | none => false)

/-- A handler's block begins in ctx 4, or faults (R32, R41, R42); `discards` counts its discards in a row (R35). -/
def beginHandler (s : State) (c discards : Nat) (g : Except BFault Frame) : State :=
  match g with
  | .ok f => modCtx s c 4 fun v => { v with
      frame := some { f with discards := discards }
      nopre := f.nopre
      nopreb := if f.nopre && v.nopre then v.nopreb else 65536 }
  | .error e => handlerFault (noteEcc s c e.cause) c

/-- A frame that has issued nothing is fetched again from its header (R100). -/
def fetchAgain (s : State) (c x : Nat) (f : Frame) : State :=
  let v := ctxOf s c x
  let g := fetchBlock s c x f.hdr f.serial v
  let s := spendFetch s c g
  if x = 4 then beginHandler s c f.discards (deliverReads v g) else beginBlock s c x f.hdr v.spec (deliverReads v g)

/-- A commit of context `x` that writes words of predicted frames discards those frames, and one that writes words of a frame whose fetch is
under way has it fetched again (R100); 5 stands for a built-in handler of the update slot. -/
def writeDiscards (s : State) (c x : Nat) (keys : List Nat) : State :=
  let s := userCtxs.foldl (fun s y => cutSpec s c y (holdsWords c keys)) s
  allCtxs.foldl (fun s y =>
    if y = x then s else match fetchMet s c keys y with | some f => fetchAgain s c y f | none => s) s

/-- Whether a commit that writes `keys` conflicts with the running update handler (R35). -/
def handlerConflict (s : State) (c : Nat) (keys : List Nat) : Bool :=
  match (ctxOf s c 4).frame with
  | some h => keysMeet keys h.readKeys || (complete h && keysMeet keys (writtenKeys h))
  | none => false

/-- Discards in a row that give a handler precedence (R35). -/
def handlerFirst (s : State) (c : Nat) : Bool :=
  match (ctxOf s c 4).frame with | some h => decide (2 ≤ h.discards) | none => false

/-- The update handler is discarded and re-executed from its header (R35). -/
def restartHandler (s : State) (c : Nat) : State :=
  match (ctxOf s c 4).frame with
  | none => s
  | some h =>
    let n := nextStamp (dropFrames s c 4) c
    let s := n.1
    let v := ctxOf s c 4
    let g := fetchBlock s c 4 h.hdr n.2 v
    beginHandler (spendFetch s c g) c (h.discards + 1) (deliverReads v g)

/-- An update-slot commit discards the user frames that have read a word it wrote; they start again from their headers (R344). -/
def ownersReexecute (s : State) (c : Nat) (keys : List Nat) : State :=
  userCtxs.foldl (fun s x =>
    match (ctxOf s c x).frame with
    | some f => if keysMeet keys f.readKeys then dropFrames (cutSpec s c x fun _ => true) c x else s
    | none => s) s

/-! ### Sisters -/

/-- Whether the shadow link to a synchronised sister is full (R400). -/
def mirrorFull (s : State) (c : Nat) : Bool :=
  match (cellOf s c).sister with
  | some z => (cellOf s z).synced && decide (16 ≤ (cellOf s z).mirror.length)
  | none => false

/-- SRAM bytes of a core, by address. -/
def sramOf (s : State) (c : Nat) : List Host.Cell :=
  (s.mem.filter fun p => decide (sramKey c 0 ≤ p.1) && decide (p.1 < loftKey c 0)).map fun p => (p.1 - sramKey c 0, p.2)

/-- Full SRAM words of a core, by address. -/
def sramFull (s : State) (c : Nat) : List Nat :=
  (s.full.filter fun k => decide (sramKey c 0 ≤ k) && decide (k < loftKey c 0)).map fun k => k - sramKey c 0

/-- A commit goes to the sister (R400). -/
def mirrorCommit (s : State) (c : Nat) : State :=
  match (cellOf s c).sister with
  | some z =>
    if (cellOf s z).synced then
      let m := (coreOf s c, sramOf s c, sramFull s c)
      modCell s z fun k => { k with mirror := k.mirror ++ [m] }
    else s
  | none => s

/-- Replaces the SRAM of a core and its presence bits. -/
def loadSram (s : State) (c : Nat) (bytes : List Host.Cell) (full : List Nat) : State :=
  let in_ (k : Nat) : Bool := decide (sramKey c 0 ≤ k) && decide (k < loftKey c 0)
  { s with
    mem := bytes.foldl (fun m p => memPut m (sramKey c (p.1 % 2 ^ 22)) p.2) (s.mem.filter fun p => !in_ p.1)
    full := full.foldl (fun l k => keyInsert l (sramKey c (k % 2 ^ 22))) (s.full.filter fun k => !in_ k)
    bad := s.bad.filter fun k => !in_ k }

/-- A sister takes over what its partner holds (R400). -/
def applyMirror (s : State) (z : Nat) (m : Core × List Host.Cell × List Nat) : State :=
  loadSram (modCell s z fun k => { k with core := m.1 }) z m.2.1 m.2.2

/-- An input token, or a request that the partner's memory performs, goes to the sister behind the commits sent before it (R400;
notes/assumptions/29.md). -/
def mirrorToken (s : State) (c : Nat) : State :=
  match (cellOf s c).sister with
  | some z =>
    let k := cellOf s z
    let m := (coreOf s c, sramOf s c, sramFull s c)
    if k.synced then
      if k.mirror.isEmpty then applyMirror s z m else putCell s z { k with mirror := k.mirror.dropLast ++ [m] }
    else s
  | none => s

/-! ### The exit -/

/-- The slot of the exit that a block took (R134). -/
def exitSlot (f : Frame) : Nat := match f.exit with | some p => p.2 | none => 0x7F

/-- The context goes on at an address; frames predicted for another are discarded (R26). -/
def goOn (s : State) (c x hdr : Nat) (calls : List Nat) : State :=
  modCtx (if (predicted (ctxOf s c x) hdr).isSome then s else cutSpec s c x fun _ => true) c x fun v => { v with
    frame := none
    pc := some hdr
    calls := calls
    yielded := false
    waitSince := (cellOf s c).cyc }

/-- The end of an activation at an exit, with what follows for its predicted frames and its collective (R22, R26, R328). -/
def endHere (s : State) (c x : Nat) (yielded : Bool) : State :=
  let v := ctxOf s c x
  let s := collEnded (endActivation (cutSpec s c x fun _ => true) c x) c x v.argn v.tuple
  modCtx s c x fun v => { v with yielded := yielded, tuple := if v.st = .idle then none else v.tuple }

/-- The stack and trap effects of a taken exit (R118 to R125). -/
def takeExit (s : State) (c x : Nat) (f : Frame) (k : ExitKind) : State :=
  let v := ctxOf s c x
  match k with
  | .goto h => goOn s c x h v.calls
  | .call h => goOn s c x h (v.calls ++ [fallThrough f])
  | .ret => goOn s c x (v.calls.getLastD 0) v.calls.dropLast
  | .done => endHere s c x false
  | .yielded => endHere s c x true
  | .trapRet k =>
    let target := v.trapRec.bind fun r => match k with | .succ => r.succ | _ => r.retry
    match target with
    | some _ => trapReturn (cutSpec s c x fun _ => true) c x target
    | none => endHere s c x false
  | .scall n =>
    trapEntry (cutSpec s c x fun _ => true) c x .trap (wordOf f.hdr) (wordOf n) (tinfoWord false true (exitSlot f) 0 0)
      (some f.hdr) (some (fallThrough f))
  | .trap n =>
    trapEntry (cutSpec s c x fun _ => true) c x .trap (wordOf f.hdr) (wordOf n) (tinfoWord false false (exitSlot f) 0 0)
      (some f.hdr) (some (fallThrough f))

/-! ### The commit -/

/-- Register writes, special registers in LSID order, and FLAGS last (R33, R128, R129). -/
def commitRegs (s : State) (c x : Nat) (f : Frame) (effs : List Eff) : State :=
  modCtx s c x fun v =>
    let v := f.regs.foldl (fun v p => writeReg v p.1 p.2) v
    let v := effs.foldl (fun v e => match e.act with | .spw r w => spwWrite x v r w | _ => v) v
    { v with flags := v.flags ||| (f.flags &&& 0x3F) }

/-- Whether the table has a free entry for each remote side effect of a block that acts (R34). -/
def entriesFor (v : Context) (f : Frame) : Bool :=
  decide ((f.effs.filter fun e => (actKind e.act).isSome).length ≤ (freeEntries v).length)

/-- Confirms of the words that the block's LDCs took (R168): local ones act now and may wait for the undo log (R391, R392), remote ones
depart. -/
def confirmAll (c x : Nat) (f : Frame) : State → List (Nat × Nat) → Try
  | s, [] => .ok s
  | s, t :: ts =>
    let a : Asker := .frame c x f.serial t.1
    if keyCore t.2 = c then
      if holdsTake s t.2 a && undoBlocks s t.2 true then .hold (askEarlyCut s c)
      else confirmAll c x f (confirmTake s t.2 a) ts
    else confirmAll c x f (post s c (keyCore t.2) 0 (.confirm [t.2] a)) ts

/-- Everything a committing block does (R33, R298). -/
def commitEffects (s : State) (c x : Nat) (f : Frame) (k : ExitKind) : Try :=
  let effs := sortEffs f.effs
  let before := openOnes (ctxOf s c x)
  let keys := writtenKeys f
  (commitActs c x f before (commitRegs s c x f effs) effs).bind fun s =>
    (confirmAll c x f s f.takes).bind fun s =>
      let s := countEvent (writeDiscards (freeScoped s c x) c x keys) c x 3 1
      .ok (takeExit s c x f k)

/-- The words that the built-in handler at the head of the update slot would write (R35, R179). -/
def requestKeys (u : UpdReq) : List Nat := u.r.lanes.map fun l => wordKey l.key

/-- The AMO or CAS request at the head of an idle update slot whose words meet `keys` (R35, R39, R179). -/
def requestClash (s : State) (c : Nat) (keys : List Nat) : Option UpdReq :=
  if slotIdle s c then
    match least (updStamps s c) with
    | some n => (coreOf s c).updQ.find? fun u => u.stamp == n && keysMeet keys (requestKeys u)
    | none => none
  else none

/-- A user commit that writes a word of the request at the head of the update slot has gone ahead of it (R35). -/
def passRequest (s : State) (c : Nat) (keys : List Nat) : State :=
  match requestClash s c keys with
  | some u => modCore s c fun k => { k with
      updQ := k.updQ.map fun r => if r.stamp = u.stamp then { r with discards := r.discards + 1 } else r }
  | none => s

/-- Whether a complete block of a user context may commit as far as the pending table, the update slot, the fetches of other blocks and the
sister go (R34, R35, R100, R400). -/
def mayCommit (s : State) (c x : Nat) (f : Frame) : Bool :=
  let keys := writtenKeys f
  entriesFor (ctxOf s c x) f && !(handlerConflict s c keys && handlerFirst s c) && !fetchWaits s c x keys && !mirrorFull s c &&
  (match requestClash s c keys with | some u => decide (u.discards < 2) | none => true)

/-- Commit of a user context's block (R33 to R35). -/
def commitUser (s : State) (c x : Nat) (f : Frame) (k : ExitKind) : State :=
  let keys := writtenKeys f
  let clash := handlerConflict s c keys
  if !mayCommit s c x f then s
  else
    match commitEffects s c x f k with
    | .fault b => blockFault (noteEcc s c b.cause) c x b
    | .hold t => modCell s c fun n => { n with cutAsked := n.cutAsked || (cellOf t c).cutAsked }
    | .ok s =>
      let s := passRequest (mirrorCommit s c) c keys
      if clash then restartHandler s c else s

/-- Whether a user context's block is ready to commit in this cycle: it has counted all it must, and nothing holds it (R31, R34, R35,
R43, R392, R400). -/
def readyCommit (s : State) (c x : Nat) (f : Frame) : Bool :=
  match f.exit with
  | some (k, _) =>
    complete f && allDecoded f && !expired (ctxOf s c x) && mayCommit s c x f &&
    (match commitEffects s c x f k with | .hold _ => false | _ => true)
  | none => false

/-- Whether a block of another user context that is older than serial `n` is ready to commit (R35). -/
def olderReady (s : State) (c x n : Nat) : Bool :=
  userCtxs.any fun y => y != x && (match (ctxOf s c y).frame with | some g => decide (g.serial < n) && readyCommit s c y g | none => false)

/-- The user context whose block commits in this cycle: the oldest of those that are ready (R35). -/
def commitFirst (s : State) (c : Nat) : Option (Nat × Frame) :=
  userCtxs.findSome? fun x =>
    match (ctxOf s c x).frame with
    | some f => if readyCommit s c x f && !olderReady s c x f.serial then some (x, f) else none
    | none => none

/-- Whether a user commit of this cycle writes one of the words and so goes ahead of the update slot (R35). -/
def userFirst (s : State) (c : Nat) (keys : List Nat) : Bool :=
  match commitFirst s c with
  | some (_, f) => keysMeet keys (writtenKeys f)
  | none => false

/-- The reply of a handler (R182): the word as its commit leaves it; a NORET request is acknowledged. The reply reads no word that meets R279:
DESIGN CHOICE, an uncorrectable word is replied as its bytes stand, and counts no event (notes/assumptions/69.md). -/
def answerUpd (s : State) (c : Nat) : State :=
  match (coreOf s c).updCur with
  | none => s
  | some u =>
    let s := modCore s c fun k => { k with updCur := none }
    let a : Answer := {
      asker := u.r.asker
      vals := [(u.lane.lane, readWord s u.lane.key)]
      recorded := u.recorded
      part := u.lane.lane }
    match u.r.asker with
    | .nobody => s
    | k => post s c (answerTo k u.src) 2 (.answer a)

/-- Commit of an update handler (R35, R39, R100, R182, R344). -/
def commitHandler (s : State) (c : Nat) (f : Frame) (k : ExitKind) : State :=
  if !entriesFor (ctxOf s c 4) f || fetchWaits s c 4 (writtenKeys f) || mirrorFull s c then s
  else
    match commitEffects s c 4 f k with
    | .fault b => handlerFault (noteEcc s c b.cause) c
    | .hold t => modCell s c fun n => { n with cutAsked := n.cutAsked || (cellOf t c).cutAsked }
    | .ok s => mirrorCommit (answerUpd (ownersReexecute s c (writtenKeys f)) c) c

/-- Whether a complete block waits for another commit of the same cycle: a user context's for an older block, a handler for a user
commit that writes what it would write, unless the handler has precedence (R35). -/
def commitWaits (s : State) (c x : Nat) (f : Frame) : Bool :=
  if x = 4 then !handlerFirst s c && userFirst s c (writtenKeys f ++ f.readKeys) else olderReady s c x f.serial

/-- BLOCK_COMMIT: the current block of a context commits once it has counted all it must, all its words are decoded (R99;
notes/assumptions/66.md) and its NOPRE budget lasts (R31, R33, R43). -/
def execBlockCommit (c x : Nat) (s : State) : Host.Outcome State Fault Refusal :=
  match (ctxOf s c x).frame with
  | none => .next s
  | some f =>
    match f.exit with
    | none => .next s
    | some (k, _) =>
      if complete f && coreActs s c && allDecoded f && !expired (ctxOf s c x) && !commitWaits s c x f then
        .next (settleCore (if x = 4 then commitHandler s c f k else commitUser s c x f k) c)
      else .next s

end Sys2Proof.Machine
end

