-- ==== Sys2Proof/Machine/Update.lean ====
section
/-! DEFINITION. The update slot (R39 to R41, R179 to R182, R302, R344). -/

namespace Sys2Proof.Machine

open Sys2Proof

/-! ### Requests at an owner -/

/-- Whether an owner accepts UPDs for a handler (R182). -/
def updBound (s : State) (c h : Nat) : Bool :=
  let b := bindingOf (coreOf s c) (updTag h)
  bValid b && bCtx b == 4 && bArity b == 1

/-- Who hears of the refusal of a request of a NORET atomic of SCOPE CELL whose entry awaits the queueing of a request in its own cell's
update slot (R183). -/
def scopedAsker (s : State) (r : MemReq) : Option Asker :=
  match r.asker with
  | .entry c x i =>
    let p := entryOf (ctxOf s c x) i
    match p.act with
    | .atomic _ _ true => some (laterOf c x p.lsid p.born r.asker)
    | _ => none
  | _ => none

/-- A request is queued: the entry of a NORET atomic of SCOPE CELL is acknowledged, and waits for it no longer (R183). -/
def ackQueued (s : State) (c : Nat) (m : Msg) (r : MemReq) : State × MemReq :=
  match scopedAsker s r with
  | some a => (reply s c m { asker := r.asker }, { r with asker := a })
  | none => (s, r)

/-- Whether the owner's update slot performs a request (R179, R182, R289). -/
def byUpdateSlot (r : MemReq) : Bool :=
  if isLoadOp r.op || r.op == .store then r.lanes.any fun l => l.mode == .update else r.op != .clrp

/-- An AMO, CAS or UPD request enters the update slot's order at its owner (R39, R179, R182); none when it has to wait. -/
def queueUpdate (s : State) (c : Nat) (m : Msg) (n : Nat) (r : MemReq) : Option State :=
  match r.op, r.lanes with
  | .upd h, l :: _ =>
    if !updBound s c h then
      some (reply (receive s n m) c m {
        asker := r.asker
        cause := some .remote
        refused := 2 ^ l.lane
        vals := [(l.lane, l.ea)]
        part := l.lane })
    else if queueRoom (cellOf s c) (updTag h) then
      let q := ackQueued (receive s n m) c m r
      let p := nextStamp q.1 c
      some (modCore p.1 c fun k => { k with
        updTok := k.updTok ++ [{ stamp := p.2, r := q.2, lane := l, src := m.src, recorded := m.recorded }] })
    else none
  | _, _ =>
    let q := ackQueued (receive s n m) c m r
    let p := nextStamp q.1 c
    some (modCore p.1 c fun k => { k with updQ := k.updQ ++ [{ stamp := p.2, r := q.2, src := m.src, recorded := m.recorded }] })

/-! ### Built-in handlers -/

/-- The new word of an AMO (R180). -/
def amoNew (op : AmoOp) (w b : Word) : Word :=
  match op with
  | .add => w + b
  | .and => w &&& b
  | .or => w ||| b
  | .xor => w ^^^ b
  | .smin => if w.toInt ≤ b.toInt then w else b
  | .smax => if w.toInt ≤ b.toInt then b else w
  | .umin => if w.toNat ≤ b.toNat then w else b
  | .umax => if w.toNat ≤ b.toNat then b else w
  | .swap => b
  | .fadd => (fpAdd .near w b).1
  | .fmin => (fpMinMax false false w b).1
  | .fmax => (fpMinMax true false w b).1
  | .incw => if b.toNat ≤ w.toNat then 0 else w + 1
  | .decw => if w = 0 ∨ b.toNat < w.toNat then b else w - 1

/-- The word that an atomic writes, if it writes one (R180, R181). -/
def atomicNew (op : MemOp) (w b c : Word) : Option Word :=
  match op with
  | .amo o => some (amoNew o w b)
  | .cas => if w = b then some c else none
  | _ => none

/-- One lane of an AMO or CAS request (R179 to R181): its performance so far with the words written. A write that the undo log has no room
for holds the request (R391, R392). -/
def atomicLane (r : MemReq) (p : Perf × List Nat) (l : LaneReq) : Perf × List Nat :=
  if isBad p.1.s l.key then
    ({ p.1 with s := noteUncorr (touchRow p.1.s l.key .policy) (keyCore l.key) (keyIsLoft l.key), a := refuseLane p.1.a l.lane .ecc }, p.2)
  else
    let s := touchRow p.1.s l.key .policy
    let w := readWord s l.key
    let q := { p.1 with s := s, a := gaveLane p.1.a l.lane w }
    match atomicNew r.op w l.b l.c with
    | some v =>
      if undoBlocks s l.key true then ({ p.1 with hold := true }, p.2)
      else
        let s := unmarkReads (touchRow (undoLog s l.key true) l.key .policy) l.key
        ({ q with s := rawWrite s l.key 4 v.toNat }, p.2 ++ [wordKey l.key])
    | none => (q, p.2)

/-- A request refused after its entry was freed says where: the address of its lowest refused lane (R183, R374). -/
def withAddress (r : MemReq) (a : Answer) : Answer :=
  match r.asker with
  | .freed _ _ _ _ _ =>
    match r.lanes.find? fun l => a.refused / 2 ^ l.lane % 2 == 1 with
    | some l => { a with vals := [(l.lane, l.ea)] }
    | none => a
  | _ => a

/-- The answer that refuses lanes of a request. -/
def refuseLanes (r : MemReq) (ls : List LaneReq) (k : Cause) : Answer :=
  withAddress r { asker := r.asker, cause := some k, refused := lanesMask (ls.map fun l => l.lane) }

/-- An AMO or CAS request performed as one built-in handler, its lanes in order (R179), with the words written. A handler that meets an
uncorrectable word does not commit: nothing of it stands but the count of the error, and its request is refused whole (R32, R41, R185;
notes/assumptions/69.md). -/
def slotAtomic (s : State) (r : MemReq) : Perf × List Nat :=
  let q := r.lanes.foldl (atomicLane r) ({ s := spendKeys s (r.lanes.map fun l => l.key), a := { asker := r.asker } }, [])
  match q.1.a.cause with
  | none => q
  | some k =>
    let bad := r.lanes.filter fun l => isBad s l.key
    ({ s := bad.foldl (fun s l => noteUncorr s (keyCore l.key) (keyIsLoft l.key)) s, a := refuseLanes r r.lanes k }, [])

/-- A store request performed as one built-in handler (R289), with the words written. Where a lane of UPDATE mode meets an uncorrectable word
the handler's own lanes are all refused (notes/assumptions/69.md); a presence lane meets its word for itself (R173). -/
def slotStore (s : State) (r : MemReq) (dst : Nat) : Perf × List Nat :=
  let upd := r.lanes.filter fun l => l.mode == .update
  let bad := upd.filter fun l => storeCheck s l.mode r.size l.key == .refused .ecc
  let rest := if bad.isEmpty then r.lanes else r.lanes.filter fun l => l.mode != .update
  let p := performLanes (bad.foldl (fun s l => noteUncorr s (keyCore l.key) (keyIsLoft l.key)) s) { r with lanes := rest } dst
  let a := if bad.isEmpty then p.a else upd.foldl (fun a l => refuseLane a l.lane .ecc) p.a
  ({ p with a := withAddress r a }, rest.map fun l => wordKey l.key)

/-- What the update slot makes of a request that it performs as one built-in handler (R179, R289), with the words written. -/
def slotPerform (s : State) (r : MemReq) (dst : Nat) : Perf × List Nat :=
  if isLoadOp r.op then (performLanes s r dst, [])
  else if r.op == .store then slotStore s r dst
  else slotAtomic s r

/-- Answers a queued request. -/
def answerReq (s : State) (c : Nat) (u : UpdReq) (a : Answer) : State :=
  match u.r.asker with
  | .nobody => s
  | k => post s c (answerTo k u.src) 2 (.answer (withAddress u.r { a with recorded := u.recorded }))

/-- A read that the update slot finds without a waiter entry goes back to its issuer, to be sent again (R293). -/
def parkReq (s : State) (c : Nat) (u : UpdReq) : State :=
  { s with net := s.net ++ [{ src := u.src, dst := c, at_ := u.src, vc := 0, wait := 64, body := .mem u.r }] }

/-- ATOMIC_HANDLER: the oldest activation of the update slot, when it is an AMO or CAS request, is performed as one commit (R35, R179,
R344). A write that its cell's undo log has no room for holds the whole request (R391, R392). -/
def execAtomicHandler (c : Nat) (s : State) : Host.Outcome State Fault Refusal :=
  if coreActs s c && slotIdle s c && !mirrorFull s c then
    match least (updStamps s c) with
    | some n =>
      match (coreOf s c).updQ.find? fun u => u.stamp == n with
      | some u =>
        if (decide (u.discards < 2) && userFirst s c (requestKeys u)) || fetchWaits s c 5 (requestKeys u) then .next s
        else
          let t := s
          let s := modCore s c fun k => { k with updQ := k.updQ.filter fun v => v.stamp != n }
          let p := slotPerform s u.r (answerTo u.r.asker u.src)
          if p.1.hold then .next (askEarlyCut t c)
          else if p.1.retry then .next (parkReq s c u)
          else
            let t := writeDiscards (ownersReexecute p.1.s c p.2) c 5 p.2
            let waits := p.1.open_ && p.1.a.vals.isEmpty && p.1.a.cause.isNone
            .next (settleCore (mirrorCommit (if waits then t else answerReq t c u p.1.a) c) c)
      | none => .next s
    | none => .next s
  else .next s

/-! ### Handlers -/

/-- Starts ctx 4 on a handler (R21, R39, R41). -/
def startHandler (s : State) (c tag : Nat) (t : BitVec 6) (v : Val) : State :=
  let hdr := bHdr (bindingOf (coreOf s c) tag)
  let s := modCtx s c 4 fun x => { x with
    st := .running
    rtag := tag
    itag := t
    argn := 1
    args := argBuffer [v]
    tuple := none
    calls := []
    pc := some hdr }
  let n := nextStamp s c
  let x := ctxOf n.1 c 4
  let g := fetchBlock n.1 c 4 hdr n.2 x
  beginHandler (spendFetch n.1 c g) c 0 (deliverReads x g)

/-- UPDATE_ACTIVATION_START: the oldest activation of the update slot starts, when it is a handler's: a token's, a UPD's or a matching
entry's whose tag was bound to ctx 4 (R19, R39). -/
def execUpdateActivationStart (c : Nat) (s : State) : Host.Outcome State Fault Refusal :=
  if coreActs s c && slotIdle s c then
    match least (updStamps s c) with
    | some n =>
      let k := coreOf s c
      match (slotTags k).find? fun t => (queuedStamps k t).contains n with
      | some t =>
        match takeOldest s c t with
        | some k =>
          let s := modCore k.s c fun q => { q with updCur := k.upd }
          .next (settleCore (startHandler s c t k.input.itag (k.input.ports.headD Val.allNull)) c)
        | none => .next s
      | none => .next s
    | none => .next s
  else .next s

end Sys2Proof.Machine
end

