-- ==== Sys2Proof/Machine/Activation.lean ====
section
/-! DEFINITION. Activations and blocks as they start, interject, are predicted, run dry or run out of time (R21, R26, R32, R37, R38,
R43). -/

namespace Sys2Proof.Machine

open Sys2Proof

/-! ### Activation start -/

/-- Changes a context to run the activation taken from queue `t` (R21, R130, R221, R325). -/
def beginActivation (v : Context) (cls t base cyc : Nat) (k : Taken) : Context :=
  { v with
    st := .running
    rtag := if 512 ≤ t then t - 512 else if 256 ≤ t then 0 else t
    itag := k.input.itag
    argn := k.input.argn
    args := argBuffer k.input.ports
    cls := base
    tuple := if 512 ≤ t then k.input.tuple else none
    flags := if k.isRelease && bit v.fmode 2 then v.flags ||| k.release else v.flags
    served := Tbl.put v.served cls (robinNo t)
    pc := some k.hdr
    yielded := false
    waitSince := cyc }

/-- Starts the activation that the scheduler chose for a context (R14, R21, R38): a UPD whose tag is bound to a user context by then has no
handler to answer it (R182). -/
def startActivation (s : State) (c x cls t : Nat) : State :=
  let base := queueClass s c t
  match takeOldest s c t with
  | none => s
  | some k =>
    let now := (cellOf s c).cyc
    let s := match k.upd with | some u => refuseUpd k.s c u | none => k.s
    let s := modCtx s c x fun v => beginActivation v cls t base now k
    let s := modCore s c fun q => { q with readyAt := Tbl.put q.readyAt t now }
    settleCore (countEvent s c x 6 1) c

/-- Whether an idle context lets the scheduler choose: nothing else is due on it (R288, R330, R343, R394). -/
def mayActivate (s : State) (c x : Nat) : Bool :=
  let v := ctxOf s c x
  coreActs s c && decide (x < 4) && v.st == .idle && v.lateQ.isEmpty && v.winsets.isEmpty && v.saves.isEmpty && !slotDue s c x

/-- ACTIVATION_START: the scheduler selects a ready tag for an idle context (R21, R38). -/
def execActivationStart (c x : Nat) (s : State) : Host.Outcome State Fault Refusal :=
  if mayActivate s c x then
    match pickTag s c x with
    | some p => .next (startActivation s c x p.1 p.2)
    | none => .next s
  else .next s

/-! ### Interjection -/

/-- Whether a class-0 activation interjects at the boundary where a context stands (R37, R42). -/
def interjects (s : State) (c x : Nat) : Bool :=
  let v := ctxOf s c x
  coreActs s c && decide (x < 4) && (wouldInterject s c x).isSome && v.frame.isNone && v.pc.isSome &&
  v.lateQ.isEmpty && v.winsets.isEmpty && v.saves.isEmpty && !slotDue s c x

/-- CLASS0_INTERJECTION: the interrupted chain is saved and the class-0 chain runs (R37). -/
def execClass0Interjection (c x : Nat) (s : State) : Host.Outcome State Fault Refusal :=
  if interjects s c x then
    match wouldInterject s c x with
    | some t =>
      let s := modCtx (cutSpec s c x fun _ => true) c x fun v => { v with
        nopre := false
        nopreb := 65536
        inter := some {
          rtag := v.rtag
          itag := v.itag
          argn := v.argn
          args := v.args
          cls := v.cls
          succ := v.pc.getD 0
          depth := v.calls.length
          tuple := v.tuple } }
      .next (startActivation (countEvent s c x 10 1) c x 0 t)
    | none => .next s
  else .next s

/-! ### Prediction -/

/-- NEXT_BLOCK_PREDICTION: the block at `hdr` is loaded into a further frame of the context (R24 to R26). A context holds at most three
predicted frames, and none is loaded while a context waits for chunks or when the block's fetch faults. -/
def execNextBlockPrediction (c x hdr : Nat) (s : State) : Host.Outcome State Fault Refusal :=
  let v := ctxOf s c x
  if coreActs s c && decide (x < 4) && v.frame.isSome && decide (v.spec.length < 3) && (firstClaim s c).isNone &&
      decide (hdr % 16 = 0) then
    let n := nextStamp s c
    match fetchBlock s c x hdr n.2 v with
    | .ok f =>
      if f.badWord.isNone && frameRoom s c ((f.words.length + 15) / 16) then
        .next (putCtx (spendFetch n.1 c (.ok f)) c x { v with spec := v.spec ++ [f] })
      else .next s
    | .error _ => .next s
  else .next s

/-! ### Quiescence -/

/-- Whether any instruction of a frame is ready to fire, or waits for its gate. -/
def anyArmed (f : Frame) : Bool :=
  (List.range f.words.length).any fun n =>
    match slotInstr f n with
    | some i => armed f n i
    | none => false

/-- Whether a frame is quiescent (R32): nothing is ready and nothing outstanding. An operation of point Reply that has not departed has no
reply outstanding, and a frame whose words are still to come is not quiescent. -/
def quiescent (f : Frame) : Bool := !anyArmed f && decoded f && f.waits.all fun w => !w.unsent.isEmpty

/-- The fault of a quiescent frame (R32, R374): that of a word still to be decoded (R99); else NOEXIT, or INCOMPLETE with the uncounted
LSIDs, or else the lowest uncounted register. -/
def quietFault (f : Frame) : BFault :=
  match f.badWord, f.exit with
  | some (_, e), _ => e
  | none, none => { cause := .noexit }
  | none, some _ =>
    let m := f.h1 &&& ~~~f.counted
    let lo := (f.h2 &&& ~~~f.wroteLo).toNat
    let hi := (f.h3 &&& ~~~f.wroteHi).toNat
    let r := (onesFrom 64 0 (lo + hi * 2 ^ 32)).headD 0
    { cause := .incomplete, taddr := if m = 0 then wordOf (2 ^ 31 + r) else m }

/-- QUIESCENCE_FAULT: a quiescent frame that cannot commit faults (R32). A frame in which nothing fires is also looked at here for what the
fetch brings it: the fault of a word, or the departure of an operation of point Reply that waited for the last word (R97, R178). -/
def execQuiescenceFault (c x : Nat) (s : State) : Host.Outcome State Fault Refusal :=
  match (ctxOf s c x).frame with
  | none => .next s
  | some f =>
    if coreActs s c && ((dueWord s c x).isSome || (departing f).isSome) then .next (settleCore (departReply s c x) c)
    else if coreActs s c && quiescent f && !complete f then .next (settleCore (blockFault s c x (quietFault f)) c) else .next s

/-! ### NOPRE -/

/-- The block in flight faults NOPRE (R43, R331, R374). -/
def nopreFault (f : Frame) : BFault := { cause := .nopre, taddr := wordOf f.hdr }

/-- NOPRE_EXPIRY: the budget of a NOPRE section has run out (R43); a handler's fault is met as R41 says. -/
def execNopreExpiry (c x : Nat) (s : State) : Host.Outcome State Fault Refusal :=
  let v := ctxOf s c x
  match v.frame with
  | some f =>
    if coreActs s c && expired v then .next (settleCore (blockFault s c x (nopreFault f)) c)
    else .next s
  | none => .next s

end Sys2Proof.Machine
end

