-- ==== Sys2Proof/Machine/Late.lean ====
section
/-! DEFINITION. Delivery of late causes (R46, R124, R343, R375 to R377, R380). -/

namespace Sys2Proof.Machine

open Sys2Proof

/-- TINFO of a late cause (R375). -/
def lateTinfo (v : Context) (l : Late) : Word :=
  match l.entry with
  | some i => entryTinfo i (entryOf v i)
  | none => tinfoWord true false 0x7F l.lanes l.info

/-- An entry whose cause is delivered becomes FAULTED (R376, R380). -/
def faultEntry (v : Context) (l : Late) : Context :=
  match l.entry with
  | some i => { v with pend := Tbl.put v.pend i { entryOf v i with st := .faulted } }
  | none => v

/-- Delivers the first late cause of a context (R376): `next` is the block not yet started, or none after an END or YIELD (R124). -/
def deliverLate (s : State) (c x : Nat) (next : Option Nat) : State :=
  match (ctxOf s c x).lateQ with
  | [] => s
  | l :: rest =>
    let tinfo := lateTinfo (ctxOf s c x) l
    let s := modCtx (cutSpec s c x fun _ => true) c x fun v => { faultEntry v l with lateQ := rest }
    let s := flushLate s c x
    settleCore (trapEntry s c x l.cause (wordOf (next.getD 0)) l.taddr tinfo next next) c

/-- LATE_FAULT_DELIVERY: at a block boundary of a running chain (R46, R376). A block that has been fetched and has issued nothing is left
unstarted. -/
def execLateFaultDelivery (c x : Nat) (s : State) : Host.Outcome State Fault Refusal :=
  let v := ctxOf s c x
  if coreActs s c && decide (x < 4) && v.st == .running && !v.lateQ.isEmpty then
    match v.frame with
    | none => if v.pc.isSome then .next (deliverLate s c x v.pc) else .next s
    | some f => if unstarted f then .next (deliverLate (dropFrames (cutSpec s c x fun _ => true) c x) c x (some f.hdr)) else .next s
  else .next s

/-- IDLE_LATE_TRAP: on an idle context (R343). -/
def execIdleLateTrap (c x : Nat) (s : State) : Host.Outcome State Fault Refusal :=
  if coreActs s c && decide (x < 4) && (ctxOf s c x).st == .idle then .next (deliverLate s c x none) else .next s

end Sys2Proof.Machine
end

