-- ==== Sys2Proof/Machine/Bridge.lean ====
section
/-! DEFINITION. Translation at the bridge (R418 to R420). Each port's table stands in the bridge wafer's loft, where its root and the tables that
an entry's PAGE names lie by their address (notes/assumptions/6.md); host memory is keyed by KEY and host-side address. -/

namespace Sys2Proof.Machine

open Sys2Proof

/-- Whether a 64-bit address is canonical (R418). -/
def hostCanonical (a : Nat) : Bool := a / 2 ^ 47 % 2 ^ 17 == 0 || a / 2 ^ 47 % 2 ^ 17 == 2 ^ 17 - 1

/-- The page table entry that an address selects in the table at an address, at a level from 1 to 4 (R418). -/
def pteAt (s : State) (table level a : Nat) : Nat := leNat (memGetBytes s.bridgeMem (table + 8 * (a / 2 ^ (48 - 9 * level) % 512)) 8)

/-- The driver writes an entry of a page table (R418, R420). -/
def writeTable (s : State) (addr entry : Nat) : State := { s with bridgeMem := memPutBytes s.bridgeMem addr (leBytes 8 entry) }

/-- Whether an entry's fields are well formed as a leaf at a level (R418, R419). -/
def leafAligned (e level : Nat) : Bool := level == 4 || e / 2 ^ 12 % 2 ^ (36 - 9 * level) == 0

/-- The walk of levels `level` to 4: the leaf with its level (R418, R419). -/
def pageWalk (s : State) (a : Nat) : Nat → Nat → Nat → Option (Nat × Nat)
  | 0, _, _ => none
  | fuel + 1, level, table =>
    let e := pteAt s table level a
    let leaf := e / 2 ^ 4 % 2 == 1
    if e % 2 = 0 ∨ e / 2 ^ 5 % 128 ≠ 0 then none
    else if leaf && decide (2 ≤ level) then (if leafAligned e level then some (e, level) else none)
    else if level = 4 then none
    else pageWalk s a fuel (level + 1) (e / 2 ^ 12 % 2 ^ 40 * 4096)

/-- A port's translation of an address, if it holds one (R419). -/
def heldXlat (s : State) (port a : Nat) : Option Xlat :=
  s.tlb.find? fun x => x.port == port && decide (x.base ≤ a) && decide (a < x.base + x.size)

/-- The translation of an address, held or walked (R418, R419). -/
def findXlat (s : State) (port a : Nat) : Option Xlat :=
  if !hostCanonical a then none
  else
    match heldXlat s port a with
    | some x => some x
    | none =>
      (pageWalk s a 4 1 (portAt s port).ptRoot).map fun p =>
        let size := 2 ^ (48 - 9 * p.2)
        { port := port, base := a / size * size, size := size, leaf := p.1 }

/-- A port keeps a translation: at most 65,536, the oldest making room (R419). -/
def keepXlat (s : State) (x : Xlat) : State :=
  if s.tlb.contains x then s
  else
    let mine := s.tlb.filter fun y => y.port == x.port
    let old := if mine.length < 65536 then s.tlb
      else match mine.head? with
        | some o => s.tlb.filter fun y => y != o
        | none => s.tlb
    { s with tlb := old ++ [x] }

/-- Whether a leaf lets a read or a write pass (R418). -/
def leafAllows (e : Nat) (write : Bool) : Bool := if write then e / 4 % 2 == 1 else e / 2 % 2 == 1

/-- The key of host memory that an address reaches under a translation: KEY, and the host-side address (R418). -/
def hostKey (x : Xlat) (a : Nat) : Nat := x.leaf / 2 ^ 52 % 2 ^ 12 * 2 ^ 52 + x.leaf / 2 ^ 12 % 2 ^ 40 * 4096 + (a - x.base)

/-- A byte of host memory as it stands, for a port. -/
def hostByte (s : State) (port a : Nat) : Byte :=
  match findXlat s port a with
  | some x => memGet s.hostMem (hostKey x a)
  | none => 0

end Sys2Proof.Machine
end

