-- ==== Sys2Proof/Machine/MatrixEv.lean ====
section
/-! DEFINITION. Steps of the matrix engine (R214 to R218, R304, R454). -/

namespace Sys2Proof.Machine

open Sys2Proof

/-- Changes the matrix engine of a core. -/
def modMx (s : State) (c : Nat) (f : Mx → Mx) : State := modCore s c fun k => { k with mx := f k.mx }

/-- Flags that the engine's operation raises: for its owner now, and for its finish token (R51, R191). -/
def mxFlags (s : State) (c : Nat) (fl : Word) : State :=
  let s := match (coreOf s c).mx.owner with | some x => raiseFlags s c x fl | none => s
  modMx s c fun m => { m with run := m.run.map fun r => { r with flags := r.flags ||| (fl &&& 0x3F) } }

/-- A bank stops being ready. -/
def unreadyBank (m : Mx) (bank : Nat) : Mx := if bank = 0 then { m with ready0 := false } else { m with ready1 := false }

/-- ENGINE_COMMAND_START (R304, R376): engine 0 to 3 is a stream unit whose command waited, 4 the matrix engine. A command starts once the
effects that its block ordered before it are acknowledged; MXCLR is done as it starts (R218). -/
def execEngineCommandStart (c engine : Nat) (s : State) : Host.Outcome State Fault Refusal :=
  if !coreActs s c then .next s else
  if engine < 4 then
    let u := unitOf s c engine
    if u.queued && u.holdOn.isEmpty && u.late.isNone then .next (putUnit s c engine { u with queued := false }) else .next s
  else
    let m := (coreOf s c).mx
    match m.queue with
    | (cmd, []) :: q =>
      if engine = 4 ∧ m.run.isNone then
        match cmd with
        | .clear a n =>
          .next (settleCore (modMx s c fun m => { (List.range n).foldl (fun m k => clearRow m (a + k)) m with queue := q }) c)
        | .load b _ _ _ _ => .next (modMx s c fun m => { unreadyBank m b with queue := q, run := some { cmd := cmd } })
        | _ => .next (modMx s c fun m => { m with queue := q, run := some { cmd := cmd } })
      else .next s
    | _ => .next s

/-- Sends a completion token of the engine (R191). -/
def mxToken (s : State) (c : Nat) (fen : Bool) (tag status count : Nat) (fl : Word) (fn : Nat) : State :=
  if fen then sendCompletion s c tag (wordOf status) (wordOf count) fl (wordOf fn) else s

/-- The command that runs is done. -/
def mxDone (s : State) (c : Nat) : State := modMx s c fun m => { m with run := none }

/-! ### MXLDB -/

/-- The elements of a tile in SRAM (R214). -/
def tileFrom (s : State) (mode key n : Nat) : List El :=
  (List.range n).map fun i => mxDecode (mxBCode mode) (readN s (key + i * mxElBytes mode) (mxElBytes mode))

/-- Fills a bank. -/
def fillBank (m : Mx) (bank : Nat) (els : List El) : Mx :=
  if bank = 0 then { m with bank0 := els, ready0 := true, run := none } else { m with bank1 := els, ready1 := true, run := none }

/-- The first uncorrectable word of a run of bytes. -/
def firstBad (s : State) (key n : Nat) : Option Nat := ((List.range ((n + 3) / 4)).find? fun i => isBad s (key + 4 * i)).map fun i => 4 * i

/-- An uncorrectable word holds MXLDB: its owner takes a late ECC, once (R279; notes/assumptions/21.md). -/
def mxldbError (s : State) (c : Nat) (r : MxRun) (taddr : Word) : State :=
  match r.refused, (coreOf s c).mx.owner with
  | none, some x =>
    match pushLate (noteUncorr s c) c x { cause := .ecc, taddr := taddr } with
    | some s => modMx s c fun m => { m with run := some { r with refused := some taddr } }
    | none => s
  | _, _ => s

/-- Whether a tile in SRAM that MXLDB reads through a PRESENCE window holds an empty or taken word: it waits for the write, as a load does
(R166, R167, R289; notes/assumptions/88.md). -/
def tileWaits (s : State) (key bytes : Nat) : Bool :=
  (List.range ((bytes + 3) / 4)).any fun i => !isFull s (key + 4 * i) || isTaken s (key + 4 * i)

/-- MXLDB_BANK_READY: a bank's tile is complete (R214); the engine works in the cycles that MXALLOW lets it (R367). -/
def execMxldbBankReady (c : Nat) (s : State) : Host.Outcome State Fault Refusal :=
  if !(coreActs s c && mxOpen s c) then .next s else
  let m := (coreOf s c).mx
  let n := mxK m * 16
  match m.run with
  | some r =>
    match r.cmd with
    | .load bank false key ea presence =>
      if presence && tileWaits s key (n * mxElBytes (mxMode m)) then .next s else
      match firstBad s key (n * mxElBytes (mxMode m)) with
      | some o => .next (mxldbError s c r (ea + wordOf o))
      | none =>
        let s := spendKeys s ((List.range n).map fun i => key + i * mxElBytes (mxMode m))
        .next (settleCore (modMx (spend s c (20 * tilePreAdds m)) c fun m => fillBank m bank (tileFrom s (mxMode m) key n)) c)
    | .load bank true _ _ _ =>
      if n ≤ r.loaded.length then
        .next (settleCore (modMx (spend s c (20 * tilePreAdds m)) c fun m => fillBank m bank (r.loaded.take n)) c)
      else .next s
    | _ => .next s
  | none => .next s

/-! ### MXRUN -/

/-- The entries that a fired row leaves by (R216). -/
def rowEntries (m : Mx) (row : List El) : List Val :=
  let k := mxK m
  (List.range ((k + 7) / 8)).map fun e =>
    Lanes.ofFn fun l =>
      let i := 8 * e + l
      if i < k then
        some (if mxMode m = 2 then wordOfInt (elToInt (elAt row i)) else (roundB32 .near (elAt row i)).1)
      else none

/-- Whether the forwarding output has room for rows (R215): a row longer than the link queue needs it empty. -/
def forwardRoom (s : State) (c n : Nat) : Bool :=
  let m := (coreOf s c).mx
  let east := mxAsrc m == 1
  if bit m.cfg 12 && mxAsrc m != 0 then
    match (if linkInside s c east then linkDest s c east else none) with
    | some d => decide (linkLoad s d east + (if 8 < n then 8 else n) ≤ 8)
    | none => true
  else true

/-- Forwards rows (R216); past the region's edge they are discarded and counted. -/
def forwardRows (s : State) (c : Nat) (rows : List (List El)) : State :=
  let m := (coreOf s c).mx
  let east := mxAsrc m == 1
  if bit m.cfg 12 && mxAsrc m != 0 then
    let es := rows.flatMap (rowEntries m)
    match (if linkInside s c east then linkDest s c east else none) with
    | some d => es.foldl (fun s v => post s c d 5 (.link east v)) s
    | none => countDiscard s c es.length
  else s

/-- Bank of a run word (R215). -/
def runBank (m : Mx) (w : Word) : Bool × List El := if bit w 13 then (m.ready1, m.bank1) else (m.ready0, m.bank0)

/-- After a row or pair: the run goes on or is done, with its completion token (R191, R215). -/
def runNext (s : State) (c : Nat) (w : Word) (next last rows : Nat) : State :=
  if next = last then
    let fl := match (coreOf s c).mx.run with | some r => r.flags | none => 0
    mxToken (mxDone s c) c (bit w 24) (bits w 16 8) 0 rows fl 34
  else modMx s c fun m => { m with run := m.run.map fun r => { r with next := next } }

/-- A classical row fires (R66, R215). -/
def fireRow (s : State) (c : Nat) (r : MxRun) (w : Word) (a : ARow) : State :=
  let m := (coreOf s c).mx
  let row := runBase w + r.next
  let p := makeClassical m s.tickNo row (bit w 14)
  let q := fireClassical p.1 a.els (runBank m w).2 row
  let s := spend (modMx s c fun _ => { q.1 with arows := m.arows.drop 1 }) c 
    (400 * (rowAdds p.1 row + classicalAdds m row (bit w 14)) + 20 * rowFirings p.1 a.els (runBank m w).2)
  let s := consumeRows (forwardRows (mxFlags s c (p.2 ||| q.2)) c [a.els]) c [a]
  runNext (pullLink 512 s c) c w (r.next + 1) (runRows w) (runRows w)

/-- A row pair fires (R68, R215): rows i and i + 8 of the run's tile stand at the front of the buffer and 8 − i behind it. -/
def firePair (s : State) (c : Nat) (r : MxRun) (w : Word) (a0 a1 : ARow) : State :=
  let m := (coreOf s c).mx
  let t := runBase w / 32 + r.next / 8
  let i := r.next % 8
  let p := makeRecomb m s.tickNo t i (bit w 14)
  let q := fireRecomb p.1 a0.els a1.els (runBank m w).2 t i
  let s := spend (modMx s c fun _ => { q.1 with arows := (dropAt m.arows (8 - i)).drop 1 }) c
    (400 * (pairAdds p.1 a0.els a1.els (runBank m w).2 + recombAdds m t i (bit w 14)) +
      20 * (pairPreAdds p.1 + pairFirings p.1 a0.els a1.els (runBank m w).2))
  let s := consumeRows (forwardRows (mxFlags s c (p.2 ||| q.2)) c [a0.els, a1.els]) c [a0, a1]
  runNext (pullLink 512 s c) c w (r.next + 1) (runRows w / 2) (runRows w)

/-- MXRUN_ROW_FIRE: the next A row, or row pair, fires (R215, R367). -/
def execMxrunRowFire (c : Nat) (s : State) : Host.Outcome State Fault Refusal :=
  if !(coreActs s c && mxOpen s c) then .next s else
  let m := (coreOf s c).mx
  match m.run with
  | some r =>
    match r.cmd with
    | .run w =>
      let n := (mxK m + 7) / 8
      if !(runBank m w).1 then .next s
      else if runClassical m w then
        match m.arows with
        | a :: _ => if a.full && forwardRoom s c n then .next (settleCore (fireRow s c r w a) c) else .next s
        | [] => .next s
      else
        match m.arows[0]?, m.arows[8 - r.next % 8]? with
        | some a, some b =>
          if a.full && b.full && forwardRoom s c (2 * n) then .next (settleCore (firePair s c r w a b) c) else .next s
        | _, _ => .next s
    | _ => .next s
  | none => .next s

/-! ### MXOUT -/

/-- A row of a readout as numbers, with its flags (R217). -/
def outRow (m : Mx) (tick : Nat) (w : Word) (row : Nat) : List Nat × Word :=
  let mode := mxMode m
  let r := (List.range 16).map fun col =>
    let v := wideValue m tick row col
    let o := outElem mode (outFmt w) tick v.1
    (o.1, v.2 ||| o.2)
  (r.map fun p => p.1, r.foldl (fun f p => f ||| p.2) 0)

/-- The words of a row: two for each element in raw form, the low one first (R1, R217). -/
def rowWords (w : Word) (ns : List Nat) : List Word :=
  if outFmt w = 2 then ns.flatMap fun n => [wordOf n, wordOf (n / 2 ^ 32)] else ns.map wordOf

/-- Rows zeroed after a readout with CLR (R217). -/
def clearRead (m : Mx) (w : Word) : Mx :=
  if bit w 17 then (List.range (outCount w)).foldl (fun m k => clearRow m (outFirst w + k)) m else m

/-- Writes words to SRAM; with `presence` as presence stores, whose refusals it counts with the first address (R454). -/
def writeOut (c : Nat) (presence : Bool) : State → Nat → Word → List Word → Option Word → State × Option Word
  | s, _, _, [], bad => (s, bad)
  | s, key, ea, x :: xs, bad =>
    if presence then
      let r := storeLane s .presence 4 key x.toNat .policy
      writeOut c presence r.1 (key + 4) (ea + 4) xs (match r.2, bad with | .refused _, none => some ea | _, b => b)
    else writeOut c presence (storeLane s .random 4 key x.toNat .policy).1 (key + 4) (ea + 4) xs bad

/-- The end of a readout: its rows are cleared where asked, the refusal is reported, and its token sent (R191, R217, R454). -/
def outEnd (s : State) (c : Nat) (w : Word) (bad : Option Word) : State :=
  let m := (coreOf s c).mx
  let fl := match m.run with | some r => r.flags | none => 0
  let s := modMx (mxDone s c) c fun m => clearRead m w
  let s := match bad, m.owner with
    | some a, some x =>
      let l : Late := { cause := .rewrite, taddr := a }
      (match pushLate s c x l with
       | some s => s
       | none => modMx s c fun m => { m with late := some (x, l) })
    | _, _ => s
  mxToken s c (bit w 26) (bits w 18 8) (if bad.isSome then 4 else 0) (outCount w) fl 35

/-- A readout to SRAM (R217). -/
def outToSram (s : State) (c : Nat) (w : Word) (key : Nat) (ea : Word) (presence : Bool) : State :=
  let m := (coreOf s c).mx
  let rows := (List.range (outCount w)).map fun k => outRow m s.tickNo w (outFirst w + k)
  let s := spend (mxFlags s c (rows.foldl (fun f r => f ||| r.2) 0)) c
    (400 * ((List.range (outCount w)).map fun k => readAdds m (outFirst w + k)).sum)
  let ws := rows.flatMap fun r => rowWords w r.1
  let r := writeOut c presence (spendKeys s ((List.range ws.length).map fun i => key + 4 * i)) key ea ws none
  outEnd r.1 c w r.2

/-- Whether a write unit takes a row of a readout now (R217). -/
def unitTakesRow (s : State) (c n : Nat) (m : Mx) : Bool :=
  let u := unitOf s c n
  u.st == .running && !u.queued && u.asked.isEmpty && m.owner == some u.owner && descTkind u.desc == 1 && decide (u.pending.length < descBlen u.desc)

/-- One row of a readout passes to a write unit (R217). -/
def outToUnit (s : State) (c : Nat) (r : MxRun) (w : Word) (n : Nat) : State :=
  let m := (coreOf s c).mx
  let row := outRow m s.tickNo w (outFirst w + r.next)
  let u := unitOf s c n
  let s := putUnit (spend s c (400 * readAdds m (outFirst w + r.next))) c n { u with pending := u.pending ++ (rowWords w row.1).map some }
  let s := mxFlags s c row.2
  if r.next + 1 = outCount w then outEnd s c w none
  else modMx s c fun m => { m with run := m.run.map fun r => { r with next := r.next + 1 } }

/-- MXOUT_READOUT_DONE: a readout to SRAM is done, or the next row of a readout passes to its write unit, the last one ending it
(R217, R367). A refusal that still waits for a place holds the next one's end (R376). -/
def execMxoutReadoutDone (c : Nat) (s : State) : Host.Outcome State Fault Refusal :=
  if !(coreActs s c && mxOpen s c) then .next s else
  let m := (coreOf s c).mx
  match m.run with
  | some r =>
    match r.cmd with
    | .out w key ea presence =>
      if outDest w = 0 then (if m.late.isSome then .next s else .next (settleCore (outToSram s c w key ea presence) c))
      else if unitTakesRow s c (outDest w + 1) m then .next (settleCore (outToUnit s c r w (outDest w + 1)) c)
      else .next s
    | _ => .next s
  | none => .next s

end Sys2Proof.Machine
end

