-- ==== Sys2Proof/Machine/StreamEv.lean ====
section
/-! DEFINITION. Steps of the stream units (R52 to R60, R205 to R210, R335, R454). -/

namespace Sys2Proof.Machine

open Sys2Proof

/-! ### Places of elements -/

/-- Where the code of element `n` of a run lies: the address of its burst's scale byte if it has one, the first byte, the bit within
it, and the bytes that hold it (R54, R207). -/
structure ElemLoc where
  scale : Option Word
  first : Word
  bit : Nat
  bytes : Nat
  deriving DecidableEq, Repr

/-- The place of element `n` (R54, R207). -/
def elemLoc (d : List Word) (n : Nat) : ElemLoc :=
  let o := elemOffset d n
  let w := elemBits (descFmt d)
  let base : Int := (descWord d 0).toNat
  if isScaled (descFmt d) then
    let l := descBlen d
    let a := base + o / (l : Nat) * (burstBytes (descFmt d) l : Nat)
    let b := (o % (l : Nat)).toNat * w
    { scale := some (wordOfInt a), first := wordOfInt (a + 1 + (b / 8 : Nat)), bit := b % 8, bytes := (b % 8 + w + 7) / 8 }
  else if w < 8 then
    let b := (o * (w : Nat) % 8).toNat
    { scale := none, first := wordOfInt (base + o * (w : Nat) / 8), bit := b, bytes := (b + w + 7) / 8 }
  else { scale := none, first := wordOfInt (base + o * (w / 8 : Nat)), bit := 0, bytes := w / 8 }

/-- Byte addresses of an element. -/
def locBytes (l : ElemLoc) : List Word :=
  (match l.scale with | some a => [a] | none => []) ++ (List.range l.bytes).map fun i => l.first + wordOf i

/-- The window that a unit's address lies in: its owner's (R206). -/
def unitWin (s : State) (c : Nat) (u : SUnit) (ea : Word) : Win := winOf (ctxOf s c u.owner) ea

/-- Where a unit's address is (R287). -/
def unitPlace (s : State) (c : Nat) (u : SUnit) (ea : Word) : Place := translate s c (unitWin s c u ea) (bits ea 0 28)

/-- The key of a unit's local address. -/
def localKey (s : State) (c : Nat) (u : SUnit) (ea : Word) : Option Nat :=
  if isLocal (unitWin s c u ea) then (match unitPlace s c u ea with | .mem k => some k | _ => none) else none

/-- The aligned word of an address. -/
def alignWord (ea : Word) : Word := ea &&& 0xFFFFFFFC

/-- A byte of the words that have come back to a unit. -/
def gotByte (u : SUnit) (ea : Word) : Byte :=
  match u.got.find? fun p => p.1 == (alignWord ea).toNat with
  | some p => BitVec.ofNat 8 (p.2.toNat / 2 ^ (8 * bits ea 0 2))
  | none => 0

/-- The first local byte address with an uncorrectable error. -/
def badByte (s : State) (c : Nat) (u : SUnit) (as : List Word) : Option Word :=
  as.find? fun a => match localKey s c u a with | some k => isBad s k | none => false

/-- Whether an address of a unit reaches its own cell's loft. -/
def atLoft (s : State) (c : Nat) (u : SUnit) (a : Word) : Bool := match localKey s c u a with | some k => keyIsLoft k | none => false

/-- TADDR of an uncorrectable access of a stream: its loft line, or its SRAM word (R374). -/
def errorAddr (s : State) (c : Nat) (u : SUnit) (ea : Word) : Word :=
  let w := unitWin s c u ea
  if winKind w = .loft ∨ bit w.w0 23 = true then ea - wordOf (((bits ea 0 28) + w.base.toNat) % 64) else alignWord ea

/-! ### Holding -/

/-- A unit that meets an error or scale overflow: HELD, its late cause queued, its finish action performed once the `left` lanes of its stores
that are under way are (R60, R192, R208, R209). -/
def holdAfter (s : State) (c n status left : Nat) (cause : Cause) (taddr : Word) : State :=
  let u := unitOf s c n
  let s := putUnit s c n { u with st := .held, asked := [], got := [] }
  unitEnds (unitLate s c n { cause := cause, taddr := taddr, info := n }) c n status left

/-- A unit with no stores under way that meets an error or scale overflow. -/
def holdUnit (s : State) (c n status : Nat) (cause : Cause) (taddr : Word) : State := holdAfter s c n status 0 cause taddr

/-- Whether the replies that a unit's requests for some addresses cause have their reservations (R259). -/
def unitRoom (s : State) (c : Nat) (u : SUnit) (as : List Word) : Bool :=
  let far := (as.filter fun a => (localKey s c u a).isNone).map fun a =>
    ({ lane := 0, ea := a, w := unitWin s c u a, place := unitPlace s c u a } : LaneAcc)
  far.isEmpty || replyRoom s c (farReplies far)

/-- Sends requests for addresses of other owners, lane numbers counted from 0 (R206, R295). -/
def askFar (s : State) (c n : Nat) (proto : MemReq) (ls : List (Word × Word)) : State :=
  let u := unitOf s c n
  let e := u.epoch + 1
  let proto := { proto with asker := .engine c (n + 4 * e), ctx := u.owner }
  let reqs := (ls.zip (List.range ls.length)).foldl (fun rs p =>
    let ea := p.1.1
    match remoteLane proto { lane := p.2, ea := ea, w := unitWin s c u ea, place := unitPlace s c u ea } p.1.2 0 with
    | some q => addReq rs q.1 q.2
    | none => rs) []
  let s := putUnit s c n { u with asked := ls.map fun p => p.1.toNat, got := [], epoch := e }
  reqs.foldl (fun s q => post s c q.1 0 (.mem q.2)) s

/-! ### Read units -/

/-- An element as it is read: its code, and its burst's scale byte. -/
def readElem (u : SUnit) (n : Nat) : Nat × Option Nat :=
  let l := elemLoc u.desc n
  let num := leNat ((List.range l.bytes).map fun i => gotByte u (l.first + wordOf i))
  (num / 2 ^ l.bit % 2 ^ elemBits (descFmt u.desc), l.scale.map fun a => (gotByte u a).toNat)

/-- When every word asked for has come back, the elements join those that the unit has read ahead (R210). -/
def takeRead (u : SUnit) : SUnit :=
  if u.asked.length ≤ u.got.length then
    let pos := u.next + u.ahead.length
    { u with ahead := u.ahead ++ (List.range u.reading).map fun i => readElem u (pos + i), asked := [], got := [] }
  else u

/-- Words that come back to a read unit. -/
def wordsRead (s : State) (c n : Nat) (vals : List (Nat × Word)) : State :=
  let u := unitOf s c n
  putUnit s c n (takeRead { u with got := u.got ++ vals.map fun p => ((u.asked[p.1]?).getD 0, p.2) })

/-- The lanes of a unit's read that its own cell's memory performs (R206). -/
def ownLanes (s : State) (c : Nat) (u : SUnit) (ws : List Word) : List LaneReq :=
  (ws.zip (List.range ws.length)).filterMap fun p =>
    (localKey s c u p.1).map fun k => { lane := p.2, key := k, ea := p.1, mode := winMode (unitWin s c u p.1) }

/-- A read unit reads words: those of its cell at once, in one step, and the others by request (R206, R289, R293, R295). -/
def readWordsOf (s : State) (c n count : Nat) (ws : List Word) : State :=
  let u := unitOf s c n
  let e := u.epoch + 1
  let proto : MemReq := { op := .load, lanes := [], asker := .engine c (n + 4 * e), ctx := u.owner }
  let far := (ws.zip (List.range ws.length)).foldl (fun rs p =>
    if (localKey s c u p.1).isSome then rs
    else
      match remoteLane proto { lane := p.2, ea := p.1, w := unitWin s c u p.1, place := unitPlace s c u p.1 } 0 0 with
      | some q => addReq rs q.1 q.2
      | none => rs) []
  let own : MemReq := { proto with lanes := ownLanes s c u ws }
  let s := putUnit s c n { u with asked := ws.map fun w => w.toNat, got := [], epoch := e, reading := count }
  let s := far.foldl (fun s q => post s c q.1 (reqVc q.2) (.mem q.2)) s
  let p := performLanes s own c
  if p.retry then { s with net := s.net ++ [{ src := c, dst := c, at_ := c, vc := 2, wait := 64, body := .mem own }] }
  else wordsRead p.s c n p.a.vals

/-- The lane word of an element, with its flags (R53, R55). -/
def laneOfElem (fmt : Nat) (e : Nat × Option Nat) : Word × Word :=
  match e.2 with
  | some sc => decodeBurstElem fmt sc e.1
  | none => decodeElem fmt e.1

/-- An element as it enters the engine, with its flags (R64). -/
def engineElem (mode code fmt : Nat) (e : Nat × Option Nat) : El × Word :=
  match e.2 with
  | some sc => enterScaled mode code fmt sc e.1
  | none =>
    let w := decodeElem fmt e.1
    let r := enterLane mode code w.1
    (r.1, w.2 ||| r.2)

/-- Elements that a read unit delivers at a time: a token of 8 to a channel, one to the engine (R207, R216). -/
def readCount (u : SUnit) : Nat :=
  let left := descTotal u.desc - u.next
  let most := if descTkind u.desc = 0 then 8 else 1
  if left < most then left else most

/-- The most elements that a read unit has delivered and that are not yet consumed (R210, R335). -/
def readAhead (u : SUnit) : Nat := if descRaw u.desc < 8 then 8 else descRaw u.desc

/-- Elements that a read unit reads next (R210): in a STREAM window as far as its limit lets it, in any other mode the rest of the burst that
its next delivery needs. -/
def aheadCount (s : State) (c : Nat) (u : SUnit) : Nat :=
  let pos := u.next + u.ahead.length
  let left := descTotal u.desc - pos
  let l := descBlen u.desc
  let want :=
    if winMode (unitWin s c u (elemLoc u.desc u.next).first) = .stream then readAhead u - (u.sent + u.ahead.length)
    else if u.ahead.length < readCount u then l - pos % l else 0
  if left < want then left else want

/-- Elements of a run performed. -/
def advance (u : SUnit) (k : Nat) (fl : Word) : SUnit :=
  { u with next := u.next + k, done := u.done + k, flags := u.flags ||| (fl &&& 0x3F), ahead := u.ahead.drop k }

/-- A read unit sends a token of `k` elements to its channel (R207, R210, R335). -/
def sendElems (s : State) (c n k : Nat) : State :=
  let u := unitOf s c n
  let ch := channelOf s c u.owner (descTidx u.desc)
  let ls := (u.ahead.take k).map (laneOfElem (descFmt u.desc))
  let fl := ls.foldl (fun f p => f ||| p.2) 0
  let v : Val := Lanes.ofFn fun i => (ls[i]?).map fun p => p.1
  let t : Token := { tag := 0, port := bits ch.1 9 2, lanes := v, src := some (c, n, k) }
  let s := spend (putUnit s c n { advance u k fl with sent := u.sent + k }) c (300 * k)
  sendAct (raiseFlags s c u.owner fl) c u.owner 0 (.sendRoute (bits ch.1 0 9) ch.2 t) .nobody

/-- The A rows that the next firing needs at the front of the buffer (R215): one in classical order, and in recombination order those up to
the second row of the next pair. -/
def rowsNeeded (m : Mx) : Nat :=
  match m.run with
  | some r =>
    (match r.cmd with
     | .run w => if runClassical m w then 1 else 9 - r.next % 8
     | _ => if mxRecomb m then 9 else 1)
  | none => if mxRecomb m then 9 else 1

/-- Whether the next firing still lacks elements of its rows: they go to the engine beyond the limit of R335, without which no row longer than
it would ever fire, and the program of R339 would not end as R341 says (notes/assumptions/89.md). -/
def rowsShort (m : Mx) : Bool :=
  let rows := m.arows.take (rowsNeeded m)
  decide (rows.length < rowsNeeded m) || rows.any fun a => !a.full

/-- Whether the engine takes an element from unit `n` now (R214, R216, R335). -/
def engineTakes (m : Mx) (n : Nat) (u : SUnit) : Bool :=
  if descTkind u.desc = 1 then takesElement m (some n) && (decide (u.sent < readAhead u) || rowsShort m)
  else match m.run with
    | some r =>
      (match r.cmd with
       | .load _ true _ _ _ => decide (r.loaded.length < mxK m * 16)
       | _ => false)
    | none => false

/-- The engine takes an element of unit `n`. -/
def giveEngine (m : Mx) (n tk : Nat) (x : El) : Mx :=
  if tk = 1 then addToRow m (some n) [x] else { m with run := m.run.map fun r => { r with loaded := r.loaded ++ [x] } }

/-- A read unit feeds the engine an element (R64, R214, R216). -/
def feedEngine (s : State) (c n : Nat) (e : Nat × Option Nat) : State :=
  let u := unitOf s c n
  let m := (coreOf s c).mx
  let tk := descTkind u.desc
  let code := if tk = 1 then mxACode (mxMode m) else mxBCode (mxMode m)
  let x := engineElem (mxMode m) code (descFmt u.desc) e
  let u' := { advance u 1 x.2 with sent := if tk = 1 then u.sent + 1 else u.sent }
  raiseFlags (modMx (putUnit (spend s c 300) c n u') c fun m => giveEngine m n tk x.1) c u.owner x.2

/-- A read unit delivers what it has read, if its consumer takes it (R207, R210, R335). -/
def deliverStep (s : State) (c n : Nat) : State :=
  let u := unitOf s c n
  let k := readCount u
  if u.ahead.length < k then s
  else if descTkind u.desc = 0 then (if u.sent = 0 ∨ u.sent + k ≤ descRaw u.desc then sendElems s c n k else s)
  else
    match u.ahead with
    | e :: _ => if engineTakes (coreOf s c).mx n u then feedEngine s c n e else s
    | [] => s

/-- A step of a read unit: it reads ahead, or delivers elements (R207, R210). -/
def readStep (s : State) (c n : Nat) : State :=
  let u := unitOf s c n
  let k := aheadCount s c u
  if u.asked = [] ∧ 0 < k then
    let as := (List.range k).flatMap fun i => locBytes (elemLoc u.desc (u.next + u.ahead.length + i))
    match badByte s c u as with
    | some a => holdUnit (noteUncorr s c (atLoft s c u a)) c n 4 .ecc (errorAddr s c u a)
    | none =>
      let ws := (as.foldl (fun l a => keyInsert l (alignWord a).toNat) []).map wordOf
      if unitRoom s c u ws then readWordsOf s c n k ws else s
  else deliverStep s c n

/-! ### Write units -/

/-- A kept token of the unit's tag feeds it 8 elements, no more than its run has left (R207). -/
def refill (s : State) (c n : Nat) : State :=
  let u := unitOf s c n
  let left := descTotal u.desc - u.next
  if descTkind u.desc = 0 ∧ u.pending.length < left then
    match (coreOf s c).tokens.find? fun q => q.t.tag == descTidx u.desc && !q.held with
    | some q =>
      let s := modCore (consumeSrc s q.t) c fun k => { k with tokens := k.tokens.filter fun p => p.stamp != q.stamp }
      putUnit s c n { u with pending := (u.pending ++ q.t.lanes.toList).take left }
    | none => s
  else s

/-- Whether a unit's run goes through a PEER window, where a burst is one RMA write (R436). -/
def toPeer (s : State) (c : Nat) (u : SUnit) : Bool := winKind (unitWin s c u (descWord u.desc 0)) == .peer

/-- Elements that the next step of a write unit stores: a whole burst of a scaled or sub-byte format, or toward a peer, where the run's last one may
be shorter, else what it holds (R58, R207, R436). -/
def writeCount (s : State) (c : Nat) (u : SUnit) : Nat :=
  let left := descTotal u.desc - u.next
  let f := descFmt u.desc
  let have_ := if u.pending.length < left then u.pending.length else left
  if isScaled f || decide (elemBits f < 8) then (if descBlen u.desc ≤ have_ then descBlen u.desc else 0)
  else if toPeer s c u then (if descBlen u.desc ≤ have_ then descBlen u.desc else if have_ = left then left else 0)
  else if have_ < 8 then have_ else 8

/-- Whether the unit's overflow policy is trap (R60): OVF, and RSTE of its owner. -/
def trapsOverflow (s : State) (c : Nat) (u : SUnit) : Bool :=
  bit (descWord u.desc 5) 13 && bit (ctxOf s c u.owner).fmode 3

/-- The SCALE of a FIXED policy (R59). No encoder produces 0xFF (R53): for it the spec states no scale (notes/assumptions/73.md). -/
def fixedScale (d : List Word) : Option Nat :=
  if bits (descWord d 5) 11 2 = 1 then
    (let n := bits (descWord d 5) 14 8
     some (if n = 255 then Config.freeScale (descWord d 5).toNat % 255 else n))
  else none

/-- Byte `i` of a bit stream of `total` bits that starts at bit `off` of its first byte, laid over what the byte holds. -/
def mergeBits (old : Byte) (off total num i : Nat) : Nat :=
  (List.range 8).foldl (fun b j =>
    let p := 8 * i + j
    let v := if off ≤ p ∧ p < off + total then num / 2 ^ (p - off) % 2 else old.toNat / 2 ^ j % 2
    b + v * 2 ^ j) 0

/-- A byte as it stands at its owner, for the bits of it that a bit stream leaves. -/
def standingByte (s : State) (c : Nat) (u : SUnit) (ea : Word) : Byte :=
  match unitPlace s c u ea with
  | .mem k => memGet s.mem k
  | .host a => hostByte s (Config.bridgePort c) a
  | _ => 0

/-- The stores of the next chunk of `k` elements: address, size and value, with the flags; none when it stops for RESCALE (R54 to R60). -/
def chunkStores (s : State) (c : Nat) (u : SUnit) (k : Nat) : Option (List (Word × Nat × Nat) × Word) :=
  let d := u.desc
  let f := descFmt d
  let w := elemBits f
  let lanes := u.pending.take k
  let l := elemLoc d u.next
  if isScaled f then
    match encodeBurst f (fixedScale d) (trapsOverflow s c u) lanes with
    | none => none
    | some (sc, codes, fl) =>
      let bytes := leBytes (burstBytes f k - 1) (packCodes w codes)
      let a := l.scale.getD 0
      some ((a, 1, sc) :: (bytes.zip (List.range bytes.length)).map fun p => (a + 1 + wordOf p.2, 1, p.1.toNat), fl)
  else
    let cs := lanes.map (encodeElem f)
    let fl := cs.foldl (fun a p => a ||| p.2) 0
    if w < 8 then
      let num := packCodes w (cs.map fun p => p.1)
      some ((List.range ((l.bit + k * w + 7) / 8)).map fun i =>
        (l.first + wordOf i, 1, mergeBits (standingByte s c u (l.first + wordOf i)) l.bit (k * w) num i), fl)
    else some ((cs.zip (List.range k)).map fun p => ((elemLoc d (u.next + p.2)).first, w / 8, p.1.1), fl)

/-- A chunk of `k` elements has been stored. -/
def chunkDone (s : State) (c n k : Nat) : State :=
  let u := unitOf s c n
  spend (putUnit s c n { advance u k 0 with pending := u.pending.drop k, asked := [], got := [] }) c (300 * k)

/-- A refused presence word (R454). -/
def noteRefused (u : SUnit) (ea : Word) : SUnit :=
  { u with nrefused := u.nrefused + 1, refused := match u.refused with | some a => some a | none => some ea }

/-- The local stores of a chunk (R454), and whether one finds no room in the undo log: refused presence words are counted. -/
def storeChunk (c n : Nat) : State → List (Word × Nat × Nat) → State × Bool
  | s, [] => (s, false)
  | s, p :: ps =>
    let u := unitOf s c n
    match localKey s c u p.1 with
    | some k =>
      let r := storeLane s (winMode (unitWin s c u p.1)) p.2.1 k p.2.2 .policy
      (match r.2 with
       | .refused .rewrite => storeChunk c n (putUnit r.1 c n (noteRefused (unitOf r.1 c n) p.1)) ps
       | .retry => (r.1, true)
       | _ => storeChunk c n r.1 ps)
    | none => storeChunk c n s ps

/-- What the local stores of a chunk would meet: an uncorrectable word, or a full undo log. -/
def chunkMeets (s : State) (c : Nat) (u : SUnit) (ps : List (Word × Nat × Nat)) : Option (Word × LaneRes) :=
  ps.findSome? fun p =>
    match localKey s c u p.1 with
    | some k =>
      (match storeCheck s (winMode (unitWin s c u p.1)) p.2.1 k with
       | .refused .ecc => some (p.1, .refused .ecc)
       | .retry => some (p.1, .retry)
       | _ => none)
    | none => none

/-- A step of a write unit: it takes a token, or stores its next chunk (R58, R60, R207, R454). -/
def writeStep (s : State) (c n : Nat) : State :=
  let s := if writeCount s c (unitOf s c n) = 0 then refill s c n else s
  let u := unitOf s c n
  let k := writeCount s c u
  if k = 0 ∨ u.asked ≠ [] then s
  else
    match chunkStores s c u k with
    | none => holdUnit s c n 3 .rescale ((elemLoc u.desc u.next).scale.getD 0)
    | some (ps, fl) =>
      if !unitRoom s c u (ps.map fun p => p.1) then s else
      match chunkMeets s c u ps with
      | some (_, .retry) => askEarlyCut s c
      | some (a, _) => holdUnit (noteUncorr s c (atLoft s c u a)) c n 4 .ecc (errorAddr s c u a)
      | none =>
        let q := storeChunk c n (raiseFlags (putUnit s c n { u with flags := u.flags ||| (fl &&& 0x3F) }) c u.owner fl) ps
        if q.2 then askEarlyCut s c else
        let s := spendKeys q.1 (ps.filterMap fun p => localKey s c u p.1)
        let far := ps.filter fun p => (localKey s c u p.1).isNone
        if far.isEmpty then chunkDone s c n k
        else
          let size := match far with | p :: _ => p.2.1 | [] => 4
          askFar s c n { op := .store, size := size, lanes := [], asker := .nobody } (far.map fun p => (p.1, wordOf p.2.2))

/-- STREAM_ELEMENT: a running unit performs its next elements, or asks their owner for them (R207, R210). -/
def execStreamElement (c n : Nat) (s : State) : Host.Outcome State Fault Refusal :=
  let u := unitOf s c n
  if n < 4 ∧ u.st = .running ∧ u.queued = false ∧ u.next < descTotal u.desc ∧ coreActs s c = true then
    .next (settleCore (if n < 2 then readStep s c n else writeStep s c n) c)
  else .next s

/-! ### Finish and pulses -/

/-- STREAM_FINISH: the last element is performed: the unit is LOADED and its finish action follows, with ERROR and one late REWRITE after
a refusal (R191, R208, R454). -/
def execStreamFinish (c n : Nat) (s : State) : Host.Outcome State Fault Refusal :=
  if !coreActs s c then .next s else
  let u := unitOf s c n
  if n < 4 ∧ u.st = .running ∧ u.queued = false ∧ descTotal u.desc ≤ u.next ∧ u.asked = [] ∧ u.late = none then
    let s := endRows s c n
    let s := match u.refused with
      | some a => unitLate s c n { cause := .rewrite, taddr := a, info := n }
      | none => s
    let s := unitFinish s c n (if u.refused.isSome then 4 else 0)
    .next (settleCore (putUnit s c n { unitOf s c n with
      st := .loaded
      pending := if descTkind u.desc = 1 then u.pending else [] }) c)
  else .next s

/-- Takes one pulse of a channel (R205). -/
def takePulse (s : State) (c ch : Nat) : State :=
  modCore s c fun k => { k with pulses := Tbl.put k.pulses ch (Tbl.get 0 k.pulses ch - 1) }

/-- Pulses that a channel holds (R205). -/
def pulsesOf (s : State) (c ch : Nat) : Nat := Tbl.get 0 (coreOf s c).pulses ch

/-- STREAM_START_PULSE: an ARMED unit consumes a START pulse and runs (R208). -/
def execStreamStartPulse (c n : Nat) (s : State) : Host.Outcome State Fault Refusal :=
  if !coreActs s c then .next s else
  let u := unitOf s c n
  if n < 4 ∧ u.st = .armed ∧ u.queued = false ∧ 0 < pulsesOf s c (descStart u.desc) then
    .next (putUnit (takePulse s c (descStart u.desc)) c n { u with st := .running, alt := none })
  else .next s

/-- STREAM_ALT_PULSE: with no START pulse, an ARMED unit consumes a pulse of its alternative and is cancelled (R208). -/
def execStreamAltPulse (c n : Nat) (s : State) : Host.Outcome State Fault Refusal :=
  if !coreActs s c then .next s else
  let u := unitOf s c n
  match u.alt with
  | some a =>
    if n < 4 ∧ u.st = .armed ∧ u.queued = false ∧ pulsesOf s c (descStart u.desc) = 0 ∧ 0 < pulsesOf s c a then
      let s := unitFinish (takePulse s c a) c n 2
      .next (putUnit s c n { unitOf s c n with st := .loaded, alt := none })
    else .next s
  | none => .next s

/-! ### Answers from owners -/

/-- The address that lane `l` of a unit's requests named. -/
def askedAt (u : SUnit) (l : Nat) : Word := wordOf ((u.asked[l]?).getD 0)

/-- Lanes of a unit's requests, by their number, that an answer is about. -/
def lanesIn (a : Answer) : Nat := a.vals.length + ((List.range 128).filter fun l => a.refused / 2 ^ l % 2 == 1).length

/-- An answer to stores of a run that has ended: with the last of them its finish action is performed (R192). -/
def endingAnswer (s : State) (c n e : Nat) (a : Answer) : State :=
  let u := unitOf s c n
  let es := u.endings.map fun q => if q.epoch = e then { q with left := q.left - lanesIn a } else q
  let s := putUnit s c n { u with endings := es.filter fun q => q.left != 0 }
  (es.filter fun q => q.left == 0).foldl (fun s q => performEnd s c n q) s

/-- An answer to a stream unit: words for a read unit, acknowledgements for a write unit; refused presence words are passed over, and any
other refusal holds the unit (R208, R209, R454). -/
def engineAnswer (s : State) (c unit : Nat) (a : Answer) : State :=
  let n := unit % 4
  let u := unitOf s c n
  if u.endings.any (fun q => q.epoch == unit / 4) then endingAnswer s c n (unit / 4) a
  else if u.epoch ≠ unit / 4 ∨ u.asked = [] then s
  else
    match a.cause with
    | some k =>
      let bad := (List.range u.asked.length).filter fun l => a.refused / 2 ^ l % 2 == 1
      if k = .rewrite then
        let u := bad.foldl (fun u l => noteRefused u (askedAt u l)) u
        let u := { u with got := u.got ++ (bad ++ a.vals.map fun p => p.1).map fun l => ((askedAt u l).toNat, 0) }
        let s := putUnit s c n u
        if u.asked.length ≤ u.got.length then chunkDone s c n (writeCount s c u) else s
      else
        let ea := askedAt u (bad.headD 0)
        holdAfter s c n 4 (if n < 2 then 0 else u.asked.length - (u.got.length + lanesIn a)) k (if k = .ecc then errorAddr s c u ea else ea)
    | none =>
      if n < 2 then wordsRead s c n a.vals
      else
        let u := { u with got := u.got ++ a.vals.map fun p => ((askedAt u p.1).toNat, p.2) }
        let s := putUnit s c n u
        if u.asked.length ≤ u.got.length then chunkDone s c n (writeCount s c u) else s

end Sys2Proof.Machine
end

