-- ==== Sys2Proof/Machine/Remote.lean ====
section
/-! DEFINITION. Requests at their owners and the answers to them (R165 to R168, R173, R174, R178, R183, R284, R288, R289, R292 to R295,
R387, R436). -/

namespace Sys2Proof.Machine

open Sys2Proof

/-! ### Performance at an owner -/

/-- The lanes that the path of a request refuses: all of them across a region's edge, and for a dead owner those that do not go by the loft
ring, which reaches it all the same (R166, R284). -/
def pathLanes (s : State) (m : Msg) (r : MemReq) : List LaneReq :=
  if isCellCore m.src && isCellCore m.dst && !sameRegion s m.src m.dst then r.lanes
  else if isDead s m.dst then r.lanes.filter fun l => !(l.ring && m.dst != nowhereDst)
  else []

/-- Whether the path refuses a request. -/
def refusedPath (s : State) (m : Msg) (r : MemReq) : Bool := !(pathLanes s m r).isEmpty

/-- Whether the frame that sent a request is gone (R294). -/
def staleFrame (s : State) (a : Asker) : Bool :=
  match a with
  | .frame c x n _ => (match (ctxOf s c x).frame with | some f => f.serial != n | none => true)
  | _ => false

/-- A request performed by its owner's banks, in one step (R295). -/
def performMem (s : State) (n : Nat) (m : Msg) (r : MemReq) : State :=
  let c := m.dst
  let p := performLanes (receive s n m) r (answerTo r.asker m.src)
  if p.retry then parkMsg (receive s n m) m
  else if p.hold then askEarlyCut s c
  else
    let s := p.s
    let s := if p.a.vals.isEmpty && p.a.cause.isNone && p.open_ then s else reply s c m (withAddress r p.a)
    if isLoadOp r.op then s else mirrorToken s c

/-- Confirms wait for the undo log; cancels do not (R168, R391). -/
def confirmKeys (s : State) (n : Nat) (m : Msg) (ks : List Nat) (a : Asker) : State :=
  match ks.find? fun k => holdsTake s k a && undoBlocks s k true with
  | some k => askEarlyCut s (keyCore k)
  | none => mirrorToken (ks.foldl (fun s k => confirmTake s k a) (receive s n m)) m.dst

/-- REMOTE_REQUEST_PERFORM: message `n`, a memory request or the end of a take, at its owner (R168, R179, R289, R295). -/
def execRemoteRequestPerform (n : Nat) (s : State) : Host.Outcome State Fault Refusal :=
  match arrived s n with
  | none => .next s
  | some m =>
    match m.body with
    | .mem r =>
      if hostDst ≤ m.dst then .next s
      else if isLoadOp r.op && staleFrame s r.asker then .next (receive s n m)
      else if refusedPath s m r then .next (reply (receive s n m) m.dst m (refuseLanes r (pathLanes s m r) .remote))
      else if behindRod s r.asker then .next s
      else if byUpdateSlot r then .next (match queueUpdate s m.dst m n r with | some s => settleCore (mirrorToken s m.dst) m.dst | none => s)
      else if behindUpdate s m then .next s
      else .next (settleCore (performMem s n m r) m.dst)
    | .confirm ks a =>
      .next (if isDead s m.dst then takeMsg s n else if behindUpdate s m then s else confirmKeys s n m ks a)
    | .cancel ks a =>
      .next (if isDead s m.dst then takeMsg s n else if behindUpdate s m then s
        else ks.foldl (fun s k => cancelTake s k a) (receive s n m))
    | _ => .next s

/-! ### Retries -/

/-- Sends a refused request again, counted as a new departure (R293, R310). -/
def resendMsg (s : State) (n : Nat) (m : Msg) : State :=
  postMsg (takeMsg s n) { m with at_ := m.src, inp := 0, vc := m.vc / 2 * 2, wait := 0, backoff := m.wait, recorded := false }

/-- PRESENCE_RETRY: a read refused with RETRY is sent again (R293); one whose frame is gone is forgotten (R294). -/
def execPresenceRetry (n : Nat) (s : State) : Host.Outcome State Fault Refusal :=
  match s.net[n]? with
  | some m =>
    match m.body with
    | .mem r =>
      if m.wait = 0 then .next s
      else if staleFrame s r.asker then .next (takeMsg s n)
      else .next (resendMsg s n m)
    | _ => .next s
  | none => .next s

/-! ### Answers -/

/-- Lane values delivered to a waiting operation, with the words taken (R163, R168). -/
def takeAnswer (f : Frame) (w : Waiting) (a : Answer) : Frame × Waiting :=
  let w := a.vals.foldl (fun w p => if w.left.contains p.1 then arrive w p.1 p.2 else w) w
  ({ f with
      waits := f.waits.map fun u => if u.slot = w.slot then w else u
      takes := f.takes ++ a.taken.map fun k => (w.slot, k) }, w)

/-- An answer to an instruction of a frame: a refusal faults its block at once, and the last lane completes it (R166, R178); an answer
to a frame that is gone gives its takes back (R385, R168). -/
def answerFrame (s : State) (c x serial slot : Nat) (a : Answer) : State :=
  let stale := a.taken.foldl (fun s k => sendCancel s c a.asker k) s
  match (ctxOf s c x).frame with
  | none => stale
  | some f =>
    if f.serial ≠ serial then stale
    else
      match f.waits.find? fun w => w.slot == slot with
      | none => stale
      | some w =>
        let p := takeAnswer f w a
        let s := putFrame s c x p.1
        match a.cause with
        | some k =>
          let bad := a.refused &&& lanesMask w.left
          settleCore (blockFault s c x {
            cause := k
            taddr := w.eas.get (lowestLane bad)
            slot := slot
            lanes := bad
            lsid := w.tlsid }) c
        | none =>
          if p.2.left.isEmpty then
            match completeWaiting p.1 p.2 with
            | .ok f => settleCore (departReply (putFrame s c x f) c x) c
            | .error b => settleCore (blockFault s c x b) c
          else s

/-- The cause of a peer's refusal (R436). -/
def farCause (n : Nat) : Option Cause :=
  match n with
  | 0x0A => some .window | 0x0B => some .rewrite | 0x15 => some .remote | 0x17 => some .ecc | _ => none

/-- What a peer answers to a request (R436): every lane is performed with its value, or refused. -/
def farAnswer (r : MemReq) (a : FarAnswer) : Option Answer :=
  let ok (l : LaneReq) : Bool := a.vals.any fun p => p.1 == l.lane
  if a.cause = 0 then
    if r.lanes.all ok then
      some { asker := r.asker, vals := r.lanes.filterMap fun l => a.vals.find? fun p => p.1 == l.lane }
    else none
  else
    match farCause a.cause with
    | some k =>
      let bad := r.lanes.filter fun l => a.refused / 2 ^ l.lane % 2 == 1
      if bad.isEmpty then none
      else some (withAddress r { asker := r.asker, cause := some k, refused := lanesMask (bad.map fun l => l.lane) })
    | none => none

/-- The answer that message `n` brings: its own, or the one that a peer gives to the request it carries; without a link only REMOTE comes, for a
peer that cannot be reached (R430, R436). -/
def answerOf (s : State) (n : Nat) (far : Option FarAnswer) : Option (Msg × Answer) :=
  match arrived s n with
  | none => none
  | some m =>
    match m.body, far with
    | .answer a, none => some (m, a)
    | .mem r, some f =>
      if decide (hostDst < m.dst) && (f.cause == 0x15 || endpointOn s (Tbl.get ({} : Peer) s.peers (m.dst - peerDst 0)).port) then
        (farAnswer r f).map fun a => (m, a)
      else none
    | _, _ => none

/-- Lanes of a mask of any length. -/
def countLanes (n a : Nat) : Nat := ((List.range n).filter fun i => a / 2 ^ i % 2 == 1).length

/-- An update slot has performed words of an RMA message (R308). -/
def rmaAnswer (r : RmaMsg) (a : Answer) : RmaMsg :=
  let bad := countLanes r.waiting a.refused
  { r with waiting := r.waiting - (a.vals.length + bad), refused := r.refused + bad }

/-- An owner has performed its words of a host write (R306). -/
def rodAnswer (s : State) (id : Nat) : State :=
  { s with rods := (s.rods.map fun w => if w.id = id then { w with left := w.left - 1 } else w).filter fun w => w.left != 0 }

/-- The answer to the outside: for an even number the host's access leaves the module (R306), for an odd one words of an RMA message. -/
def answerOutside (s : State) (id : Nat) (a : Answer) : State :=
  let s := rodAnswer s id
  if id % 2 = 1 then
    let s := match s.rmas.find? fun r => r.message == id / 2 with
      | some r => notePlref s r.port (countLanes r.waiting a.refused)
      | none => s
    { s with rmas := s.rmas.map fun r => if r.message = id / 2 then rmaAnswer r a else r }
  else report s (if a.cause.isSome then .hostRefused id else .hostAnswer id a.vals)

/-- REPLY_ARRIVAL: an answer to an instruction of a frame, to a stream unit, or to the outside (R163, R166, R178, R209). -/
def execReplyArrival (n : Nat) (far : Option FarAnswer) (s : State) : Host.Outcome State Fault Refusal :=
  match answerOf s n far with
  | none => .next s
  | some (m, a) =>
    match a.asker with
    | .frame c x serial slot => .next (answerFrame (receive s n m) c x serial slot a)
    | .engine c unit => .next (settleCore (engineAnswer (receive s n m) c unit a) c)
    | .outside id => .next (answerOutside (receive s n m) id a)
    | _ => .next s

/-! ### Slots -/

/-- An answer noted in a slot, when it answers the entry that stands OPEN there (R387). -/
def snapAnswer (p : Snap) (live : Entry) (x i : Nat) (a : Answer) : Snap :=
  let v := Tbl.get ({} : Context) p.core.ctxs x
  let e := entryOf v i
  if e.st = .opened ∧ e.act = live.act ∧ e.lsid = live.lsid ∧ e.slot = live.slot then
    { p with core := { p.core with ctxs := Tbl.put p.core.ctxs x (ctxAnswer v i a) } }
  else p

/-- The slot that an answer reaches besides the entry itself: the one being written, or the record of a SAVED context (R387, R395); an
answer to a recorded request leaves it. -/
def onSlot (s : State) (c x : Nat) (a : Answer) (g : Snap → Snap) : State :=
  let k := cellOf s c
  if a.recorded then s
  else if k.savedPoint then putCell s c (setSlot k (idleB k) ((slotAt k (idleB k)).map g))
  else if (ctxOf s c x).st = .saved then putCell s c (setSlot k (recordB k x) ((slotAt k (recordB k x)).map g))
  else s

/-- An answer to an entry reaches its record (R387, R395). -/
def slotAnswer (s : State) (c x i : Nat) (a : Answer) : State :=
  onSlot s c x a fun p => snapAnswer p (entryOf (ctxOf s c x) i) x i a

/-- A refusal that an entry does not count among its answers reaches its record (R183, R387, R395). -/
def slotLater (s : State) (c x i born : Nat) (a : Answer) : State :=
  if a.cause.isNone then s
  else onSlot s c x a fun p =>
    { p with core := { p.core with ctxs := Tbl.put p.core.ctxs x (noteLater (Tbl.get ({} : Context) p.core.ctxs x) i born a) } }

/-- An answer to a pending entry, or to an entry that SCOPE CELL freed; none while its late cause has no place (R183, R376). -/
def entryAnswer (s : State) (a : Answer) : Option (State × Nat) :=
  match a.asker with
  | .entry c x i => some (answerEntry (slotAnswer s c x i a) c x i a, c)
  | .freed c x lsid i born => (answerFreed (slotLater s c x i born a) c x lsid i born a).map fun s => (s, c)
  | _ => none

/-- Whether an answer belongs to a SAVED context. -/
def forSaved (s : State) (a : Answer) : Bool :=
  match a.asker with
  | .entry c x _ => (ctxOf s c x).st == .saved
  | .freed c x _ _ _ => (ctxOf s c x).st == .saved
  | _ => false

/-- An answer to an entry, when `ok` holds of it. -/
def takeEntryAnswer (s : State) (n : Nat) (far : Option FarAnswer) (ok : Answer → Bool) : Host.Outcome State Fault Refusal :=
  match answerOf s n far with
  | none => .next s
  | some (m, a) =>
    if ok a then
      match entryAnswer (receive s n m) a with
      | some (s, c) => .next (settleCore (mirrorToken s c) c)
      | none => .next s
    else .next s

/-- ENTRY_ACK: the performance of a remote side effect (R174, R183, R193, R380). -/
def execEntryAck (n : Nat) (far : Option FarAnswer) (s : State) : Host.Outcome State Fault Refusal :=
  takeEntryAnswer s n far fun a => a.cause.isNone && !forSaved s a

/-- ENTRY_REFUSED: lanes of a remote side effect refused (R174, R376, R380). -/
def execEntryRefused (n : Nat) (far : Option FarAnswer) (s : State) : Host.Outcome State Fault Refusal :=
  takeEntryAnswer s n far fun a => a.cause.isSome && !forSaved s a

/-- SAVED_CONTEXT_UPDATE: an answer to a SAVED context updates its record too (R377, R395). -/
def execSavedContextUpdate (n : Nat) (s : State) : Host.Outcome State Fault Refusal := takeEntryAnswer s n none (forSaved s)

/-! ### Windows -/

/-- The reply of a management function, from its target: STATUS, a detail word, the target address and the function (R191, R228, R453). -/
def mgmtReply (s : State) (m : MgmtFn) (status : Nat) (detail : Word) : State :=
  post s (maCell m.addr) m.core 2 (.token { tag := m.reply, lanes := completionOf (wordOf status) detail m.addr (wordOf m.fn) } .nobody)

/-- WINSET_APPLY: a window write that waited for its context's block boundary (R288). -/
def execWinsetApply (c x : Nat) (s : State) : Host.Outcome State Fault Refusal :=
  let v := ctxOf s c x
  match v.winsets with
  | (n, w, m) :: rest =>
    if coreActs s c && v.frame.isNone && v.st != .saved && (x != 4 || slotIdle s c) then
      let s := putCtx s c x { v with winsets := rest, wins := Tbl.put v.wins n w }
      .next (settleCore (mgmtReply s m 0 0) c)
    else .next s
  | [] => .next s

end Sys2Proof.Machine
end

