-- ==== Sys2Proof/Machine/BarrierEv.lean ====
section
/-! DEFINITION. Barriers at their home (R219 to R221, R309 to R317). -/

namespace Sys2Proof.Machine

open Sys2Proof

/-- Barrier `bn` of a cell. -/
def barAt (s : State) (c bn : Nat) : Barrier := Tbl.get {} (coreOf s c).bars bn

/-- Replaces a barrier of a cell. -/
def putBar (s : State) (c bn : Nat) (b : Barrier) : State := modCore s c fun k => { k with bars := Tbl.put k.bars bn b }

/-- The refusal of a barrier operation: it names every lane, and its issuer knows which one acted. -/
def barRefusal (a : Asker) (k : Cause) : Answer := { asker := a, cause := some k, refused := 255 }

/-- The release token of a phase (R219, R314). -/
def releaseToken (b : Barrier) (bn : Nat) : Token :=
  { tag := b.rtag
    lanes := ⟨some (wordOf (b.facc.toNat + if b.phase then 256 else 0)), some (wordOf bn), none, none, none, none, none, none⟩
    release := true }

/-- The object after its release (R314). -/
def releasedBar (b : Barrier) : Barrier :=
  let e := ((b.e : Int) + b.delta).toNat
  { b with phase := !b.phase, arr := 0, facc := 0, e := e, delta := 0, init := b.init && e != 0 }

/-- Releases a phase: its records are freed, and each arriver is sent its token, in the order in which the records were counted (R314). -/
def releaseBar (s : State) (c bn : Nat) (b : Barrier) : State :=
  let mine := (coreOf s c).recs.filter fun r => r.bn == bn
  let s := modCore (putBar s c bn (releasedBar b)) c fun k => { k with recs := k.recs.filter fun r => r.bn != bn }
  mine.foldl (fun s r => post s c r.cell 2 (.token (releaseToken b bn) .nobody)) s

/-- What an arrival meets (R220, R310, R311). -/
inductive ArriveRes where
  | counted | overrun | retry
  deriving DecidableEq, Repr

/-- The checks of an arrival in order. -/
def arriveCheck (s : State) (c bn cell ctx : Nat) : ArriveRes :=
  let b := barAt s c bn
  let recs := (coreOf s c).recs
  if recs.any fun r => r.bn == bn && r.cell == cell && r.ctx == ctx then .overrun
  else if !b.init || b.arr == b.e then .overrun
  else if 2048 ≤ recs.length then .retry
  else .counted

/-- A counted arrival (R220, R221, R310): the one that completes the phase releases it. -/
def countArrival (s : State) (c bn cell ctx : Nat) (dropping : Bool) (flags : Option (BitVec 6)) : State :=
  let b := barAt s c bn
  let b := { b with
    arr := b.arr + 1
    facc := b.facc ||| flags.getD 0
    delta := if dropping then b.delta - 1 else b.delta }
  let w := offsetWord (deltaOf s c cell)
  let r : ArrRec := { bn := bn, cell := cell, ctx := ctx, offset := bits w 0 11 + bits w 16 11 * 2 ^ 11 }
  let s := modCore (putBar s c bn b) c fun k => { k with recs := k.recs ++ [r] }
  if b.arr = b.e then releaseBar s c bn b else s

/-- Whether an operation that reached its home before `b` did stands there (R313): in one cycle the core's own contexts come first, then the
inputs in their order. -/
def reachedBefore (a b : Msg) : Bool :=
  decide (a.since < b.since) || (a.since == b.since && decide (a.inp < b.inp))

/-- The barrier object that an operation names. -/
def barOf (m : Msg) : Option Nat := match m.body with | .barrier bn _ _ _ _ => some bn | _ => none

/-- Whether an operation on a barrier object waits: for an earlier one on the same object at its home (R313), or for what the update slot has
still to perform of its source (R300). -/
def barWaits (s : State) (m : Msg) : Bool :=
  behindUpdate s m ||
  s.net.any fun a => a.dst == m.dst && a.at_ == a.dst && a.wait == 0 && barOf a == barOf m && reachedBefore a m && !heldOutside s a &&
    !newBeforeSave s a && !mustRecord s a

/-- BARRIER_ARRIVAL: message `n`, an ARV or ARVD, at its home (R220, R310 to R312). -/
def execBarrierArrival (n : Nat) (s : State) : Host.Outcome State Fault Refusal :=
  match arrived s n with
  | none => .next s
  | some m =>
    match m.body with
    | .barrier bn (.arrive dropping flags) _ ctx a =>
      let c := m.dst
      let t := receive s n m
      if isDead s c then .next (reply t c m (barRefusal a .remote))
      else if barWaits s m then .next s
      else
        match arriveCheck s c bn m.src ctx with
        | .overrun => .next (settleCore (reply t c m (barRefusal a .barOver)) c)
        | .retry => .next (settleCore (parkMsg t m) c)
        | .counted => .next (settleCore (mirrorToken (reply (countArrival t c bn m.src ctx dropping flags) c m { asker := a }) c) c)
    | _ => .next s

/-- ARRIVAL_RESEND: an arrival refused with RETRY is sent again (R310). -/
def execArrivalResend (n : Nat) (s : State) : Host.Outcome State Fault Refusal :=
  match s.net[n]? with
  | some m =>
    match m.body with
    | .barrier _ (.arrive _ _) _ _ _ => if m.wait = 0 then .next s else .next (resendMsg s n m)
    | _ => .next s
  | none => .next s

/-- The object after BINIT, JOINB or LEAVEB, or none when the home refuses it (R220). -/
def homeUpdate (b : Barrier) (op : BarOp) : Option Barrier :=
  let change (d : Int) (n : Nat) : Option Barrier :=
    let e := (b.e : Int) + b.delta + d
    if b.init ∧ 1 ≤ n ∧ n ≤ 1024 ∧ 1 ≤ e ∧ e ≤ 1024 then some { b with delta := b.delta + d } else none
  match op with
  | .init w =>
    if b.arr = 0 ∧ 1 ≤ bits w 0 11 ∧ bits w 0 11 ≤ 1024 then
      some { init := true, phase := false, facc := 0, rtag := bits w 11 8, e := bits w 0 11, delta := 0, arr := 0 }
    else none
  | .join n => change n n
  | .leave n => change (-n) n
  | .arrive _ _ => none

/-- HOME_BARRIER_UPDATE: message `n`, a BINIT, JOINB or LEAVEB, at its home (R220, R312, R313). -/
def execHomeBarrierUpdate (n : Nat) (s : State) : Host.Outcome State Fault Refusal :=
  match arrived s n with
  | none => .next s
  | some m =>
    match m.body with
    | .barrier _ (.arrive _ _) _ _ _ => .next s
    | .barrier bn op _ _ a =>
      let c := m.dst
      let t := receive s n m
      if isDead s c then .next (reply t c m (barRefusal a .remote))
      else if barWaits s m then .next s
      else
        match homeUpdate (barAt s c bn) op with
        | some b => .next (settleCore (mirrorToken (reply (putBar t c bn b) c m { asker := a, vals := laneNums.map fun l => (l, 0) }) c) c)
        | none => .next (settleCore (reply t c m (barRefusal a .barState)) c)
    | _ => .next s

end Sys2Proof.Machine
end

