-- ==== Sys2Proof/Machine/Tokens.lean ====
section
/-! DEFINITION. Token arrival (R15 to R18, R196, R200, R221). -/

namespace Sys2Proof.Machine

open Sys2Proof

/-- Whether a token is a collective packet that its home checks before it queues (R325, R326). -/
def isPacket (s : State) (c : Nat) (t : Token) : Bool :=
  t.tuple.isSome && isCollHome s c && decide (0xE0 ≤ t.tag) && decide (t.tag ≤ 0xEF)

/-- Acknowledges a token to its sender's entry (R193). -/
def ackToken (s : State) (m : Msg) (a : Asker) : State := reply s m.dst m { asker := a }

/-- Whether a token is ejected at a cell of no region, which discards it under R15 (R248). -/
def strayToken (s : State) (c : Nat) : Bool := isCellCore c && (regionOf s c).isNone

/-- Firmware hears that a region's sink has received the end token that the job description names (R405). -/
def noteEnd (s : State) (c tag : Nat) : State :=
  match regionOf s c with
  | some r =>
    match (regionAt s r).sink with
    | some q => if q.2.2 = tag ∧ regionCell s c q.1 q.2.1 = some c then modRegion s r fun g => { g with ended := true } else s
    | none => s
  | none => s

/-- TOKEN_ARRIVAL: message `n`, a token at its destination, enters its queue or the matching store, is discarded, or waits (R15 to
R18). A dead destination refuses it with REMOTE (R196). -/
def execTokenArrival (n : Nat) (s : State) : Host.Outcome State Fault Refusal :=
  match arrived s n with
  | none => .next s
  | some m =>
    match m.body with
    | .token t a =>
      let c := m.dst
      if isDead s c then .next (reply (receive s n m) c m { asker := a, cause := some .remote })
      else if strayToken s c then .next (discardEvent (ackToken (receive s n m) m a) c)
      else if isPacket s c t then .next s
      else
        match arriveToken (receive s n m) c t.tag t with
        | .taken s => .next (settleCore (mirrorToken (ackToken (noteEnd s c t.tag) m a) c) c)
        | .discarded s => .next (settleCore (ackToken s m a) c)
        | .waits => .next s
    | _ => .next s

end Sys2Proof.Machine
end

