-- ==== Sys2Proof/Machine/FabricEv.lean ====
section
/-! DEFINITION. The fabric: labels and dynamic hops, kill filters, control pulses, neighbour links and spawn trees (R200, R201, R203 to
R205, R230, R248, R252, R253, R258, R261, R271, R362). -/

namespace Sys2Proof.Machine

open Sys2Proof

/-! ### Messages to a cell's tables -/

/-- A region-wide message goes on along the spanning tree of the region, from the routers of dead cells too (R256). -/
def spreadTree (s : State) (m : Msg) : State :=
  match regionOf s m.dst with
  | some r => (treeChildren s m.dst r).foldl (fun s d => post s m.dst d 4 m.body) s
  | none => s

/-- A control message reaches a cell: it goes on along the tree and acts, and its sender's entry hears of it; a dead cell refuses it. -/
def acceptControl (s : State) (n : Nat) (m : Msg) (a : Asker) (f : State → State) : State :=
  let t := spreadTree (receive s n m) m
  if isDead s m.dst then reply t m.dst m { asker := a, cause := some .remote }
  else settleCore (mirrorToken (reply (f t) m.dst m { asker := a }) m.dst) m.dst

/-- KILL_FILTER_SET (R200). -/
def execKillFilterSet (n : Nat) (s : State) : Host.Outcome State Fault Refusal :=
  match arrived s n with
  | some m =>
    match m.body with
    | .killSet x l e d a => .next (acceptControl s n m a fun s => setKill s m.dst ⟨x, l, e, d⟩)
    | _ => .next s
  | none => .next s

/-- KILL_FILTER_CLEAR (R201). -/
def execKillFilterClear (n : Nat) (s : State) : Host.Outcome State Fault Refusal :=
  match arrived s n with
  | some m =>
    match m.body with
    | .killClear x l a => .next (acceptControl s n m a fun s => clearKill s m.dst x l)
    | _ => .next s
  | none => .next s

/-- CONTROL_PULSE (R205). -/
def execControlPulse (n : Nat) (s : State) : Host.Outcome State Fault Refusal :=
  match arrived s n with
  | some m =>
    match m.body with
    | .pulse ch a => .next (acceptControl s n m a fun s => addPulse s m.dst ch)
    | _ => .next s
  | none => .next s

/-- LINK_VALUE_ARRIVAL: a value enters the input link queue of 8, from which the matrix engine takes A rows while it holds the link
(R203, R204, R216, R261). -/
def execLinkValueArrival (n : Nat) (s : State) : Host.Outcome State Fault Refusal :=
  match arrived s n with
  | some m =>
    match m.body with
    | .link west v =>
      let c := m.dst
      if isDead s c || strayToken s c then .next (receive s n m)
      else if (linkQ (coreOf s c) west).length < 8 then
        let s := modCore (receive s n m) c fun k =>
          if west then { k with linkW := k.linkW ++ [v] } else { k with linkN := k.linkN ++ [v] }
        .next (settleCore (mirrorToken (pullLink 512 s c) c) c)
      else .next s
    | _ => .next s
  | none => .next s

/-! ### Spawn -/

/-- The cells that a place of a spawn rectangle forwards to: east along its first row, and south (R362). -/
def spawnChildren (m : SpawnMsg) : List SpawnMsg :=
  (if m.y = 0 ∧ m.x + 1 < m.w then [{ m with x := m.x + 1 }] else []) ++
  (if m.y + 1 < m.h then [{ m with y := m.y + 1 }] else [])

/-- The offset from a place to its parent. -/
def spawnParent (m : SpawnMsg) : Int × Int := if 0 < m.y then (0, -1) else (-1, 0)

/-- The acknowledgement of a place with all the places behind it (R362): to its parent, or from the origin to the issuer. -/
def ackSpawn (s : State) (c : Nat) (m : SpawnMsg) : State :=
  if m.x = 0 ∧ m.y = 0 then
    match m.asker with
    | .nobody => s
    | a => post s c (answerTo a c) 2 (.answer { asker := a })
  else
    let d := spawnParent m
    match coreOffset s c d.1 d.2 with
    | some p => post s c p 4 (.spawnAck m)
    | none => s

/-- A message enters the spawn queue of its context: the cell forwards it, and acknowledges it at once when it has no children (R230,
R362). -/
def queueSpawn (s : State) (c : Nat) (m : SpawnMsg) : State :=
  let p := nextStamp s c
  let s := modCore p.1 c fun k => { k with spawnQ := k.spawnQ ++ [{ m with stamp := p.2 }] }
  let ks := spawnChildren m
  let s := ks.foldl (fun s q =>
    match coreOffset s c ((q.x : Int) - m.x) ((q.y : Int) - m.y) with
    | some d => post s c d 4 (.spawn q)
    | none => s) s
  if ks.isEmpty then ackSpawn s c m else modCore s c fun k => { k with spawnTrees := k.spawnTrees ++ [⟨m, ks.length⟩] }

/-- Whether the spawn queue of a context has room (R230). -/
def spawnRoom (s : State) (c x : Nat) : Bool := decide (((coreOf s c).spawnQ.filter fun m => m.ctx == x).length < 4)

/-- Whether a context's hold is free (R230). -/
def holdFree (s : State) (c x : Nat) : Bool := !(coreOf s c).spawnHold.any fun m => m.ctx == x

/-- SPAWN_ACCEPT: a spawn message enters its context's queue, or its hold, or waits (R230, R362). -/
def execSpawnAccept (n : Nat) (s : State) : Host.Outcome State Fault Refusal :=
  match arrived s n with
  | some m =>
    match m.body with
    | .spawn q =>
      let c := m.dst
      let t := receive s n m
      if isDead s c then .next (reply t c m { asker := q.asker, cause := some .remote })
      else if holdFree s c q.ctx && spawnRoom s c q.ctx then .next (settleCore (mirrorToken (queueSpawn t c q) c) c)
      else if holdFree s c q.ctx then .next (modCore t c fun k => { k with spawnHold := k.spawnHold ++ [q] })
      else .next s
    | _ => .next s
  | none => .next s

/-- SPAWN_HOLD_RELEASE: the held message of a context enters its queue (R230). -/
def execSpawnHoldRelease (c x : Nat) (s : State) : Host.Outcome State Fault Refusal :=
  match (coreOf s c).spawnHold.find? fun m => m.ctx == x with
  | some m =>
    if coreActs s c && spawnRoom s c x then
      let s := modCore s c fun k => { k with spawnHold := k.spawnHold.filter fun q => q.ctx != x }
      .next (settleCore (mirrorToken (queueSpawn s c m) c) c)
    else .next s
  | none => .next s

/-- SPAWN_ACK: a child's acknowledgement reaches its parent; with the last one the parent acknowledges in turn (R362). -/
def execSpawnAck (n : Nat) (s : State) : Host.Outcome State Fault Refusal :=
  match arrived s n with
  | some m =>
    match m.body with
    | .spawnAck q =>
      let c := m.dst
      let d := spawnParent q
      let at_ (t : SpawnTree) : Bool := t.m.asker == q.asker && (t.m.x : Int) == q.x + d.1 && (t.m.y : Int) == q.y + d.2
      let t := receive s n m
      match (coreOf s c).spawnTrees.find? at_ with
      | some tr =>
        if tr.left ≤ 1 then .next (ackSpawn (modCore t c fun k => { k with spawnTrees := k.spawnTrees.filter fun u => !at_ u }) c tr.m)
        else .next (modCore t c fun k => { k with
          spawnTrees := k.spawnTrees.map fun u => if at_ u then { u with left := u.left - 1 } else u })
      | none => .next t
    | _ => .next s
  | none => .next s

/-! ### Labels -/

/-- Whether an earlier token stands at the same router with the same label, and so keeps this one back (R261). -/
def routeBehind (s : State) (n : Nat) (m : Msg) (label : Nat) (shadow : Bool) : Bool :=
  (s.net.take n).any fun a =>
    a.at_ == m.at_ && (match a.body with | .routed l sh _ _ => l == label && sh == shadow | _ => false)

/-- The region that a token of a static route is about to enter where it stands: it has come to the first router inside (R271, R384). Transit
routers are on no boundary (R252). -/
def arrivesIn (s : State) (m : Msg) (w : Word) : Option Nat :=
  match regionOf s m.at_ with
  | some r => if labelKind w == 1 || !m.leg.isEmpty || regionOf s m.src == some r then none else some r
  | none => none

/-- Whether a region's boundary holds a token of a static route at the router where it stands, the first inside (R271). -/
def heldRoute (s : State) (m : Msg) (w : Word) : Bool :=
  match arrivesIn s m w with
  | some r => boundaryHolds s r m.at_
  | none => false

/-- Crossing into a region: the token counts as sent by the ingress cell, in its colour, on its label there (R272, R384). -/
def crossRegion (s : State) (m : Msg) (d label : Nat) : State × Msg :=
  if sameRegion s d m.dst then
    let m := { m with sender := some (senderOf m) }
    let s := modCell s d fun x =>
      let x := { x with sentRt := Tbl.put x.sentRt label (Tbl.get 0 x.sentRt label + 1) }
      if x.savedPoint then { x with sentNew := x.sentNew + 1 } else { x with sentOld := x.sentOld + 1 }
    (s, { m with src := d, colour := (cellOf s d).colour })
  else (s, { m with src := d, sender := some (senderOf m) })

/-- The input of a router that an output of its neighbour leads to: N, E, S and W lead to S, W, N and E (R247, R252). -/
def inputOf (out : Nat) : Nat := (out % 4 + 2) % 4 + 1 + (if out % 8 < 4 then 0 else 4)

/-- Flits of a message over one physical link: a token is three (R256); the spec gives the other kinds no size, and each counts as one among
the flits that firmware watches (R405; notes/assumptions/16.md). -/
def flitsOf : Body → Nat
  | .token _ _ => 3
  | .routed _ _ _ _ => 3
  | _ => 1

/-- A message crosses a physical link from router `c`: the flits of a token cost energy, and the router counts them (R364, R405). -/
def spendHop (s : State) (c : Nat) (b : Body) : State :=
  let s := match b with
    | .token _ _ => spend s c 6000
    | .routed _ _ _ _ => spend s c 6000
    | _ => s
  modCell s c fun x => { x with flits := x.flits + flitsOf b }

/-- Where a token of a static route goes from a router: the next router, its input there, its channel, its label and the links left (R253). On an
alternate path it follows the links that its head flit carries (R421, R425). -/
def routeHop (s : State) (m : Msg) (w : Word) (label : Nat) (shadow : Bool) : Nat × Nat × Nat × Nat × List Nat :=
  let vc := 6 + bits w 27 1
  match m.leg with
  | o :: os => (physMove m.at_ o, inputOf o, m.vc, label, os)
  | [] =>
    match altWay s m.at_ w shadow with
    | some (o :: os, l) => (physMove m.at_ o, inputOf o, vc, l, os)
    | _ => (linkEnd s m.at_ (bits w 22 4), inputOf (bits w 22 4), vc, bits w 13 9, [])

/-- A token of three flits moves to the next router, once a buffer there has a credit (R253, R256, R257, R364). -/
def forwardToken (s : State) (n : Nat) (m : Msg) (w : Word) (label : Nat) (shadow : Bool) (t : Token) (a : Asker) : State :=
  let h := routeHop s m w label shadow
  if !hasCredit s h.1 h.2.1 h.2.2.1 then s
  else putMsg (spendHop s m.at_ m.body) n { m with
    at_ := h.1
    inp := h.2.1
    since := s.tickNo
    vc := h.2.2.1
    leg := h.2.2.2.2
    body := .routed h.2.2.2.1 shadow t a }

/-- A token is dropped at a router: counted, reported, and refused to its sender (R253). -/
def dropToken (s : State) (n : Nat) (m : Msg) (t : Token) (a : Asker) : State :=
  let c := m.at_
  let s := countRecv (takeMsg s n) m
  reply (discardEvent (consumeSrc s t) c) c m { asker := a, cause := some .remote }

/-- A router forwards, ejects or drops a static-route token by its label (R253). -/
def hopByLabel (s : State) (n : Nat) (m : Msg) (l : Nat) (sh : Bool) (t : Token) (a : Asker) : State :=
  let c := m.at_
  let w := labelWord s c l sh
  if !m.leg.isEmpty then forwardToken s n m w l sh t a
  else if !labelPasses s c w then dropToken s n m t a
  else if labelKind w = 2 then
    let k := if sh then 512 + l else l
    let s := modCell s c fun x => { x with recvRt := Tbl.put x.recvRt k (Tbl.get 0 x.recvRt k + 1) }
    putMsg s n { m with dst := c, body := .token { t with tag := bits w 13 8 } a }
  else forwardToken s n m w l sh t a

/-- LABEL_HOP: a router handles a static-route token by its label (R253); at the first router inside a region it waits while the boundary holds,
and is then counted there (R271, R272). -/
def execLabelHop (n : Nat) (s : State) : Host.Outcome State Fault Refusal :=
  match s.net[n]? with
  | some m =>
    match m.body with
    | .routed l sh t a =>
      let w := labelWord s m.at_ l sh
      if routeBehind s n m l sh || blocked s n m || heldRoute s m w then .next s
      else
        match arrivesIn s m w with
        | some _ =>
          let p := crossRegion s m m.at_ (l + if sh then 512 else 0)
          .next (hopByLabel (putMsg p.1 n p.2) n p.2 l sh t a)
        | none => .next (hopByLabel s n m l sh t a)
    | _ => .next s
  | none => .next s

/-! ### Dynamic hops -/

/-- Whether a core stands on the logical torus. -/
def onTorus (s : State) (c : Nat) : Bool := (logicalOf s c).isSome

/-- The next logical cell of a message in dimension order, the output towards it, and whether the hop crosses a seam (R258). -/
def nextHop (s : State) (m : Msg) : Option (Nat × Nat × Bool) :=
  match logicalOf s m.at_ with
  | none => none
  | some p =>
    let d := deltaOf s m.at_ m.dst
    let step (z : Int) : Int := if z < 0 then -1 else 1
    let dx : Int := if d.1 = 0 then 0 else step d.1
    let dy : Int := if d.1 = 0 ∧ d.2 ≠ 0 then step d.2 else 0
    let seam := (decide (p.1 = 959) && dx == 1) || (decide (p.1 = 0) && dx == -1) ||
      (decide (p.2 = 959) && dy == 1) || (decide (p.2 = 0) && dy == -1)
    let out : Nat := if dx = 1 then 1 else if dx = -1 then 3 else if dy = 1 then 2 else 0
    some (coreAt s (torus p.1 dx) (torus p.2 dy), out, seam)

/-- Whether a message travels without labels. -/
def isDynamic : Body → Bool
  | .routed _ _ _ _ => false
  | _ => true

/-- Path `i` of a peer. -/
def pathOf (p : Peer) (i : Nat) : Path := Tbl.get {} p.paths i

/-- The next usable path after `i` (R439). -/
def nextPath (p : Peer) (i : Nat) : Nat :=
  (((List.range 16).map fun k => (i + k) % 16).find? fun k => (pathOf p k).usable).getD i

/-- Whether an operation toward peer `h` is still in flight on path `i`: it, or the answer to it, travels (R439). -/
def inFlight (s : State) (h i : Nat) : Bool :=
  s.net.any fun m => (m.dst == peerDst h && m.path == some i) || (m.src == peerDst h && isAnswer m.body)

/-- A ROD connection whose path is unusable moves to the next usable path once every packet on the old one is acknowledged (R439). -/
def moveRod (s : State) (h : Nat) (p : Peer) : Peer :=
  if p.mode == .rod && !(pathOf p p.path).usable && !inFlight s h p.path then { p with path := nextPath p p.path } else p

/-- The path of a peer on which an operation leaves (R333, R439): a ROD connection keeps its own, any other takes the next usable path that
its mask allows after the path `last` that the port used last; none while there is no such path. -/
def leavePath (p : Peer) (last mask : Nat) : Option Nat :=
  if p.mode = .rod then (if (pathOf p p.path).usable then some p.path else none)
  else ((List.range 16).map fun i => (last + 1 + i) % 16).find? fun i => mask / 2 ^ i % 2 == 1 && (pathOf p i).usable

/-- The entropy value of path `i` toward a peer (R439). -/
def entropyOf (p : Peer) (i : Nat) : Nat := p.evbase / 16 % 4096 * 16 + i % 16

/-- The paths that an operation may take (R333): those of the PMASK of its collective operation, where it belongs to one. -/
def pathMask (m : Msg) : Nat :=
  match m.body with
  | .mem r => r.pmask
  | _ => 0xFFFF

/-- Packets in flight on the PDC of a peer handle (R435). -/
def pdcLoad (s : State) (p : Peer) : Nat :=
  (s.net.filter fun m =>
    let q : Peer := Tbl.get {} s.peers (m.dst - peerDst 0)
    decide (hostDst < m.dst) && m.at_ == m.dst && q.port == p.port && q.pdc == p.pdc).length

/-- The packets toward peer `h` that are in flight on a path that has become unusable are sent again on a usable one (R440); a ROD PDC moves only
after they have been acknowledged (R439). -/
def retransmit (s : State) (h : Nat) : State :=
  let p : Peer := Tbl.get {} s.peers h
  if p.mode = .rod then s
  else { s with net := s.net.map fun m =>
    match m.path with
    | some i =>
      if m.dst = peerDst h ∧ m.at_ = m.dst ∧ (pathOf p i).usable = false then
        (match leavePath p i (pathMask m) with
         | some j => { m with path := some j, entropy := entropyOf p j }
         | none => m)
      else m
    | none => m }

/-- An operation leaves the wafer by its peer's port, or waits for a usable path, or for room among the 1,024 packets of its PDC (R333, R435,
R439). -/
def leaveWafer (s : State) (n : Nat) (m : Msg) : State :=
  let h := m.dst - peerDst 0
  let p := moveRod s h (Tbl.get {} s.peers h)
  let last := (portAt s p.port).lastPath
  match (if 1024 ≤ pdcLoad s p then none else leavePath p last (pathMask m)) with
  | none => s
  | some i =>
    let s := if p.known then { s with peers := Tbl.put s.peers h p } else s
    let s := if p.mode = .rod then s else modPort s p.port fun x => { x with lastPath := i }
    putMsg s n { m with at_ := m.dst, inp := 10, since := s.tickNo, path := some i, entropy := entropyOf p i }

/-! ### Management paths -/

/-- The router that a management core's own link joins: that of position (15, 15) of its bay, or of a fixed wafer position of its side (R453). -/
def attachRouter (m : Nat) : Nat :=
  if isBayCore m then bayOf m * 1024 + 15 * 32 + 15
  else
    match m - sillCore 0 with
    | 0 => waferCell 512 0
    | 1 => waferCell 1023 512
    | 2 => waferCell 512 1023
    | _ => waferCell 0 512

/-- Whether a management core's attachment router or link has failed (R453). -/
def attachDown (s : State) (m : Nat) : Bool := isBayCore m && (bayAt s (bayOf m)).attachDown

/-- The next mesh output from a router towards another, x first (R453). -/
def meshOut (a b : Nat) : Option Nat :=
  if waferX a < waferX b then some 1 else if waferX b < waferX a then some 3
  else if waferY a < waferY b then some 2 else if waferY b < waferY a then some 0 else none

/-- Whether a message travels between a management core and a cell or another management core (R453). -/
def byManagement (m : Msg) : Bool :=
  (isMgmtCore m.src || isMgmtCore m.dst) && (isCellCore m.dst || isMgmtCore m.dst) && (isCellCore m.at_ || isMgmtCore m.at_)

/-- The label of the 32 reserved ones on which firmware's table sends a message of VC4 or VC5 out of output `out`: 0 to 15 neighbour-link traffic,
16 to 31 management traffic, each at its start and in transit (R252, R256; notes/assumptions/52.md). -/
def reservedLabel (vc out : Nat) (transit : Bool) : Nat :=
  out % 8 + (if transit then 8 else 0) + (if vc = 5 then 0 else 16)

/-- The entry of a reserved label: TRANSIT, out of the output that its number names, to the label of the same traffic in transit (R252;
notes/assumptions/52.md). -/
def reservedEntry (l : Nat) : Word := wordOf (2 ^ 31 + 2 ^ 29 + l % 8 * 2 ^ 22 + (l / 16 * 16 + 8 + l % 8) * 2 ^ 13)

/-- The output by which a message leaves a router: on VC4 and VC5 that of its reserved label, else the link itself (R252, R256). -/
def outOf (vc link : Nat) (transit : Bool) : Nat :=
  if vc = 4 ∨ vc = 5 then bits (reservedEntry (reservedLabel vc link transit)) 22 4 else link

/-- The next step of a dynamic message: the router or core it comes to, its input there, its channel, and the links left of its hop. -/
structure Hop where
  goal : Nat
  inp : Nat
  vc : Nat
  leg : List Nat
  deriving DecidableEq, Repr

/-- The next physical link of a dynamic message (R258, R425, R453): the next of the hop under way; else on a management path the attachment link or
the next mesh link, and between cells of the torus the first link of the next logical hop, over the seam on the upper channel of its pair. None
where a bay's attachment has failed. -/
def nextLink (s : State) (m : Msg) : Option Hop :=
  match m.leg with
  | o :: os =>
    let o := outOf m.vc o true
    some ⟨physMove m.at_ o, inputOf o, m.vc, os⟩
  | [] =>
    if byManagement m then
      let goal := if isMgmtCore m.dst then attachRouter m.dst else m.dst
      if isMgmtCore m.at_ then (if attachDown s m.at_ then none else some ⟨attachRouter m.at_, 9, m.vc, []⟩)
      else
        match meshOut m.at_ goal with
        | some l =>
          let o := outOf m.vc l (m.inp != 9 && m.inp != 0)
          some ⟨physMove m.at_ o, inputOf o, m.vc, []⟩
        | none => if attachDown s m.dst then none else some ⟨m.dst, 9, m.vc, []⟩
    else
      (nextHop s m).map fun h =>
        let vc := if h.2.2 && decide (m.vc < 4) && decide (m.vc % 2 = 0) then m.vc + 1 else m.vc
        match hopLinks s m.at_ h.2.1 with
        | l :: ls => let o := outOf vc l false; ⟨linkEnd s m.at_ o, inputOf o, vc, ls⟩
        | [] => ⟨h.1, inputOf h.2.1, vc, []⟩

/-- Whether a dynamic message travels from router to router: between cells of the torus, or on a management path. The loft ring passes none (R284),
and between a core and the host or a peer the bridges and optical ports stand (notes/assumptions/52.md). -/
def byRouters (s : State) (m : Msg) : Bool :=
  decide (m.vc < 8) && (!m.leg.isEmpty || byManagement m || (onTorus s m.at_ && onTorus s m.dst))

/-- DYNAMIC_HOP: a dynamic message crosses one physical link, once a buffer behind it has a credit (R257, R258, R453), leaves by an optical port,
or takes the loft ring or a bridge in one step. -/
def execDynamicHop (n : Nat) (s : State) : Host.Outcome State Fault Refusal :=
  match s.net[n]? with
  | some m =>
    if m.at_ = m.dst ∨ m.wait ≠ 0 ∨ isDynamic m.body = false then .next s
    else if blocked s n m || heldInside s m then .next s
    else if byRouters s m then
      match nextLink s m with
      | some h =>
        if hasCredit s h.goal h.inp h.vc then
          .next (putMsg (spendHop s m.at_ m.body) n { m with at_ := h.goal, inp := h.inp, since := s.tickNo, vc := h.vc, leg := h.leg })
        else .next s
      | none => .next s
    else if hostDst < m.dst then .next (leaveWafer s n m)
    else .next (putMsg s n { m with at_ := m.dst, inp := 10, since := s.tickNo })
  | none => .next s

end Sys2Proof.Machine
end

