-- ==== Sys2Proof/Machine/Region.lean ====
section
/-! DEFINITION. Regions as firmware loads them: window checks, label chains, the content of a mapping, placement (R9, R13, R244 to
R255, R268, R280 to R286, R290, R320, R329, R348 to R350, R363). -/

namespace Sys2Proof.Machine

open Sys2Proof

/-! ### Window images -/

/-- End of a core's loft for windows (R286, R320). -/
def loftEnd (s : State) (c : Nat) : Nat := if isCollHome s c then 0x1B7800 else 0x1C0000

/-- Whether `len` bytes from an owner's address stay where a window may reach (R286). -/
def spanOk (s : State) (c : Nat) (loft : Bool) (base len : Nat) : Bool :=
  decide (base + len ≤ if loft then loftEnd s c else progEnd s c)

/-- End, from BASE, of what member `m` of `n` of a SPREAD window of `limit` bytes holds (R287). -/
def memberEnd (g n limit m : Nat) : Nat :=
  if limit = 0 then 0
  else
    let last := (limit - 1) / g
    if last < m then 0
    else if last % n = m then last / n * g + (limit - 1) % g + 1
    else (last - (last + n - m) % n) / n * g + g

/-- Whether a CELL window's owner, and what RING asks of it, are right (R286). -/
def cellWinOk (s : State) (c : Nat) (w : Win) : Bool :=
  match coreOffset s c (signed (bits w.param 0 11) 11) (signed (bits w.param 11 11) 11) with
  | some d =>
    (regionOf s c).isSome && sameRegion s c d && spanOk s d (bit w.w0 23) w.base.toNat (bits w.w2 0 28) &&
    (!bit w.w0 22 || (bit w.w0 23 && bit w.w0 25 && decide (bits w.w0 26 2 < 2) && bayOf d == bayOf c))
  | none => false

/-- Whether a SPREAD window's rectangle lies in the region, and each member's span is right (R286, R287). -/
def spreadWinOk (s : State) (c : Nat) (w : Win) : Bool :=
  let g := 2 ^ bits w.param 20 4
  let sw := bits w.w0 0 10 + 1
  let n := sw * (bits w.w0 10 10 + 1)
  decide (5 ≤ bits w.param 20 4) && decide (bits w.param 20 4 ≤ 12) &&
  (List.range n).all fun m =>
    match regionCell s c (bits w.param 0 10 + m % sw) (bits w.param 10 10 + m / sw) with
    | some d => spanOk s d (bit w.w0 23) w.base.toNat (memberEnd g n (bits w.w2 0 28) m)
    | none => false

/-- Whether configuration load and WINSET accept a window image on core `c` (R286, R320, R408, R429). -/
def winImageOk (s : State) (c : Nat) (w : Win) : Bool :=
  let mode := bits w.w0 26 2
  let limit := bits w.w2 0 28
  let plain := bits w.w0 0 24 == 0
  bits w.w0 20 2 == 0 && bits w.w2 28 4 == 0 && bits w.base 0 5 == 0 && (!bit w.w0 24 || mode == 3) &&
  match winKind w with
  | .sram => plain && w.param == 0 && spanOk s c false w.base.toNat limit
  | .loft => plain && w.param == 0 && spanOk s c true w.base.toNat limit
  | .cell => bits w.w0 0 20 == 0 && bits w.param 22 10 == 0 && cellWinOk s c w
  | .spread => !bit w.w0 22 && bits w.param 24 8 == 0 && spreadWinOk s c w
  | .host => bits w.w0 20 4 == 0 && decide (mode < 2)
  | .peer => bits w.w0 20 4 == 0 && mode == 0 && bits w.param 16 16 == 0
  | .mgmt => plain && mode == 0 && !bit w.w0 25 && w.param == 0 && isMgmtCore c
  | .port => plain && mode == 0 && !bit w.w0 25 && w.param == 0 && isMgmtCore c && !isBayCore c && decide (limit ≤ 0x5000)

/-- A window entry from its four words (R285). -/
def winOfWords (ws : List Word) : Win :=
  { w0 := (ws[0]?).getD 0, base := (ws[1]?).getD 0, w2 := (ws[2]?).getD 0, param := (ws[3]?).getD 0 }

/-! ### Label chains -/

/-- Routers along a list of links, each with its output and whether it starts the logical hop. -/
def linkSteps : Nat → Bool → List Nat → List (Nat × Nat × Bool)
  | _, _, [] => []
  | c, first, o :: os => (c, o, first) :: linkSteps (physMove c o) false os

/-- The direction of the next logical hop in dimension order (R258). -/
def nextDir (dx dy : Int) : Option Nat :=
  if 0 < dx then some 1 else if dx < 0 then some 3 else if 0 < dy then some 2 else if dy < 0 then some 0 else none

/-- Routers of a route over (dx, dy), its destination left out, each with its logical link (R254, R255). -/
def routeSteps : Nat → State → Nat → Int → Int → List ((Nat × Nat × Bool) × Nat)
  | 0, _, _, _, _ => []
  | n + 1, s, c, dx, dy =>
    match nextDir dx dy with
    | none => []
    | some d =>
      let o := dirOffset d
      ((linkSteps c true (hopLinks s c d)).map fun q => (q, 4 * c + d)) ++
        routeSteps n s ((coreOffset s c o.1 o.2).getD c) (dx - o.1) (dy - o.2)

/-- Labels of a router, in the pool or the shadow bank (R252, R329). -/
def labelsOf (x : Cell) (shadow : Bool) : Tbl Word :=
  if shadow then (match x.shadow with | some h => h.labels | none => []) else x.labels

/-- Writes a label. -/
def putLabel (s : State) (c : Nat) (shadow : Bool) (n : Nat) (w : Word) : State :=
  modCell s c fun x =>
    if shadow then
      let h : Shadow := x.shadow.getD {}
      { x with shadow := some { h with labels := Tbl.put h.labels n w } }
    else { x with labels := Tbl.put x.labels n w }

/-- Logical links that pass through a router in transit, each direction for itself (R255). -/
def transitLinks (s : State) (c : Nat) : Nat :=
  (s.cells.map fun p =>
    if (activeBank p.2).isEmpty then 0
    else ([0, 1, 2, 3].filter fun d => (linkSteps p.1 true (hopLinks s p.1 d)).any fun q => q.1 == c && !q.2.2).length).sum

/-- Static routes that pass logical link `link`, of every region (R255). -/
def linkRoutes (s : State) (link : Nat) : Nat := (s.regions.map fun p => (p.2.routes.filter fun q => q.1 == link).length).sum

/-- The logical links with transit routers that a route passes. -/
def transitLinksOf (steps : List ((Nat × Nat × Bool) × Nat)) : List Nat := ((steps.filter fun q => !q.1.2.2).map fun q => q.2).eraseDups

/-- A region's own routes are counted anew; those of the fabric manager's links and of shadow banks stay (R255). -/
def clearRoutes (s : State) (r : Nat) : State := modRegion s r fun g => { g with routes := g.routes.filter fun q => q.2 }

/-- Whether a router has a label left of the kind of `w`: 64 TRANSIT labels for logical link `link`, and BUDGET others (R255). -/
def labelBudget (s : State) (c link : Nat) (w : Word) : Bool :=
  let x := cellOf s c
  let ls := x.labels.filter fun p => decide (32 ≤ p.1) && bit p.2 31
  if labelKind w = 1 then
    decide ((ls.filter fun p => labelKind p.2 == 1 && (x.transits.any fun q => q.1 == p.1 && q.2 == link)).length < 64)
  else decide ((ls.filter fun p => labelKind p.2 != 1).length < 480 - 64 * transitLinks s c)

/-- Notes the logical link that a TRANSIT label serves; labels of a shadow bank count from 512 (R255, R425). -/
def noteTransit (s : State) (c link n : Nat) (w : Word) : State :=
  if labelKind w = 1 then modCell s c fun x => { x with transits := Tbl.put x.transits n link } else s

/-- The label of a router that does what `w` says: one it has already, else the lowest free one (R252, R254); no route passes a RETIRED bay
(R444). -/
def takeLabel (s : State) (c link : Nat) (shadow : Bool) (w : Word) : Option (State × Nat) :=
  let lo := if shadow then 0 else 32
  let n := if shadow then 64 else 480
  let ls := labelsOf (cellOf s c) shadow
  if (bayAt s (bayOf c)).retired then none else
  match ls.find? fun p => p.2 == w && decide (lo ≤ p.1) with
  | some p => some (s, p.1)
  | none =>
    if !shadow && !labelBudget s c link w then none
    else
      match (List.range n).find? fun k => !bit (Tbl.get 0 ls (lo + k)) 31 with
      | some k =>
        let s := putLabel s c shadow (lo + k) w
        some (noteTransit s c link (lo + k + if shadow then 512 else 0) w, lo + k)
      | none => none

/-- A label word of kind FORWARD or TRANSIT on VC6 (R252). -/
def hopLabel (start xr : Bool) (out next region : Nat) : Word :=
  wordOf (2 ^ 31 + (if start then 0 else 2 ^ 29) + (if xr then 2 ^ 28 else 0) + out * 2 ^ 22 + next * 2 ^ 13 + region)

/-- An EJECT label (R252). -/
def ejectLabel (xr : Bool) (tag region : Nat) : Word :=
  wordOf (2 ^ 31 + 2 ^ 30 + (if xr then 2 ^ 28 else 0) + tag % 256 * 2 ^ 13 + region)

/-- Takes the labels of a route from its end backward; the result is the label at its first router (R245, R254). -/
def takeChain (shadow xr : Bool) (region : Nat) : List ((Nat × Nat × Bool) × Nat) → State → Nat → Option (State × Nat)
  | [], s, next => some (s, next)
  | p :: ps, s, next =>
    match takeLabel s p.1.1 p.2 shadow (hopLabel p.1.2.2 xr p.1.2.1 next region) with
    | some (s, n) => takeChain shadow xr region ps s n
    | none => none

/-- Allocates a static route from `src` to tag `tag` of the core at offset (dx, dy): the state and the first label (R245, R254). A logical link
with transit routers carries at most 64 (R255). -/
def takeRoute (s : State) (src : Nat) (dx dy : Int) (tag region : Nat) (shadow xr : Bool) : Option (State × Nat) :=
  match (if dx = 0 ∧ dy = 0 then some src else coreOffset s src dx dy) with
  | none => none
  | some dst =>
    let steps := routeSteps 2000 s src dx dy
    let links := transitLinksOf steps
    if links.any fun l => decide (64 ≤ linkRoutes s l) then none
    else
      match takeLabel s dst 0 shadow (ejectLabel xr tag region) with
      | none => none
      | some (s, n) =>
        (takeChain shadow xr region steps.reverse s n).map fun q =>
          (if links.isEmpty then q.1 else modRegion q.1 region fun g => { g with routes := g.routes ++ links.map fun l => (l, xr) }, q.2)

/-- A channel entry (R195). -/
def chanWord (label port : Nat) : Word := wordOf (2 ^ 31 + port % 4 * 2 ^ 9 + label)

/-- Allocates the routes of one cell's channels (R245); with them the channel entries. The routes of a shadow bank lead to the homes of other
regions (R322, R329; notes/assumptions/77.md). -/
def takeChans (s : State) (c region : Nat) (shadow : Bool) : List ChanReloc → Option (State × List (Nat × Nat × Word))
  | [] => some (s, [])
  | r :: rs =>
    match takeRoute s c r.dx r.dy r.tag region shadow shadow with
    | none => none
    | some (s, n) => (takeChans s c region shadow rs).map fun q => (q.1, (r.ctx, r.ch, chanWord n r.port) :: q.2)

/-! ### The cells of a region -/

/-- Cells of a region with their places (x, y). -/
def placedCells (s : State) (r : Nat) : List (Nat × Nat × Nat) :=
  let w := (regionAt s r).w
  ((regionCells s r).zip (List.range (regionCells s r).length)).map fun p => (p.1, p.2 % w, p.2 / w)

/-- The cell section of a mapping that covers (x, y) (R240). -/
def sectionAt (imgs : List CellImage) (x y : Nat) : Option CellImage :=
  imgs.find? fun i => decide (i.x ≤ x) && decide (x < i.x + i.w) && decide (i.y ≤ y) && decide (y < i.y + i.h)

/-- The sections of staged mapping `m`. -/
def mappingOf (staged : List (Nat × List CellImage)) (m : Nat) : List CellImage :=
  match staged.find? fun p => p.1 == m with | some p => p.2 | none => []

/-- A context at load: ctx 4 has its two fixed windows (R9, R182). -/
def freshCtx4 (limit : Nat) : Context :=
  { wins := [(0, { w0 := 0x80000000, w2 := wordOf limit }), (1, { w0 := 0x90000000, w2 := 0x1C0000 })] }

/-- A cell's shadow bank when its region changes: the labels of other regions' shadow routes stay (R252, R329). -/
def keptLabels (x : Cell) : Option Shadow := x.shadow.map fun h => { labels := h.labels }

/-- A cell enters a region: its saved part, counters and slots start afresh (R9, R131, R249). -/
def enterRegion (s : State) (r pool : Nat) (p : Nat × Nat × Nat) : State :=
  let g := regionAt s r
  modCell s p.1 fun x => { x with
    core := {}
    pool := pool
    shadow := keptLabels x
    slot := none
    region := some r
    regpos := wordOf (p.2.1 + p.2.2 * 2 ^ 16)
    regdim := wordOf (g.w + g.h * 2 ^ 16)
    sentOld := 0
    recvOld := 0
    sentNew := 0
    recvNew := 0
    sentRt := []
    recvRt := []
    sentDyn := 0
    recvDyn := 0
    savedPoint := false
    peg := false
    slotA := none
    slotB := none
    lastB := true
    undo := []
    undoMark := 0
    cutAsked := false }

/-- Ranges of keys that a window of core `c` spans (R287): its own memory, the owner's, or that of the members of a rectangle. -/
def winSpans (s : State) (c : Nat) (w : Win) : List (Nat × Nat) :=
  let limit := bits w.w2 0 28
  let from_ (d : Nat) (loft : Bool) (n : Nat) : Nat × Nat :=
    let k := if loft then loftKey d w.base.toNat else sramKey d w.base.toNat
    (k, k + n)
  match winKind w with
  | .sram => [from_ c false limit]
  | .loft => [from_ c true limit]
  | .cell =>
    match coreOffset s c (signed (bits w.param 0 11) 11) (signed (bits w.param 11 11) 11) with
    | some d => [from_ d (bit w.w0 23) limit]
    | none => []
  | .spread =>
    let sw := bits w.w0 0 10 + 1
    let n := sw * (bits w.w0 10 10 + 1)
    (List.range n).filterMap fun m =>
      (regionCell s c (bits w.param 0 10 + m % sw) (bits w.param 10 10 + m / sw)).map fun d =>
        from_ d (bit w.w0 23) (memberEnd (2 ^ bits w.param 20 4) n limit m)
  | _ => []

/-- Words that a PRESENCE window spans, as ranges of keys (R290). -/
def presenceSpans (s : State) (c : Nat) (w : Win) : List (Nat × Nat) :=
  if bit w.w0 31 && winMode w == .presence then winSpans s c w else []

/-- Marks empty what the PRESENCE windows of a core span, in the SRAMs or in the lofts (R290). -/
def emptySpans (s : State) (c : Nat) (loft : Bool) (ws : List (Nat × Nat × List Word)) : State :=
  let spans := (ws.flatMap fun q => presenceSpans s c (winOfWords q.2.2)).filter fun p => keyIsLoft p.1 == loft
  { s with full := s.full.filter fun k => !spans.any fun p => decide (p.1 ≤ k) && decide (k < p.2) }

/-- Writes content records: each word a record writes becomes full (R290). -/
def writeContent (s : State) (key : Nat → Nat) (rs : List (Nat × List Word)) : State :=
  rs.foldl (fun s r =>
    let k := key r.1
    let s := rawWords s k r.2
    { s with
      full := (List.range r.2.length).foldl (fun l i => keyInsert l (wordKey (k + 4 * i))) s.full
      bad := s.bad.filter fun b => !(decide (k ≤ b) && decide (b < k + 4 * r.2.length)) }) s

/-- A content byte laid beside what other records write there; none when they differ (R348). -/
def mergeByte (acc : Option (Tbl Byte)) (a : Nat) (b : Byte) : Option (Tbl Byte) :=
  match acc with
  | none => none
  | some t =>
    match t.find? fun p => p.1 == a with
    | some p => if p.2 = b then some t else none
    | none => some (Tbl.put t a b)

/-- The bytes of content records. -/
def recordBytes (r : Nat × List Word) : List (Nat × Byte) :=
  let bs := r.2.flatMap fun w => leBytes 4 w.toNat
  ((List.range bs.length).zip bs).map fun p => (r.1 + p.1, p.2)

/-- Whether the loft content of all mappings of one cell agrees and lies where it may (R242, R320, R348, R350). -/
def loftContentOk (secs : List CellImage) (several home : Bool) : Bool :=
  let bs := (secs.flatMap fun i => i.loft).flatMap recordBytes
  (bs.foldl (fun acc p => mergeByte acc p.1 p.2) (some [])).isSome &&
  bs.all fun p => decide (p.1 < if several then 0x180000 else if home then 0x1B7800 else 0x1C0000)

/-- Whether a job's image may write a binding (R13, R242, R245, R349). -/
def imageBindOk (firmware : Bool) (b : Nat × Word) : Bool :=
  !bindRejected b.2 && decide (b.1 < 256) && (firmware || (bClass b.2 != 0 && !(decide (0xD0 ≤ b.1) && decide (b.1 ≤ 0xDF))))

/-- Whether the shadow bindings of a cell stand on their tags and name one user context (R329). -/
def shadowOk (i : CellImage) : Bool :=
  i.shadowBinds.all fun b => decide (0xE0 ≤ b.1) && decide (b.1 ≤ 0xEF) && !bindRejected b.2 && decide (bCtx b.2 < 4) &&
    (i.shadowBinds.all fun d => bCtx d.2 == bCtx b.2)

/-- A binding word: valid, with class, context and header, of arity 1 (R12). -/
def sysBind (cls ctx hdr : Nat) : Word := wordOf (2 ^ 31 + cls * 2 ^ 28 + ctx * 2 ^ 23 + hdr % 65536 / 16 * 16)

/-- The notice bindings of the contexts that a configuration uses on a cell (R349). -/
def noticeBinds (notices : List (Nat × Nat × Nat)) (uses : Nat → Bool) : List (Nat × Word) :=
  (notices.filter fun n => decide (n.1 < 4) && uses n.1).flatMap fun n =>
    [(0xD8 + n.1, sysBind 0 n.1 n.2.1), (0xDC + n.1, sysBind 0 n.1 n.2.2)]

/-! ### Voltage and clocks -/

/-- VMIN in mV of a frequency in MHz (R370). -/
def vmin (f : Nat) : Nat :=
  if f ≤ 400 then 550 else if f ≤ 600 then 600 else if f ≤ 800 then 660 else if f ≤ 900 then 700 else if f ≤ 1000 then 740
  else if f ≤ 1100 then 780 else if f ≤ 1200 then 820 else if f ≤ 1350 then 880 else 950

/-- Frequency of a spine. -/
def spineMhz (s : State) (n : Nat) : Nat := Tbl.get 0 s.spines n

/-- Whether a bay's voltage suits a frequency now (R278, R370). -/
def spineAllowed (b : Bay) (mhz : Nat) : Bool := b.ready && decide (vmin mhz ≤ b.mv)

/-- CLKSEL SUB 0 on a cell: a spine that its bay's voltage does not allow leaves the spine unchanged (R275, R278, R370). -/
def selectSpine (s : State) (c n : Nat) : State :=
  if spineAllowed (bayAt s (bayOf c)) (spineMhz s n) then modCell s c fun x => { x with spine := n } else s

/-! ### One cell's part of a mapping -/

/-- What a mapping gives one cell, its routes allocated: what a configuration cache entry holds (R350). -/
structure CellConfig where
  sram : List (Nat × List Word)
  binds : List (Nat × Word)
  wins : List (Nat × Nat × List Word)
  chans : List (Nat × Nat × Word)
  spine : Nat
  deriving DecidableEq, Repr

/-- Allocates the routes of a cell's section (R245). -/
def resolveCell (s : State) (c r : Nat) (i : CellImage) : Option (State × CellConfig) :=
  (takeChans s c r false i.chans).map fun q =>
    (q.1, { sram := i.sram, binds := i.binds, wins := i.wins, chans := q.2, spine := i.spine % 8 })

/-- The words of a configuration cache entry: content records, bindings, windows, channels, each list behind its length, and the spine
(R350; notes/assumptions/78.md). -/
def configWords (e : CellConfig) : List Word :=
  List.flatten [
    [wordOf e.sram.length], e.sram.flatMap fun r => [wordOf r.1, wordOf r.2.length] ++ r.2,
    [wordOf e.binds.length], e.binds.flatMap fun b => [wordOf b.1, b.2],
    [wordOf e.wins.length], e.wins.flatMap fun w => [wordOf (16 * w.1 + w.2.1)] ++ (List.range 4).map fun i => (w.2.2[i]?).getD 0,
    [wordOf e.chans.length], e.chans.flatMap fun q => [wordOf (64 * q.1 + q.2.1), q.2.2],
    [wordOf e.spine]]

/-- Words of a cache entry: 0x1_2800 bytes (R350). -/
def cacheSize : Nat := 0x12800 / 4

/-- The loft key of a cell's cache entry for a mapping (R350). -/
def cacheKey (c m : Nat) : Nat := loftKey c (0x180000 + 0x12800 * m)

/-- Reads `n` items, one after the other. -/
def readItems {α : Type} (f : State → Nat → Option (α × Nat)) : Nat → State → Nat → Option (List α × Nat)
  | 0, _, k => some ([], k)
  | n + 1, s, k =>
    match f s k with
    | none => none
    | some (a, k) => (readItems f n s k).map fun q => (a :: q.1, q.2)

/-- Reads a list behind its length, which no more than fills an entry. -/
def readList {α : Type} (f : State → Nat → Option (α × Nat)) (s : State) (k : Nat) : Option (List α × Nat) :=
  let n := (readWord s k).toNat
  if cacheSize < n then none else readItems f n s (k + 4)

/-- A content record of a cache entry. -/
def readRecord (s : State) (k : Nat) : Option ((Nat × List Word) × Nat) :=
  let n := (readWord s (k + 4)).toNat
  if cacheSize < n then none else some (((readWord s k).toNat, readWords s (k + 8) n), k + 8 + 4 * n)

/-- A numbered word of a cache entry. -/
def readPair (s : State) (k : Nat) : Option ((Nat × Word) × Nat) := some (((readWord s k).toNat, readWord s (k + 4)), k + 8)

/-- A window of a cache entry. -/
def readWindow (s : State) (k : Nat) : Option ((Nat × Nat × List Word) × Nat) :=
  let n := (readWord s k).toNat
  some ((n / 16, n % 16, readWords s (k + 4) 4), k + 20)

/-- A cell reads its own cache entry (R350); none where its words are no entry. -/
def readCache (s : State) (c m : Nat) : Option CellConfig :=
  (readList readRecord s (cacheKey c m)).bind fun a =>
  (readList readPair s a.2).bind fun b =>
  (readList readWindow s b.2).bind fun w =>
  (readList readPair s w.2).map fun q =>
    { sram := a.1
      binds := b.1
      wins := w.1
      chans := q.1.map fun e => (e.1 / 64, e.1 % 64, e.2)
      spine := (readWord s q.2).toNat % 8 }

/-- Writes a cell's cache entry; none when it exceeds the entry (R348, R350). -/
def writeCache (s : State) (c m : Nat) (e : CellConfig) : Option State :=
  let ws := configWords e
  if cacheSize < ws.length then none else some (rawWords s (cacheKey c m) ws)

/-- Folds a step that may fail. -/
def foldTry {α β : Type} (f : α → β → Option α) : α → List β → Option α
  | a, [] => some a
  | a, b :: bs => match f a b with | some a => foldTry f a bs | none => none

/-! ### Loading a mapping -/

/-- Whether a channel entry is one end of a link between two regions, which a mapping leaves as it is (R249, R268). -/
def linkedChan (s : State) (c x ch : Nat) : Bool := s.regions.any fun p => p.2.links.contains (c, x, ch)

/-- Whether a core is the root of a launch queue, whose launch tag every mapping keeps (R349, R354). -/
def isRoot (s : State) (c : Nat) : Bool :=
  s.jobs.any fun p => match p.2 with | some j => j.queues.any fun q => q.root == c | none => false

/-- The windows of a cell, each checked (R286). -/
def loadWins (s : State) (c : Nat) : List (Nat × Nat × List Word) → Option State
  | [] => some s
  | q :: qs =>
    let w := winOfWords q.2.2
    if winImageOk s c w && decide (q.1 < 4) && decide (q.2.1 < 16) then
      loadWins (modCtx s c q.1 fun v => { v with wins := Tbl.put v.wins q.2.1 w }) c qs
    else none

/-- Writes a cell's channel entries, but for the ends of links (R249, R268). -/
def installChans (s : State) (c : Nat) (qs : List (Nat × Nat × Word)) : State :=
  qs.foldl (fun s q =>
    if linkedChan s c q.1 q.2.1 then s else modCtx s c q.1 fun v => { v with chans := Tbl.put v.chans q.2.1 q.2.2 }) s

/-- Whether a mapping uses a context on a cell: it binds a tag to it, or gives it a window or a channel (R349). -/
def usesCtx (e : CellConfig) (x : Nat) : Bool :=
  e.binds.any (fun b => bCtx b.2 == x) || e.wins.any (fun w => w.1 == x) || e.chans.any fun q => q.1 == x

/-- Installs a cell's part of a mapping (R249, R290, R348, R349): content, the runtime image's too, bindings, windows, channels and spine; none
when it may not be loaded. -/
def installCell (g : Region) (s : State) (p : Nat × CellConfig) : Option State :=
  let c := p.1
  let e := p.2
  let content := g.runtime ++ e.sram
  if e.binds.all (imageBindOk g.firmware) && (content.flatMap recordBytes).all fun p => decide (p.1 < progEnd s c) then
    let s := selectSpine (writeContent s (sramKey c) content) c e.spine
    let s := modCore s c fun k => { k with
      bindings := (e.binds ++ noticeBinds g.notices (usesCtx e)).foldl (fun t b => Tbl.put t b.1 (bindMask b.2)) k.bindings }
    (loadWins s c e.wins).map fun s => installChans s c e.chans
  else none

/-- The sections of a mapping over the cells of a region. -/
def sectionsOf (s : State) (r : Nat) (imgs : List CellImage) : List (Nat × CellImage) :=
  (placedCells s r).filterMap fun p => (sectionAt imgs p.2.1 p.2.2).map fun i => (p.1, i)

/-- Whether a tag of a root keeps its binding at a change of mapping: the launch tag, and the notice tags of the context that it starts (R349,
R354). -/
def rootTag (k : Core) (t : Nat) : Bool :=
  t == 0xD0 || (bValid (bindingOf k 0xD0) && (t == 0xD8 + bCtx (bindingOf k 0xD0) || t == 0xDC + bCtx (bindingOf k 0xD0)))

/-- Configuration entries that a mapping replaces (R249): bindings, windows of the user contexts, and channels, but for the ends of links and
what a root keeps. -/
def clearMapping (s : State) (c : Nat) : State :=
  let root := isRoot s c
  modCore s c fun k => { k with
    bindings := k.bindings.filter fun b => root && rootTag k b.1
    ctxs := k.ctxs.map fun p =>
      (p.1, if p.1 < 4 then { p.2 with wins := [], chans := p.2.chans.filter fun q => linkedChan s c p.1 q.1 } else p.2) }

/-- The cells of a region with what one of its staged mappings gives them: read from their caches, or with one mapping staged from what the
driver holds (R231, R350). -/
def mappingConfigs (s : State) (r m : Nat) : Option (State × List (Nat × CellConfig)) :=
  let g := regionAt s r
  if 1 < g.staged.length then
    foldTry (fun (a : State × List (Nat × CellConfig)) c => (readCache s c m).map fun e => (a.1, a.2 ++ [(c, e)])) (s, []) (regionCells s r)
  else
    foldTry (fun (a : State × List (Nat × CellConfig)) (p : Nat × CellImage) =>
      (resolveCell a.1 p.1 r p.2).map fun q => (q.1, a.2 ++ [(p.1, q.2)])) (clearRoutes s r, []) (sectionsOf s r (mappingOf g.staged m))

/-- Loads one mapping of a region over its cells (R231, R290, R348). -/
def loadMapping (s : State) (r m : Nat) : Option State :=
  let g := regionAt s r
  (mappingConfigs s r m).bind fun q =>
    let s := (regionCells q.1 r).foldl clearMapping q.1
    let s := q.2.foldl (fun s p => emptySpans s p.1 false p.2.wins) s
    (foldTry (installCell g) s q.2).map fun s => modRegion s r fun g => { g with mapping := m }

/-- Writes the cache entry of one cell for a mapping, its chains reserved (R348, R350). -/
def stageCell (r m : Nat) (imgs : List CellImage) (s : State) (p : Nat × Nat × Nat) : Option State :=
  match sectionAt imgs p.2.1 p.2.2 with
  | some i => (resolveCell s p.1 r i).bind fun q => writeCache q.1 p.1 m q.2
  | none => writeCache s p.1 m { sram := [], binds := [], wins := [], chans := [], spine := (cellOf s p.1).spine }

/-- Reserves the chains of every staged mapping and writes the configuration caches; a region with one mapping has none (R348, R350). -/
def stageMappings (s : State) (r : Nat) : Option State :=
  let g := regionAt s r
  if 1 < g.staged.length then foldTry (fun s m => foldTry (stageCell r m.1 m.2) s (placedCells s r)) (clearRoutes s r) g.staged else some s

/-- Whether a configuration writes the shadow bank of a cell: a firmware image does (R244, R329; notes/assumptions/77.md). -/
def writesShadow (s : State) (r : Nat) (i : CellImage) : Bool :=
  (regionAt s r).firmware && !(i.shadowBinds.isEmpty && i.shadowChans.isEmpty)

/-- The channels of a cell's shadow bank (R329). -/
def loadShadow (s : State) (c r : Nat) (i : CellImage) : Option State :=
  if !writesShadow s r i then some s
  else if shadowOk i then
    (takeChans s c r true i.shadowChans).map fun q => modCell q.1 c fun x =>
      let h : Shadow := x.shadow.getD {}
      { x with shadow := some { h with chans := q.2.foldl (fun t e => Tbl.put t (e.2.1 % 64 - 56) e.2.2) h.chans } }
  else none

/-- Clears the group table of a collective home (R320). -/
def clearGroups (s : State) (c : Nat) : State :=
  let inTable (k : Nat) : Bool := decide (loftKey c 0x1B7800 ≤ k) && decide (k < loftKey c 0x1C0000)
  if isCollHome s c then { s with mem := s.mem.filter fun p => !inTable p.1, bad := s.bad.filter fun k => !inTable k } else s

/-- Writes the shadow bindings of a cell, before anything is checked against them (R281, R329). -/
def openShadow (r : Nat) (s : State) (p : Nat × CellImage) : State :=
  if !writesShadow s r p.2 then s
  else
    clearGroups (modCell s p.1 fun x =>
      let h : Shadow := x.shadow.getD {}
      { x with shadow := some { h with bindings := p.2.shadowBinds.foldl (fun t b => Tbl.put t b.1 (bindMask b.2)) h.bindings } }) p.1

/-- The loft content of every mapping at once (R290, R348): what PRESENCE windows span is empty but for what a record writes. -/
def loadLofts (r : Nat) (s : State) : Option State :=
  let staged := (regionAt s r).staged
  let cells := (placedCells s r).map fun p => (p.1, staged.filterMap fun m => sectionAt m.2 p.2.1 p.2.2)
  let s := cells.foldl (fun s p => p.2.foldl (fun s i => emptySpans s p.1 true i.wins) s) s
  foldTry (fun s p =>
    if loftContentOk p.2 (decide (1 < staged.length)) (isCollHome s p.1) then
      some (p.2.foldl (fun s i => writeContent s (loftKey p.1) i.loft) s)
    else none) s cells

/-- Gives ctx 4 its windows (R182). -/
def fixHandlerWins (s : State) (c : Nat) : State := putCtx s c 4 (freshCtx4 (progEnd s c))

/-- Whether the bindings of every staged mapping may be loaded (R13, R245, R349). -/
def stagedBindsOk (g : Region) : Bool := g.staged.all fun m => m.2.all fun i => i.binds.all (imageBindOk g.firmware)

/-- Loads a region whose number, origin and shape stand (R251, R348): every cell, every staged chain, mapping 0. -/
def loadRegion (s : State) (r : Nat) : Option State :=
  let g := regionAt s r
  let s := (placedCells s r).foldl (fun s p => enterRegion s r g.pool p) s
  let zero := sectionsOf s r (mappingOf g.staged 0)
  let s := zero.foldl (openShadow r) s
  let s := (regionCells s r).foldl fixHandlerWins s
  if !stagedBindsOk g then none
  else
    (loadLofts r s).bind fun s =>
    (stageMappings s r).bind fun s =>
    (loadMapping s r 0).bind fun s =>
    (foldTry (fun s p => loadShadow s p.1 r p.2) s zero).map fun s =>
      modRegion s r fun g => { g with st := .resident }

/-! ### Issue duty -/

/-- The bits of ISDUTY that hold values (R367). -/
def dutyMask (w : Word) : Word := w &&& 0x7F7F

/-- A write of ISDUTY: a change sends one notice to each user context (R367, R368). While a plate's flow is low, firmware holds the value at 16
(R449). -/
def writeDuty (s : State) (c : Nat) (w : Word) : State :=
  let old := (cellOf s c).isduty
  let new := if s.lowFlow then 0x1010 else dutyMask w
  if new = old then s
  else
    let v : Val := ⟨some new, some old, none, none, none, none, none, none⟩
    userCtxs.foldl (fun s x => post s c c 4 (.token { tag := 0xDC + x, lanes := v } .nobody))
      (modCell s c fun k => { k with isduty := new })

/-- A write of ISDUTY of every cell of a region that answers (R366). -/
def dutyRegion (s : State) (r : Nat) (w : Word) : State :=
  (regionCells s r).foldl (fun s c => if isDead s c then s else writeDuty s c w) s

/-! ### Placement -/

/-- Whether a rectangle at (ox, oy) is free for a tenant: no cell of it is in a region or held in reset, and its bays are the tenant's
(R248, R363, R416); a retired bay and one without samples take none (R444, R448). -/
def placeFree (s : State) (tenant w h ox oy : Nat) : Bool :=
  (List.range (w * h)).all fun k =>
    let c := coreAt s (ox + k % w) (oy + k / w)
    let b := bayAt s (bayOf c)
    (regionOf s c).isNone && !(cellOf s c).inReset && b.tenant == tenant && !b.retired && !b.absent

/-- The first free placement in bay order, then row, then column (R363). -/
def firstPlace (s : State) (tenant w h : Nat) : Option (Nat × Nat) :=
  (List.range 1024).findSome? fun b =>
    (List.range 30).findSome? fun y =>
      (List.range 30).findSome? fun x =>
        let ox := 30 * (b % 32) + x
        let oy := 30 * (b / 32) + y
        if placeFree s tenant w h ox oy then some (ox, oy) else none

/-- Logical hops between two logical cells (R258). -/
def hopsBetween (ax ay bx by_ : Nat) : Nat := (torusDelta ax bx).natAbs + (torusDelta ay by_).natAbs

/-- The free placement whose origin is nearest to (cx, cy); the first in bay order breaks a tie (R268; notes/assumptions/22.md). -/
def nearestPlace (s : State) (tenant w h cx cy : Nat) : Option (Nat × Nat) :=
  (List.range 961).findSome? fun d =>
    (List.range 1024).findSome? fun b =>
      (List.range 30).findSome? fun y =>
        (List.range 30).findSome? fun x =>
          let ox := 30 * (b % 32) + x
          let oy := 30 * (b / 32) + y
          if hopsBetween cx cy ox oy = d ∧ placeFree s tenant w h ox oy then some (ox, oy) else none

/-- The lowest FREE region number (R248). -/
def freeRegion (s : State) : Option Nat := (List.range 4096).find? fun r => (regionAt s r).st == .free

/-- Claims a region number with an origin: LOADING, with a new generation (R250, R251). -/
def claimRegion (s : State) (r : Nat) (d : RegionDesc) (ox oy tenant : Nat) (job : Option Nat)
    (notices : List (Nat × Nat × Nat)) (firmware : Bool) (runtime : List (Nat × List Word)) : State :=
  modRegion s r fun g => {
    st := .loading
    gen := (g.gen + 1) % 16
    ox := ox
    oy := oy
    w := d.w
    h := d.h
    core := d.core
    pool := d.pool
    tenant := tenant
    job := job
    staged := d.mappings
    powers := d.powers
    notices := notices
    firmware := firmware
    sink := d.sink
    runtime := runtime }

/-- Whether a region's shape and pool may be asked for (R16, R240, R249). -/
def descOk (d : RegionDesc) : Bool :=
  decide (1 ≤ d.w) && decide (d.w ≤ 960) && decide (1 ≤ d.h) && decide (d.h ≤ 960) && decide (32 ≤ d.pool) && decide (d.pool ≤ 256) &&
  (match d.core with
   | some c => isMgmtCore c && d.w == 1 && d.h == 1
   | none => true) &&
  d.mappings.any (fun m => m.1 == 0) && d.mappings.all fun m => decide (m.1 < 3)

/-- The word of a region handle (R250). -/
def handleWord (s : State) (r : Nat) : Word := wordOf (r + (regionAt s r).gen * 4096)

/-- The region that a handle names, when its generation is current (R250). -/
def handleRegion (s : State) (h : Word) : Option Nat :=
  let r := bits h 0 12
  if bits h 16 16 = 0 ∧ bits h 12 4 = (regionAt s r).gen ∧ (regionAt s r).st ≠ .free then some r else none

/-- Extends attestation register `i` with a digest (R411). -/
def extendAr (s : State) (i : Nat) (m : List Byte) : State :=
  { s with ar := Tbl.put s.ar i (sha3 (Tbl.get (List.replicate 48 0) s.ar i ++ m)) }

end Sys2Proof.Machine
end

