-- ==== Sys2Proof/Machine/Image.lean ====
section
/-! DEFINITION. Object images as a driver reads them (R240, R244, R245): their records, what makes a driver reject one, the part of a region
that their layout gives, and the bases that relocations supply. -/

namespace Sys2Proof.Machine

open Sys2Proof

/-- A record of an image: its KIND and the words that follow (R244). -/
structure ImageRecord where
  kind : Nat
  words : List Word
  deriving DecidableEq, Repr

/-- Splits an image into records; none where one runs past the end (R244). The first argument bounds their number. -/
def splitRecords : Nat → List Word → Option (List ImageRecord)
  | _, [] => some []
  | 0, _ :: _ => none
  | fuel + 1, w :: ws =>
    let n := bits w 0 24
    if ws.length < n then none
    else (splitRecords fuel (ws.drop n)).map fun rs => { kind := bits w 24 8, words := ws.take n } :: rs

/-- Word `i` of a record. -/
def recWord (r : ImageRecord) (i : Nat) : Word := (r.words[i]?).getD 0

/-- Whether a record's length suits its KIND (R244): a window record ends with the entry image of R285, a relocation begins with its kind (R245),
and the names of a debug record have no fixed length. -/
def recordShape (r : ImageRecord) : Bool :=
  match r.kind with
  | 0x01 => r.words.length == 4
  | 0x02 => r.words.length == 3
  | 0x03 => r.words.length == 1
  | 0x04 => r.words.length == 2
  | 0x05 => decide (1 ≤ r.words.length)
  | 0x06 => decide (1 ≤ r.words.length)
  | 0x07 => r.words.length == 2
  | 0x08 => decide (5 ≤ r.words.length)
  | 0x09 => decide (1 ≤ r.words.length) && decide ((recWord r 0).toNat ≤ 2)
  | 0x0A => true
  | 0x0B => r.words.length == 1
  | _ => false

/-- Whether the first record is the header of an image of one region, firmware or not (R244). -/
def headerOk (firmware : Bool) (r : ImageRecord) : Bool :=
  r.kind == 0x01 && recWord r 0 == 0x414D4931 && recWord r 1 == 1 && bit (recWord r 2) 0 == firmware && recWord r 3 == 1

/-- The records between the header and the end record of an image that a driver does not reject (R244): every KIND is known, no record runs past
the end, and the end record holds the CRC-32 of every earlier word. -/
def imageRecords (firmware : Bool) (ws : List Word) : Option (List ImageRecord) :=
  match splitRecords ws.length ws with
  | none => none
  | some rs =>
    let mid := (rs.drop 1).dropLast
    match rs.head?, rs.getLast? with
    | some h, some e =>
      if headerOk firmware h && e.kind == 0x0B && rs.all recordShape && (mid.all fun r => r.kind != 0x01 && r.kind != 0x0B) &&
          recWord e 0 == wordOf (crc32 (ws.dropLast.flatMap fun w => leBytes 4 w.toNat)) then some mid
      else none
    | _, _ => none

/-- What an image's layout gives of a cell section (R240, R244, R245): `wins` are the window entries (R285), and `relocs` counts the ROUTE,
HOSTBASE and PEERBASE relocations. -/
structure ImageSection where
  mapping : Nat
  x : Nat
  y : Nat
  w : Nat
  h : Nat
  sram : List (Nat × List Word) := []
  loft : List (Nat × List Word) := []
  binds : List (Nat × Word) := []
  wins : List (List Word) := []
  relocs : Nat × Nat × Nat := (0, 0, 0)
  deriving DecidableEq, Repr

/-- An image's region while its records are read: width, height and pool, the mapping in force, and the sections, the last first. -/
structure ImageRegion where
  dims : Option (Nat × Nat × Nat) := none
  mapping : Nat := 0
  sections : List ImageSection := []
  deriving DecidableEq, Repr

/-- Changes the section in force. -/
def inSection (g : ImageRegion) (f : ImageSection → ImageSection) : ImageRegion :=
  match g.sections with
  | s :: t => { g with sections := f s :: t }
  | [] => g

/-- Counts a relocation of a kind (R245). -/
def addReloc (p : Nat × Nat × Nat) (kind : Nat) : Nat × Nat × Nat :=
  match kind with
  | 0 => (p.1 + 1, p.2.1, p.2.2)
  | 1 => (p.1, p.2.1 + 1, p.2.2)
  | _ => (p.1, p.2.1, p.2.2 + 1)

/-- Reads one record (R240, R244). -/
def readRec (g : ImageRegion) (r : ImageRecord) : ImageRegion :=
  match r.kind with
  | 0x02 => { g with dims := some (bits (recWord r 1) 0 10, bits (recWord r 1) 16 10, (recWord r 2).toNat), mapping := 0 }
  | 0x03 => { g with mapping := (recWord r 0).toNat }
  | 0x04 =>
    { g with sections := {
        mapping := g.mapping
        x := bits (recWord r 0) 0 10
        y := bits (recWord r 0) 16 10
        w := bits (recWord r 1) 0 10 + 1
        h := bits (recWord r 1) 16 10 + 1 } :: g.sections }
  | 0x05 => inSection g fun s => { s with sram := s.sram ++ [((recWord r 0).toNat, r.words.drop 1)] }
  | 0x06 => inSection g fun s => { s with loft := s.loft ++ [((recWord r 0).toNat, r.words.drop 1)] }
  | 0x07 => inSection g fun s => { s with binds := s.binds ++ [((recWord r 0).toNat, recWord r 1)] }
  | 0x08 => inSection g fun s => { s with wins := s.wins ++ [r.words.drop (r.words.length - 4)] }
  | 0x09 => inSection g fun s => { s with relocs := addReloc s.relocs (recWord r 0).toNat }
  | _ => g

/-- A section of a description as an image gives it. -/
def sectionOf (m : Nat) (i : CellImage) : ImageSection :=
  { mapping := m
    x := i.x
    y := i.y
    w := i.w
    h := i.h
    sram := i.sram
    loft := i.loft
    binds := i.binds
    wins := i.wins.map fun q => q.2.2
    relocs := (i.chans.length + i.shadowChans.length, (i.bases.filter fun b => !b.peer).length, (i.bases.filter fun b => b.peer).length) }

/-- Whether a region's image is one that the driver takes, and gives what the region's description says of it (R244). Which context
and window a window record names, the operands of a relocation, the shadow bank and the debug names, whose words R244 does not lay out, are known
from the description alone (notes/assumptions/80.md). -/
def imageOk (firmware : Bool) (d : RegionDesc) : Bool :=
  match imageRecords firmware d.image with
  | none => false
  | some rs =>
    let g := rs.foldl readRec {}
    g.dims == some (d.w, d.h, d.pool) && g.sections.reverse == d.mappings.flatMap fun m => m.2.map (sectionOf m.1)

/-- The base of the export that a relocation names (R245). -/
def baseOf (bases : List (Bool × Nat × Nat)) (b : BaseReloc) : Option Nat :=
  (bases.find? fun p => p.1 == b.peer && p.2.1 == b.name).map fun p => p.2.2

/-- A window image with its base supplied: BASE, and for a host window the upper half in PARAM (R245, R285). -/
def withBase (b : BaseReloc) (base : Nat) (q : Nat × Nat × List Word) : Nat × Nat × List Word :=
  if q.1 = b.ctx ∧ q.2.1 = b.window then
    (q.1, q.2.1, (List.range 4).map fun i =>
      if i = 1 then wordOf (base % 2 ^ 32) else if i = 3 ∧ b.peer = false then wordOf (base / 2 ^ 32) else (q.2.2[i]?).getD 0)
  else q

/-- A section with the bases of its windows resolved; none where an export that it names has none (R245). -/
def resolveBases (bases : List (Bool × Nat × Nat)) (i : CellImage) : Option CellImage :=
  foldTry (fun i b => (baseOf bases b).map fun n => { i with wins := i.wins.map (withBase b n) }) i i.bases

/-- A list with a step that may fail applied to each element. -/
def mapTry {α β : Type} (f : α → Option β) : List α → Option (List β)
  | [] => some []
  | a :: as =>
    match f a with
    | none => none
    | some b => (mapTry f as).map fun bs => b :: bs

/-- A region's description with the bases of its windows resolved (R245). -/
def resolveRegion (bases : List (Bool × Nat × Nat)) (d : RegionDesc) : Option RegionDesc :=
  (mapTry (fun m => (mapTry (resolveBases bases) m.2).map fun is => (m.1, is)) d.mappings).map fun ms => { d with mappings := ms }

end Sys2Proof.Machine
end

