-- ==== Sys2Proof/Machine/RegionEv.lean ====
section
/-! DEFINITION. The fabric manager and the driver: CFGREQ grants, configuration selects, drains and job loads (R229, R231, R250,
R251, R267 to R273, R348 to R356, R363, R369). -/

namespace Sys2Proof.Machine

open Sys2Proof

/-! ### Selects -/

/-- Handle, reply tag and function number of a configuration select (R191). -/
def selectOf : CfgOp → Option (Word × Nat × Nat)
  | .release h reply => some (h, reply, 33)
  | .mapsel h _ reply => some (h, reply, 35)
  | .request _ _ _ => none

/-- The reply of a configuration select, from the fabric manager (R191, R229, R231). -/
def selectReply (s : State) (core : Nat) (op : CfgOp) (status : Nat) : State :=
  match selectOf op with
  | some q =>
    post s (fabricManager core) core 2 (.token { tag := q.2.1, lanes := completionOf (wordOf status) 0 0 (wordOf q.2.2) } .nobody)
  | none => s

/-- The management address of a cell (R228, R453). -/
def maWord (c : Nat) : Word := wordOf (c / 1024 % 1024 + c % 32 * 1024 + c / 32 % 32 * 32768)

/-- Whether a select is the MAPSEL of firmware's own plan for a region (R366). -/
def isPlanned (s : State) (r core : Nat) (op : CfgOp) : Bool :=
  match op with
  | .mapsel _ m _ => (regionAt s r).plan == some m && core == fabricManager (regionOrigin s r)
  | _ => false

/-- Firmware hears the reply to its MAPSEL (R366): after DONE it restores ISDUTY to 64, after any other it restores the region from its cut and
leaves ISDUTY in force. -/
def planReply (s : State) (r core : Nat) (op : CfgOp) (status : Nat) : State :=
  if isPlanned s r core op then
    let c := regionOrigin s r
    let s := modRegion s r fun g => { g with plan := none }
    if status = 0 then dutyRegion s r 0x4040
    else post s core c 4 (.mgmt { fn := 35, sub := 1, addr := maWord c, b := 0, core := core, reply := 0 } .nobody)
  else s

/-- Whether a region stages what a select asks for (R231). -/
def stagedFor (g : Region) : CfgOp → Bool
  | .mapsel _ m _ => g.staged.any fun p => p.1 == m
  | _ => true

/-- CONFIGURATION_SELECT: the fabric manager accepts a CFGREL or MAPSEL, which is held at its region's origin while the region drains; behind
another select it waits in order, and until a cut or a roll-back that is under way has ended (R229, R231, R250, R251, R270, R390). -/
def execConfigurationSelect (n : Nat) (s : State) : Host.Outcome State Fault Refusal :=
  match arrived s n with
  | none => .next s
  | some m =>
    match m.body with
    | .cfg op _ a =>
      match selectOf op with
      | none => .next s
      | some q =>
        let t := receive s n m
        if isDead s m.dst then .next (reply t m.dst m { asker := a, cause := some .remote })
        else
          let t := reply t m.dst m { asker := a }
          match handleRegion s q.1 with
          | none => .next (selectReply t m.src op 16)
          | some r =>
            let g := regionAt s r
            if g.st ≠ .resident ∧ g.st ≠ .draining then .next (selectReply (planReply t r m.src op 16) m.src op 16)
            else if !stagedFor g op then .next (selectReply (planReply t r m.src op 22) m.src op 22)
            else .next (modRegion t r fun g => { g with
              st := if g.cut.isSome || g.rolling.isSome then g.st else .draining
              selects := g.selects ++ [{ op := op, core := m.src }]
              sums := if g.st = .draining then g.sums else none })
    | _ => .next s

/-! ### Drain -/

/-- Whether a context has nothing under way (R272). -/
def ctxQuiet (v : Context) : Bool := v.st == .idle && v.frame.isNone && (v.pend.all fun p => p.2.st == .free) && v.collq.isEmpty

/-- Whether a cell of a draining region has nothing under way (R211, R272). -/
def cellQuiet (k : Core) : Bool :=
  (k.ctxs.all fun p => ctxQuiet p.2) && k.spawnQ.isEmpty && k.spawnHold.isEmpty && k.spawnTrees.isEmpty && k.tokens.isEmpty &&
  k.joins.isEmpty && k.updQ.isEmpty && k.updTok.isEmpty && k.updCur.isNone &&
  (k.units.all fun p => unitQuiet p.2) && k.mx.queue.isEmpty && k.mx.run.isNone

/-- Sum of a table of counts. -/
def countSum (t : Tbl Nat) : Nat := (t.map fun p => p.2).sum

/-- Sent and received over a region's static routes and dynamic pairs (R272). -/
def drainSums (s : State) (r : Nat) : Nat × Nat × Nat × Nat :=
  let xs := (regionCells s r).map (cellOf s)
  ((xs.map fun x => countSum x.sentRt).sum, (xs.map fun x => countSum x.recvRt).sum,
   (xs.map fun x => x.sentDyn).sum, (xs.map fun x => x.recvDyn).sum)

/-- Whether a bay of the region has tripped: a drain or cut then completes only after the bay resumes (R373). -/
def regionTripped (s : State) (r : Nat) : Bool := (regionCells s r).any fun c => isCellCore c && (bayAt s (bayOf c)).trip

/-- Whether a sweep finds a region drained but for the comparison with the sweep before (R272, R373). -/
def sweepClean (s : State) (r : Nat) : Bool :=
  let q := drainSums s r
  !regionTripped s r && q.1 == q.2.1 && q.2.2.1 == q.2.2.2 && (regionCells s r).all fun c => cellQuiet (coreOf s c)

/-- Mapping-changed tokens from the fabric manager to the contexts bound in the new mapping, on VC4 (R256, R273, R369). -/
def mappingTokens (s : State) (r new old : Nat) : State :=
  (regionCells s r).foldl (fun s c =>
    userCtxs.foldl (fun s x =>
      if bValid (bindingOf (coreOf s c) (0xD8 + x)) then
        let v : Val := ⟨some (wordOf new), some (wordOf old), none, none, none, none, none, none⟩
        post s (fabricManager (regionOrigin s r)) c 4 (.token { tag := 0xD8 + x, lanes := v } .nobody)
      else s) s) s

/-- A label that belongs to no region `r` (R252). -/
def foreignLabel (r : Nat) (p : Nat × Word) : Bool := p.1 < 32 || bits p.2 0 12 != r

/-- Frees the labels that a region owns, in every router (R252). -/
def freeLabels (s : State) (r : Nat) : State :=
  { s with cells := s.cells.map fun p => (p.1, { p.2 with
      labels := p.2.labels.filter (foreignLabel r)
      shadow := p.2.shadow.map fun h => { h with labels := h.labels.filter fun q => bits q.2 0 12 != r } }) }

/-- A cell leaves its region (R131, R248, R251). -/
def leaveRegion (s : State) (c : Nat) : State :=
  modCell s c fun x => { x with
    core := {}
    shadow := keptLabels x
    slot := none
    region := none
    regpos := 0
    regdim := 0
    slotA := none
    slotB := none
    undo := [] }

/-- Tokens held at a region's boundary: where each is discarded, and whom it answers (R271, R273). -/
def heldToken (s : State) (r : Nat) (m : Msg) : Option (Nat × Asker) :=
  match m.body with
  | .token _ a =>
    if regionOf s m.dst = some r ∧ heldInside s m then some (m.at_, a) else none
  | .routed l sh _ a =>
    if arrivesIn s m (labelWord s m.at_ l sh) == some r && boundaryHolds s r m.at_ then some (m.at_, a) else none
  | _ => none

/-- Discards the tokens held at a region's boundary, each with an event (R273). -/
def dropHeld (s : State) (r : Nat) : State :=
  let gone := s.net.filterMap fun m => (heldToken s r m).map fun q => (m, q)
  let u := { s with net := s.net.filter fun m => (heldToken s r m).isNone }
  gone.foldl (fun s p =>
    let t := match p.1.body with | .token t _ => some t | .routed _ _ t _ => some t | _ => none
    let s := match t with | some t => consumeSrc s t | none => s
    reply (discardEvent s p.2.1) p.2.1 p.1 { asker := p.2.2 }) u

/-- A job whose last region is gone ends: its entry leaves the bridge's table, with the launches held for it. -/
def endJob (s : State) (job : Option Nat) : State :=
  match job with
  | none => s
  | some j =>
    if s.regions.any fun p => p.2.st != .free && p.2.job == some j then s
    else { s with jobs := tblErase s.jobs j, heldLaunches := s.heldLaunches.filter fun h => h.job != j }

/-- Invalidates a list of linked channels (R229, R273). -/
def cutLinks (s : State) (ls : List (Nat × Nat × Nat)) : State :=
  ls.foldl (fun s l => modCtx s l.1 l.2.1 fun v => { v with chans := Tbl.put v.chans l.2.2 0 }) s

/-- The links of the subgraphs that a region has requested are invalid at both ends, once that region is gone (R229, R268, R273). -/
def cutGrants (s : State) (r : Nat) : State :=
  let asked (g : Region) : Bool := g.links.any fun l => regionOf s l.1 == some r
  let s' := cutLinks s (s.regions.flatMap fun p => if asked p.2 then p.2.links else [])
  { s' with regions := s.regions.map fun p => (p.1, if asked p.2 then { p.2 with links := [] } else p.2) }

/-- A region becomes FREE: its cells leave it, its labels are free, its linked channels and those linked to it invalid, and the tokens held at
its boundary discarded (R229, R251, R273). -/
def freeTheRegion (s : State) (r : Nat) : State :=
  let g := regionAt s r
  let s := cutGrants (cutLinks (dropHeld s r) g.links) r
  let s := (regionCells s r).foldl leaveRegion (freeLabels s r)
  endJob { s with regions := Tbl.put s.regions r { gen := g.gen } } g.job

/-! ### The release of held messages -/

/-- The state of an outcome. -/
def outcomeOf (s : State) (o : Host.Outcome State Fault Refusal) : State := match o with | .next t => t | _ => s

/-- Message `n`, which a boundary has held, is handled where it stands. -/
def handleHeld (s : State) (n : Nat) : State :=
  match s.net[n]? with
  | some m =>
    match m.body with
    | .routed _ _ _ _ => outcomeOf s (execLabelHop n s)
    | .token t _ => if isPacket s m.dst t then s else outcomeOf s (execTokenArrival n s)
    | .mem _ => outcomeOf s (execRemoteRequestPerform n s)
    | .spawn _ => outcomeOf s (execSpawnAccept n s)
    | _ => s
  | none => s

/-- Handles the messages from place `k` of the list on, in order: one that is taken leaves the list, a token that its router ejects is handled
again, and one that finds no room keeps its buffer (R257). The first arguments bound the steps and the messages. -/
def releaseFrom : Nat → Nat → State → Nat → State
  | 0, _, s, _ => s
  | _, 0, s, _ => s
  | fuel + 1, left + 1, s, k =>
    let t := handleHeld s k
    match s.net[k]?, t.net[k]? with
    | some m, some q =>
      if q = m ∨ q.at_ ≠ m.at_ then releaseFrom fuel left t (k + 1)
      else if q.body ≠ m.body ∧ isDynamic q.body = true ∧ isDynamic m.body = false then releaseFrom fuel (left + 1) t k
      else releaseFrom fuel left t k
    | _, _ => t

/-- Puts a message in order of its arrival at the router where it stands. -/
def insertBySince (m : Msg) : List Msg → List Msg
  | [] => [m]
  | a :: t => if m.since < a.since then m :: a :: t else a :: insertBySince m t

/-- Whether a message is held at a region's boundary (R271). -/
def heldAtBoundary (s : State) (r : Nat) (m : Msg) : Bool :=
  match m.body with
  | .routed l sh _ _ => arrivesIn s m (labelWord s m.at_ l sh) == some r
  | _ => regionOf s m.at_ == some r && regionOf s m.dst == some r && regionOf s m.src != some r && !isAnswer m.body && !isManagement m.body

/-- The routers release the held messages of a region in arrival order (R273). -/
def releaseHeld (s : State) (r : Nat) : State :=
  let held := (s.net.filter (heldAtBoundary s r)).foldl (fun l m => insertBySince m l) []
  let t := { s with net := held ++ s.net.filter fun m => !heldAtBoundary s r m }
  releaseFrom (3 * held.length) held.length t 0

/-- What follows the drain (R273): a MAPSEL's mapping is loaded, or the region becomes FREE; a MAPSEL that cannot load leaves the
region FREE (R251). DESIGN CHOICE: that MAPSEL, and every select that still waits when the region becomes FREE, is answered REFUSED (16)
(R231; notes/assumptions/82.md). -/
def drainComplete (s : State) (r : Nat) : State :=
  let g := regionAt s r
  match g.selects with
  | [] => modRegion s r fun g => { g with st := .resident, sums := none }
  | q :: rest =>
    let gone (s : State) (status : Nat) : State :=
      rest.foldl (fun s p => selectReply s p.core p.op 16)
        (selectReply (freeTheRegion (if status = 0 then s else planReply s r q.core q.op status) r) q.core q.op status)
    match q.op with
    | .mapsel _ m _ =>
      match loadMapping s r m with
      | some t =>
        let t := modRegion t r fun g => { g with
          st := if rest.isEmpty then .resident else .draining
          selects := rest
          sums := none }
        let t := releaseHeld ((regionCells t r).foldl settleCore t) r
        selectReply (planReply (mappingTokens t r m g.mapping) r q.core q.op 0) q.core q.op 0
      | none => gone s 16
    | _ => gone s 0

/-- DRAIN_SWEEP: one sweep of a draining region (R272, R273). -/
def execDrainSweep (r : Nat) (s : State) : Host.Outcome State Fault Refusal :=
  let g := regionAt s r
  if g.st = .draining then
    let sent := (drainSums s r).1 + (drainSums s r).2.2.1
    if sweepClean s r && g.sums == some sent then .next (report (drainComplete s r) (.drained r))
    else .next (modRegion s r fun g => { g with sums := some sent })
  else .next s

/-! ### CFGREQ -/

/-- The grant of a CFGREQ (R191, R229) leaves the fabric manager on VC4 (R256): one operation fewer awaits its grant (R232). -/
def grantToken (s : State) (manager c x tag status : Nat) (handle first : Word) : State :=
  let s := modCtx s c x fun v => { v with cfgOut := v.cfgOut - 1 }
  let v : Val := ⟨some (wordOf status), some handle, some first, some 32, none, none, none, none⟩
  post s manager c 4 (.token { tag := tag, lanes := v } .nobody)

/-- Links requester channels to input ports: the state, and the entries to write last (R268). -/
def linkInputs (c r : Nat) (first : Nat) : State → List (Nat × Nat × Nat × Nat) → Option (State × List (Nat × Word))
  | s, [] => some (s, [])
  | s, p :: ps =>
    let g := regionAt s r
    match logicalOf s c with
    | none => none
    | some l =>
      match takeRoute s c (torusDelta l.1 ((g.ox + p.1) % 960)) (torusDelta l.2 ((g.oy + p.2.1) % 960)) p.2.2.1 r false true with
      | none => none
      | some (s, n) => (linkInputs c r (first + 1) s ps).map fun q => (q.1, (first, chanWord n p.2.2.2) :: q.2)

/-- Links output ports to requester tags (R268): the state, and the channels written. -/
def linkOutputs (c r : Nat) (tag : Nat) : State → List (Nat × Nat × Nat × Nat) → Option (State × List (Nat × Nat × Nat))
  | s, [] => some (s, [])
  | s, p :: ps =>
    let g := regionAt s r
    let src := coreAt s (g.ox + p.1) (g.oy + p.2.1)
    match logicalOf s c, logicalOf s src with
    | some l, some o =>
      match takeRoute s src (torusDelta o.1 l.1) (torusDelta o.2 l.2) tag r false true with
      | none => none
      | some (s, n) =>
        let s := modCtx s src p.2.2.1 fun v => { v with chans := Tbl.put v.chans p.2.2.2 (chanWord n 0) }
        (linkOutputs c r (tag + 1) s ps).map fun q => (q.1, (src, p.2.2.1, p.2.2.2) :: q.2)
    | _, _ => none

/-- The fabric manager installs an XR label between two regions at both tenants' request, which AR5 takes for each (R411, R415): the channel gets
its route, owned by the region that it leads to, or nothing changes. -/
def linkTenants (s : State) (l : TenantLink) : State :=
  let a := regionAt s l.src
  let b := regionAt s l.dst
  let c := coreAt s (a.ox + l.x) (a.oy + l.y)
  let d := coreAt s (b.ox + l.dx) (b.oy + l.dy)
  if a.st ≠ .resident ∨ b.st ≠ .resident ∨ a.w ≤ l.x ∨ a.h ≤ l.y ∨ b.w ≤ l.dx ∨ b.h ≤ l.dy ∨ 4 ≤ l.ctx ∨ 64 ≤ l.chan then s
  else
    match logicalOf s c, logicalOf s d with
    | some p, some q =>
      match takeRoute s c (torusDelta p.1 q.1) (torusDelta p.2 q.2) l.tag l.dst false true with
      | none => s
      | some (t, n) =>
        let t := modCtx t c l.ctx fun v => { v with chans := Tbl.put v.chans l.chan (chanWord n l.port) }
        let t := modRegion t l.dst fun g => { g with links := (c, l.ctx, l.chan) :: g.links }
        extendAr (extendAr t 5 (sha3 l.request)) 5 (sha3 l.answer)
    | _, _ => s

/-- Clears BLK on the named tags (R268). -/
def unblockTags (s : State) (c first n : Nat) : State :=
  (List.range n).foldl (fun s k =>
    let t := (first + k) % 256
    writeBinding s c t (setBits (bindingOf (coreOf s c) t) 30 1 0)) s

/-- Steps 2 to 5 of a CFGREQ for context `x` of cell `c` (R268): the state with the new region's number. DESIGN CHOICE: channel numbers
that run past 63 and unblocked tags that run past 255 wrap (R229; notes/assumptions/82.md). -/
def serveRequest (s : State) (c x : Nat) (g : Subgraph) (link : Word) : Option (State × Nat) :=
  let home := match regionOf s c with | some q => regionAt s q | none => {}
  match logicalOf s c, freeRegion s with
  | some l, some r =>
    match nearestPlace s home.tenant g.desc.w g.desc.h l.1 l.2 with
    | none => none
    | some o =>
      (loadRegion (claimRegion s r g.desc o.1 o.2 home.tenant home.job home.notices false home.runtime) r).bind fun s =>
      (linkInputs c r (bits link 0 6) s (g.ins.take (bits link 6 6))).bind fun i =>
      (linkOutputs c r (bits link 12 8) i.1 (g.outs.take (bits link 20 4))).map fun q =>
        let s := i.2.foldl (fun s e => modCtx s c x fun v => { v with chans := Tbl.put v.chans (e.1 % 64) e.2 }) q.1
        let mine := i.2.map fun e => (c, x, e.1 % 64)
        (unblockTags (modRegion s r fun g => { g with links := mine ++ q.2 }) c (bits link 12 8) (bits link 20 4), r)
  | _, _ => none

/-- CFGREQ_SERVICE: the fabric manager serves message `n`, a CFGREQ (R229, R268). -/
def execCfgreqService (n : Nat) (s : State) : Host.Outcome State Fault Refusal :=
  match arrived s n with
  | none => .next s
  | some m =>
    match m.body with
    | .cfg (.request id link grant) x a =>
      let t := receive s n m
      if isDead s m.dst then .next (reply t m.dst m { asker := a, cause := some .remote })
      else
        let t := reply t m.dst m { asker := a }
        match Tbl.get none s.catalogue id with
        | none => .next (grantToken t m.dst m.src x grant 22 0 0)
        | some g =>
          if g.ins.length < bits link 6 6 ∨ g.outs.length < bits link 20 4 then .next (grantToken t m.dst m.src x grant 22 0 0)
          else
            match serveRequest t m.src x g link with
            | none => .next (grantToken t m.dst m.src x grant 21 0 0)
            | some (t, r) =>
              .next (settleCore (grantToken t m.dst m.src x grant 0 (handleWord t r) (wordOf (bits link 0 6))) m.src)
    | _ => .next s

/-! ### Jobs -/

/-- Where a region of a job goes (R363). -/
def placeOf (s : State) (tenant : Nat) (d : RegionDesc) : Option (Nat × Nat) :=
  match d.core with
  | some c => if (regionOf s c).isNone && !(cellOf s c).inReset then some (0, 0) else none
  | none =>
    match d.origin with
    | some o => if placeFree s tenant d.w d.h o.1 o.2 then some o else firstPlace s tenant d.w d.h
    | none => firstPlace s tenant d.w d.h

/-- Places every region of a job (R363): the state with the numbers claimed. -/
def placeAll (j : JobDesc) : State → List RegionDesc → Option (State × List Nat)
  | s, [] => some (s, [])
  | s, d :: ds =>
    match placeOf s j.tenant d, freeRegion s with
    | some o, some r =>
      let s := claimRegion s r d (o.1 % 960) (o.2 % 960) j.tenant (some j.job) j.notices j.firmware j.runtime
      let s := (placedCells s r).foldl (fun s p => enterRegion s r d.pool p) s
      (placeAll j s ds).map fun q => (q.1, r :: q.2)
    | _, _ => none

/-- Whether a queue description is one that the runtime can serve (R354, R356). -/
def queueOk (j : JobDesc) (q : QueueDesc) : Bool :=
  decide (q.queue < 4) && decide (q.ctx < 4) && decide (q.qbase % 64 = 0) && decide (q.region < j.regions.length) &&
  [1, 2, 4, 8, 16, 32, 64, 128, 256].contains q.size &&
  ((j.queues.filter fun p => p.queue == q.queue).length == 1) &&
  j.queues.all fun p => p.region != q.region || p.ctx == q.ctx

/-- The window of a context that a cell section gives. -/
def sectionWin (i : CellImage) (x n : Nat) : Win :=
  match i.wins.find? fun q => q.1 == x && q.2.1 == n with
  | some q => winOfWords q.2.2
  | none => {}

/-- Whether the window through which a root reaches a queue is what R354 asks. -/
def queueWindowOk (q : QueueDesc) (w : Win) : Bool :=
  bit w.w0 31 && winKind w == .loft && winMode w == .update && bit w.w0 24 &&
  decide (w.base.toNat ≤ q.qbase) && decide (q.qbase + 64 + 64 * q.size ≤ w.base.toNat + bits w.w2 0 28)

/-- Opens one launch queue: its header line, and the launch tag of its root bound to the start stub, with the notice tags of the stub's context
(R349, R354, R356). Every staged mapping must give the root its window (R354). -/
def openQueue (j : JobDesc) (regs : List Nat) (acc : State × List LQueue) (q : QueueDesc) : Option (State × List LQueue) :=
  let s := acc.1
  let r := (regs[q.region]?).getD 0
  let root := regionOrigin s r
  let wins := (regionAt s r).staged.map fun m => (sectionAt m.2 0 0).map fun i => sectionWin i q.ctx q.window
  if wins.all fun w => queueWindowOk q (w.getD {}) then
    let head : List Word := [0, 0, wordOf (q.prio % 4), wordOf q.size] ++ List.replicate 12 0
    let s := writeContent s (loftKey root) [(q.qbase, head)]
    let binds := (0xD0, sysBind 1 q.ctx j.stub) :: noticeBinds j.notices fun x => x == q.ctx
    let s := modCore s root fun k => { k with bindings := binds.foldl (fun t b => Tbl.put t b.1 b.2) k.bindings }
    let e : LQueue := { queue := q.queue, root := root, region := r, ctx := q.ctx, key := loftKey root q.qbase, size := q.size }
    some (s, acc.2 ++ [e])
  else none

/-- An export that the driver opens (R417, R437, R438). -/
def openExport (j : JobDesc) (regs : List Nat) (s : State) (e : Nat × ExportDesc) : State :=
  let at_ (x y : Nat) : Nat := ((regionCells s ((regs[e.2.region]?).getD 0))[y * (regionAt s ((regs[e.2.region]?).getD 0)).w + x]?).getD 0
  { s with exports := Tbl.put s.exports e.1 {
      known := true
      tenant := j.tenant
      cell := at_ e.2.x e.2.y
      ctx := e.2.ctx
      window := e.2.window
      completion := e.2.completion.map fun p => (at_ p.1 p.2.1, p.2.2)
      receive := e.2.receive } }

/-- A peer handle that the driver opens (R436, R439): a ROD PDC begins on path PDC mod 16. -/
def openPeer (s : State) (p : Nat × PeerDesc) : State :=
  { s with peers := Tbl.put s.peers p.1 {
      known := true
      port := p.2.port
      mode := p.2.mode
      pdc := p.2.pdc
      evbase := p.2.evbase
      path := p.2.pdc % 16
      paths := (List.range 16).map fun i => (i, { ackAt := s.tickNo }) } }

/-- What the driver stages, exports and maps with a job (R267, R417, R418, R436). -/
def openDriver (j : JobDesc) (regs : List Nat) (s : State) : State :=
  let s := j.exports.foldl (openExport j regs) (j.peers.foldl openPeer s)
  let s := j.pageRoots.foldl (fun s p => modPort s p.1 fun x => { x with ptRoot := p.2 }) s
  { s with catalogue := j.subgraphs.foldl (fun t g => Tbl.put t g.1 (some g.2)) s.catalogue }

/-- AR4 takes the digest of each object image of a job, in region order (R348, R411; notes/assumptions/7.md). -/
def measureJob (j : JobDesc) (s : State) : State :=
  j.regions.foldl (fun s d => extendAr s 4 (sha3 (d.image.flatMap fun w => leBytes 4 w.toNat))) s

/-- Loads the placed regions of a job, its queues and its table entry (R348, R351, R354). -/
def loadJob (s : State) (j : JobDesc) (regs : List Nat) : Option State :=
  (foldTry loadRegion s regs).bind fun s =>
  (foldTry (openQueue j regs) (s, []) j.queues).map fun q =>
    let s := openDriver j regs (measureJob j q.1)
    let e : Job := { tenant := j.tenant, queues := q.2, regions := regs, active := true }
    { s with jobs := Tbl.put s.jobs j.job (some e) }

/-- Whether a job's description may be loaded. -/
def jobOk (s : State) (j : JobDesc) : Bool :=
  s.booted && (Tbl.get none s.jobs j.job).isNone && decide (j.job < 65536) && j.regions.all descOk && j.queues.all (queueOk j) &&
  j.subgraphs.all (fun g => descOk g.2.desc && imageOk false g.2.desc) && j.regions.all (imageOk j.firmware) &&
  (j.firmware || j.regions.all fun d => d.core.isNone) &&
  j.peers.all fun p => decide (p.2.pdc < 65536) && p.2.mode != .uud

/-- A job with the bases of its windows resolved (R245). -/
def resolveJob (j : JobDesc) : Option JobDesc :=
  (mapTry (resolveRegion j.bases) j.regions).bind fun rs =>
  (mapTry (fun (g : Nat × Subgraph) => (resolveRegion j.bases g.2.desc).map fun d => (g.1, { g.2 with desc := d })) j.subgraphs).map fun gs =>
    { j with regions := rs, subgraphs := gs }

/-- JOB_LOAD: the driver's job is placed and loaded, or nothing of it is (R348, R351, R363). -/
def execJobLoad (j : JobDesc) (s : State) : Host.Outcome State Fault Refusal :=
  match (if jobOk s j then resolveJob j else none) with
  | none => .next (report s (.jobFailed j.job))
  | some j =>
    match placeAll j s j.regions with
    | none => .next (report s (.jobNoSpace j.job))
    | some (t, regs) =>
      match loadJob t j regs with
      | some t => .next (report ((regs.flatMap (regionCells t)).foldl settleCore t) (.jobActive j.job))
      | none => .next (report s (.jobFailed j.job))

end Sys2Proof.Machine
end

