-- ==== Sys2Proof/Machine/Zone.lean ====
section
/-! DEFINITION. The save zone of a loft (R382, R383, R379, R391): its slots, undo log and undo directory. The model keeps their contents
as the records `Snap` and `Undo`, and this file gives the words at which they lie (notes/assumptions/84.md). -/

namespace Sys2Proof.Machine

open Sys2Proof

/-! ### Slots -/

/-- Where a slot begins in its loft (R382). -/
def slotBase (b : Bool) : Nat := if b then 0x1DE000 else 0x1C0000

/-- The fixed part of a slot, in bytes (R383). -/
def slotFixed : Nat := 118976

/-- VALID, word 0 of a slot's header (R383). -/
def slotHeader (p : Snap) : Word :=
  wordOf ((if p.sealed_ then 2 ^ 31 else 0) + (if p.complete then 2 ^ 30 else 0) + p.recorded.length % 512)

/-- Whether a slot's VALID word says COMPLETE (R383). -/
def slotComplete (p : Snap) : Bool := bit (slotHeader p) 30

/-- An engine with its accumulators taken out, as the slot's containers hold them (R65, R383). -/
def packMx (m : Mx) : Mx := { m with acc := [], mac := [], side := [] }

/-- The containers of a list of accumulators (R65). -/
def accCodes (tick : Nat) (m : Mx) (t : Tbl El) : Tbl Nat :=
  t.map fun p => (p.1, accCode (mxMode m) (Config.freeNanFraction tick) p.2)

/-- The accumulators of a list of containers (R65). -/
def accValues (m : Mx) (t : Tbl Nat) : Tbl El := t.map fun p => (p.1, accDecode (mxMode m) p.2)

/-- The engine that a slot holds (R383). -/
def unpackMx (p : Snap) : Mx :=
  let m := p.core.mx
  { m with acc := accValues m p.acc, mac := accValues m p.mac, side := accValues m p.side }

/-! ### Words of a record -/

/-- Word 0 of a pending entry (R379). -/
def entryWord0 (p : Entry) : Word :=
  let st := match p.st with | .free => 0 | .opened => 1 | .refused => 2 | .faulted => 3
  wordOf (st * 2 ^ 30 + p.kind % 16 * 2 ^ 24 + (match p.cause with | some k => causeCode k | none => 0) * 2 ^ 16 +
    p.lanes % 256 * 2 ^ 8 + p.lsid % 32)

/-- Word 1 of a pending entry (R379). -/
def entryWord1 (p : Entry) : Word := wordOf (p.slot % 128 * 2 ^ 22 + p.owner % 2 ^ 22)

/-- Word `i` of a pending entry's 18 (R379). -/
def entryWord (p : Entry) (i : Nat) : Word :=
  if i = 0 then entryWord0 p else if i = 1 then entryWord1 p
  else if i < 10 then p.addrs.get (i - 2) else p.data.get (i - 10)

/-- Word `i` of a window (R285). -/
def winWord (w : Win) (i : Nat) : Word := match i with | 0 => w.w0 | 1 => w.base | 2 => w.w2 | _ => w.param

/-- Word `i` of a context's record: registers, pending table, windows and channels (R383); the rest has no layout. -/
def recordWord (v : Context) (i : Nat) : Option Word :=
  if i < 512 then some ((Tbl.get (Lanes.all 0) v.regs (i / 8)).get (i % 8))
  else if i < 1088 then some (entryWord (entryOf v ((i - 512) / 18)) ((i - 512) % 18))
  else if i < 1152 then some (winWord (Tbl.get {} v.wins ((i - 1088) / 4)) ((i - 1088) % 4))
  else if i < 1216 then some (Tbl.get 0 v.chans (i - 1152))
  else none

/-- The word of an SRAM copy at a byte address. -/
def copyWord (bytes : List Host.Cell) (a : Nat) : Word := wordOf (leNat (memGetBytes bytes a 4))

/-- The presence bits of 32 words from a byte address on (R290). -/
def presenceWord (full : List Nat) (a : Nat) : Word :=
  wordOf ((List.range 32).foldl (fun n i => if full.contains (a + 4 * i) then n + 2 ^ i else n) 0)

/-- Word `i` of a slot: header, the contexts' records, SRAM and its presence bits; the other items have no layout (R383). -/
def slotWord (p : Snap) (i : Nat) : Option Word :=
  if i = 0 then some (slotHeader p)
  else if i < 16 then none
  else if i < 6160 then recordWord (Tbl.get {} p.core.ctxs ((i - 16) / 1536)) ((i - 16) % 1536)
  else if i < 12848 then none
  else if i < 29232 then some (copyWord p.sram (4 * (i - 12848)))
  else if i < 29744 then some (presenceWord p.full (128 * (i - 29232)))
  else none

/-! ### The undo log -/

/-- The directory word of a record (R391). -/
def dirWord (u : Undo) : Word :=
  let line := keyAddr u.line / 64
  match u.copy with
  | some _ => wordOf (2 ^ 31 + line % 2 ^ 16)
  | none => wordOf ((List.range 16).foldl (fun n i => if u.full.contains (u.line + 4 * i) then n + 2 ^ (15 + i) else n) (line % 2 ^ 15))

/-- The key of the line that a directory word names (R391). -/
def dirLine (c : Nat) (w : Word) : Nat := loftKey c (64 * (if bit w 31 then bits w 0 16 else bits w 0 15))

/-- The full words that a bits-only directory word names (R391). -/
def dirFull (c : Nat) (w : Word) : List Nat :=
  ((List.range 16).filter fun i => bit w (15 + i)).map fun i => dirLine c w + 4 * i

/-- The line copies of a cell's undo log, in order (R382). -/
def undoCopies (k : Cell) : List (List Byte) := k.undo.filterMap fun u => u.copy

/-! ### The zone -/

/-- The word at a byte address of a cell's save zone, where the spec lays one out (R382). -/
def zoneWord (k : Cell) (a : Nat) : Option Word :=
  if a < 0x1C0000 then none
  else if a < 0x1DE000 then (slotAt k false).bind fun p => slotWord p ((a - 0x1C0000) / 4)
  else if a < 0x1FC000 then (slotAt k true).bind fun p => slotWord p ((a - 0x1DE000) / 4)
  else if a < 0x1FF800 then
    ((undoCopies k)[(a - 0x1FC000) / 64]?).map fun bs => wordOf (leNat ((bs.drop (a % 64 / 4 * 4)).take 4))
  else (k.undo[(a - 0x1FF800) / 4]?).map dirWord

/-- Whether a span of a cell's loft holds an uncorrectable line (R283). -/
def zoneBad (s : State) (c a b : Nat) : Bool := s.bad.any fun k => decide (loftKey c a ≤ k) && decide (k < loftKey c b)

/-- Whether a slot of a cell meets an uncorrectable error (R382, R389, R396). -/
def slotBad (s : State) (c : Nat) (b : Bool) : Bool := zoneBad s c (slotBase b) (slotBase b + 0x1E000)

/-- Whether the undo log or directory of a cell meets an uncorrectable error (R382). -/
def undoBad (s : State) (c : Nat) : Bool := zoneBad s c 0x1FC000 0x200000

/-- The rows that the save engine's pass over `n` bytes of a slot opens, in address order (R452; notes/assumptions/84.md). -/
def touchSlot (s : State) (c : Nat) (b : Bool) (n : Nat) : State :=
  (List.range ((n + 1023) / 1024)).foldl (fun s i => touchRow s (loftKey c (slotBase b + 1024 * i)) .policy) s

/-- The row of a slot's header, which the save engine writes last (R383, R452). -/
def touchHeader (s : State) (c : Nat) (b : Bool) : State := touchRow s (loftKey c (slotBase b)) .policy

end Sys2Proof.Machine
end

