-- ==== Sys2Proof/Machine/Cuts.lean ====
section
/-! DEFINITION. Cuts, saves and roll-backs as operations (R382 to R398): starting a cut, saving a cell, completing and aborting,
restoring a context and rolling a region back. -/

namespace Sys2Proof.Machine

open Sys2Proof

/-! ### Cuts -/

/-- Whether CUT is refused for a region (R384). -/
def cutRefused (g : Region) : Bool :=
  g.st == .free || g.st == .loading || g.st == .saved || g.cut.isSome || g.rolling.isSome

/-- A cut starts: the start peg leaves for the region's origin (R384). -/
def startCut (s : State) (r sub : Nat) (req : Option MgmtFn) : State :=
  let o := regionOrigin s r
  post (modRegion s r fun g => { g with cut := some { sub := sub, req := req } }) o o 4 (.peg r)

/-- Whether an awaited Reply operation stands in a frame (R385). -/
def awaitsReply (f : Frame) : Bool := f.waits.any fun w => w.lsid.isSome && w.unsent.isEmpty

/-- Whether a user context is inside a NOPRE section (R385). -/
def ctxNopre (s : State) (c x : Nat) : Bool :=
  let v := ctxOf s c x
  v.nopre && (v.frame.isSome || insideNopre s c v)

/-- Whether a cell may save now (R385). -/
def atSavePoint (s : State) (c : Nat) : Bool :=
  let k := cellOf s c
  k.peg && !k.savedPoint && coreActs s c && k.slot.isNone && slotIdle s c &&
  userCtxs.all (fun x => !ctxNopre s c x &&
    (match (ctxOf s c x).frame with
     | some f => !awaitsReply f
     | none => true)) &&
  k.core.units.all fun p => decide (p.1 < 2) || (p.2.asked.isEmpty && p.2.endings.isEmpty)

/-- Discards the frames of a cell's user contexts (R294, R385). -/
def dropAll (s : State) (c : Nat) : State :=
  userCtxs.foldl (fun s x => dropFrames (cutSpec s c x fun _ => true) c x) s

/-- Read units forget what they have read ahead or asked for, and read it again (R210, R385; notes/assumptions/74.md). -/
def dropReads (k : Core) : Core :=
  { k with units := k.units.map fun p => (p.1, if p.1 < 2 then { p.2 with asked := [], got := [], ahead := [] } else p.2) }

/-- The record of a context as a slot holds it: with a SAVED context its record is copied (R394). -/
def slotRecord (k : Cell) (x : Nat) : Context :=
  let v := Tbl.get ({} : Context) k.core.ctxs x
  if v.st = .saved then
    match slotAt k (recordB k x) with
    | some p => Tbl.get v p.core.ctxs x
    | none => v
  else v

/-- What a save point writes into the idle slot (R383): waiter and take entries are no part of it (R169, R397). -/
def takeSnap (s : State) (c : Nat) : Snap :=
  let k := cellOf s c
  { core := { k.core with
      gcache := []
      waiters := []
      mx := packMx k.core.mx
      ctxs := k.core.ctxs.map fun p => (p.1, slotRecord k p.1) }
    acc := accCodes s.tickNo k.core.mx k.core.mx.acc
    mac := accCodes s.tickNo k.core.mx k.core.mx.mac
    side := accCodes s.tickNo k.core.mx k.core.mx.side
    sram := sramOf s c
    full := sramFull s c
    complete := false
    sealed_ := false
    saved := userCtxs.filter fun x => (Tbl.get ({} : Context) k.core.ctxs x).st == .saved
    colour := k.colour
    counts := [k.sentOld, k.recvOld, k.sentNew, k.recvNew, k.sentDyn, k.recvDyn] }

/-- The record flags of a cell whose idle slot is being written (R394, R396): the record of a context that is not SAVED is overwritten. -/
def keepRecords (k : Core) : Core :=
  { k with ctxs := k.ctxs.map fun p => (p.1, { p.2 with record := p.2.record && p.2.st == .saved }) }

/-- The save point of a cell (R384, R385, R391, R393): frames go, cached group entries go to the loft (R321), the slot's copy is taken, the
colour flips and the cell pauses; with SUB 1 its contexts become SAVED. -/
def savePoint (s : State) (c sub : Nat) : State :=
  let s := flushGroups (modCore (dropAll s c) c dropReads) c
  let p := takeSnap s c
  let s := modCore s c keepRecords
  modCell (touchSlot s c (idleB (cellOf s c)) slotFixed) c fun k =>
    let k := setSlot k (idleB k) (some p)
    { k with
      colour := !k.colour
      savedPoint := true
      paused := true
      undoMark := k.undo.length
      core := if sub = 0 then k.core
        else { k.core with ctxs := userCtxs.foldl (fun t x =>
          Tbl.put t x { Tbl.get ({} : Context) t x with st := .saved }) k.core.ctxs } }

/-! ### Completion and abort -/

/-- Whether a message travels inside region `r`. -/
def insideRegion (s : State) (r : Nat) (m : Msg) : Bool := regionOf s m.src == some r && regionOf s m.dst == some r

/-- Whether a request of an asker stands at its owner, not recorded by a slot: in an update slot, in a spawn hold, or in a spawn tree whose
acknowledgements are still to come (R388). -/
def stands (k : Core) (a : Asker) : Bool :=
  (k.updQ.any fun u => u.r.asker == a && !u.recorded) || (k.updTok.any fun u => u.r.asker == a && !u.recorded) ||
  (match k.updCur with | some u => u.r.asker == a && !u.recorded | none => false) ||
  (k.spawnHold.any fun m => m.asker == a) || k.spawnTrees.any fun t => t.m.asker == a

/-- Whether an answer to entry `i` of a context may still come during the cut: a message about it travels that no slot has recorded, or its
request stands at its owner (R388; notes/assumptions/31.md). -/
def stillAwaits (s : State) (c x i : Nat) : Bool :=
  (s.net.any fun m => !m.recorded && bodyAsker m.body == some (.entry c x i)) || s.cells.any fun p => stands p.2.core (.entry c x i)

/-- Whether the slot that a cell writes holds an OPEN entry that awaits its answer (R388). -/
def slotAwaits (s : State) (c : Nat) : Bool :=
  let k := cellOf s c
  match slotAt k (idleB k) with
  | some p => p.core.ctxs.any fun q => q.2.pend.any fun e => e.2.st == .opened && stillAwaits s c q.1 e.1
  | none => true

/-- Whether the save fails at a cell (R389): the zone that it writes is uncorrectable, or it is dead before it saves. -/
def saveFails (s : State) (c : Nat) : Bool :=
  let k := cellOf s c
  if k.savedPoint then slotBad s c (idleB k) || undoBad s c else isDead s c

/-- The completion test of a sweep (R373, R388): no save has failed (R389). -/
def cutComplete (s : State) (r : Nat) : Bool :=
  let cs := regionCells s r
  let xs := cs.map (cellOf s)
  !regionTripped s r && xs.all (fun x => x.savedPoint && !x.paused) && (xs.map fun x => x.sentOld).sum == (xs.map fun x => x.recvOld).sum &&
  cs.all fun c => !slotAwaits s c && !saveFails s c

/-- Messages of a region that outlive a cut take one colour; one that was recorded counts anew from here (R387, R388). -/
def recolour (s : State) (r : Nat) : State :=
  s.net.foldl (fun s m =>
    if m.recorded && insideRegion s r m then
      let s := modCell s m.src fun x => { x with sentOld := x.sentOld + 1 }
      modCell s m.dst fun x => { x with recvDyn := if m.vc < 6 then x.recvDyn - 1 else x.recvDyn }
    else s)
    { s with net := s.net.map fun m =>
        if insideRegion s r m then { m with colour := (cellOf s m.dst).colour, recorded := false } else m }

/-- A cell seals its slot (R384, R391). -/
def sealCell (k : Cell) : Cell :=
  let b := idleB k
  let k := setSlot k b ((slotAt k b).map fun p => { p with complete := true, sealed_ := true })
  { k with
    lastB := b
    undo := k.undo.drop k.undoMark
    undoMark := 0
    sentOld := k.sentNew
    recvOld := k.recvNew
    sentNew := 0
    recvNew := 0
    savedPoint := false
    peg := false
    core := { k.core with ctxs := k.core.ctxs.map fun p => (p.1, { p.2 with record := false }) } }

/-- Tells whoever asked for a cut (R384, R389). -/
def cutReply (s : State) (req : Option MgmtFn) (status : Nat) (detail : Word) : State :=
  match req with
  | some m => mgmtReply s m status detail
  | none => s

/-- The cells of a region go on after a change (R25). -/
def settleRegion (s : State) (r : Nat) : State := (regionCells s r).foldl settleCore s

/-- A cut that firmware took to change a region's width is complete: MAPSEL follows (R366). -/
def planMapsel (s : State) (r : Nat) : State :=
  match (regionAt s r).plan with
  | some m =>
    let b := fabricManager (regionOrigin s r)
    post s b b 4 (.cfg (.mapsel (handleWord s r) m 0) 0 .nobody)
  | none => s

/-- A cut is complete (R384, R393). -/
def completeCut (s : State) (r : Nat) (k : Cut) : State :=
  let s := (regionCells s r).foldl (fun s c => modCell (touchHeader s c (idleB (cellOf s c))) c sealCell) s
  let s := recolour s r
  let s := modRegion s r fun g => { g with
    cut := none
    complete := true
    st := if k.sub != 0 then .saved else if g.selects.isEmpty then g.st else .draining
    hold := k.sub != 0 }
  settleRegion (planMapsel (cutReply s k.req 0 0) r) r

/-- A cell of a region whose cut fails (R389): it clears SEALED, keeps its last complete slot and its undo log, and runs on; contexts
that a SUB 1 cut had made SAVED are resident again. -/
def abortCell (k : Cell) : Cell :=
  let b := idleB k
  if k.savedPoint then
    let was (x : Nat) : Option Context :=
      match slotAt k b with
      | some p => if p.saved.contains x then none else (p.core.ctxs.find? fun q => q.1 == x).map fun q => q.2
      | none => none
    let core := { k.core with ctxs := k.core.ctxs.map fun p =>
      (p.1, match was p.1 with | some w => if p.2.st = .saved then { p.2 with st := w.st } else p.2 | none => p.2) }
    { setSlot k b ((slotAt k b).map fun p => { p with complete := false, sealed_ := false, recorded := [] }) with
      core := core
      colour := !k.colour
      sentOld := k.sentOld + k.sentNew
      recvOld := k.recvOld + k.recvNew
      sentNew := 0
      recvNew := 0
      savedPoint := false
      peg := false
      paused := false
      stopped := false
      undoMark := 0 }
  else { k with peg := false }

/-- A cut fails at cell `c` (R389). -/
def abortCut (s : State) (r c : Nat) (k : Cut) : State :=
  let s := { s with net := s.net.filter fun m => match m.body with | .peg q => q != r | _ => true }
  let s := (regionCells s r).foldl (fun s c => modCell s c abortCell) s
  let s := s.net.foldl (fun s m =>
    if m.recorded && insideRegion s r m then
      modCell s m.dst fun x => { x with
        recvOld := x.recvOld - 1
        recvDyn := if m.vc < 6 then x.recvDyn - 1 else x.recvDyn }
    else s) s
  let s := { s with net := s.net.map fun m =>
        if insideRegion s r m then { m with colour := (cellOf s m.dst).colour, recorded := false } else m }
  let s := modRegion s r fun g => { g with cut := none, plan := none, st := if g.selects.isEmpty then g.st else .draining }
  settleRegion (cutReply s k.req 17 (maWord c)) r

/-! ### One context -/

/-- The slot that SAVE writes (R394), as it stands or empty. -/
def saveSlot (k : Cell) : Snap := (slotAt k (idleB k)).getD { core := {}, sram := [], full := [], complete := false, sealed_ := false }

/-- A context is written to the idle slot and becomes SAVED (R394). -/
def saveContext (s : State) (c x : Nat) : State :=
  let s := cutSpec s c x fun _ => true
  let v := { ctxOf s c x with saves := [] }
  let s := modCell (touchSlot s c (idleB (cellOf s c)) (64 + 6144 * (x + 1))) c fun k =>
    let p := saveSlot k
    setSlot k (idleB k) (some { p with core := { p.core with ctxs := Tbl.put p.core.ctxs x v } })
  putCtx s c x { v with st := .saved, record := true }

/-- Whether a user context stands where SAVE takes it: IDLE, HALTED, or at a block boundary outside NOPRE (R394). -/
def mayBeSaved (s : State) (c x : Nat) : Bool :=
  let v := ctxOf s c x
  v.frame.isNone && v.st != .saved && !insideNopre s c v && !inSlot s c x

/-- The newest COMPLETE record of a context (R396). -/
def newestRecord (k : Cell) (x : Nat) : Option Context :=
  match slotAt k (recordB k x) with
  | some p =>
    if slotComplete p || (Tbl.get ({} : Context) k.core.ctxs x).record then
      some (Tbl.get {} p.core.ctxs x)
    else none
  | none => none

/-- What a context is restored to: its record, with what reached it while it was SAVED (R377, R395, R396). -/
def restored (v w : Context) (cyc : Nat) : Context :=
  { w with
    pend := if v.st = .saved then v.pend else w.pend
    lateQ := if v.st = .saved then v.lateQ else w.lateQ
    flags := if v.st = .saved then v.flags else w.flags
    collq := v.collq
    cfgOut := v.cfgOut
    winsets := v.winsets
    saves := v.saves
    record := v.record
    frame := none
    spec := []
    waitSince := cyc }

/-! ### Roll-back -/

/-- Undoes one record of a cell's log, by its directory word: a copy restores the line's data and bits, a bits-only record the bits (R391,
R397). -/
def undoOne (c : Nat) (s : State) (u : Undo) : State :=
  let w := dirWord u
  let line := dirLine c w
  let s := match u.copy with
    | some bs => { s with mem := memPutBytes s.mem line bs }
    | none => s
  let full := if bit w 31 then u.full else dirFull c w
  { s with full := full.foldl keyInsert (s.full.filter fun w => !(decide (line ≤ w) && decide (w < line + 64))) }

/-- The rollback engine reads record `i` of a log and writes its line (R382, R397, R452). -/
def undoStep (c : Nat) (us : List Undo) (s : State) (i : Nat) : State :=
  match us[i]? with
  | some u =>
    let s := touchRow s (undoDirKey c i) .policy
    let s := match u.copy with
      | some _ => touchRow s (undoCopyKey c ((us.take i).filter fun r => r.copy.isSome).length) .policy
      | none => s
    touchRow (undoOne c s u) u.line .policy
  | none => s

/-- A core applies its undo log from the newest record to the oldest (R397). -/
def undoAll (s : State) (c : Nat) : State :=
  let us := (cellOf s c).undo
  modCell ((List.range us.length).reverse.foldl (undoStep c us) s) c fun k => { k with undo := [], undoMark := 0 }

/-- An asker of a region's cells, whose waits a roll-back abandons (R397). -/
def leaves (s : State) (r : Nat) : Asker → Bool
  | .frame c _ _ _ => regionOf s c == some r
  | .entry c _ _ => regionOf s c == some r
  | .freed c _ _ _ _ => regionOf s c == some r
  | .engine c _ => regionOf s c == some r
  | _ => false

/-- The waits of a region's requests that have left it are abandoned: they go on for nobody, and their deferred reads are forgotten (R397,
R398). -/
def abandonWaits (s : State) (r : Nat) : State :=
  let a (k : Asker) : Asker := if leaves s r k then .nobody else k
  let q (m : MemReq) : MemReq := { m with asker := a m.asker }
  let n (m : SpawnMsg) : SpawnMsg := { m with asker := a m.asker }
  let core (k : Core) : Core := { k with
    updQ := k.updQ.map fun u => { u with r := q u.r }
    updTok := k.updTok.map fun u => { u with r := q u.r }
    updCur := k.updCur.map fun u => { u with r := q u.r }
    waiters := k.waiters.filter fun w => !leaves s r w.asker || isTake w
    spawnQ := k.spawnQ.map n
    spawnHold := k.spawnHold.map n
    spawnTrees := k.spawnTrees.map fun t => { t with m := n t.m } }
  { s with
    net := s.net.map fun m => { m with body := mapAsker a m.body }
    cells := s.cells.map fun p => (p.1, if regionOf s p.1 = some r then p.2 else { p.2 with core := core p.2.core }) }

/-- A region stops for a roll-back: its boundary holds, frames are discarded, waits abandoned, and messages inside it are gone; what has
left it goes on without an answer (R397, R398). -/
def stopRegion (s : State) (r : Nat) (req : Option MgmtFn) : State :=
  let s := (regionCells s r).foldl (fun s c => modCell (dropFrames (dropAll s c) c 4) c fun k => { k with
    stopped := true
    paused := false
    peg := false
    savedPoint := false }) s
  let s := { s with net := s.net.filter fun m =>
    !(insideRegion s r m || (isAnswer m.body && regionOf s m.dst == some r) || (match m.body with | .peg q => q == r | _ => false)) }
  modRegion (abandonWaits s r) r fun g => { g with rolling := some req, hold := true, cut := none }

/-- Loads a cell's last complete slot (R397). A SAVE or a window write that a bay controller has asked for goes on waiting for its context's
boundary (R228, R288). -/
def loadSlot (s : State) (c : Nat) : State :=
  let k := cellOf s c
  match slotAt k k.lastB with
  | none => s
  | some p =>
    let core := { p.core with mx := unpackMx p, ctxs := p.core.ctxs.map fun q =>
      (q.1, { q.2 with
        frame := none
        spec := []
        saves := (ctxOf s c q.1).saves
        winsets := (ctxOf s c q.1).winsets
        record := false
        st := if p.saved.contains q.1 then .saved else q.2.st }) }
    let s := loadSram (touchSlot s c k.lastB slotFixed) c p.sram p.full
    let s := modCell s c fun k => { k with
      core := core
      slot := none
      colour := false
      sentOld := 0
      recvOld := 0
      sentNew := 0
      recvNew := 0
      sentRt := []
      recvRt := []
      sentDyn := 0
      recvDyn := 0
      stopped := false
      cutAsked := false }
    s

/-- Recorded messages of a cell are delivered again, ahead of any new arrival (R397). -/
def redeliver (s : State) (c : Nat) : State :=
  let k := cellOf s c
  match slotAt k k.lastB with
  | none => s
  | some p =>
    let ms := p.recorded.map fun m => { m with dst := c, at_ := c, colour := false, recorded := false, wait := 0 }
    let s := ms.foldl (fun s m => modCell s m.src fun x => { x with
      sentOld := x.sentOld + 1
      sentDyn := if m.vc < 6 then x.sentDyn + 1 else x.sentDyn }) s
    { s with net := ms ++ s.net }

/-- Rebuilds a region's own labels and the channels of its mapping (R397). -/
def rebuildLabels (s : State) (r : Nat) : State :=
  let g := regionAt s r
  let own (p : Nat × Word) : Bool := decide (p.1 < 32) || bits p.2 0 12 != r || bit p.2 28
  let t := { s with cells := s.cells.map fun p => (p.1, { p.2 with labels := p.2.labels.filter own }) }
  match (stageMappings t r).bind fun t => mappingConfigs t r g.mapping with
  | some q => q.2.foldl (fun s p => installChans s p.1 p.2.chans) q.1
  | none => s

/-- The roll-back of a stopped region, whose dead cells have been replaced (R397). -/
def rollBack (s : State) (r : Nat) (req : Option MgmtFn) : State :=
  let cs := regionCells s r
  let s := cs.foldl undoAll s
  let s := cs.foldl loadSlot s
  let s := cs.reverse.foldl redeliver s
  let s := rebuildLabels s r
  let s := modRegion s r fun g => { g with
    rolling := none
    hold := false
    ended := false
    watched := none
    cut := none
    sums := none
    st := if g.selects.isEmpty then .resident else .draining }
  settleRegion (cutReply s req 0 0) r

end Sys2Proof.Machine
end

