-- ==== Sys2Proof/Machine/PowerEv.lean ====
section
/-! DEFINITION. Energy, voltage, clocks and limits (R138, R276, R278, R364 to R373). -/

namespace Sys2Proof.Machine

open Sys2Proof

/-! ### Energy -/

/-- ENERGY_UPDATE: at the end of 1,024 cycles whole units of 16,000 fJ move into ENERGY and into the bay's BENERGY (R138, R364, R365). -/
def execEnergyUpdate (c : Nat) (s : State) : Host.Outcome State Fault Refusal :=
  let x := cellOf s c
  if !x.inReset && decide (x.energyMark + 1024 ≤ x.cyc) then
    let e := x.energyAcc + Config.openEnergy s.tickNo
    let s := modCell s c fun x => { x with
      energy := x.energy + wordOf (e / 16000)
      energyAcc := e % 16000
      energyMark := x.energyMark + 1024 }
    .next (if isCellCore c then modBay s (bayOf c) fun b => { b with benergy := b.benergy + wordOf (e / 16000) } else s)
  else .next s

/-- Whether a bay's power exceeds its budget; a bay that has been given none has no limit (R366; notes/assumptions/26.md). -/
def overBudget (b : Bay) : Bool := match b.budget with | some n => decide (n < b.power) | none => false

/-- BAY_POWER_SAMPLE: every microsecond the bay controller forms the bay's power from the difference of two readings of BENERGY (R365), and counts
the microseconds in a row at which it exceeds the bay's budget (R366). -/
def execBayPowerSample (b : Nat) (s : State) : Host.Outcome State Fault Refusal :=
  .next (modBay s b fun b =>
    let v := { b with power := (b.benergy - b.lastEnergy).toNat, lastEnergy := b.benergy }
    { v with overdrawn := if overBudget v then v.overdrawn + 1 else 0 })

/-- The sill processors give a bay its share of the module budget, within what the other bays leave of it (R366). -/
def giveBayBudget (s : State) (b n : Nat) : State :=
  let rest := ((s.bays.filter fun p => p.1 != b).map fun p => p.2.budget.getD 0).sum
  match s.modBudget with
  | some m => if rest + n ≤ m then modBay s b fun v => { v with budget := some n } else s
  | none => modBay s b fun v => { v with budget := some n }

/-! ### Issue duty -/

/-- ISDUTY: a write to the issue duty register of a cell (R367, R368). -/
def execIsdutyWrite (c : Nat) (w : Word) (s : State) : Host.Outcome State Fault Refusal :=
  .next (if isDead s c || !isCellCore c then s else writeDuty s c w)

/-- The widest staged mapping whose power in the catalogue is at or below a share (R366): the lowest number. -/
def widestWithin (g : Region) (share : Nat) : Option Nat :=
  [0, 1, 2].find? fun m => g.staged.any (fun p => p.1 == m) && g.powers.any fun p => p.1 == m && decide (p.2 ≤ share)

/-- Firmware changes a region to the widest mapping within its budget share, when that is another than the current one: it takes a cut, and
MAPSEL follows (R366; notes/assumptions/79.md). -/
def changeWidth (s : State) (r : Nat) : State :=
  let g := regionAt s r
  match widestWithin g g.share with
  | some m =>
    if m = g.mapping ∨ g.plan.isSome = true ∨ cutRefused g = true then s
    else startCut (modRegion s r fun g => { g with plan := some m }) r 0 none
  | none => s

/-- Whether a region has a cell in a bay. -/
def inBay (s : State) (r b : Nat) : Bool := (regionCells s r).any fun c => isCellCore c && bayOf c == b

/-- BUDGET_EXCEEDED: once a bay's power has exceeded its budget for 4 microseconds in a row, firmware throttles the cells of a region of the bay, and
changes to a mapping within the region's budget share (R366). -/
def execBudgetExceeded (b r : Nat) (allow : Word) (s : State) : Host.Outcome State Fault Refusal :=
  if (regionAt s r).st = .resident ∧ 4 ≤ (bayAt s b).overdrawn ∧ inBay s r b = true then .next (changeWidth (dutyRegion s r allow) r) else .next s

/-- The bay controller gives a region its share of the bay's budget; when it rises, firmware widens the region's mapping (R366). -/
def giveShare (s : State) (r share : Nat) : State :=
  let t := modRegion s r fun g => { g with share := share }
  if (regionAt s r).st = .resident ∧ (regionAt s r).share < share then changeWidth t r else t

/-! ### Voltage and clocks -/

/-- Cells that the state lists for a bay. -/
def listedCells (s : State) (b : Nat) : List (Nat × Cell) := s.cells.filter fun p => isCellCore p.1 && p.1 / 1024 == b

/-- Whether a bay has a cell on a spine; a cell that the state does not list is on spine6 (R276). -/
def bayUses (s : State) (b n : Nat) : Bool :=
  ((listedCells s b).any fun p => p.2.spine == n) || (n == 6 && decide ((listedCells s b).length < 1024))

/-- VMIN of the fastest spine that a cell of the bay selects (R370). -/
def bayVmin (s : State) (b : Nat) : Nat :=
  [0, 1, 2, 3, 4, 5, 6, 7].foldl (fun v n => if bayUses s b n && decide (v < vmin (spineMhz s n)) then vmin (spineMhz s n) else v) 550

/-- A write of BVSET: the target is clamped to 550 to 1,000 and to VMIN, and READY waits for the regulator (R365, R370). -/
def writeBvset (s : State) (b : Nat) (w : Word) : State :=
  let m := bits w 0 10
  let m := if m < 550 then 550 else if 1000 < m then 1000 else m
  let m := if m < bayVmin s b then bayVmin s b else m
  modBay s b fun x => if x.mv = m then x else { x with mv := m, ready := false }

/-- BVSET: a write to the bay's target voltage (R365, R370, R373). -/
def execBvsetWrite (b : Nat) (w : Word) (s : State) : Host.Outcome State Fault Refusal := .next (writeBvset s b w)

/-- Releases the cells of a bay whose reset waited for READY (R276). -/
def releaseBay (s : State) (b : Nat) : State :=
  if (bayAt s b).releasing then
    let s := (List.range 1024).foldl (fun s k => modCell s (b * 1024 + k) fun x => { x with inReset := false }) s
    modBay s b fun x => { x with releasing := false }
  else s

/-- REGULATOR_SETTLED: the output has settled; cells held in reset for it start (R276, R370). -/
def execRegulatorSettled (b : Nat) (s : State) : Host.Outcome State Fault Refusal :=
  .next (releaseBay (modBay s b fun x => { x with ready := true }) b)

/-- SPINE_RELOCK: a spine's generator has relocked, and its cells switch (R278, R370). -/
def execSpineRelock (n : Nat) (s : State) : Host.Outcome State Fault Refusal :=
  match s.spineNext.find? fun p => p.1 == n with
  | some p => .next { s with spines := Tbl.put s.spines n p.2, spineNext := s.spineNext.filter fun q => q.1 != n }
  | none => .next s

/-! ### Temperature -/

/-- A write of 1 to BTEMP.TRIP acts below 95 °C: the bay resumes (R365, R371). -/
def clearTrip (s : State) (b : Nat) : State :=
  if (bayAt s b).temp < 760 then
    let s := modBay s b fun x => { x with trip := false }
    (listedCells s b).foldl (fun s p => settleCore s p.1) s
  else s

/-- TRIP_CLEAR (R365). -/
def execTripClear (b : Nat) (s : State) : Host.Outcome State Fault Refusal := .next (clearTrip s b)

/-- A reading of a bay's sensor (R365, R448). -/
def readTemp (s : State) (b t : Nat) : State :=
  modBay s b fun b => { b with temp := t % 4096, tempMax := if b.tempMax < t % 4096 then t % 4096 else b.tempMax }

/-- TEMP_WARN: the sensor reading reaches WARN (R365). -/
def execTempWarn (b t : Nat) (s : State) : Host.Outcome State Fault Refusal :=
  let s := readTemp s b t
  .next (if (bayAt s b).warn ≤ t % 4096 then report s (.tempWarn b) else s)

/-- THERMAL_TRIP: at 105 °C the bay's engines stop, the bay controller and the sill processors are notified (R371), and these raise an alarm at
the port, since the bay has left the module's limits (R449). -/
def execThermalTrip (b t : Nat) (s : State) : Host.Outcome State Fault Refusal :=
  let s := readTemp s b t
  .next (if 840 ≤ t % 4096 then
      let s := report (modBay s b fun x => { x with trip := true, tripTemp := if x.trip then x.tripTemp else t % 4096 }) (.tripNotice b)
      if s.booted then report { s with alarm := true } .alarm else s
    else s)

/-! ### Rates -/

/-- A saturating count of 16 bits. -/
def sat16 (n : Nat) : Nat := if n < 65535 then n + 1 else 65535

/-- A bay at full rate drops to half rate (R365, R371). -/
def halfRate (s : State) (b : Nat) : State :=
  modBay s b fun x => if x.rate = .full then { x with rate := .half, nhalf := sat16 x.nhalf } else x

/-- DROOP (R371). -/
def execDroop (b : Nat) (s : State) : Host.Outcome State Fault Refusal := .next (halfRate s b)

/-- CURRENT_CAP (R371). -/
def execCurrentCap (b : Nat) (s : State) : Host.Outcome State Fault Refusal := .next (halfRate s b)

/-- QUARTER_RATE: the current has stayed above CAP for 2 µs at half rate (R371). -/
def execQuarterRate (b : Nat) (s : State) : Host.Outcome State Fault Refusal :=
  .next (modBay s b fun x => if x.rate = .half then { x with rate := .quarter, nquart := sat16 x.nquart } else x)

/-- RATE_RECOVERY: output and current have stayed within their limits for 1 µs (R371). -/
def execRateRecovery (b : Nat) (s : State) : Host.Outcome State Fault Refusal :=
  .next (modBay s b fun x => { x with rate := .full })

end Sys2Proof.Machine
end

