-- ==== Sys2Proof/Machine/CutEv.lean ====
section
/-! DEFINITION. Steps of cuts, saves and roll-backs (R384 to R397). -/

namespace Sys2Proof.Machine

open Sys2Proof

/-- The cut under way in a cell's region (R384). -/
def cutAt (s : State) (c : Nat) : Option (Nat × Cut) :=
  (regionOf s c).bind fun r => (regionAt s r).cut.map fun k => (r, k)

/-- CUT_START_PEG: the start peg reaches a cell, which holds arrivals from outside the region from then on (R384). -/
def execCutStartPeg (n : Nat) (s : State) : Host.Outcome State Fault Refusal :=
  match arrived s n with
  | none => .next s
  | some m =>
    match m.body with
    | .peg r =>
      let t := receive s n m
      if (regionAt s r).cut.isNone || isDead s m.dst || regionOf s m.dst != some r then .next t
      else
        let t := modCell t m.dst fun x => { x with peg := true }
        .next ((treeChildren t m.dst r).foldl (fun s d => post s m.dst d 4 (.peg r)) t)
    | _ => .next s

/-- SAVE_POINT (R384, R385, R386). -/
def execSavePoint (c : Nat) (s : State) : Host.Outcome State Fault Refusal :=
  match cutAt s c with
  | some p => if atSavePoint s c then .next (savePoint s c p.2.sub) else .next s
  | none => .next s

/-- FIXED_PART_WRITTEN: the cell resumes, or with SUB 1 stays stopped (R384, R386). -/
def execFixedPartWritten (c : Nat) (s : State) : Host.Outcome State Fault Refusal :=
  match cutAt s c with
  | some p =>
    if (cellOf s c).paused && (cellOf s c).savedPoint then
      .next (settleCore (modCell s c fun k => { k with paused := false, stopped := p.2.sub != 0 }) c)
    else .next s
  | none => .next s

/-- Whether message `n` stands at its destination as one that a slot must record first (R387). -/
def recordable (s : State) (n : Nat) : Option Msg :=
  match s.net[n]? with
  | some m => if m.at_ == m.dst && m.wait == 0 && !overtaken s n m && mustRecord s m then some m else none
  | none => none

/-- RECORDED_MESSAGE: a message of the old colour after the save point is appended to the slot (R387); the 82nd fails the save (R389). -/
def execRecordedMessage (n : Nat) (s : State) : Host.Outcome State Fault Refusal :=
  match recordable s n with
  | none => .next s
  | some m =>
    let k := cellOf s m.dst
    match slotAt k (idleB k), cutAt s m.dst with
    | some p, some q =>
      if 81 ≤ p.recorded.length then .next (abortCut s q.1 m.dst q.2)
      else
        let s := touchRow (countRecv s m) (loftKey m.dst (slotBase (idleB k) + slotFixed + 48 * p.recorded.length)) .policy
        let s := modCell s m.dst fun k => setSlot k (idleB k) (some { p with recorded := p.recorded ++ [m] })
        .next (putMsg s n { m with recorded := true })
    | _, _ => .next s

/-- The save fails at a cell: an uncorrectable save zone is an event of its bay (R389, R445). -/
def failSave (s : State) (r c : Nat) (k : Cut) : State :=
  abortCut (if (cellOf s c).savedPoint then noteUncorr s c true else s) r c k

/-- CUT_SWEEP: one sweep of the colour counts; when the test holds, the cut is complete (R384, R388), and a cell whose save fails is met
first (R389). -/
def execCutSweep (r : Nat) (s : State) : Host.Outcome State Fault Refusal :=
  match (regionAt s r).cut with
  | some k =>
    match (regionCells s r).find? (saveFails s) with
    | some c => .next (failSave s r c k)
    | none => if cutComplete s r then .next (completeCut s r k) else .next s
  | none => .next s

/-- CUT_ABORT: the save fails at a cell of the region, whose save zone is uncorrectable, an event of its bay (R445), or which proves dead before
it saves (R389). -/
def execCutAbort (r c : Nat) (s : State) : Host.Outcome State Fault Refusal :=
  match (regionAt s r).cut with
  | some k =>
    if regionOf s c == some r && saveFails s c then .next (failSave s r c k) else .next s
  | none => .next s

/-! ### Cells of a SAVED region at other work -/

/-- A copy of what a cell of a SAVED region holds (R393). -/
def copyCell (s : State) (c : Nat) : SavedCell :=
  let here (k : Nat) : Bool := decide (loftKey c 0 ≤ k) && decide (k < loftKey c 0x1C0000)
  let k := cellOf s c
  { slot := (slotAt k k.lastB).getD { core := {}, sram := [], full := [], complete := false, sealed_ := false }
    loft := (s.mem.filter fun p => here p.1).map fun p => (p.1 - loftKey c 0, p.2)
    full := (s.full.filter here).map fun a => a - loftKey c 0 }

/-- Firmware copies the slots and lofts of a SAVED region and gives its cells to other work: what is still held for the region is discarded
and counted (R393). -/
def giveCells (s : State) (r : Nat) : State :=
  let g := regionAt s r
  if g.st = .saved ∧ g.cut.isNone = true ∧ g.rolling.isNone = true ∧ g.core = none ∧ g.away = none then
    let cs := regionCells s r
    let a : Away := { w := g.w, h := g.h, cells := cs.map (copyCell s) }
    let s := dropHeld s r
    let s := { s with net := s.net.filter fun m => !(insideRegion s r m || (isAnswer m.body && regionOf s m.dst == some r)) }
    let s := cs.foldl (fun s c => modCell (leaveRegion s c) c fun x => { x with stopped := false, undoMark := 0 }) s
    modRegion s r fun g => { g with away := some a, w := 0, h := 0 }
  else s

/-- A cell takes up the copy that firmware kept for its place (R393). -/
def pasteCell (s : State) (r pool : Nat) (p : Nat × Nat × Nat) (v : SavedCell) : State :=
  let here (k : Nat) : Bool := decide (loftKey p.1 0 ≤ k) && decide (k < loftKey p.1 0x1C0000)
  let s := { s with mem := s.mem.filter (fun q => !here q.1), full := s.full.filter fun k => !here k }
  let s := { s with
    mem := v.loft.foldl (fun t q => memPut t (loftKey p.1 q.1) q.2) s.mem
    full := v.full.foldl (fun t a => keyInsert t (loftKey p.1 a)) s.full }
  modCell (enterRegion s r pool p) p.1 fun x => { x with slotA := some v.slot, lastB := false, stopped := true }

/-- A SAVED region gets its cells back, once they are free: it can then be restored (R393, R396). -/
def returnCells (s : State) (r : Nat) : State :=
  let g := regionAt s r
  match g.away with
  | some a =>
    if placeFree s g.tenant a.w a.h g.ox g.oy then
      let s := modRegion s r fun g => { g with away := none, w := a.w, h := a.h }
      let places := ((List.range (a.w * a.h)).zip (regionCells s r)).map fun q => (q.2, q.1 % a.w, q.1 / a.w)
      (places.zip a.cells).foldl (fun s q => pasteCell s r g.pool q.1 q.2) s
    else s
  | none => s

/-- EARLY_CUT: a full undo log raises an event, and firmware answers it with CUT SUB 0 unless a cut is under way (R392). -/
def execEarlyCut (c : Nat) (s : State) : Host.Outcome State Fault Refusal :=
  if (cellOf s c).cutAsked then
    let s := report (modCell s c fun k => { k with cutAsked := false }) (.earlyCut c)
    match regionOf s c with
    | some r => .next (if cutRefused (regionAt s r) then s else startCut s r 0 none)
    | none => .next s
  else .next s

/-- CONTEXT_SAVE: a SAVE takes effect at its context's block boundary (R394), or fails where the slot is uncorrectable (R191, R228, R445); one
that finds the context SAVED, by another SAVE or by a cut that unloads it, is refused. -/
def execContextSave (c x : Nat) (s : State) : Host.Outcome State Fault Refusal :=
  match (ctxOf s c x).saves with
  | [] => .next s
  | m :: rest =>
    if (ctxOf s c x).st = .saved ∧ (cutAt s c).isNone = true then
      .next (rest.foldl (fun s m => mgmtReply s m 16 0) (mgmtReply (modCtx s c x fun v => { v with saves := [] }) m 16 0))
    else if coreActs s c && (cutAt s c).isNone && mayBeSaved s c x && decide (x < 4) then
      let s := if slotBad s c (idleB (cellOf s c)) then
          mgmtReply (noteUncorr (modCtx s c x fun v => { v with saves := rest }) c true) m 17 0
        else mgmtReply (saveContext s c x) m 0 0
      if (ctxOf s c x).st ≠ .saved then .next (settleCore s c) else
      .next (settleCore (rest.foldl (fun s m => mgmtReply s m 16 0) s) c)
    else .next s

/-- CONTEXT_RESTORE: RESTORE SUB 0 reaches its target cell (R396). -/
def execContextRestore (n : Nat) (s : State) : Host.Outcome State Fault Refusal :=
  match arrived s n with
  | none => .next s
  | some m =>
    match m.body with
    | .mgmt f a =>
      if f.fn = 35 ∧ f.sub = 0 then
        let c := m.dst
        let x := bits f.addr 20 3
        let v := ctxOf s c x
        let t := receive s n m
        if isDead s c then .next (mgmtReply (reply t c m { asker := a }) f 20 0)
        else
          let t := reply t c m { asker := a }
          if 4 ≤ x ∨ (v.st ≠ .saved ∧ v.st ≠ .halted) then .next (mgmtReply t f 16 0)
          else
            match newestRecord (cellOf s c) x with
            | none => .next (mgmtReply t f 16 0)
            | some w =>
              if slotBad s c (recordB (cellOf s c) x) then .next (mgmtReply (noteUncorr t c true) f 17 0)
              else
                let t := touchSlot t c (recordB (cellOf s c) x) (64 + 6144 * (x + 1))
                .next (settleCore (mgmtReply (putCtx t c x (restored v w (cellOf s c).cyc)) f 0 0) c)
      else .next s
    | _ => .next s

/-- Whether a cell is dead or defective. -/
def cellUnfit (s : State) (c : Nat) : Bool := (cellOf s c).inReset || (cellOf s c).defect

/-- Whether a region still waits for a spare to stand at one of its places (R397). -/
def needsSpare (s : State) (r c : Nat) : Bool := cellUnfit s c || regionOf s c != some r

/-- ROLLBACK: a stopped region applies its undo logs and loads its slots, once every dead cell has its spare (R397). -/
def execRollback (r : Nat) (s : State) : Host.Outcome State Fault Refusal :=
  match (regionAt s r).rolling with
  | some req => if (regionCells s r).any (needsSpare s r) then .next s else .next (rollBack s r req)
  | none => .next s

end Sys2Proof.Machine
end

