-- ==== Sys2Proof/Machine/Rename.lean ====
section
/-! DEFINITION. Another physical cell takes a cell's place (R401, R402): every reference to the one becomes a reference to the other.
Programs name cells by logical offset alone (R246), so the device has no such references to change; the model's are its own. -/

namespace Sys2Proof.Machine

open Sys2Proof

/-- Two core numbers exchanged. -/
def swapNo (a b c : Nat) : Nat := if c = a then b else if c = b then a else c

/-- The core of a key exchanged. -/
def swapKey (f : Nat → Nat) (k : Nat) : Nat := f (keyCore k) * 2 ^ 23 + k % 2 ^ 23

/-- References of an asker. -/
def swapAsker (f : Nat → Nat) : Asker → Asker
  | .frame c x n i => .frame (f c) x n i
  | .entry c x i => .entry (f c) x i
  | .freed c x l i b => .freed (f c) x l i b
  | .engine c u => .engine (f c) u
  | .outside n => .outside n
  | .nobody => .nobody

/-- References of a token. -/
def swapToken (f : Nat → Nat) (t : Token) : Token := { t with src := t.src.map fun p => (f p.1, p.2.1, p.2.2) }

/-- References of a memory request: host addresses and peer offsets are no keys. -/
def swapReq (f : Nat → Nat) (far : Bool) (r : MemReq) : MemReq :=
  { r with
    asker := swapAsker f r.asker
    lanes := if far then r.lanes else r.lanes.map fun l => { l with key := swapKey f l.key } }

/-- A request with its destination. -/
def swapTo (f : Nat → Nat) (q : Nat × MemReq) : Nat × MemReq := (f q.1, swapReq f (decide (hostDst ≤ q.1)) q.2)

/-- References of an answer. -/
def swapAnswer (f : Nat → Nat) (a : Answer) : Answer :=
  { a with asker := swapAsker f a.asker, taken := a.taken.map (swapKey f) }

/-- References of a spawn message. -/
def swapSpawn (f : Nat → Nat) (m : SpawnMsg) : SpawnMsg := { m with asker := swapAsker f m.asker }

/-- References of a management function. -/
def swapMgmt (f : Nat → Nat) (m : MgmtFn) : MgmtFn := { m with core := f m.core }

/-- References of a message body. -/
def swapBody (f : Nat → Nat) (far : Bool) : Body → Body
  | .routed l sh t a => .routed l sh (swapToken f t) (swapAsker f a)
  | .token t a => .token (swapToken f t) (swapAsker f a)
  | .mem r => .mem (swapReq f far r)
  | .confirm ks a => .confirm (ks.map (swapKey f)) (swapAsker f a)
  | .cancel ks a => .cancel (ks.map (swapKey f)) (swapAsker f a)
  | .answer a => .answer (swapAnswer f a)
  | .barrier n op w x a => .barrier n op w x (swapAsker f a)
  | .link w v => .link w v
  | .spawn m => .spawn (swapSpawn f m)
  | .spawnAck m => .spawnAck (swapSpawn f m)
  | .pulse c a => .pulse c (swapAsker f a)
  | .killSet x l e d a => .killSet x l e d (swapAsker f a)
  | .killClear x l a => .killClear x l (swapAsker f a)
  | .mgmt m a => .mgmt (swapMgmt f m) (swapAsker f a)
  | .register r v a l => .register r v (swapAsker f a) l
  | .cfg op x a => .cfg op x (swapAsker f a)
  | .poison g n b => .poison g n b
  | .peg r => .peg r

/-- References of a message. -/
def swapMsg (f : Nat → Nat) (m : Msg) : Msg :=
  { m with src := f m.src, dst := f m.dst, at_ := f m.at_, sender := m.sender.map f, body := swapBody f (decide (hostDst ≤ m.dst)) m.body }

/-- References of a local store lane. -/
def swapLane (f : Nat → Nat) (l : StLane) : StLane := { l with key := swapKey f l.key }

/-- References of a matrix command. -/
def swapMxCmd (f : Nat → Nat) : MxCmd → MxCmd
  | .load b st k ea p => .load b st (swapKey f k) ea p
  | .run w => .run w
  | .out w k ea p => .out w (swapKey f k) ea p
  | .clear a n => .clear a n

/-- References of an act. -/
def swapAct (f : Nat → Nat) : Act → Act
  | .store h rs regs hint => .store (h.map (swapLane f)) (rs.map (swapTo f)) regs hint
  | .clrp h rs => .clrp (h.map (swapLane f)) (rs.map (swapTo f))
  | .atomic k rs b => .atomic k (rs.map (swapTo f)) b
  | .sendRoute l sh t => .sendRoute l sh (swapToken f t)
  | .sendDyn d t w => .sendDyn (f d) (swapToken f t) w
  | .mxcmd c => .mxcmd (swapMxCmd f c)
  | .arrive n dr h d fl => .arrive n dr h (f d) fl
  | .mgmt m => .mgmt (swapMgmt f m)
  | .spawn m d w => .spawn (swapSpawn f m) (f d) w
  | a => a

/-- References of a frame. -/
def swapFrame (f : Nat → Nat) (x : Frame) : Frame :=
  { x with
    effs := x.effs.map fun e => { e with act := swapAct f e.act }
    waits := x.waits.map fun w => { w with unsent := w.unsent.map fun u => (f u.1, swapBody f (decide (hostDst ≤ u.1)) u.2) }
    readKeys := x.readKeys.map (swapKey f)
    takes := x.takes.map fun t => (t.1, swapKey f t.2)
    eats := x.eats.map (swapKey f) }

/-- References of a context. -/
def swapCtx (f : Nat → Nat) (v : Context) : Context :=
  { v with
    pend := v.pend.map fun p => (p.1, { p.2 with ownerCell := f p.2.ownerCell, act := swapAct f p.2.act })
    frame := v.frame.map (swapFrame f)
    winsets := v.winsets.map fun q => (q.1, q.2.1, swapMgmt f q.2.2)
    saves := v.saves.map (swapMgmt f) }

/-- References of an update request. -/
def swapUpd (f : Nat → Nat) (u : UpdToken) : UpdToken :=
  { u with
    r := swapReq f false u.r
    lane := { u.lane with key := swapKey f u.lane.key }
    src := f u.src }

/-- References of the saved part of a cell. -/
def swapCore (f : Nat → Nat) (k : Core) : Core :=
  { k with
    ctxs := k.ctxs.map fun p => (p.1, swapCtx f p.2)
    tokens := k.tokens.map fun q => { q with t := swapToken f q.t, sender := f q.sender }
    joins := k.joins.map fun j => { j with srcs := j.srcs.map fun p => (f p.1, p.2.1, p.2.2) }
    spawnQ := k.spawnQ.map (swapSpawn f)
    spawnHold := k.spawnHold.map (swapSpawn f)
    spawnTrees := k.spawnTrees.map fun t => { t with m := swapSpawn f t.m }
    mx := { k.mx with
      queue := k.mx.queue.map fun q => (swapMxCmd f q.1, q.2)
      run := k.mx.run.map fun r => { r with cmd := swapMxCmd f r.cmd } }
    recs := k.recs.map fun r => { r with cell := f r.cell }
    waiters := k.waiters.map fun w => { w with key := swapKey f w.key, asker := swapAsker f w.asker, dst := f w.dst }
    updQ := k.updQ.map fun u => { u with r := swapReq f false u.r, src := f u.src }
    updTok := k.updTok.map (swapUpd f)
    updCur := k.updCur.map (swapUpd f) }

/-- References of a slot. -/
def swapSnap (f : Nat → Nat) (p : Snap) : Snap := { p with core := swapCore f p.core, recorded := p.recorded.map (swapMsg f) }

/-- References of an undo record. -/
def swapUndo (f : Nat → Nat) (u : Undo) : Undo := { u with line := swapKey f u.line, full := u.full.map (swapKey f) }

/-- References of a cell. -/
def swapCell (f : Nat → Nat) (c : Cell) : Cell :=
  { c with
    core := swapCore f c.core
    slot := c.slot.map fun k => { k with resume := k.resume.map (swapCtx f) }
    slotA := c.slotA.map (swapSnap f)
    slotB := c.slotB.map (swapSnap f)
    undo := c.undo.map (swapUndo f)
    takeover := c.takeover.map (swapMgmt f)
    sistering := c.sistering.map (swapMgmt f)
    testing := c.testing.map (swapMgmt f)
    mirror := c.mirror.map fun m => (swapCore f m.1, m.2.1, m.2.2) }

/-- References of a region. -/
def swapRegion (f : Nat → Nat) (g : Region) : Region :=
  { g with
    links := g.links.map fun l => (f l.1, l.2.1, l.2.2)
    selects := g.selects.map fun q => { q with core := f q.core } }

/-- References of a job. -/
def swapJob (f : Nat → Nat) (j : Job) : Job :=
  { j with queues := j.queues.map fun q => { q with root := f q.root, key := swapKey f q.key } }

/-- References of an export. -/
def swapExport (f : Nat → Nat) (e : Export) : Export :=
  { e with cell := f e.cell, completion := e.completion.map fun p => (f p.1, p.2) }

/-- Every reference of the machine to two cells exchanged; memory and the cells themselves stay where they are. -/
def swapNames (s : State) (a b : Nat) : State :=
  let f := swapNo a b
  { s with
    cells := s.cells.map fun p => (p.1, swapCell f p.2)
    regions := s.regions.map fun p => (p.1, swapRegion f p.2)
    jobs := s.jobs.map fun p => (p.1, p.2.map (swapJob f))
    exports := s.exports.map fun p => (p.1, swapExport f p.2)
    net := s.net.map (swapMsg f) }

end Sys2Proof.Machine
end

