-- ==== Sys2Proof/Machine/SisterEv.lean ====
section
/-! DEFINITION. Spares, sisters, takeovers, self-tests and the deadlock sweep (R397, R399 to R406, R409, R443 to R447). -/

namespace Sys2Proof.Machine

open Sys2Proof

/-- Defective cells of a bay (R443). -/
def bayDefects (s : State) (b : Nat) : Nat := ((listedCells s b).filter fun p => p.2.defect).length

/-- SPARES of a bay (R443). -/
def baySpares (s : State) (b : Nat) : Nat := if (bayAt s b).retired then 0 else 124 - bayDefects s b

/-- SISTERS of a bay (R443). -/
def baySisters (s : State) (b : Nat) : Nat := ((listedCells s b).filter fun p => p.2.partner.isSome).length

/-- Every router of a bay selects its alternate entries, or its main ones (R401, R409). DESIGN CHOICE: NPN to NPW keep the offsets that the
last flip wrote (R132, R421), since no rule writes them at a takeover (notes/assumptions/83.md). -/
def selectAlternates (s : State) (b : Nat) (on : Bool) : State :=
  (List.range 1024).foldl (fun s k => if (cellOf s (1024 * b + k)).altsel = on then s else
    modCell s (1024 * b + k) fun x => { x with altsel := on }) s

/-- The alternate entries of a pair are released in every router of its bay; with the last of the bay's, none is in use (R399;
notes/assumptions/83.md). -/
def releaseAlternates (s : State) (p z : Nat) : State :=
  let b := bayOf p
  let s := modBay s b fun x => { x with alternates := x.alternates.filter fun q => q != (p, z) && q != (z, p) }
  if (bayAt s b).alternates.isEmpty then selectAlternates s b false else s

/-- SISTER SUB 1: the sister goes back to the spares, with its alternate entries, and a TAKEOVER that waited for it is refused (R399, R402); none
when there is no sister. -/
def releaseSister (s : State) (p : Nat) : Option State :=
  match (cellOf s p).sister with
  | none => none
  | some z =>
    let s := match (cellOf s z).sistering with | some m => mgmtReply s m 16 0 | none => s
    let s := match (cellOf s p).takeover with | some m => mgmtReply s m 16 0 | none => s
    let s := modCell s z fun x => { x with partner := none, synced := false, mirror := [], sistering := none, core := {} }
    some (releaseAlternates (modCell s p fun x => { x with sister := none, takeover := none }) p z)

/-- The sister of a bay at the highest physical position (R444). -/
def highestSister (s : State) (b : Nat) : Option (Nat × Nat) :=
  (listedCells s b).foldl (fun m p =>
    match p.2.partner, m with
    | some q, some h => if h.1 < p.1 then some (p.1, q) else m
    | some q, none => some (p.1, q)
    | none, _ => m) none

/-- A DEGRADED bay keeps sisters only while SPARES − SISTERS ≥ 2 (R444). -/
def trimSisters : Nat → State → Nat → State
  | 0, s, _ => s
  | n + 1, s, b =>
    if baySpares s b < 32 ∧ baySpares s b < baySisters s b + 2 then
      match highestSister s b with
      | some p => trimSisters n ((releaseSister s p.2).getD s) b
      | none => s
    else s

/-- Router numbers of a bay's defective cells, in rising order. -/
def defectsOf (s : State) (b : Nat) : List Nat := ((listedCells s b).filter fun p => p.2.defect).map fun p => p.1 % 1024

/-- Whether a bay has no embedding (R444): fewer than 900 cells work, or the scribe finds none (notes/assumptions/39.md). -/
def noEmbedding (s : State) (b : Nat) : Bool := decide (124 < bayDefects s b) || !Config.embeds (defectsOf s b)

/-- A cell is marked defective: the bay's DEPOCH goes up (R409); when no embedding exists the bay is RETIRED (R444). -/
def markDefect (s : State) (c : Nat) : State :=
  let s := modCell s c fun x => { x with defect := true }
  let s := modBay s (bayOf c) fun b => { b with
    depoch := (b.depoch + 1) % 65536
    retired := b.retired || noEmbedding s (bayOf c) }
  trimSisters 124 s (bayOf c)

/-- Notes a repair of a bay (R443). -/
def noteRepair (s : State) (b : Nat) : State := modBay s b fun x => { x with lastRep := wordOf (Config.seconds s.tickNo) }

/-! ### Spares -/

/-- Moves what a loft holds below the save zone, with its presence bits, from one core to another (R397, R401). -/
def copyLoft (s : State) (a b : Nat) : State :=
  let here (c k : Nat) : Bool := decide (loftKey c 0 ≤ k) && decide (k < loftKey c 0x1C0000)
  let mem := s.mem.foldl (fun t p => if here a p.1 then memPut t (p.1 - loftKey a 0 + loftKey b 0) p.2 else t)
    (s.mem.filter fun p => !here b p.1)
  let full := s.full.foldl (fun t k => if here a k then keyInsert t (k - loftKey a 0 + loftKey b 0) else t)
    (s.full.filter fun k => !here b k)
  { s with mem := mem, full := full }

/-- A cell as it takes another's place in a region: what the region gave that cell, its slots, its log and its counts (R397, R401). -/
def standIn (d p : Cell) : Cell :=
  { p with
    pool := d.pool
    labels := d.labels
    shadow := d.shadow
    slot := d.slot
    spine := d.spine
    region := d.region
    regpos := d.regpos
    regdim := d.regdim
    colour := d.colour
    sentOld := d.sentOld
    recvOld := d.recvOld
    sentNew := d.sentNew
    recvNew := d.recvNew
    sentRt := d.sentRt
    recvRt := d.recvRt
    sentDyn := d.sentDyn
    recvDyn := d.recvDyn
    peg := d.peg
    savedPoint := d.savedPoint
    paused := d.paused
    stopped := d.stopped
    slotA := d.slotA
    slotB := d.slotB
    lastB := d.lastB
    undo := d.undo
    undoMark := d.undoMark
    cutAsked := d.cutAsked
    readMark := d.readMark
    openMark := d.openMark }

/-- A cell that has left its place. -/
def outOfPlace (d : Cell) : Cell :=
  { d with
    core := {}
    labels := []
    shadow := none
    slot := none
    region := none
    regpos := 0
    regdim := 0
    slotA := none
    slotB := none
    undo := []
    undoMark := 0
    peg := false
    savedPoint := false
    paused := false
    stopped := false
    cutAsked := false
    sister := none
    takeover := none
    readMark := []
    openMark := [] }

/-- The logical position of a core passes to another (R455). -/
def moveLogical (s : State) (a b : Nat) : State :=
  match logicalOf s a with
  | some l => { s with embed := Tbl.put s.embed (l.2 * 960 + l.1) b }
  | none => s

/-- Logical position of a cell's place in its region (R131). -/
def placeInRegion (s : State) (r c : Nat) : Nat × Nat :=
  let g := regionAt s r
  ((g.ox + bits (cellOf s c).regpos 0 16) % 960, (g.oy + bits (cellOf s c).regpos 16 16) % 960)

/-- SPARE_COPY_DONE: a spare, to which a scribe update has moved a dead cell's logical position (R397, R421, R455), has copied the cell's loft
and slot and stands in its place; the dead cell is marked defective, if it was not (R409). -/
def execSpareCopyDone (dead spare : Nat) (s : State) : Host.Outcome State Fault Refusal :=
  match regionOf s dead with
  | some r =>
    if (regionAt s r).rolling.isSome && cellUnfit s dead && !cellUnfit s spare && (regionOf s spare).isNone &&
        logicalOf s spare == some (placeInRegion s r dead) && isCellCore spare && bayOf spare == bayOf dead && (cellOf s spare).partner.isNone then
      let s := swapNames (copyLoft (undoAll s dead) dead spare) dead spare
      let d := cellOf s dead
      let s := modCell s spare fun p => { standIn d p with core := d.core, undo := [], stopped := true }
      let s := putCell s dead (outOfPlace d)
      .next (noteRepair (if d.defect then s else markDefect s dead) (bayOf dead))
    else .next s
  | none => .next s

/-! ### Sisters -/

/-- Whether a cell may become a sister: a working spare that serves nobody (R399, R453). -/
def freeSpare (s : State) (z : Nat) : Bool :=
  let k := cellOf s z
  isCellCore z && !k.inReset && !k.defect && k.region.isNone && k.partner.isNone && k.testing.isNone && (logicalOf s z).isNone

/-- Writes ALTROLE of a spare's active bank: the logical position of the cell that it serves (R399, R421). -/
def setAltRole (s : State) (p z : Nat) : State :=
  match logicalOf s p with
  | none => s
  | some l =>
    let w := wordOf (l.1 % 30 + l.2 % 30 * 2 ^ 16)
    let put (img : List Word) : List Word := if img.length = 64 then img.take 11 ++ [w] ++ img.drop 12 else img
    modCell s z fun x => if x.active then { x with bankB := put x.bankB } else { x with bankA := put x.bankA }

/-- SISTER SUB 0: every router of the bay gets an alternate entry that maps the cell's logical position to the spare, and the spare starts to
copy its partner (R399); none when it is refused. -/
def assignSister (s : State) (p z : Nat) (m : MgmtFn) : Option State :=
  if (cellOf s p).sister.isNone && (cellOf s p).partner.isNone && freeSpare s z && bayOf p == bayOf z then
    let s := setAltRole (modCell s p fun x => { x with sister := some z }) p z
    let s := modBay s (bayOf p) fun x => { x with alternates := x.alternates ++ [(p, z)] }
    some (modCell s z fun x => { x with partner := some p, synced := false, mirror := [], sistering := some m })
  else none

/-- SISTER_SYNC: sister `z` has copied its partner and is synchronised with it (R399). -/
def execSisterSync (z : Nat) (s : State) : Host.Outcome State Fault Refusal :=
  let k := cellOf s z
  match k.partner, k.sistering with
  | some p, some m =>
    if k.inReset || k.synced then .next s
    else
      let s := applyMirror s z (coreOf s p, sramOf s p, sramFull s p)
      .next (mgmtReply (modCell s z fun x => { x with synced := true, mirror := [], sistering := none }) m 0 0)
  | _, _ => .next s

/-- COMMIT_MIRROR: the sister applies the oldest commit in the shadow link (R400). -/
def execCommitMirror (z : Nat) (s : State) : Host.Outcome State Fault Refusal :=
  match (cellOf s z).mirror with
  | m :: rest =>
    let s := modCell (applyMirror s z m) z fun x => { x with mirror := rest }
    .next (match (cellOf s z).partner with | some p => settleCore s p | none => s)
  | [] => .next s

/-- The shadow link drains (R401). -/
def drainMirror (s : State) (z : Nat) : State :=
  modCell ((cellOf s z).mirror.foldl (fun s m => applyMirror s z m) s) z fun x => { x with mirror := [] }

/-- An update handler that was discarded with the cell that ran it starts again from its header (R39, R401). -/
def resumeHandler (s : State) (c : Nat) : State :=
  let v := ctxOf s c 4
  match v.st, v.frame, v.pc with
  | .running, none, some hdr =>
    let n := nextStamp s c
    let g := fetchBlock n.1 c 4 hdr n.2 v
    beginHandler (spendFetch n.1 c g) c 0 (deliverReads v g)
  | _, _, _ => s

/-- The logical position of a cell passes to its sister: with a bank image, the one that its ALTROLE names (R401, R421). -/
def takeRole (s : State) (a z : Nat) : State :=
  let img := activeBank (cellOf s z)
  match (if img.isEmpty then none else imgAltPlace img) with
  | some p =>
    let l := (30 * (z / 1024 / 32) + p.2) % 960 * 960 + (30 * (z / 1024 % 32) + p.1) % 960
    if coreAt s (l % 960) (l / 960) = a then moveLogical s a z else { s with embed := Tbl.put s.embed l z }
  | none => moveLogical s a z

/-- Sister `z`, which holds the state, takes the place of `a` (R401): later arrivals and what waits at the old router go to it, it serves the
logical loft, and the handler that was discarded starts again. -/
def takePlace (s : State) (a z : Nat) : State :=
  let s := swapNames (copyLoft (dropFrames (dropAll s z) z 4) a z) a z
  let d := cellOf s a
  let s := modCell s z fun p => { standIn d p with partner := none, synced := false }
  resumeHandler (selectAlternates (takeRole (modCell s a outOfPlace) a z) (bayOf a) true) z

/-- Whether a cell's engines hold no unfinished command (R401). -/
def enginesIdle (s : State) (c : Nat) : Bool :=
  let k := coreOf s c
  (k.units.all fun p => unitQuiet p.2) && k.mx.run.isNone && k.mx.queue.isEmpty &&
  userCtxs.all fun x => (ctxOf s c x).collq.isEmpty

/-- A cell fails and answers no more; firmware rolls its region back (R401). -/
def failCell (s : State) (c : Nat) : State :=
  let s := modCell s c fun x => { x with inReset := true }
  match regionOf s c with
  | some r => if (regionAt s r).complete && (regionAt s r).cut.isNone && (regionAt s r).rolling.isNone then stopRegion s r none else s
  | none => s

/-- AUTOMATIC_TAKEOVER: the self-check of cell `a` has found an error (R401); the failed cell is marked. Without a synchronised sister, with an
error of the router or the loft controller, or with an unfinished engine command, the cell fails as an unsistered one. -/
def execAutomaticTakeover (a : Nat) (s : State) : Host.Outcome State Fault Refusal :=
  if (cellOf s a).inReset || !isCellCore a then .next s
  else
    let s := dropFrames (dropAll s a) a 4
    match (cellOf s a).sister with
    | some z =>
      if (cellOf s z).synced && enginesIdle s a && !(cellOf s a).routerError && !(cellOf s a).loftError then
        let s := takePlace (drainMirror s z) a z
        let s := modBay (noteRepair (markDefect s a) (bayOf a)) (bayOf a) fun b => { b with takeaut := b.takeaut + 1 }
        .next (settleCore s z)
      else .next (failCell s a)
    | none => .next (failCell s a)

/-- Whether a TAKEOVER may take effect: every user context at a block boundary outside NOPRE, no handler runs, and engines stand
between elements (R402, R404). -/
def mayTakeOver (s : State) (a : Nat) : Bool :=
  coreActs s a && (cutAt s a).isNone && slotIdle s a &&
  userCtxs.all (fun x => (ctxOf s a x).frame.isNone && !insideNopre s a (ctxOf s a x)) &&
  (coreOf s a).units.all fun p => decide (p.1 < 2) || (p.2.asked.isEmpty && p.2.endings.isEmpty)

/-- TAKEOVER_SWAP: the pair of partner `a` changes roles; the old partner goes on as the sister (R402). A pair that is no longer synchronised
has the TAKEOVER refused. -/
def execTakeoverSwap (a : Nat) (s : State) : Host.Outcome State Fault Refusal :=
  match (cellOf s a).takeover, (cellOf s a).sister with
  | some m, some z =>
    if !(cellOf s z).synced then .next (settleCore (mgmtReply (modCell s a fun x => { x with takeover := none }) m 16 0) a)
    else if mayTakeOver s a then
      let s := modCell (modCore s a dropReads) a fun x => { x with takeover := none }
      let s := takePlace (applyMirror (drainMirror s z) z (coreOf s a, sramOf s a, sramFull s a)) a z
      let s := applyMirror s a (coreOf s z, sramOf s z, sramFull s z)
      let s := modCell s a fun x => { x with partner := some z, synced := true, mirror := [] }
      let s := setAltRole (modCell s z fun x => { x with sister := some a }) z a
      let s := modBay (noteRepair s (bayOf a)) (bayOf a) fun b => { b with takeswp := b.takeswp + 1 }
      .next (settleCore (mgmtReply s m 0 0) z)
    else .next s
  | _, _ => .next s

/-! ### Self-tests -/

/-- Whether SELFTEST is refused for a cell: a region or a partner has it (R403). -/
def testRefused (s : State) (c : Nat) : Bool := (cellOf s c).region.isSome || (cellOf s c).partner.isSome || (cellOf s c).testing.isSome

/-- A function that firmware of the bay's controller issues of its own accord. -/
def ownFn (fn sub c b : Nat) : MgmtFn := {
  fn := fn
  sub := sub
  addr := maWord c
  b := wordOf b
  core := bayCore (bayOf c)
  reply := 0 }

/-- Whether a test may begin at a cell (R447): no other cell of its bay is under test, and SPARES − SISTERS is at least 1. -/
def mayTest (s : State) (c : Nat) : Bool :=
  let b := bayOf c
  decide (baySisters s b + 1 ≤ baySpares s b) && !((listedCells s b).any fun p => p.1 != c && (p.2.testing.isSome || p.2.roving))

/-- SELF_TEST_DUE: firmware takes the next step of a cell's test, one cell of a bay at a time (R403, R447): a spare is tested at once; a cell of a
region first gets sister `spare`, then swaps with it, is released and tested. -/
def execSelfTestDue (c spare : Nat) (s : State) : Host.Outcome State Fault Refusal :=
  let k := cellOf s c
  if !s.booted || k.inReset || k.defect || (cutAt s c).isSome || !isCellCore c || !(k.roving || mayTest s c) then .next s
  else if k.roving && k.partner.isSome then
    .next (match (k.partner.bind fun p => releaseSister s p) with
      | some s => modCell s c fun x => { x with roving := false, testing := some (ownFn 38 0 c 0x7F) }
      | none => s)
  else if k.region.isNone then
    .next (if testRefused s c then s else modCell s c fun x => { x with testing := some (ownFn 38 0 c 0x7F) })
  else
    match k.sister with
    | some z =>
      .next (if (cellOf s z).synced && k.takeover.isNone then
        modCell s c fun x => { x with takeover := some (ownFn 40 0 c 0), roving := true } else s)
    | none =>
      .next (match assignSister s c spare (ownFn 39 0 c (spare % 1024)) with
        | some s => modCell s c fun x => { x with roving := true }
        | none => s)

/-- SELFTEST_END: a running self-test finishes; a failure marks the cell (R403, R445, R446). -/
def execSelftestEnd (c : Nat) (failing : Option Nat) (s : State) : Host.Outcome State Fault Refusal :=
  match (cellOf s c).testing with
  | none => .next s
  | some m =>
    let s := modCell s c fun x => { x with testing := none }
    match failing with
    | none => .next (mgmtReply (modBay s (bayOf c) fun b => { b with stpass := sat16 b.stpass }) m 0 0)
    | some n =>
      let s := markDefect (modBay s (bayOf c) fun b => { b with stfail := sat16 b.stfail }) c
      .next (mgmtReply s m 17 (wordOf n))

/-! ### The deadlock sweep -/

/-- Word 0 of a sweep record (R406). -/
def sweepHead (s : State) (kind c : Nat) : Word :=
  let p := (cellOf s c).regpos
  wordOf (kind * 2 ^ 28 + bits p 16 10 * 2 ^ 16 + bits p 0 10)

/-- The name index that a cell's debug table gives a loop level, or 0xFFFF_FFFF (R240, R406). -/
def tagName (s : State) (c : Nat) (itag : BitVec 6) : Word :=
  match regionOf s c with
  | none => 0xFFFFFFFF
  | some r =>
    let g := regionAt s r
    let p := (cellOf s c).regpos
    match sectionAt (mappingOf g.staged g.mapping) (bits p 0 16) (bits p 16 16) with
    | none => 0xFFFFFFFF
    | some i =>
      match i.tagNames.find? fun t => t.1 == itagLevel itag && itagLevel itag != 0 with
      | some t => wordOf t.2
      | none => 0xFFFFFFFF

/-- Joins that hold some but not all of their inputs (R406). -/
def sweepJoins (s : State) (c : Nat) : List Word :=
  let k := coreOf s c
  (k.joins.filter fun j => j.done.isNone).flatMap fun j =>
    let b := bindingAt s c j.tag
    let here := ((List.range 4).filter fun i => ((j.ports[i]?).join).isSome).foldl (fun n i => n + 2 ^ i) 0
    [sweepHead s 1 c, wordOf (j.tag % 256 + j.itag.toNat * 2 ^ 8 + bCtx b * 2 ^ 16), wordOf (here + bArity b * 16),
      tagName s c j.itag]

/-- The requester of a deferred read: its core and context. -/
def askerCell (s : State) : Asker → Option (Nat × Nat)
  | .frame c x _ _ => some (c, x)
  | .entry c x _ => some (c, x)
  | .freed c x _ _ _ => some (c, x)
  | .engine c n => some (c, (unitOf s c (n % 4)).owner)
  | _ => none

/-- Reads that wait at a cell's words: key, asker, LDC, retrying (R292, R293). -/
def waitingReads (s : State) (c : Nat) : List (Nat × Asker × Bool × Bool) :=
  ((coreOf s c).waiters.filter fun w => w.kind != .take).map (fun w => (w.key, w.asker, w.kind == .taker || w.kind == .lateTaker, false)) ++
  s.net.flatMap fun m =>
    match m.body with
    | .mem r =>
      if m.dst = c ∧ m.wait ≠ 0 ∧ isLoadOp r.op = true then
        r.lanes.map fun l => (wordKey l.key, r.asker, r.op == MemOp.ldc, true) else []
    | _ => []

/-- Reads deferred at this sweep and the last (R406). -/
def sweepReads (s : State) (c : Nat) : List Word :=
  ((waitingReads s c).filter fun q => (cellOf s c).readMark.contains (q.1, q.2.1)).flatMap fun q =>
    let a := (askerCell s q.2.1).getD (c, 0)
    let p := (cellOf s a.1).regpos
    [sweepHead s 2 c, wordOf (keyAddr q.1), wordOf (bits p 16 10 * 2 ^ 16 + bits p 0 10),
     wordOf (a.2 % 8 + (if q.2.2.1 then 8 else 0) + (if q.2.2.2 then 16 else 0))]

/-- The input by which a message reached its cell, coded as an output of R252; 15 stands for the cell itself and for the management paths
(notes/assumptions/32.md). -/
def inputLink (m : Msg) : Nat := if 1 ≤ m.inp ∧ m.inp ≤ 8 then m.inp - 1 else 15

/-- The token of message `n` that its router holds (R257, R260, R406): at its destination it waits for its queue; on the way it stands behind
another message, at a boundary, or before a buffer without a credit. -/
def heldAt (s : State) (n : Nat) (m : Msg) : Option Token :=
  match m.body with
  | .token t _ =>
    let next := match (if byRouters s m then nextLink s m else none) with
      | some h => hasCredit s h.goal h.inp h.vc
      | none => true
    if m.at_ == m.dst || blocked s n m || heldInside s m || !next then some t else none
  | .routed l sh t _ =>
    let w := labelWord s m.at_ l sh
    let h := routeHop s m w l sh
    if routeBehind s n m l sh || blocked s n m || heldRoute s m w || ((!m.leg.isEmpty || (labelPasses s m.at_ w && labelKind w != 2)) &&
        !hasCredit s h.1 h.2.1 h.2.2.1) then some t else none
  | _ => none

/-- Tokens held at a cell's router inputs (R406). -/
def sweepTokens (s : State) (c : Nat) : List Word :=
  ((List.range s.net.length).zip s.net).flatMap fun q =>
    match (if q.2.at_ = c then heldAt s q.1 q.2 else none) with
    | some t => [sweepHead s 3 c, wordOf (inputLink q.2 + q.2.vc % 8 * 16), wordOf (t.tag % 256 + t.itag.toNat * 2 ^ 8), 0]
    | none => []

/-- OPEN entries of a cell: context and index. -/
def openEntries (s : State) (c : Nat) : List (Nat × Nat) := allCtxs.flatMap fun x => (openOnes (ctxOf s c x)).map fun i => (x, i)

/-- Entries OPEN at this sweep and the last (R406). -/
def sweepEntries (s : State) (c : Nat) : List Word :=
  ((openEntries s c).filter fun q => (cellOf s c).openMark.contains q).flatMap fun q =>
    let p := entryOf (ctxOf s c q.1) q.2
    [sweepHead s 4 c, wordOf (q.1 + q.2 * 16), entryWord0 p, wordOf p.owner]

/-- Blocked tags with queued activations (R406). -/
def sweepBlocked (s : State) (c : Nat) : List Word :=
  let k := coreOf s c
  ((queuedTags k).filter fun t => decide (t < 256) && bBlk (bindingOf k t)).flatMap fun t =>
    [sweepHead s 5 c, wordOf (t + bCtx (bindingOf k t) * 2 ^ 8), wordOf (queuedStamps k t).length, 0]

/-- The issue and router counters of a region (R405). -/
def regionWork (s : State) (r : Nat) : Nat := ((regionCells s r).map fun c => (cellOf s c).issues + (cellOf s c).flits).sum

/-- DEADLOCK_SWEEP: firmware looks at a region after its 100 µs; where the region's issue and router counters are those that it found the last
time, and the sink has not received the end token, it reads every cell and reports what it finds (R405, R406). The sweep keeps what the
next one compares with. -/
def execDeadlockSweep (r : Nat) (s : State) : Host.Outcome State Fault Refusal :=
  let g := regionAt s r
  if g.ended then .next s
  else if g.watched ≠ some (regionWork s r) then .next (modRegion s r fun g => { g with watched := some (regionWork s r) })
  else
  let cs := regionCells s r
  let ws := cs.flatMap fun c => sweepJoins s c ++ sweepReads s c ++ sweepTokens s c ++ sweepEntries s c ++ sweepBlocked s c
  let s := cs.foldl (fun s c => modCell s c fun x => { x with
    readMark := (waitingReads s c).map fun q => (q.1, q.2.1)
    openMark := openEntries s c }) s
  .next (report s (.sweep ws))

end Sys2Proof.Machine
end

