-- ==== Sys2Proof/Machine/PortEv.lean ====
section
/-! DEFINITION. Optical ports and the paths of peers (R427 to R434, R439, R440). -/

namespace Sys2Proof.Machine

open Sys2Proof

/-! ### Registers and events -/

/-- PCTL (R430). -/
def pctlWord (p : Port) : Word := wordOf ((if p.laser then 1 else 0) + (if p.up then 2 else 0) + (if p.llr then 4 else 0))

/-- PSTAT (R430). -/
def pstatWord (p : Port) : Word :=
  wordOf (p.locked % 512 + p.trained % 256 * 2 ^ 16 + (if p.laserok then 2 ^ 30 else 0) + (if p.link then 2 ^ 31 else 0))

/-- Sends a port event, if PEVT.EN is 1 (R431). -/
def portEvent (s : State) (p kind status : Nat) (l1 : Word) : State :=
  let e := (portAt s p).pevt
  if bit e 31 then sendCompletion s (sillCore (p / 80)) (bits e 0 8) (wordOf status) l1 0 (wordOf (p % 512 + kind * 2 ^ 12)) else s

/-- LINK goes down, with its event (R431). -/
def dropPortLink (s : State) (p : Nat) : State :=
  if (portAt s p).link then
    let s := modPort s p fun x => { x with link := false }
    portEvent s p 4 0 (pstatWord (portAt s p))
  else s

/-- Wavelengths that a port's map uses (R428). -/
def mapMask (p : Port) : Nat := if p.pmap < 8 then 0x1FF - 2 ^ p.pmap else 0xFF

/-- The wavelength that carries PMD lane `j` (R428). -/
def laneWave (p : Port) (j : Nat) : Nat := if p.pmap = j then 8 else j

/-- Whether every wavelength the map uses is locked (R432). -/
def mapLocked (p : Port) : Bool := mapMask p &&& p.locked == mapMask p

/-! ### PCTL and PCMD -/

/-- PCTL.LASER: 0 clears LOCKED, TRAINED and LINK (R430). -/
def setLaser (s : State) (p : Nat) (on : Bool) : State :=
  if on then modPort s p fun x => { x with laser := true }
  else dropPortLink (modPort s p fun x => { x with laser := false, locked := 0, trained := 0, phtr := [] }) p

/-- PCTL.UP (R430): without it there is no link. -/
def setUp (s : State) (p : Nat) (on : Bool) : State :=
  if on then modPort s p fun x => { x with up := true } else dropPortLink (modPort s p fun x => { x with up := false }) p

/-- PCTL.LLR (R430). -/
def setLlr (s : State) (p : Nat) (on : Bool) : State := modPort s p fun x => { x with llr := on }

/-- PCMD LOCK: refused while a command runs or LASEROK is 0 (R432). -/
def startLock (s : State) (p : Nat) : State :=
  let x := portAt s p
  if x.cmd.isSome || !x.laserok then portEvent s p 2 16 0 else modPort s p fun x => { x with cmd := some false }

/-- PCMD TRAIN: refused while a command runs, while UP is 1, and while a wavelength of the map is unlocked (R432).
The port announces its map before it trains (R428). -/
def startTrain (s : State) (p : Nat) : State :=
  let x := portAt s p
  if x.cmd.isSome || x.up || !mapLocked x then portEvent s p 3 16 0
  else modPort s p fun x => { x with cmd := some true, announced := some x.pmap }

/-- PCMD ABORT ends a running command with the state it had reached (R431, R432). -/
def abortPort (s : State) (p : Nat) : State :=
  match (portAt s p).cmd with
  | none => s
  | some train =>
    let s := modPort s p fun x => { x with cmd := none }
    let x := portAt s p
    if train then portEvent s p 3 1 (wordOf x.trained) else portEvent s p 2 1 (wordOf x.locked)

/-- LASER: PCTL.LASER is written (R430). -/
def execLaser (p : Nat) (on : Bool) (s : State) : Host.Outcome State Fault Refusal := .next (setLaser s p on)

/-- UP: PCTL.UP is written (R430). -/
def execUp (p : Nat) (on : Bool) (s : State) : Host.Outcome State Fault Refusal := .next (setUp s p on)

/-- LLR: PCTL.LLR is written (R430). -/
def execLlr (p : Nat) (on : Bool) (s : State) : Host.Outcome State Fault Refusal := .next (setLlr s p on)

/-- LOCK: PCMD LOCK is written (R432, R433). -/
def execLock (p : Nat) (s : State) : Host.Outcome State Fault Refusal := .next (startLock s p)

/-- TRAIN: PCMD TRAIN is written (R432, R434). -/
def execTrain (p : Nat) (s : State) : Host.Outcome State Fault Refusal := .next (startTrain s p)

/-- ABORT: PCMD ABORT is written (R432). -/
def execAbort (p : Nat) (s : State) : Host.Outcome State Fault Refusal := .next (abortPort s p)

/-! ### Optics -/

/-- LASEROK_CHANGE: laser power settles, or no longer does (R430, R431). -/
def execLaserokChange (p : Nat) (ok : Bool) (s : State) : Host.Outcome State Fault Refusal :=
  let x := portAt s p
  if x.laserok = ok ∨ (ok = true ∧ x.laser = false) then .next s
  else
    let s := modPort s p fun x => { x with laserok := ok }
    .next (portEvent s p 1 (if ok then 0 else 17) (pstatWord (portAt s p)))

/-- Lanes of a set that ride on locked wavelengths. -/
def lanesLit (p : Port) (lanes : Nat) : Nat :=
  (List.range 8).foldl (fun n j =>
    if lanes / 2 ^ j % 2 = 1 ∧ p.locked / 2 ^ laneWave p j % 2 = 1 then n + 2 ^ j else n) 0

/-- Lanes whose ring is no longer locked lose training, and LINK drops with the first (R433). -/
def loseLanes (s : State) (p : Nat) : State :=
  let x := portAt s p
  if lanesLit x x.trained = x.trained then s
  else dropPortLink (modPort s p fun x => { x with trained := lanesLit x x.trained }) p

/-- LOCK_END: the sweep ends with a heater code for each ring that locked (R431, R433). -/
def execLockEnd (p : Nat) (codes : List (Option Nat)) (s : State) : Host.Outcome State Fault Refusal :=
  if (portAt s p).cmd = some false then
    let ring (n : Nat) : Option Nat := (codes[n]?).join
    let mask := ((List.range 9).filter fun n => (ring n).isSome).foldl (fun m n => m + 2 ^ n) 0
    let s := modPort s p fun x => { x with
      cmd := none
      locked := mask
      phtr := (List.range 9).filterMap fun n => (ring n).map fun k => (n, wordOf (2 ^ 31 + k % 4096)) }
    let s := loseLanes s p
    let x := portAt s p
    .next (portEvent s p 2 (if mapLocked x then 0 else 17) (wordOf x.locked))
  else .next s

/-- A ring locks while LOCK runs: LOCKED and its heater code show it from then on (R432, R433). -/
def ringLocks (s : State) (p ring code : Nat) : State :=
  if (portAt s p).cmd = some false ∧ ring < 9 then
    modPort s p fun x => { x with
      locked := if x.locked / 2 ^ ring % 2 = 1 then x.locked else x.locked + 2 ^ ring
      phtr := Tbl.put x.phtr ring (wordOf (2 ^ 31 + code % 4096)) }
  else s

/-- The far end announces its map (R428). -/
def setFarMap (s : State) (p map : Nat) : State := modPort s p fun x => { x with farMap := map % 16 }

/-- Lanes that both ends carry on one wavelength: any other fails training (R428). -/
def sameWave (p : Port) (j : Nat) : Bool :=
  let map := p.announced.getD p.pmap
  (if map = j then 8 else j) == (if p.farMap = j then 8 else j)

/-- PEYE of a lane from its horizontal and vertical margins (R430, R434). -/
def eyeWord (p : Port) (j : Nat) (m : Nat × Nat) : Word :=
  let h := m.1 % 256
  let v := m.2 % 256
  wordOf ((if 16 ≤ h ∧ 12 ≤ v ∧ sameWave p j = true then 2 ^ 31 else 0) + laneWave p j * 2 ^ 24 + v * 2 ^ 8 + h)

/-- A lane passes while TRAIN runs: TRAINED and its margins show it from then on (R432, R434). -/
def lanePasses (s : State) (p lane h v : Nat) : State :=
  if (portAt s p).cmd = some true ∧ lane < 8 then
    modPort s p fun x =>
      let w := eyeWord x lane (h, v)
      { x with
        trained := if bit w 31 && x.trained / 2 ^ lane % 2 == 0 && x.locked / 2 ^ laneWave x lane % 2 == 1 then x.trained + 2 ^ lane else x.trained
        peye := Tbl.put x.peye lane w }
  else s

/-- TRAIN_END: training ends with the horizontal and vertical margin of each lane (R431, R434). -/
def execTrainEnd (p : Nat) (margins : List (Nat × Nat)) (s : State) : Host.Outcome State Fault Refusal :=
  if (portAt s p).cmd = some true then
    let eye (x : Port) (j : Nat) : Word := eyeWord x j ((margins[j]?).getD (0, 0))
    let s := modPort s p fun x => { x with
      cmd := none
      trained := lanesLit x (((List.range 8).filter fun j => bit (eye x j) 31).foldl (fun n j => n + 2 ^ j) 0)
      peye := (List.range 8).map fun j => (j, eye x j) }
    let x := portAt s p
    .next (portEvent s p 3 (if x.trained = 0xFF then 0 else 17) (wordOf x.trained))
  else .next s

/-- LINK_CHANGE: the link comes up once the MAC is enabled on eight trained lanes, or goes down (R430, R431). -/
def execLinkChange (p : Nat) (up : Bool) (s : State) : Host.Outcome State Fault Refusal :=
  let x := portAt s p
  if up then
    if x.laser && x.up && x.trained == 0xFF && !x.link then
      let s := modPort s p fun x => { x with link := true }
      .next (portEvent s p 4 0 (pstatWord (portAt s p)))
    else .next s
  else .next (dropPortLink s p)

/-- RING_LOCK_LOSS: a ring loses lock (R433). -/
def execRingLockLoss (p ring : Nat) (s : State) : Host.Outcome State Fault Refusal :=
  let x := portAt s p
  if ring < 9 ∧ x.locked / 2 ^ ring % 2 = 1 then
    .next (loseLanes (modPort s p fun x => { x with
      locked := x.locked - 2 ^ ring
      phtr := tblErase x.phtr ring }) p)
  else .next s

/-- A locked ring follows its wavelength, so that its heater code changes with temperature (R433). -/
def trackRing (s : State) (p ring code : Nat) : State :=
  modPort s p fun x =>
    if ring < 9 ∧ x.locked / 2 ^ ring % 2 = 1 then { x with phtr := Tbl.put x.phtr ring (wordOf (2 ^ 31 + code % 4096)) } else x

/-- A port register as it reads (R430). -/
def readPort (x : Port) (off : Nat) : Word :=
  match off with
  | 0x00 => pctlWord x
  | 0x04 => pstatWord x
  | 0x0C => x.pevt
  | 0x10 => wordOf x.pmap
  | 0x70 => x.feccor
  | 0x74 => x.fecunc
  | 0x78 => x.plref
  | 0x7C => x.pdrop
  | _ =>
    if 0x20 ≤ off ∧ off ≤ 0x40 then Tbl.get 0 x.phtr ((off - 0x20) / 4)
    else if 0x48 ≤ off ∧ off ≤ 0x64 then Tbl.get 0 x.peye ((off - 0x48) / 4)
    else 0

/-- A write of a port register (R4, R430). -/
def writePort (s : State) (p off : Nat) (w : Word) : State :=
  match off with
  | 0x00 => setUp (setLlr (setLaser s p (bit w 0)) p (bit w 2)) p (bit w 1)
  | 0x08 =>
    match bits w 0 2 with
    | 1 => startLock s p
    | 2 => startTrain s p
    | 3 => abortPort s p
    | _ => s
  | 0x0C => modPort s p fun x => { x with pevt := w &&& 0x800000FF }
  | 0x10 => if (portAt s p).up then s else modPort s p fun x => { x with pmap := bits w 0 4 }
  | _ => s

/-! ### Paths -/

/-- Changes path `i` of a peer handle that the driver has opened. -/
def modPath (s : State) (h i : Nat) (f : Path → Path) : State :=
  let p : Peer := Tbl.get {} s.peers h
  if p.known ∧ i < 16 then { s with peers := Tbl.put s.peers h { p with paths := Tbl.put p.paths i (f (pathOf p i)) } } else s

/-- Whether a path has met what makes it unusable: 2 retransmission timeouts or 4 trimmed packets in a row (R440). -/
def pathFails (q : Path) : Bool := decide (2 ≤ q.timeouts) || decide (4 ≤ q.trims)

/-- PATH_UNUSABLE: what was in flight on the path is sent again on a usable one (R440); a ROD PDC moves to the next usable path when it next
sends, once nothing is in flight on the old one (R439). -/
def execPathUnusable (h i : Nat) (s : State) : Host.Outcome State Fault Refusal :=
  let p : Peer := Tbl.get {} s.peers h
  if p.known && decide (i < 16) && pathFails (pathOf p i) then .next (retransmit (modPath s h i fun q => { q with usable := false }) h) else .next s

/-- A retransmission timeout, or a trimmed packet, on a path; what the other kind had counted was not in a row (R440; notes/assumptions/90.md). -/
def countLoss (s : State) (h i : Nat) (trim : Bool) : State :=
  modPath s h i fun q => if trim then { q with trims := q.trims + 1, timeouts := 0 } else { q with timeouts := q.timeouts + 1, trims := 0 }

/-- What a path loses is counted, and with enough of it in a row the path becomes unusable (R440). -/
def losePacket (s : State) (h i : Nat) (trim : Bool) : Host.Outcome State Fault Refusal := execPathUnusable h i (countLoss s h i trim)

/-- A path's packet is acknowledged (R226, R440): the estimate, the ECN marks of the last 256, and the step from which its age counts. -/
def acked (tick level : Nat) (ecn : Bool) (q : Path) : Path :=
  { q with
    level := if level < 255 then level else 255
    acks := (ecn :: q.acks).take 256
    ackAt := tick
    timeouts := 0
    trims := 0 }

/-- An acknowledgement on a path. -/
def ackPath (s : State) (h i level : Nat) (ecn : Bool) : State := modPath s h i (acked s.tickNo level ecn)

/-- PATH_PROBE: the acknowledgement of a probe measures the path and makes it usable (R226, R440). -/
def execPathProbe (h i : Nat) (m : PathSample) (s : State) : Host.Outcome State Fault Refusal :=
  .next (if m.acked then retransmit (modPath s h i fun q => { acked s.tickNo m.level m.ecn q with usable := true }) h else s)

end Sys2Proof.Machine
end

