-- ==== Sys2Proof/Machine/MgmtEv.lean ====
section
/-! DEFINITION. The management network (R228, R408, R409, R430), and the scribe banks (R421 to R426). -/

namespace Sys2Proof.Machine

open Sys2Proof

/-! ### Registers -/

/-- BVSET (R365). -/
def bvsetWord (b : Bay) : Word := wordOf (b.mv % 1024 + if b.ready then 2 ^ 31 else 0)

/-- BTEMP (R365). -/
def btempWord (b : Bay) : Word := wordOf (b.temp % 4096 + b.warn % 4096 * 2 ^ 16 + if b.trip then 2 ^ 31 else 0)

/-- Word `i` of VDIGEST (R409). -/
def vdigestWord (b : Bay) (i : Nat) : Word := wordOf (leNat ((b.vdigest.drop (4 * i)).take 4))

/-- A bay register as it reads (R365, R409, R445). -/
def readBay (b : Bay) (off : Nat) : Word :=
  match off with
  | 0x00 => bvsetWord b
  | 0x04 => wordOf b.cap
  | 0x08 => btempWord b
  | 0x0C => wordOf (b.nhalf % 65536 + b.nquart % 65536 * 2 ^ 16)
  | 0x10 => b.benergy
  | 0x14 => wordOf b.leak
  | 0x18 => wordOf (b.depoch % 65536 + b.vbundle % 65536 * 2 ^ 16)
  | 0x50 => b.uncorr
  | 0x54 => b.takeaut
  | 0x58 => b.takeswp
  | 0x5C => wordOf (b.stpass % 65536 + b.stfail % 65536 * 2 ^ 16)
  | _ => if 0x20 ≤ off ∧ off ≤ 0x4C then vdigestWord b ((off - 0x20) / 4) else 0

/-- Replaces word `i` of VDIGEST. -/
def putVdigest (d : List Byte) (i : Nat) (w : Word) : List Byte :=
  let d := d ++ List.replicate (48 - d.length) 0
  d.take (4 * i) ++ leBytes 4 w.toNat ++ d.drop (4 * i + 4)

/-- A write of a bay register (R4, R365, R409); VBUNDLE and VDIGEST take no write from a bay controller. -/
def writeBay (s : State) (b off : Nat) (w : Word) (sill : Bool) : State :=
  match off with
  | 0x00 => writeBvset s b w
  | 0x04 => modBay s b fun x => { x with cap := bits w 0 12 }
  | 0x08 =>
    let s := modBay s b fun x => { x with warn := bits w 16 12 }
    if bit w 31 then clearTrip s b else s
  | 0x14 => modBay s b fun x => { x with leak := bits w 0 16 }
  | 0x18 => if sill then modBay s b fun x => { x with vbundle := bits w 16 16 } else s
  | _ =>
    if sill && decide (0x20 ≤ off) && decide (off ≤ 0x4C) then
      modBay s b fun x => { x with vdigest := putVdigest x.vdigest ((off - 0x20) / 4) w }
    else s

/-- SCRSTAT (R409). -/
def scrstatWord (x : Cell) : Word :=
  wordOf ((if x.active then 1 else 0) + (if x.svalid then 2 else 0) + (if x.defect then 8 else 0) + (if x.altsel then 16 else 0) +
    x.rejects % 256 * 2 ^ 8 + x.staged % 65536 * 2 ^ 16)

/-- A cell register as it reads (R367, R409, R445); SCRCMD reads zero. -/
def readCell (x : Cell) (off : Nat) : Word :=
  match off with
  | 0x40 => x.isduty
  | 0x50 => scrstatWord x
  | 0x60 => x.secorr
  | 0x64 => x.lecorr
  | 0x68 => x.discard
  | 0x6C => x.dropeff
  | _ => 0

/-- A write of a cell register (R4, R367, R409). -/
def writeCellReg (s : State) (c off : Nat) (w : Word) : State :=
  match off with
  | 0x40 => writeDuty s c w
  | 0x54 => if bit w 0 then markDefect s c else s
  | _ => s

/-- A management register as it reads (R408, R430). -/
def readRegister (s : State) (r : RegName) : Word :=
  match r with
  | .cell c off => readCell (cellOf s c) off
  | .bay b off => readBay (bayAt s b) off
  | .port p off => readPort (portAt s p) off

/-- A write of a management register (R4, R408, R409, R430). -/
def writeRegister (s : State) (r : RegName) (w : Word) (sill : Bool) : State :=
  match r with
  | .cell c off => writeCellReg s c off w
  | .bay b off => writeBay s b off w sill
  | .port p off => writePort s p off w

/-- MARK: SCRCMD.MARK is written (R409). -/
def execMarkCell (c : Nat) (s : State) : Host.Outcome State Fault Refusal :=
  .next (if isCellCore c && !isDead s c then markDefect s c else s)

/-- REGISTER_WRITE: a register field is written by the sill processors' firmware (R4). -/
def execRegisterWrite (r : RegName) (w : Word) (s : State) : Host.Outcome State Fault Refusal :=
  .next (if !s.booted || isDead s (regHome r) then s else writeRegister s r w true)

/-! ### Functions -/

/-- A cut asked for (R384): started, or REFUSED. -/
def mgmtCut (s : State) (c : Nat) (f : MgmtFn) : State :=
  match regionOf s c with
  | some r => if cutRefused (regionAt s r) then mgmtReply s f 16 0 else startCut s r f.sub (some f)
  | none => mgmtReply s f 16 0

/-- RESTORE SUB 1 (R396, R397): the region stops for its roll-back, or the function is refused, or it fails where a save zone is uncorrectable, an
event of the bay (R445). -/
def mgmtRestore (s : State) (c : Nat) (f : MgmtFn) : State :=
  match regionOf s c with
  | some r =>
    let g := regionAt s r
    if !g.complete || g.rolling.isSome then mgmtReply s f 16 0
    else
      match (regionCells s r).filter fun c => slotBad s c (cellOf s c).lastB || undoBad s c with
      | [] => stopRegion s r (some f)
      | bad => mgmtReply (bad.foldl (fun s c => noteUncorr s c true) s) f 17 0
  | none => mgmtReply s f 16 0

/-- SISTER (R399, R444). -/
def mgmtSister (s : State) (c : Nat) (f : MgmtFn) : State :=
  if f.sub = 0 then
    match assignSister s c (bayOf c * 1024 + bits f.b 0 10) f with
    | some s => trimSisters 124 s (bayOf c)
    | none => mgmtReply s f 16 0
  else match releaseSister s c with
    | some s => mgmtReply s f 0 0
    | none => mgmtReply s f 16 0

/-- TAKEOVER (R402). -/
def mgmtTakeover (s : State) (c : Nat) (f : MgmtFn) : State :=
  match (cellOf s c).sister with
  | some z =>
    if (cellOf s z).synced && (cellOf s c).takeover.isNone then modCell s c fun x => { x with takeover := some f }
    else mgmtReply s f 16 0
  | none => mgmtReply s f 16 0

/-- CLKSEL (R275, R278, R370). -/
def mgmtClksel (s : State) (c : Nat) (f : MgmtFn) : State :=
  let n := bits f.b 0 3
  if f.sub = 0 then
    let b := bayAt s (bayOf c)
    if spineAllowed b (spineMhz s n) then mgmtReply (selectSpine s c n) f 0 0 else mgmtReply s f 16 0
  else
    let mhz := bits f.b 4 12
    if mhz < 300 ∨ 1500 < mhz ∨ f.sill = false ∨
        ((List.range 1024).any fun b => bayUses s b n && decide ((bayAt s b).mv < vmin mhz)) = true then mgmtReply s f 16 0
    else mgmtReply { s with spineNext := Tbl.put s.spineNext n mhz } f 0 0

/-- WINSET (R286, R288): an accepted image waits for its context's block boundary. -/
def mgmtWinset (s : State) (c : Nat) (f : MgmtFn) : State :=
  let x := maCtx f.addr
  let w := winOfWords f.image
  if x < 5 ∧ winImageOk s c w = true then
    settleCore (modCtx s c x fun v => { v with winsets := v.winsets ++ [(bits f.addr 23 4, w, f)] }) c
  else mgmtReply s f 16 0

/-- BINDSET (R12, R13). -/
def mgmtBindset (s : State) (c : Nat) (f : MgmtFn) : State :=
  if bindRejected f.b then mgmtReply s f 16 0 else mgmtReply (settleCore (writeBinding s c (maAux f.addr) f.b) c) f 0 0

/-- Whether a management function waits for a cut to end (R390). -/
def mgmtWaits (s : State) (c : Nat) (f : MgmtFn) : Bool :=
  (cutAt s c).isSome && (f.fn == 34 || f.fn == 35 || f.fn == 38 || f.fn == 40)

/-- A management function at its target (R228). -/
def performMgmt (s : State) (c : Nat) (f : MgmtFn) : State :=
  match f.fn with
  | 33 => mgmtCut s c f
  | 34 =>
    let x := maCtx f.addr
    if 4 ≤ x ∨ (ctxOf s c x).st = .saved then mgmtReply s f 16 0
    else modCtx s c x fun v => { v with saves := v.saves ++ [f] }
  | 35 => mgmtRestore s c f
  | 37 => if f.sub = 1 ∧ f.sill = false then mgmtReply s f 16 0 else { s with flips := s.flips ++ [(f, bayOf c)] }
  | 38 => if testRefused s c then mgmtReply s f 16 0 else modCell s c fun x => { x with testing := some f }
  | 39 => mgmtSister s c f
  | 40 => mgmtTakeover s c f
  | 41 => mgmtClksel s c f
  | 42 => mgmtWinset s c f
  | 43 => mgmtBindset s c f
  | _ => s

/-- MGMT_ACCESS: message `n`, a register access or a management function, reaches its target (R228, R408, R409, R430). SCRIBE and RESTORE
SUB 0 have steps of their own. A function that waits for a cut has been accepted, and its entry is acknowledged at once. -/
def execMgmtAccess (n : Nat) (s : State) : Host.Outcome State Fault Refusal :=
  match arrived s n with
  | none => .next s
  | some m =>
    let t := receive s n m
    let c := m.dst
    match m.body with
    | .register r v a lane =>
      if isDead s c then .next (reply t c m { asker := a, cause := some .remote, refused := 2 ^ lane })
      else
        match v with
        | none => .next (reply t c m { asker := a, vals := [(lane, readRegister s r)] })
        | some w => .next (reply (writeRegister t r w (!isBayCore m.src)) c m { asker := a, vals := [(lane, 0)] })
    | .mgmt f a =>
      if f.fn = 36 ∨ (f.fn = 35 ∧ f.sub = 0) then .next s
      else if isDead s c then .next (mgmtReply (reply t c m { asker := a }) f 20 0)
      else if mgmtWaits s c f then
        .next (if a = .nobody then s else reply (putMsg s n { m with body := .mgmt f .nobody }) c m { asker := a })
      else .next (performMgmt (reply t c m { asker := a }) c f)
    | _ => .next s

/-! ### Scribe images -/

/-- Words `a` to `b` of an image, all of which a predicate must hold of. -/
def imgAll (img : List Word) (a b : Nat) (f : Word → Bool) : Bool := (List.range (b - a + 1)).all fun k => f (imgWord img (a + k))

/-- Whether NHOP and the reserved fields of an image are in range (R421, R423). -/
def imgFieldsOk (img : List Word) : Bool :=
  img.length == 64 && imgAll img 3 10 (fun w => bits w 15 17 == 0 && decide (1 ≤ bits w 0 3) && decide (bits w 0 3 ≤ 4)) &&
  imgAll img 12 43 (fun w => bits w 19 12 == 0 && bits w 11 5 == 0) && imgAll img 44 62 fun w => w == 0

/-- Bytes of a list of words. -/
def wordBytes (ws : List Word) : List Byte := ws.flatMap fun w => leBytes 4 w.toNat

/-- Whether the CRC of an image is right (R421). -/
def imgCrcOk (img : List Word) : Bool := imgWord img 63 == wordOf (crc32 (wordBytes (img.take 63)))

/-- Hops of the path in direction `d` of an image, the alternate ones from 4 on (R421). -/
def imgPath (img : List Word) (d : Nat) : List Nat :=
  let w := imgWord img (3 + d)
  (List.range (bits w 0 3)).map fun j => bits w (3 + 3 * j) 3

/-- SCRIBE_STAGE: the router checks an image and stages or rejects it (R423). -/
def execScribeStage (n : Nat) (s : State) : Host.Outcome State Fault Refusal :=
  match arrived s n with
  | none => .next s
  | some m =>
    match m.body with
    | .mgmt f a =>
      if f.fn = 36 then
        let c := m.dst
        let t := reply (receive s n m) c m { asker := a }
        let img := f.image
        if isDead s c then .next (mgmtReply t f 20 0)
        else if bits (imgWord img 1) 16 16 ≠ (bayAt s (bayOf c)).vbundle then .next (mgmtReply t f 19 0)
        else if !imgCrcOk img || !imgFieldsOk img then
          .next (mgmtReply (modCell t c fun x => { x with rejects := if x.rejects < 255 then x.rejects + 1 else 255 }) f 18 0)
        else
          let t := modCell t c fun x =>
            let x := { x with staged := bits (imgWord img 1) 16 16, svalid := true }
            if x.active then { x with bankA := img } else { x with bankB := img }
          .next (mgmtReply t f 0 0)
      else .next s
    | _ => .next s

/-! ### Bundles -/

/-- The bytes of a bundle that its signature and digest cover (R422; notes/assumptions/7.md). -/
def bundleBytes (b : ScribeBundle) : List Byte :=
  wordBytes [wordOf b.number, wordOf b.depoch] ++ b.bays.flatMap fun p => wordBytes [wordOf p.1] ++ p.2.flatMap wordBytes

/-- The router of a bay that serves a logical position under a list of images: the working ones that claim it. -/
def servers (s : State) (b : Nat) (imgs : List (List Word)) (x y : Nat) : List Nat :=
  ((List.range imgs.length).zip imgs).filterMap fun p =>
    if imgPlace p.2 = some (x, y) ∧ (cellOf s (1024 * b + p.1)).defect = false then some (1024 * b + p.1) else none

/-- The cell that serves a logical cell under a bundle: its bay's images if the bundle names the bay, else the embedding (R422, R455). -/
def bundleCell (s : State) (d : ScribeBundle) (x y : Nat) : Option Nat :=
  let b := 32 * (y / 30) + x / 30
  match d.bays.find? fun p => p.1 == b with
  | some p => (servers s b p.2 (x % 30) (y % 30)).head?
  | none => some (coreAt s x y)

/-- The spares that serve a logical cell while alternate entries are in use: by ALTROLE of the bundle's images, or as sisters (R399, R421). -/
def altCells (s : State) (d : ScribeBundle) (x y : Nat) : List Nat :=
  let b := 32 * (y / 30) + x / 30
  match d.bays.find? fun p => p.1 == b with
  | some p => ((List.range p.2.length).zip p.2).filterMap fun q =>
      if (imgPlace q.2).isNone && imgAltPlace q.2 == some (x % 30, y % 30) then some (1024 * b + q.1) else none
  | none => ((bayAt s b).alternates.filter fun q => q.1 == coreAt s x y).map fun q => q.2

/-- Whether the four paths of a cell at a logical position end at its neighbours' cells (R422): the main ones where `alt` is false, the alternate
ones at a cell that serves the neighbour by either entry. -/
def pathsReach (s : State) (d : ScribeBundle) (b c : Nat) (img : List Word) (alt : Bool) (p : Nat × Nat) : Bool :=
  [0, 1, 2, 3].all fun k =>
    let o := dirOffset k
    let x := torus (30 * (b % 32) + p.1) o.1
    let y := torus (30 * (b / 32) + p.2) o.2
    let e := (imgPath img (if alt then 4 + k else k)).foldl physMove c
    bundleCell s d x y == some e || (alt && (altCells s d x y).contains e)

/-- Whether every path of an image ends at the neighbour's cell (R422). -/
def pathsEnd (s : State) (d : ScribeBundle) (b c : Nat) (img : List Word) : Bool :=
  (match imgPlace img with | some p => pathsReach s d b c img false p | none => true) &&
  (match imgAltPlace img with | some p => pathsReach s d b c img true p | none => true)

/-- Whether the images of one bay pass the check (R422). -/
def bayImagesOk (s : State) (d : ScribeBundle) (p : Nat × List (List Word)) : Bool :=
  (bayAt s p.1).depoch == d.depoch && p.2.all imgFieldsOk &&
  ((List.range 900).all fun k => (servers s p.1 p.2 (k % 30) (k / 30)).length == 1) &&
  ((List.range p.2.length).zip p.2).all fun q => pathsEnd s d p.1 (1024 * p.1 + q.1) q.2

/-- BUNDLE_VERIFY: the sill processors check a scribe bundle under the key of the bay controller that computed it (R422). -/
def execBundleVerify (d : ScribeBundle) (s : State) : Host.Outcome State Fault Refusal :=
  if !s.booted then .next s
  else if Config.signatureOk (Config.bayKey d.signer) (bundleBytes d) d.signature && d.bays.all (bayImagesOk s d) then
    let s := extendAr s 3 (sha3 (bundleBytes d))
    .next (report (d.bays.foldl (fun s p => modBay s p.1 fun b => { b with
      vbundle := d.number
      bundleDepoch := d.depoch
      bundleBays := d.bays.map fun q => q.1
      vdigest := sha3 (p.2.flatMap wordBytes) }) s) (.bundleVerified d.number))
  else .next (report s (.bundleRefused d.number))

/-! ### The flip -/

/-- The bank that SCRIBE writes and SFLIP makes active. -/
def stagedBank (x : Cell) : List Word := if x.active then x.bankA else x.bankB

/-- Cells of a bay in router order. -/
def bayCells (b : Nat) : List Nat := (List.range 1024).map fun k => 1024 * b + k

/-- Whether a bay may flip (R424): the DEPOCH of its bundle stands in every image and in the bundle's header (R421, R422). -/
def bayFlips (s : State) (b : Nat) : Bool :=
  let v := bayAt s b
  (bayCells b).all (fun c => (cellOf s c).svalid && (cellOf s c).staged == v.vbundle &&
    bits (imgWord (stagedBank (cellOf s c)) 1) 0 16 == v.depoch) &&
  v.depoch == v.bundleDepoch &&
  sha3 ((bayCells b).flatMap fun c => wordBytes (stagedBank (cellOf s c))) == v.vdigest

/-- Bays in the scope of a flip: the one addressed, or with SUB 1 those that its last verified bundle names (R424). -/
def flipScope (s : State) (f : MgmtFn) (b : Nat) : List Nat :=
  if f.sub = 0 ∨ (bayAt s b).bundleBays = [] then [b] else (bayAt s b).bundleBays

/-- Whether a bay in scope still stands under the bundle that the flip is about (R424): another bundle verified for it since makes the flip fail. -/
def sameBundle (s : State) (b k : Nat) : Bool := (bayAt s k).vbundle == (bayAt s b).vbundle

/-- Whether a cut of a region with a cell in scope is under way (R424). -/
def flipWaits (s : State) (bs : List Nat) : Bool :=
  s.cells.any fun p => isCellCore p.1 && bs.contains (p.1 / 1024) && (cutAt s p.1).isSome

/-- A neighbour pointer from the sum of a path's links (R132, R421). -/
def pathSum (hops : List Nat) : Word :=
  let x := hops.foldl (fun (a : Int) h => match h with | 1 => a + 1 | 3 => a - 1 | 5 => a + 2 | 7 => a - 2 | _ => a) 0
  let y := hops.foldl (fun (a : Int) h => match h with | 0 => a - 1 | 2 => a + 1 | 4 => a - 2 | 6 => a + 2 | _ => a) 0
  wordOf ((wordOfInt x).toNat % 256 + (wordOfInt y).toNat % 256 * 256)

/-- Whether a router has noted that one of its labels serves logical link `link`: labels of a shadow bank count from 512 (R255). -/
def serves (x : Cell) (link n : Nat) (w : Word) : Bool := labelKind w == 1 && x.transits.any fun q => q.1 == n && q.2 == link

/-- Invalidates the TRANSIT labels of the logical link in direction `d` of a router, whose path over `hops` changes, in its transit routers' pools
and shadow banks (R255, R425). -/
def dropTransit (s : State) (c d : Nat) (hops : List Nat) : State :=
  (linkSteps c true hops).foldl (fun s q =>
    if q.2.2 then s
    else modCell s q.1 fun x => { x with
      labels := x.labels.filter fun p => !serves x (4 * c + d) p.1 p.2
      shadow := x.shadow.map fun h => { h with labels := h.labels.filter fun p => !serves x (4 * c + d) (512 + p.1) p.2 } }) s

/-- Loft row remap entries of an image that are in use: bank, row and spare row (R421). -/
def imgRemaps (img : List Word) : List (Nat × Nat × Nat) :=
  (List.range 32).filterMap fun k =>
    let w := imgWord img (12 + k)
    if bit w 31 then some (bits w 9 2, bits w 0 9, bits w 16 3) else none

/-- Exchanges two spans of `n` bytes. -/
def swapSpan (a b n k : Nat) : Nat :=
  if a ≤ k ∧ k < a + n then k - a + b else if b ≤ k ∧ k < b + n then k - b + a else k

/-- A loft row of a bank and a spare row exchange what they hold: the row's addresses reach the spare row, whose bytes, outside the
address space, the model keys from offset 0x20_0000 on (R421). -/
def exchangeRow (c : Nat) (s : State) (p : Nat × Nat × Nat) : State :=
  let f := swapSpan (loftKey c (4096 * p.2.1 + 1024 * p.1)) (loftKey c (0x200000 + 4096 * p.2.2 + 1024 * p.1)) 1024
  { s with
    mem := s.mem.foldl (fun t q => memPut t (f q.1) q.2) []
    full := s.full.foldl (fun t k => keyInsert t (f k)) []
    bad := s.bad.foldl (fun t k => keyInsert t (f k)) [] }

/-- A router makes its staged bank active (R424, R425). -/
def flipCell (s : State) (c : Nat) : State :=
  let rows := imgRemaps (activeBank (cellOf s c))
  let s := (imgRemaps (stagedBank (cellOf s c))).foldl (exchangeRow c) (rows.reverse.foldl (exchangeRow c) s)
  let old := [0, 1, 2, 3].map fun d => hopLinks s c d
  let x := cellOf s c
  let img := stagedBank x
  let s := ((List.range 4).zip old).foldl (fun s p => if imgPath img p.1 = p.2 then s else dropTransit s c p.1 p.2) s
  let s := modCell s c fun x => { x with
    active := !x.active
    altsel := false
    svalid := false
    remaps := x.remaps.filter fun r => !((imgRemaps img).any fun q => q.1 == r.1 && q.2.1 == r.2)
    npn := pathSum (imgPath img 0)
    npe := pathSum (imgPath img 1)
    nps := pathSum (imgPath img 2)
    npw := pathSum (imgPath img 3) }
  match imgPlace img with
  | some p =>
    let b := c / 1024
    { s with embed := Tbl.put s.embed ((30 * (b / 32) + p.2) % 960 * 960 + (30 * (b % 32) + p.1) % 960) c }
  | none => s

/-- What a flip leaves of a bay: the alternate entries of pairs that are still paired, and the time of the repair (R399, R424, R443). -/
def flipBay (s : State) (b : Nat) : State :=
  noteRepair (modBay s b fun x => { x with alternates := x.alternates.filter fun q => (cellOf s q.2).partner == some q.1 }) b

/-- SFLIP_TICK: flip `n` takes place, is refused, or waits for a cut (R424). -/
def execSflipTick (n : Nat) (s : State) : Host.Outcome State Fault Refusal :=
  match s.flips[n]? with
  | none => .next s
  | some (f, b) =>
    let bs := flipScope s f b
    if flipWaits s bs then .next s
    else
      let t := { s with flips := dropAt s.flips n }
      if bs.all (fun k => bayFlips s k && sameBundle s b k) then
        .next (mgmtReply (bs.foldl flipBay ((bs.flatMap bayCells).foldl flipCell t)) f 0 0)
      else .next (mgmtReply t f 16 0)

end Sys2Proof.Machine
end

