-- ==== Sys2Proof/Machine/BootEv.lean ====
section
/-! DEFINITION. Boot, resets, attestation, tenants' keys and the scrub (R6, R9, R276, R410 to R416, R450, R451). What a signature covers,
and the layouts that the spec does not give, stand in notes/assumptions/7.md. -/

namespace Sys2Proof.Machine

open Sys2Proof

/-! ### Boot -/

/-- The bytes of a firmware bundle that its signature covers. -/
def fwBytes (d : FwBundle) : List Byte := leBytes 4 d.version ++ d.sill ++ d.bay

/-- Whether a bundle's signature verifies against the fused key (R410, step 3). -/
def fwSigned (s : State) (d : FwBundle) : Bool :=
  sha3 d.key == s.fusedKeyDigest && Config.signatureOk d.key (fwBytes d) d.signature

/-- The number of the step of R410 at which a bundle fails. -/
def fwFails (s : State) (d : FwBundle) : Option Nat :=
  if !fwSigned s d then some 3 else if d.version < s.rollbackCounter then some 4 else none

/-- Attestation register `i` (R411). -/
def arOf (s : State) (i : Nat) : List Byte := Tbl.get (List.replicate 48 0) s.ar i

/-- The keys that the ROM derives on each boot, and the certificate of the attestation key (R412). -/
def deriveKeys (s : State) : State :=
  let k := Config.identityKey s.fusedSeed
  let a := Config.attestationKey s.fusedSeed (arOf s 0 ++ arOf s 1 ++ arOf s 2)
  { s with identityKey := k, attestKey := a, attestCert := Config.sign k (Config.publicKey a) }

/-- BOOT: the ROM measures itself and the bundle, and releases the sill processors, or the module runs nothing (R410 to R412). The ROM
has run once AR0 is no longer zero. -/
def execBoot (d : FwBundle) (s : State) : Host.Outcome State Fault Refusal :=
  if s.ar.any fun p => p.1 == 0 then .next s
  else
    let s := extendAr s 0 (sha3 Config.bootRom)
    match fwFails s d with
    | some k => .next (report s (.bootFailed k))
    | none =>
      let s := deriveKeys (extendAr (extendAr s 1 (sha3 d.sill)) 2 (sha3 d.bay))
      .next ([0, 1, 2, 3].foldl (fun s i => putCell s (sillCore i) { inReset := false }) { s with booted := true, running := some d })

/-! ### Resets -/

/-- The bay of a logical cell (R455). -/
def bayOfLogical (l : Nat) : Nat := 32 * (l / 960 / 30) + l % 960 / 30

/-- What a bay reset leaves of a bay: its tenant, what the sill processors keep of it, and its sensor; BVSET is the VMIN of spine6
(R6, R276). -/
def freshBay (s : State) (b : Nat) : Bay :=
  let v := bayAt s b
  let fast := decide (1200 < spineMhz s 6)
  { mv := if fast then vmin (spineMhz s 6) else 820
    ready := !fast
    releasing := fast
    tenant := v.tenant
    temp := v.temp
    tempMax := v.temp
    budget := v.budget
    lastRep := v.lastRep
    retired := v.retired
    absent := v.absent
    samples := v.samples
    firmware := match s.running with | some d => d.bay | none => [] }

/-- BAY_RESET: every field of a bay, its cells and its controller returns to its reset value, and the cells start on spine6, once READY
is 1 (R6, R9, R136, R276, R445, R452). While a plate's flow is low, firmware holds ISDUTY of these cells at 16 too (R449). -/
def execBayReset (b : Nat) (s : State) : Host.Outcome State Fault Refusal :=
  if s.booted && decide (b < 1024) then
    let v := freshBay s b
    let s := { s with
      embed := s.embed.filter fun p => bayOfLogical p.1 != b
      bays := Tbl.put s.bays b v }
    let s := putCell s (bayCore b) { inReset := false }
    let duty := if s.lowFlow then 0x1010 else 0x4040
    .next ((List.range 1024).foldl (fun s k => putCell s (b * 1024 + k) { inReset := v.releasing, isduty := duty }) s)
  else .next s

/-- Whether a job is ACTIVE (R351). -/
def anyJob (s : State) : Bool := s.jobs.any fun p => match p.2 with | some j => j.active | none => false

/-- The module after a reset: reset values but for the flash, whose uploaded bundle becomes active, the fuses, the host's memory, the
bays that stay retired (R444, R450, R451), and the model's own counters and queues. -/
def resetModule (s : State) : State :=
  { State.reset with
    flashA := s.flashA
    flashB := s.flashB
    flashActiveB := s.flashActiveB != s.flashNew
    certRoots := s.certRoots
    rollbackCounter := s.rollbackCounter
    fusedKeyDigest := s.fusedKeyDigest
    fusedSeed := s.fusedSeed
    bays := s.bays.filterMap fun p => if p.2.retired then some (p.1, { retired := true }) else none
    hostMem := s.hostMem
    outbox := s.outbox
    inputs := s.inputs
    focus := s.focus
    tickNo := s.tickNo }

/-- MODULE_RESET: refused while a job is ACTIVE unless forced (R450, R451). -/
def execModuleReset (forced : Bool) (s : State) : Host.Outcome State Fault Refusal :=
  .next (if anyJob s && !forced then report s .resetRefused else resetModule s)

/-! ### Tenants -/

/-- A cell after the scrub: queues, tables, labels, bindings, windows, channels, barrier objects, slots and counters are zero (R416,
R445). -/
def scrubbed (x : Cell) : Cell :=
  { x with
    core := { bindings := (List.range 256).map fun t => (t, 0) }
    labels := []
    shadow := none
    slot := none
    secorr := 0
    lecorr := 0
    discard := 0
    dropeff := 0
    slotA := none
    slotB := none
    undo := []
    undoMark := 0
    transits := []
    mirror := []
    readMark := []
    openMark := [] }

/-- Whether a tenant has a job in the bridge's table. -/
def tenantBusy (s : State) (t : Nat) : Bool := s.jobs.any fun p => match p.2 with | some j => j.tenant == t | none => false

/-- The keys of a tenant's associations, one association at each port (R414; notes/assumptions/96.md). -/
def assocKeys (secret : List Byte) (t : Nat) : Tbl (List Byte × List Byte) :=
  (List.range 320).map fun p => (320 * t + p, (Config.linkKey secret p false, Config.linkKey secret p true))

/-- A key store with a tenant's keys replaced, in rising order. -/
def putKeys (ks : Tbl (List Byte × List Byte)) (t : Nat) (mine : Tbl (List Byte × List Byte)) : Tbl (List Byte × List Byte) :=
  (ks.filter fun p => decide (p.1 < 320 * t)) ++ mine ++ ks.filter fun p => decide (320 * t + 320 ≤ p.1)

/-- The scrub of a bay, and its new tenant (R414, R416, R445): what the bay's routers hold goes too; the keys of a tenant whose jobs have ended go
first, from the key store and the port engines. -/
def scrubBay (s : State) (b t : Nat) : State :=
  let old := (bayAt s b).tenant
  let mine (k : Nat) : Bool := isCellCore (keyCore k) && keyCore k / 1024 == b
  let s := { s with
    mem := s.mem.filter fun p => !mine p.1
    full := s.full.filter fun k => !mine k
    bad := s.bad.filter fun k => !mine k
    cells := s.cells.map fun p => if isCellCore p.1 && p.1 / 1024 == b then (p.1, scrubbed p.2) else p
    net := s.net.filter fun m => !(isCellCore m.at_ && m.at_ / 1024 == b)
    linkKeys := if tenantBusy s old then s.linkKeys else putKeys s.linkKeys old []
    tss := if tenantBusy s old then s.tss else putKeys s.tss old [] }
  modBay s b fun v => { v with tenant := t, uncorr := 0, takeaut := 0, takeswp := 0, stpass := 0, stfail := 0 }

/-- TENANT_SCRUB: the sill processors change a bay's TENANT; the bay's hardware zeroes what the bay holds first (R416). -/
def execTenantScrub (b t : Nat) (s : State) : Host.Outcome State Fault Refusal :=
  .next (if s.booted && (bayAt s b).tenant != t then scrubBay s b t else s)

/-- What a quote holds (R413). -/
def quoteBytes (s : State) (t : Nat) (nonce key : List Byte) : List Byte :=
  let num (n : Nat) : List Byte := leBytes 4 n
  (List.range 8).flatMap (arOf s) ++ nonce ++
  ((List.range 1024).filter fun b => (bayAt s b).tenant == t).flatMap num ++
  (s.regions.filter fun p => p.2.st != .free && p.2.tenant == t).flatMap (fun p => num p.1) ++
  (s.exports.filter fun p => p.2.known && p.2.tenant == t).flatMap (fun p => num p.1 ++ num p.2.cell ++ num p.2.ctx ++ num p.2.window) ++
  key

/-- QUOTE: the sill firmware answers a tenant's nonce (R413). -/
def execQuote (t : Nat) (nonce : List Byte) (s : State) : Host.Outcome State Fault Refusal :=
  if s.booted && decide (nonce.length = 32) then
    let key := Config.encapsulationKey s.tickNo
    let q := quoteBytes s t nonce key
    .next (report { s with encapKeys := Tbl.put s.encapKeys t key } (.quote t q (Config.sign s.attestKey q) s.attestCert))
  else .next s

/-- KEY_ENCAPSULATION: a tenant's ciphertext gives its link keys, for each direction of each association, which the key store keeps and the ports' TSS
engines take, or it programs none (R414). -/
def execKeyEncapsulation (t : Nat) (ct : List Byte) (s : State) : Host.Outcome State Fault Refusal :=
  if s.encapKeys.any fun p => p.1 == t then
    match Config.decapsulate (Tbl.get [] s.encapKeys t) ct with
    | some k => .next { s with
        linkKeys := putKeys s.linkKeys t (assocKeys k t)
        tss := putKeys s.tss t (assocKeys k t)
        encapKeys := tblErase s.encapKeys t }
    | none => .next (report s (.kemFailed t))
  else .next (report s (.kemFailed t))

/-- ATTESTATION_EXTEND: firmware extends AR5, AR6 or AR7 on a tenant's request (R411). -/
def execAttestationExtend (i : Nat) (m : List Byte) (s : State) : Host.Outcome State Fault Refusal :=
  .next (if s.booted && decide (5 ≤ i) && decide (i ≤ 7) && decide (m.length = 48) then extendAr s i m else s)

/-! ### Live loads -/

/-- The bundle in the active flash bank (R450). -/
def activeBundle (s : State) : Option FwBundle := if s.flashActiveB then s.flashB else s.flashA

/-- LIVE_FIRMWARE_LOAD: the active bundle's bay firmware is loaded into a bay that holds no region, and measured into AR2 (R450). -/
def execLiveFirmwareLoad (b : Nat) (s : State) : Host.Outcome State Fault Refusal :=
  match activeBundle s with
  | some d =>
    if s.booted && ((listedCells s b).all fun p => p.2.region.isNone) && (regionOf s (bayCore b)).isNone then
      .next (modBay (extendAr s 2 (sha3 d.bay)) b fun v => { v with firmware := d.bay })
    else .next s
  | none => .next s

end Sys2Proof.Machine
end

