-- ==== Sys2Proof/Machine/CollEv.lean ====
section
/-! DEFINITION. Steps of the collective engine, of the packet check and of collective slots (R324 to R332). -/

namespace Sys2Proof.Machine

open Sys2Proof

/-! ### Start and finish -/

/-- Whether an operation may start: none of its entry runs, none of it waits before it, and nothing it follows is open (R304, R324). -/
def collStartable (v : Context) (o : Coll) : Bool :=
  !o.started && o.holdOn.isEmpty && (collRunning v o.gt).isNone &&
  (match (collQueued v o.gt).head? with | some h => h.seq == o.seq | none => false)

/-- Whether a queued token is a held packet of an operation, and its digest. -/
def heldFor (o : Coll) (q : Queued) : Option Nat :=
  match q.t.tuple with
  | some u => if q.held && u.gt == o.gt && u.seq == o.seq then some u.digest else none
  | none => none

/-- The start token of an operation (R324). -/
def startToken (o : Coll) : Token :=
  { tag := o.htag
    lanes := ⟨some (wordOf o.addr), some (wordOf (o.gt % 256 + o.seq % 2 ^ 16 * 2 ^ 16)), some (wordOf o.digest), none, none, none, none,
      none⟩
    tuple := some ⟨o.gt, o.seq, o.digest, 1024⟩ }

/-- Whether a packet that waited for an operation enters the queue of its tag where it stands: the tag has arity 1 (R16, R326). -/
def queuesHere (s : State) (c : Nat) (o : Coll) (q : Queued) : Bool :=
  (heldFor o q).isSome && bArity (bindingAt s c q.t.tag) == 1

/-- An operation starts: BUSY, the digests, and the packets that waited for it (R324, R326). -/
def startColl (s : State) (c x : Nat) (o : Coll) : State :=
  let now := (coreOf s c).tokens.filter (queuesHere s c o)
  let s := modGroup s c o.gt fun g => { g with busy := true, digp := g.dig, dig := o.digest }
  let s := modCtx s c x fun v => { v with
    collq := v.collq.map fun p =>
      if p.gt = o.gt ∧ p.seq = o.seq then { p with started := true, arrived := p.arrived + now.length } else p }
  modCore s c fun k => { k with tokens := k.tokens.map fun q => if now.contains q then { q with held := false } else q }

/-- A packet that waited for an operation that has started, and whose tag has an arity above 1, arrives at the matching store (R17, R326); none
while its port is full. -/
def admitHeld (s : State) (c x : Nat) : Option State :=
  let v := ctxOf s c x
  (coreOf s c).tokens.findSome? fun q =>
    match q.t.tuple with
    | some u =>
      if q.held && v.collq.any (fun o => o.started && o.gt == u.gt && o.seq == u.seq) then
        match arriveToken (modCore s c fun k => { k with tokens := k.tokens.filter fun p => p.stamp != q.stamp }) c q.t.tag q.t with
        | .taken s => some (collArrived s c x u)
        | .discarded s => some s
        | .waits => none
      else none
    | none => none

/-- COLLECTIVE_START (R324). A held packet of another digest poisons the entry instead (R326); packets that waited for a started operation
come first. -/
def execCollectiveStart (c x : Nat) (s : State) : Host.Outcome State Fault Refusal :=
  let v := ctxOf s c x
  if coreActs s c && collCtx s c == some x then
    match admitHeld s c x with
    | some s => .next (settleCore s c)
    | none =>
    match v.collq.find? (collStartable v) with
    | none => .next s
    | some o =>
      if !groupRoom s c o.gt then .next (askEarlyCut s c) else
      match (coreOf s c).tokens.find? fun q => (match heldFor o q with | some d => d != o.digest | none => false) with
      | some q =>
        (match collPoison s c x o.gt o.seq true with
         | some s => .next (settleCore (collNotice s c q.sender o.gt o.seq true) c)
         | none => .next s)
      | none =>
        match arriveToken (startColl s c x o) c (512 + o.htag) (startToken o) with
        | .taken s => .next (settleCore s c)
        | .discarded s => .next (settleCore s c)
        | .waits => .next s
  else .next s

/-- Whether a pending entry was opened by an operation's handlers (R328). -/
def entryOfColl (o : Coll) (p : Entry) : Bool := p.st != .free && p.tuple == some (o.gt, o.seq)

/-- Whether an operation has completed (R328). -/
def collComplete (v : Context) (o : Coll) : Bool :=
  o.started && decide (o.expect ≤ o.arrived) && decide ((if o.expect = 0 then 1 else o.expect) ≤ o.ended) &&
  !(v.pend.any fun p => entryOfColl o p.2)

/-- COLLECTIVE_FINISH (R328). -/
def execCollectiveFinish (c x : Nat) (s : State) : Host.Outcome State Fault Refusal :=
  let v := ctxOf s c x
  match v.collq.find? (collComplete v) with
  | some o =>
    if !coreActs s c then .next s
    else if !groupRoom s c o.gt then .next (askEarlyCut s c)
    else
      let s := modGroup s c o.gt fun g => { g with busy := false }
      let s := modCtx s c x fun v => { v with collq := v.collq.filter fun p => !(p.gt == o.gt && p.seq == o.seq) }
      .next (settleCore (collFinish s c o 0) c)
  | none => .next s

/-! ### Packets -/

/-- A packet that must wait for its operation stands in its tag's queue as held, when that has room (R16, R326). -/
def holdPacket (s : State) (c tag : Nat) (t : Token) (sender : Nat) : Option State :=
  if !queueRoom (cellOf s c) tag then none
  else
    let n := nextStamp s c
    some (modCore n.1 c fun k => { k with
      tokens := k.tokens ++ [{ stamp := n.2, t := { t with tag := tag }, held := true, sender := sender }] })

/-- What the home does with a packet (R326); none when the packet waits where it is. -/
def handlePacket (s : State) (c x : Nat) (m : Msg) (t : Token) (u : Tuple) : Option State :=
  let tag := 512 + t.tag
  let enter (s : State) : Option State :=
    match arriveToken s c tag t with
    | .taken s => some (collArrived s c x u)
    | .discarded s => some s
    | .waits => none
  match collCheck s c x u with
  | .discard => some (countDiscard s c 1)
  | .notice => some (collNotice s c (senderOf m) u.gt u.seq false)
  | .queue => enter s
  | .waits => if bValid (bindingAt s c tag) then holdPacket s c tag t (senderOf m) else some (discardEvent s c)
  | .ahead => if bValid (bindingAt s c tag) then holdPacket s c tag t (senderOf m) else some (discardEvent s c)
  | .mismatch => (collPoison s c x u.gt u.seq true).map fun s => collNotice s c (senderOf m) u.gt u.seq true

/-- COLLECTIVE_PACKET_CHECK: message `n`, a collective packet, at its home (R326, R327). -/
def execCollectivePacketCheck (n : Nat) (s : State) : Host.Outcome State Fault Refusal :=
  match arrived s n with
  | none => .next s
  | some m =>
    match m.body with
    | .token t a =>
      let c := m.dst
      match t.tuple with
      | some u =>
        if isPacket s c t && !isDead s c then
          match collCtx s c with
          | some x =>
            if !groupRoom s c u.gt then .next (askEarlyCut s c) else
            match handlePacket (useGroup (receive s n m) c u.gt) c x m t u with
            | some s => .next (settleCore (mirrorToken (ackToken s m a) c) c)
            | none => .next s
          | none => .next (settleCore (countDiscard (ackToken (receive s n m) m a) c 1) c)
        else .next s
      | none => .next s
    | _ => .next s

/-- POISON_NOTICE: a home that hears of a poisoned operation poisons its own entry (R327). -/
def execPoisonNotice (n : Nat) (s : State) : Host.Outcome State Fault Refusal :=
  match arrived s n with
  | none => .next s
  | some m =>
    match m.body with
    | .poison gt seq mismatch =>
      let c := m.dst
      let t := receive s n m
      match (if isDead s c then none else collCtx s c) with
      | some x =>
        if !groupRoom s c gt then .next (askEarlyCut s c)
        else if (groupOf s c gt).live then
          (match collPoison t c x gt seq mismatch with
           | some s => .next (settleCore s c)
           | none => .next s)
        else .next t
      | none => .next t
    | _ => .next s

/-! ### Slots -/

/-- SLOT_OPEN: the sequencer takes the collective context (R330, R331); a chain that it would continue is kept for the end. -/
def execSlotOpen (c : Nat) (s : State) : Host.Outcome State Fault Refusal :=
  match (if coreActs s c then userCtxs.find? (slotDue s c) else none) with
  | some x =>
    let v := ctxOf s c x
    let keep := if v.st = .running then some v else none
    let s := modCell s c fun k => { k with slot := some { ctx := x, began := k.cyc, resume := keep } }
    .next (settleCore (putCtx s c x { v with st := .idle, pc := none, inter := none, calls := [], yielded := false }) c)
  | none => .next s

/-- The chain that the slot interrupted goes on (R331). -/
def resumeChain (v w : Context) (cyc : Nat) : Context :=
  { v with
    st := .running
    rtag := w.rtag
    itag := w.itag
    argn := w.argn
    args := w.args
    cls := w.cls
    tuple := w.tuple
    calls := w.calls
    inter := w.inter
    pc := w.pc
    waitSince := cyc }

/-- SLOT_END: no shadow tag of the context is ready, and its handlers have ended (R331). -/
def execSlotEnd (c : Nat) (s : State) : Host.Outcome State Fault Refusal :=
  match (cellOf s c).slot with
  | none => .next s
  | some k =>
    let x := k.ctx
    let v := ctxOf s c x
    if coreActs s c && v.st == .idle && v.frame.isNone && !shadowReady s c x then
      let s := modCell s c fun q => { q with slot := none }
      let s := match k.resume with
        | some w => putCtx s c x (resumeChain v w (cellOf s c).cyc)
        | none => s
      .next (settleCore s c)
    else .next s

/-- The chain to resume as an interjected one, so that the end of the handler's activation at trap level 0 resumes it
(notes/assumptions/18.md). -/
def asInterjected (w : Context) : Interjected :=
  { rtag := w.rtag
    itag := w.itag
    argn := w.argn
    args := w.args
    cls := w.cls
    succ := w.pc.getD 0
    depth := w.calls.length
    tuple := w.tuple }

/-- A handler that the slot's end meets faults NOPRE: its context enters trap level 1 with its main bindings (R331). -/
def expireHandler (s : State) (c x : Nat) (resume : Option Context) : State :=
  let s := match resume with
    | some w => modCtx s c x fun v => { v with inter := some (asInterjected w), calls := w.calls }
    | none => s
  let v := ctxOf s c x
  match v.frame, v.pc with
  | some f, _ => blockFault s c x (nopreFault f)
  | none, some h => trapEntry (cutSpec s c x fun _ => true) c x .nopre (wordOf h) (wordOf h) (tinfoWord false false 0x7F 0 0) (some h) (some h)
  | none, none => s

/-- SLOT_EXPIRY: a slot has lasted 8,192 cycles (R331). -/
def execSlotExpiry (c : Nat) (s : State) : Host.Outcome State Fault Refusal :=
  match (cellOf s c).slot with
  | none => .next s
  | some k =>
    if coreActs s c && decide (k.began + 8192 ≤ (cellOf s c).cyc) then
      let v := ctxOf s c k.ctx
      let s := modCell s c fun q => { q with slot := none }
      let s := if v.st = .running ∨ v.st = .trapped then expireHandler s c k.ctx k.resume
        else match v.st, k.resume with
          | .idle, some w => putCtx s c k.ctx (resumeChain v w (cellOf s c).cyc)
          | _, _ => s
      .next (settleCore s c)
    else .next s

end Sys2Proof.Machine
end

