-- ==== Sys2Proof/Machine/Dataflow.lean ====
section
/-! DEFINITION. Dataflow instructions: MOV, NULT, SEL, LIT, IMM, LANE and ARG (R104 to R108). -/

namespace Sys2Proof.Machine

open Sys2Proof

/-- MOV copies A (R104). -/
def execMov (g : GF) (s : State) : Host.Outcome State Fault Refusal :=
  fireG s (.mov g) g fun e => map1 e id

/-- NULT reads null masks (R105). -/
def execNult (x : NulF) (g : GF) (s : State) : Host.Outcome State Fault Refusal :=
  fireG s (.nult x g) g fun e =>
    (laneVal e fun i => some (match x with
      | .present => wbool (e.a.get i).isSome
      | .null => wbool (e.a.get i).isNone), 0)

/-- SEL passes A where C is nonzero and B where it is zero, with the chosen null bit (R106). -/
def execSel (g : GF) (s : State) : Host.Outcome State Fault Refusal :=
  fireG s (.sel g) g fun e =>
    (laneVal e fun i =>
      match e.cc.get i with
      | none => none
      | some c => if c ≠ 0 then e.a.get i else e.b.get i, 0)

/-- LIT gives literal word IMM13[4:0] (R79, R107). -/
def execLit (i : HF) (s : State) : Host.Outcome State Fault Refusal :=
  fireT s (.lit i) i.t0 fun e => (laneVal e fun _ => some (e.f.lits.getD i.imm.toNat 0), 0)

/-- IMM gives its sign-extended immediate (R107). -/
def execImm (i : IF) (s : State) : Host.Outcome State Fault Refusal :=
  fireT s (.imm i) i.t0 fun e => (laneVal e fun _ => some (i.imm.signExtend 32), 0)

/-- LANE gives the lane number or its bit (R107). -/
def execLane (x : LaneF) (g : GF) (s : State) : Host.Outcome State Fault Refusal :=
  fireG s (.lane x g) g fun e =>
    (laneVal e fun i => some (match x with
      | .idx => wordOf i
      | .bit => wordOf (2 ^ i)), 0)

/-- ARG delivers a port of the argument buffer; a port at or above ARGN is all null (R108). -/
def execArg (x : BitVec 2) (g : GF) (s : State) : Host.Outcome State Fault Refusal :=
  fireG s (.arg x g) g fun e =>
    (laneVal e fun i => if x.toNat < e.v.argn then (e.v.args.getD x.toNat Val.allNull).get i else none, 0)

end Sys2Proof.Machine
end

