-- ==== Sys2Proof/Machine/HostEv.lean ====
section
/-! DEFINITION. The host and the peers: exported windows, translations, RMA messages and sends (R291, R306 to R308, R417 to R420, R436 to
R438). -/

namespace Sys2Proof.Machine

open Sys2Proof

/-! ### Host memory -/

/-- What a lane of a request has of the host's memory: its key, or none when the translation faults (R419). -/
def hostLane (port : Nat) (write : Bool) (s : State) (a : Nat) : State × Option Nat :=
  match findXlat s port a with
  | some x =>
    (keepXlat s x, if leafAllows x.leaf write then some (hostKey x a) else none)
  | none => (s, none)

/-- One lane of a request performed against host memory (R306, R419). -/
def hostPerform (port : Nat) (r : MemReq) (p : State × Answer) (l : LaneReq) : State × Answer :=
  let write := r.op == .store
  let q := hostLane port write p.1 l.key
  match q.2 with
  | none => (q.1, refuseLane p.2 l.lane .hostpage)
  | some k =>
    if write then ({ q.1 with hostMem := memPutBytes q.1.hostMem k (leBytes r.size l.b.toNat) }, gaveLane p.2 l.lane 0)
    else (q.1, gaveLane p.2 l.lane (wordOf (leNat (memGetBytes q.1.hostMem k r.size))))

/-- HOST_PAGE_WALK: request `n` is translated at its bridge port and performed there, or its lanes meet HOSTPAGE (R306, R418, R419). -/
def execHostPageWalk (n : Nat) (s : State) : Host.Outcome State Fault Refusal :=
  match arrived s n with
  | none => .next s
  | some m =>
    match m.body with
    | .mem r =>
      if m.dst ≠ hostDst then .next s
      else if isLoadOp r.op && staleFrame s r.asker then .next (receive s n m)
      else
        let p := r.lanes.foldl (hostPerform (Config.bridgePort m.src) r) (receive s n m, { asker := r.asker })
        .next (reply p.1 hostDst m (withAddress r p.2))
    | _ => .next s

/-- INVALIDATION: a port removes its translations in a range of addresses; none of them is in use between steps (R420). -/
def execInvalidation (port lo hi : Nat) (s : State) : Host.Outcome State Fault Refusal :=
  let hit (x : Xlat) : Bool := x.port == port && decide (lo < x.base + x.size) && decide (x.base < hi)
  .next (report { s with tlb := s.tlb.filter fun x => !hit x } (.invalidated port))

/-! ### Exported windows -/

/-- An export that a tenant's association at a port reaches: it is keyed, and the export is the tenant's (R414, R417). -/
def openedExport (s : State) (tenant port n : Nat) : Option Export :=
  let e := Tbl.get ({} : Export) s.exports n
  if e.known && e.tenant == tenant && s.tss.any (fun p => p.1 == 320 * tenant + port % 320) then some e else none

/-- The window that an export names. -/
def exportWin (s : State) (e : Export) : Win := Tbl.get {} (ctxOf s e.cell e.ctx).wins e.window

/-- The key of the word at an offset of an exported window, when the window lets the access pass (R160, R287, R291). -/
def exportKey (s : State) (e : Export) (a : Acc) (o : Nat) : Option Nat :=
  let w := exportWin s e
  let k := winKind w
  if (k == .sram || k == .loft || k == .cell || k == .spread) && decide (o < 2 ^ 28) &&
      (accCheck e.cell w a (wordOf (e.window % 16 * 2 ^ 28 + o)) 4).isNone then
    match translate s e.cell w o with
    | .mem key => some key
    | _ => none
  else none

/-- The keys of consecutive words of an exported window. -/
def exportKeys (s : State) (e : Export) (a : Acc) (o n : Nat) : List (Option Nat) :=
  (List.range n).map fun i => exportKey s e a (o + 4 * i)

/-- The owners of the words of a request. -/
def ownersOf (ls : List LaneReq) : List Nat := ls.foldl (fun a l => keyInsert a (keyCore l.key)) []

/-- Sends the words of a request to their owners, one message for each owner (R295, R306). -/
def sendWords (s : State) (op : MemOp) (mode : WinMode) (asker : Asker) (ls : List LaneReq) : State :=
  (ownersOf ls).foldl (fun s d =>
    let mine := (ls.filter fun l => keyCore l.key == d).map fun l => { l with mode := mode }
    post s hostDst d 0 (.mem { op := op, lanes := mine, asker := asker })) s

/-- A write on a ROD connection joins the order of that connection's writes to its export, until `n` owners have performed it (R306). -/
def noteRod (s : State) (rod : Option Nat) (id exportNo n : Nat) : State :=
  match rod with
  | none => s
  | some k =>
    if n = 0 then s
    else if s.rods.any fun w => w.id == id then
      { s with rods := s.rods.map fun w => if w.id = id then { w with left := w.left + n } else w }
    else { s with rods := s.rods ++ [{ id := id, rod := k, exportNo := exportNo, left := n }] }

/-- The bridge refuses a host access and logs it (R307, R417). -/
def refuseHost (s : State) (tenant exportNo offset : Nat) (atomic : Bool) : State :=
  let e : BridgeEvent := { tenant := tenant, exportNo := exportNo, offset := offset, atomic := atomic }
  report { s with bridgeLog := s.bridgeLog ++ [e] } (.hostRefused (2 * s.tickNo))

/-- The number by which an answer finds the host's access: even, twice the number of the step. -/
def hostId (s : State) : Nat := 2 * s.tickNo

/-- HOST_ACCESS: a host read or write goes to the owners of its words, or is refused at the bridge (R306, R417). -/
def execHostAccess (h : HostOp) (s : State) : Host.Outcome State Fault Refusal :=
  let id := hostId s
  let no := refuseHost s h.tenant h.exportNo h.offset false
  match openedExport s h.tenant h.port h.exportNo with
  | none => .next no
  | some e =>
    let n := if h.isWrite then h.words.length else h.count
    let ks := exportKeys s e (if h.isWrite then .stw else .ldw) h.offset n
    if ks.all Option.isSome then
      let ls : List LaneReq := ((List.range n).zip ks).map fun p =>
        { lane := p.1, key := p.2.getD 0, b := (h.words[p.1]?).getD 0 }
      let s := if h.isWrite then noteRod s h.rod id h.exportNo (ownersOf ls).length else s
      .next (sendWords s (if h.isWrite then .store else .load) (winMode (exportWin s e)) (.outside id) ls)
    else .next no

/-- HOST_ATOMIC: to a word of an UPDATE window marked SYSATOMIC, for its owner's update slot; any other is refused at the bridge (R184,
R307, R417). -/
def execHostAtomic (h : HostRmw) (s : State) : Host.Outcome State Fault Refusal :=
  let id := hostId s
  let no := refuseHost s h.tenant h.exportNo h.offset true
  match openedExport s h.tenant h.port h.exportNo with
  | none => .next no
  | some e =>
    let w := exportWin s e
    match exportKey s e (if h.cas.isSome then .cas else .amo h.op) h.offset with
    | some k =>
      if bit w.w0 24 then
        let l : LaneReq := { lane := 0, key := k, b := h.operand, c := h.cas.getD 0 }
        .next (sendWords (noteRod s h.rod id h.exportNo 1) (if h.cas.isSome then .cas else .amo h.op) .update (.outside id) [l])
      else .next no
    | none => .next no

/-! ### RMA writes -/

/-- A packet is dropped and counted (R437). -/
def dropPacket (s : State) (port : Nat) : State := modPort s port fun p => { p with pdrop := p.pdrop + 1 }

/-- The progress of an RMA message. -/
def rmaOf (s : State) (message : Nat) : Option RmaMsg := s.rmas.find? fun r => r.message == message

/-- Replaces the progress of an RMA message. -/
def putRma (s : State) (r : RmaMsg) : State := { s with rmas := s.rmas.filter (fun q => q.message != r.message) ++ [r] }

/-- One word of a packet is placed (R291, R308): a word that its window, its owner or its presence bit refuses is counted. A word placed
before is a duplicate: a presence word refuses it, and any other discards it (R308, R440). The third component names an owner whose undo log has
no room for a word (R392). -/
def placeWord (e : Export) (mode : WinMode) (p : State × RmaMsg × Option Nat) (o : Nat) (w : Word) : State × RmaMsg × Option Nat :=
  let again := p.2.1.placed.contains o
  let r := if again then p.2.1 else { p.2.1 with placed := p.2.1.placed ++ [o] }
  let no := { r with refused := r.refused + 1 }
  if again && mode != .presence then p
  else
    match exportKey p.1 e .stw o with
    | none => (p.1, no, p.2.2)
    | some k =>
      if isDead p.1 (keyCore k) then (p.1, no, p.2.2)
      else
        let q := storeLane p.1 mode 4 k w.toNat .policy
        match q.2 with
        | .done => (q.1, r, p.2.2)
        | .retry => (p.1, p.2.1, some (keyCore k))
        | _ => (q.1, no, p.2.2)

/-- The words of a packet for an UPDATE export enter the update slots of their owners (R289, R308); words without a live owner are
refused. -/
def placeUpdates (s : State) (e : Export) (rod : Option Nat) (r : RmaMsg) (ws : List (Nat × Word)) : State × RmaMsg :=
  let new := ws.filter fun p => !r.placed.contains p.1
  let ok := new.filterMap fun p =>
    match exportKey s e .stw p.1 with
    | some k => if isDead s (keyCore k) then none else some (k, p.2)
    | none => none
  let ls : List LaneReq := ((List.range ok.length).zip ok).map fun p => { lane := p.1, key := p.2.1, b := p.2.2 }
  (sendWords (noteRod s rod (2 * r.message + 1) r.exportNo (ownersOf ls).length) .store .update (.outside (2 * r.message + 1)) ls,
   { r with
     placed := r.placed ++ new.map (fun p => p.1)
     refused := r.refused + (new.length - ok.length)
     waiting := r.waiting + ok.length })

/-- Whether an earlier write of a packet's ROD connection to its export is not yet performed (R306). -/
def rodBlocks (s : State) (d : RmaPacket) : Bool :=
  match d.rod with
  | some k => s.rods.any fun w => w.rod == k && w.exportNo == d.exportNo && w.id != 2 * d.message + 1
  | none => false

/-- The collective tuple of an operation that comes from another wafer: entry, sequence, digest and the sender's rank (R325). -/
def tupleOf (t : Option (Nat × Nat × Nat × Nat)) : Option Tuple := t.map fun p => ⟨p.1, p.2.1, p.2.2.1, p.2.2.2⟩

/-- Whether the endpoint supports a packet: not UUD, at most 4,096 bytes, of a message of at most 2^28 bytes (R435, R437). -/
def packetOk (d : RmaPacket) : Bool := d.mode != .uud && decide (d.words.length ≤ 1024) && decide (d.spanWords ≤ 2 ^ 26)

/-- Whether every word of a packet was placed before, and nothing but a presence bit would tell it: the endpoint drops it (R308, R440). -/
def duplicate (s : State) (e : Export) (d : RmaPacket) : Bool :=
  winMode (exportWin s e) != .presence && !d.words.isEmpty &&
  (match rmaOf s d.message with
   | some r => (List.range d.words.length).all fun i => r.placed.contains (d.offset + 4 * i)
   | none => false)

/-- RMA_WRITE_PLACEMENT: the words of a packet are placed as it arrives, and the port counts those refused (R308, R430, R437); a packet
that would wait for an undo log, or for an earlier write of its ROD connection, is not acknowledged, and comes again (R306). Packets that the
endpoint drops are counted (R437, R440); without a working endpoint none arrives (R430). -/
def execRmaWritePlacement (d : RmaPacket) (s : State) : Host.Outcome State Fault Refusal :=
  if !endpointOn s d.port then .next s else
  match (if d.authentic && packetOk d then openedExport s d.tenant d.port d.exportNo else none) with
  | none => .next (dropPacket s d.port)
  | some e =>
    if duplicate s e d then .next (dropPacket s d.port)
    else if rodBlocks s d && winMode (exportWin s e) != .update then .next s else
    let mode := winMode (exportWin s e)
    let ws := (((List.range d.words.length).zip d.words).map fun p => (d.offset + 4 * p.1, p.2)).filter fun p =>
      decide (d.spanOffset ≤ p.1) && decide (p.1 < d.spanOffset + 4 * d.spanWords)
    let r := (rmaOf s d.message).getD {
      message := d.message
      exportNo := d.exportNo
      port := d.port
      spanWords := d.spanWords
      tuple := tupleOf d.gt }
    let u := placeUpdates s e d.rod r ws
    let q := if mode = .update then (u.1, u.2, none) else ws.foldl (fun p w => placeWord e mode p w.1 w.2) (s, r, none)
    match q.2.2 with
    | some c => .next (askEarlyCut s c)
    | none =>
      let p := (q.1, q.2.1)
      let cores := ws.foldl (fun a q => match exportKey s e .stw q.1 with | some k => keyInsert a (keyCore k) | none => a) []
      .next (cores.foldl settleCore (notePlref (putRma p.1 p.2) d.port (p.2.refused - r.refused)))

/-- RMA_COMPLETION: once every word of the message's span is placed or refused, its completion token goes to the export's completion cell,
and its sender hears of it (R308, R438). The token of a collective write carries its tuple, and is the packet that its home checks (R325,
R326; notes/assumptions/76.md). -/
def execRmaCompletion (message : Nat) (s : State) : Host.Outcome State Fault Refusal :=
  match rmaOf s message with
  | none => .next s
  | some r =>
    if r.placed.length < r.spanWords ∨ r.waiting ≠ 0 then .next s
    else
      let s := report { s with rmas := s.rmas.filter fun q => q.message != message } (.rmaDone message r.refused)
      match (Tbl.get ({} : Export) s.exports r.exportNo).completion with
      | none => .next s
      | some (c, tag) =>
        let v : Val := ⟨some (if r.refused = 0 then 0 else 4), some (wordOf (if r.refused = 0 then 4 * r.spanWords else r.refused)),
          some 0, some (wordOf (r.port % 512 + r.exportNo % 65536 * 2 ^ 16)), none, none, none, none⟩
        .next (post s hostDst c 2 (.token { tag := tag, lanes := v, tuple := r.tuple } .nobody))

/-! ### RMA reads and atomics -/

/-- The atomics that the endpoint performs on aligned words (R435); none stands for compare-and-swap. -/
def rmaAtomicOk (op : Option AmoOp) : Bool :=
  match op with
  | none => true
  | some k => [AmoOp.add, AmoOp.and, AmoOp.or, AmoOp.xor, AmoOp.swap].contains k

/-- An incoming RMA read, or atomic, on an exported window: its words go to their owners under the window's checks and mode (R291, R295, R435,
R437), and their answer is the peer's. One that the window does not let pass is refused with WINDOW (R436). -/
def serveRma (d : RmaGet) (s : State) : State :=
  let no := report s (.rmaRefused d.port d.exportNo 0x0A)
  if !endpointOn s d.port then s
  else
    match (if d.authentic && d.mode != .uud then openedExport s d.tenant d.port d.exportNo else none) with
    | none => dropPacket s d.port
    | some e =>
      match d.op with
      | none =>
        let ks := exportKeys s e .ldw d.offset d.count
        if decide (d.count ≤ 2 ^ 26) && ks.all Option.isSome then
          sendWords s .load (winMode (exportWin s e)) (.outside (hostId s)) (((List.range d.count).zip ks).map fun p =>
            { lane := p.1, key := p.2.getD 0 })
        else no
      | some (op, b, c) =>
        let k := match op with
          | some a => exportKey s e (.amo a) d.offset
          | none => exportKey s e .cas d.offset
        match (if rmaAtomicOk op && d.offset % 4 == 0 then k else none) with
        | some k =>
          sendWords s (match op with | some a => .amo a | none => .cas) .update (.outside (hostId s)) [{ lane := 0, key := k, b := b, c := c }]
        | none => no

/-! ### Sends -/

/-- Byte `i` of a reassembled message; the last token of a message reaches past its end. -/
def sendByte (s : State) (bs : List Byte) (i : Nat) : Byte := (bs[i]?).getD (Config.padByte s.tickNo i)

/-- Token `k` of a message, of 32 bytes (R437). -/
def sendLanes (s : State) (bs : List Byte) (k : Nat) : Val :=
  Lanes.ofFn fun i => some (wordOf (leNat ((List.range 4).map fun j => sendByte s bs (32 * k + 4 * i + j))))

/-- SEND_MESSAGE_RECEIVE: a reassembled send becomes tokens for its receive entry; a message over 512 bytes is refused and counted (R437). A
poison notice from another wafer goes to the home that the entry names (R327). Without a working endpoint none arrives (R430). -/
def execSendMessageReceive (u : UecSend) (s : State) : Host.Outcome State Fault Refusal :=
  if !endpointOn s u.port then .next s else
  match (if u.authentic && u.mode != .uud then openedExport s u.tenant u.port u.exportNo else none) with
  | none => .next (dropPacket s u.port)
  | some e =>
    match e.receive, u.poison with
    | _, some p => .next (post s hostDst e.cell 2 (.poison p.1 p.2.1 p.2.2))
    | none, none => .next (dropPacket s u.port)
    | some tag, none =>
      if 512 < u.bytes.length then .next (report (dropPacket s u.port) .sendRefused)
      else
        .next ((List.range ((u.bytes.length + 31) / 32)).foldl (fun s k =>
          post s hostDst e.cell 0 (.token { tag := tag, lanes := sendLanes s u.bytes k, tuple := tupleOf u.gt } .nobody)) s)

end Sys2Proof.Machine
end

