-- ==== Sys2Proof/Machine/FleetEv.lean ====
section
/-! DEFINITION. The fleet: the operator's port, telemetry, the coolant, loft rows and the defect report (R255, R442 to R450, R452). -/

namespace Sys2Proof.Machine

open Sys2Proof

/-! ### Telemetry -/

/-- The fastest spine that a cell of a bay selects, by its frequency (R448). -/
def fastestMhz (s : State) (b : Nat) : Nat :=
  [0, 1, 2, 3, 4, 5, 6, 7].foldl (fun v n => if bayUses s b n && decide (v < spineMhz s n) then spineMhz s n else v) 0

/-- The counters of a cell (R445). -/
def cellCounters (x : Cell) : List Word := [x.secorr, x.lecorr, x.discard, x.dropeff]

/-- A sample of a bay (R448). -/
def sampleOf (s : State) (b : Nat) : Sample :=
  let v := bayAt s b
  { energy := (v.benergy - v.sampleMark).toNat
    temp := if v.trip then v.tripTemp else v.tempMax
    mv := v.mv
    mhz := fastestMhz s b
    nhalf := v.nhalf
    nquart := v.nquart
    trip := v.trip
    counters := [v.uncorr, v.takeaut, v.takeswp, readBay v 0x5C]
    cells := (listedCells s b).filterMap fun p =>
      if cellCounters p.2 = [0, 0, 0, 0] then none else some (p.1 % 1024, cellCounters p.2) }

/-- TELEMETRY_SAMPLE: a bay controller hands over its sample, unless its attachment has failed (R453); the last 600 are kept, and placement in
the bay may resume (R448). A module that has not booted runs no firmware (R410). -/
def execTelemetrySample (b : Nat) (s : State) : Host.Outcome State Fault Refusal :=
  let p := sampleOf s b
  .next (if !s.booted || (bayAt s b).attachDown then s else modBay s b fun v =>
    let all := v.samples ++ [p]
    { v with samples := all.drop (all.length - 600), sampleMark := v.benergy, tempMax := v.temp, absent := false })

/-- BAY_ABSENT: a bay controller has not been reached for 1 s; its samples are reported as absent (R448). -/
def execBayAbsent (b : Nat) (s : State) : Host.Outcome State Fault Refusal :=
  .next (if s.booted then report (modBay s b fun v => { v with absent := true }) (.sampleAbsent b) else s)

/-- The attachment router or link of a bay controller fails, so that the sill processors do not reach it (R448, R453). -/
def failAttachment (b : Nat) (s : State) : Host.Outcome State Fault Refusal :=
  execBayAbsent b (modBay s b fun x => { x with attachDown := true })

/-! ### The envelope -/

/-- ISDUTY of every cell out of reset (R449). -/
def dutyEverywhere (s : State) (w : Word) : State :=
  (s.cells.filter fun p => isCellCore p.1 && !p.2.inReset).foldl (fun s p => writeDuty s p.1 w) s

/-- FLOW_ALARM: a plate's flow has been below 40 L/min for 2 s (R449). -/
def execFlowAlarm (s : State) : Host.Outcome State Fault Refusal :=
  .next (if s.booted then report (dutyEverywhere { s with lowFlow := true, alarm := true } 0x1010) .alarm else s)

/-- FLOW_RESTORE: after 10 s of full flow firmware restores 64 (R449). -/
def execFlowRestore (s : State) : Host.Outcome State Fault Refusal :=
  .next (if s.booted && s.lowFlow then dutyEverywhere { s with lowFlow := false } 0x4040 else s)

/-- ENVELOPE_ALARM: supply, power or coolant leaves its limits (R449). -/
def execEnvelopeAlarm (s : State) : Host.Outcome State Fault Refusal :=
  .next (if s.booted then report { s with alarm := true } .alarm else s)

/-! ### The operator's port -/

/-- FIRMWARE_UPLOAD: a bundle that passes the checks of R410 is written to the inactive bank, and becomes active at the next module reset
(R450). -/
def execFirmwareUpload (d : FwBundle) (s : State) : Host.Outcome State Fault Refusal :=
  if !s.booted then .next s
  else
    match fwFails s d with
    | some k => .next (report s (.firmwareRefused k))
    | none =>
      let s := { s with flashNew := true }
      .next (report (if s.flashActiveB then { s with flashA := some d } else { s with flashB := some d }) .firmwareStored)

/-- ROLLBACK_COUNTER_RAISE: the counter rises to a version no higher than the active bundle's (R450). -/
def execRollbackCounterRaise (v : Nat) (s : State) : Host.Outcome State Fault Refusal :=
  match (if s.booted then activeBundle s else none) with
  | some d => .next (if v ≤ d.version ∧ s.rollbackCounter < v then { s with rollbackCounter := v } else report s .rollbackRefused)
  | none => .next (if s.booted then report s .rollbackRefused else s)

/-- SELFTEST_PERIOD_SET: 1 to 168 hours (R447). -/
def execSelftestPeriodSet (h : Nat) (s : State) : Host.Outcome State Fault Refusal :=
  .next (if s.booted = true ∧ 1 ≤ h ∧ h ≤ 168 then { s with selfTestPeriod := h } else s)

/-! ### The defect report -/

/-- The label budget of a router (R255). -/
def budgetOf (s : State) (c : Nat) : Nat := 480 - 64 * transitLinks s c

/-- The label budget record of a logical cell (R255). -/
def budgetWord (s : State) (l : Nat) : Word :=
  let c := coreAt s (l % 960) (l / 960)
  let hops (d : Nat) : Nat := (hopLinks s c d).length % 8
  wordOf (budgetOf s c % 512 + hops 0 * 2 ^ 9 + hops 1 * 2 ^ 12 + hops 2 * 2 ^ 15 + hops 3 * 2 ^ 18)

/-- The smallest BUDGET among a bay's logical cells (R443). -/
def minBudget (s : State) (b : Nat) : Nat :=
  (List.range 900).foldl (fun m k =>
    let n := budgetOf s (coreAt s (30 * (b % 32) + k % 30) (30 * (b / 32) + k / 30))
    if n < m then n else m) 480

/-- STATE of a bay (R444): 0 GOOD, 1 DEGRADED, 2 RETIRED. -/
def bayState (s : State) (b : Nat) : Nat :=
  if (bayAt s b).retired then 2 else if 32 ≤ baySpares s b then 0 else 1

/-- Loft row remap entries in use over a bay's routers, at most 255 (R443). -/
def bayRemaps (s : State) (b : Nat) : Nat :=
  let n := ((listedCells s b).map fun p => (imgRemaps (activeBank p.2)).length).sum
  if n < 255 then n else 255

/-- The health record of a bay (R443). -/
def healthRecord (s : State) (b : Nat) : List Word :=
  let v := bayAt s b
  [wordOf (b + bayState s b * 2 ^ 12 + v.depoch % 65536 * 2 ^ 16),
   wordOf (bayDefects s b % 256 + baySpares s b % 256 * 2 ^ 8 + baySisters s b % 256 * 2 ^ 16 + bayRemaps s b * 2 ^ 24),
   wordOf (minBudget s b), v.lastRep]

/-- DEFECT_REPORT: four words for each bay in bay order, then a budget word for each logical cell (R255, R443). -/
def execDefectReport (s : State) : Host.Outcome State Fault Refusal :=
  .next (if s.booted then
    report s (.defects ((List.range 1024).flatMap (healthRecord s) ++ (List.range 921600).map (budgetWord s))) else s)

/-! ### Operators -/

/-- Telemetry as the port serves it: the samples kept of a bay, or that they are absent (R448). -/
def serveTelemetry (s : State) (b : Nat) : State :=
  report s (if (bayAt s b).absent then .sampleAbsent b else .telemetry b (bayAt s b).samples)

/-- An operator asks at the management port (R442): a client whose certificate none of the module's roots vouches for is refused. -/
def operate (certificate : List Byte) (op : OperatorOp) (s : State) : Host.Outcome State Fault Refusal :=
  if !s.booted then .next s
  else if !s.certRoots.any (fun r => Config.certOk r certificate) then .next (report s .operatorRefused)
  else
    match op with
    | .defects => execDefectReport s
    | .telemetry b => .next (serveTelemetry s b)
    | .upload d => execFirmwareUpload d s
    | .period h => execSelftestPeriodSet h s
    | .counter v => execRollbackCounterRaise v s
    | .reset forced => execModuleReset forced s

/-! ### Loft rows -/

/-- Corrected lines that a row of a cell's loft has given within the last 24 hours (R446). -/
def rowCount (s : State) (c bank row : Nat) : Nat :=
  ((cellOf s c).rowErrs.filter fun e => e.1 == bank && e.2.1 == row && decide (Config.seconds s.tickNo < Config.seconds e.2.2 + 86400)).length

/-- A corrected error of a line of a cell's loft (R279, R445, R446). -/
def noteCorrected (s : State) (c bank row : Nat) : State :=
  modCell s c fun x => { x with lecorr := x.lecorr + 1, rowErrs := (bank, row, s.tickNo) :: x.rowErrs }

/-- LOFT_ROW_REMAP: a row with 16 corrected lines in 24 hours is due for a spare row of its bank in the next scribe bundle, or the cell is
marked (R446). -/
def execLoftRowRemap (c bank row : Nat) (s : State) : Host.Outcome State Fault Refusal :=
  let x := cellOf s c
  let used := ((imgRemaps (activeBank x)).filter fun p => p.1 == bank).length + (x.remaps.filter fun p => p.1 == bank).length
  if !s.booted ∨ !isCellCore c ∨ 4 ≤ bank ∨ 512 ≤ row ∨ x.remaps.contains (bank, row) ∨ rowCount s c bank row < 16 then .next s
  else if used < 8 then .next (modCell s c fun x => { x with remaps := x.remaps ++ [(bank, row)] })
  else .next (if x.defect then s else markDefect s c)

/-- LOFT_REFRESH: refresh closes the open row of a bank (R452). -/
def execLoftRefresh (c bank : Nat) (s : State) : Host.Outcome State Fault Refusal :=
  .next (modCell s c fun x => { x with rows := tblErase x.rows bank })

/-- ROW_IDLE_CLOSE: a row whose last access did not ask to keep it open closes after 256 idle cycles of its bank (R452). -/
def execRowIdleClose (c bank : Nat) (s : State) : Host.Outcome State Fault Refusal :=
  .next (modCell s c fun x =>
    match x.rows.find? fun p => p.1 == bank with
    | some p => if p.2.keep then x else { x with rows := tblErase x.rows bank }
    | none => x)

end Sys2Proof.Machine
end

