-- ==== Sys2Proof/Machine/Float.lean ====
section
/-! DEFINITION. Floating-point instructions (R141 to R155). -/

namespace Sys2Proof.Machine

open Sys2Proof

/-- The rounding direction of the block (R49, R128). -/
def rmE (e : Env) : Rm := rmOf e.f.fmode

/-- FADD (R143). -/
def execFadd (g : GF) (s : State) : Host.Outcome State Fault Refusal :=
  fireG s (.fadd g) g fun e => fmap2 e (fpAdd (rmE e))

/-- FSUB (R143). -/
def execFsub (g : GF) (s : State) : Host.Outcome State Fault Refusal :=
  fireG s (.fsub g) g fun e => fmap2 e (fun a b => fpAdd (rmE e) a (flipSign b))

/-- FMUL (R143). -/
def execFmul (g : GF) (s : State) : Host.Outcome State Fault Refusal :=
  fireG s (.fmul g) g fun e => fmap2 e (fpMul (rmE e))

/-- FMA (R143). -/
def execFma (g : GF) (s : State) : Host.Outcome State Fault Refusal :=
  fireG s (.fma g) g fun e => fmap3 e (fpFused (rmE e) false false)

/-- FMS (R143, R145). -/
def execFms (g : GF) (s : State) : Host.Outcome State Fault Refusal :=
  fireG s (.fms g) g fun e => fmap3 e (fpFused (rmE e) false true)

/-- FNMA (R143, R145). -/
def execFnma (g : GF) (s : State) : Host.Outcome State Fault Refusal :=
  fireG s (.fnma g) g fun e => fmap3 e (fpFused (rmE e) true false)

/-- FMIN (R144). -/
def execFmin (x : NanF) (g : GF) (s : State) : Host.Outcome State Fault Refusal :=
  fireG s (.fmin x g) g fun e => fmap2 e (fpMinMax false (x == .nan))

/-- FMAX (R144). -/
def execFmax (x : NanF) (g : GF) (s : State) : Host.Outcome State Fault Refusal :=
  fireG s (.fmax x g) g fun e => fmap2 e (fpMinMax true (x == .nan))

/-- FDIV (R143). -/
def execFdiv (g : GF) (s : State) : Host.Outcome State Fault Refusal :=
  fireG s (.fdiv g) g fun e => fmap2 e (fpDiv (rmE e))

/-- FSQRT (R143). -/
def execFsqrt (g : GF) (s : State) : Host.Outcome State Fault Refusal :=
  fireG s (.fsqrt g) g fun e => fmap1 e (fpSqrt (rmE e))

/-- FAPX (R153). -/
def execFapx (x : FapxF) (g : GF) (s : State) : Host.Outcome State Fault Refusal :=
  fireG s (.fapx x g) g fun e => fmap1 e (fpApprox x)

/-- FCMP (R146). -/
def execFcmp (x : FcmpF) (g : GF) (s : State) : Host.Outcome State Fault Refusal :=
  fireG s (.fcmp x g) g fun e => fmap2 e (fCmp x)

/-- CVTFI (R148). -/
def execCvtfi (x : CvtfiF) (g : GF) (s : State) : Host.Outcome State Fault Refusal :=
  fireG s (.cvtfi x g) g fun e => fmap1 e (cvtFI (rmE e) x)

/-- CVTIF (R148). -/
def execCvtif (x : Sgn) (g : GF) (s : State) : Host.Outcome State Fault Refusal :=
  fireG s (.cvtif x g) g fun e => fmap1 e (cvtIF (rmE e) x)

/-- FRND (R149). -/
def execFrnd (x : FrndF) (g : GF) (s : State) : Host.Outcome State Fault Refusal :=
  fireG s (.frnd x g) g fun e => fmap1 e (fRnd (rmE e) x)

/-- FSCL (R143). -/
def execFscl (g : GF) (s : State) : Host.Outcome State Fault Refusal :=
  fireG s (.fscl g) g fun e => fmap2 e (fScl (rmE e))

/-- FXTR (R150). -/
def execFxtr (x : FxtrF) (g : GF) (s : State) : Host.Outcome State Fault Refusal :=
  fireG s (.fxtr x g) g fun e => fmap1 e (fXtr x)

/-- NARR (R151). -/
def execNarr (x : NarrF) (g : GF) (s : State) : Host.Outcome State Fault Refusal :=
  fireG s (.narr x g) g fun e => fmap1 e (narrow (rmE e) x)

/-- SPL3 (R152). -/
def execSpl3 (x : Spl3F) (g : GF) (s : State) : Host.Outcome State Fault Refusal :=
  fireG s (.spl3 x g) g fun e => fmap1 e (spl3 (rmE e) x)

/-- FLRP (R143). -/
def execFlrp (g : GF) (s : State) : Host.Outcome State Fault Refusal :=
  fireG s (.flrp g) g fun e => fmap3 e (fLrp (rmE e))

/-- FSGN: the sign forms that read B are null where B is (R147). -/
def execFsgn (x : FsgnF) (g : GF) (s : State) : Host.Outcome State Fault Refusal :=
  fireG s (.fsgn x g) g fun e =>
    match x with
    | .abs => map1 e fun a => fSgn .abs a 0
    | .neg => map1 e fun a => fSgn .neg a 0
    | .cpy => map2 e (fSgn .cpy)
    | .ncpy => map2 e (fSgn .ncpy)
    | .xor => map2 e (fSgn .xor)

/-- One node of the tree of R155, where either side may be absent. -/
def treeNode (op : El → El → El × Word) (p q : Option El × Word) : Option El × Word :=
  match p.1, q.1 with
  | none, _ => (q.1, p.2 ||| q.2)
  | _, none => (p.1, p.2 ||| q.2)
  | some a, some b =>
    let r := op a b
    (some r.1, p.2 ||| q.2 ||| r.2)

/-- The fixed tree over eight lanes (R155). -/
def tree8 (op : El → El → El × Word) (x : Lanes (Option El × Word)) : Option El × Word :=
  let n := treeNode op
  n (n (n x.l0 x.l1) (n x.l2 x.l3)) (n (n x.l4 x.l5) (n x.l6 x.l7))

/-- A rounded sum as a node operation (R155). -/
def nodeAdd (rm : Rm) (p q : El) : El × Word :=
  let t := elAdd rm p q
  let r := roundB32 rm t.1
  (fpDec r.1, t.2 ||| r.2)

/-- FMAX.num or FMIN.num as a node operation (R155). -/
def nodeMinMax (isMax : Bool) (p q : El) : El × Word :=
  (fpDec (fpMinMax isMax false (roundB32 .near p).1 (roundB32 .near q).1).1, 0)

/-- The tree's result in every matching lane, rounded where it is a product that was never combined (R155). -/
def treeResult (rm : Rm) (e : Env) (r : Option El × Word) : Val × Word :=
  match r.1 with
  | none => (Val.allNull, r.2)
  | some x =>
    let w := roundB32 rm x
    (laneVal e fun _ => some w.1, r.2 ||| w.2)

/-- FRED: the lanes of A by the tree of R155; a NaN result is canonical (R141). -/
def execFred (x : FredF) (g : GF) (s : State) : Host.Outcome State Fault Refusal :=
  fireG s (.fred x g) g fun e =>
    let leaf := Lanes.ofFn fun i =>
      if e.m.get i then (match e.a.get i with | some a => (some (fpDec a), snanFlag a) | none => (none, 0)) else (none, 0)
    treeResult (rmE e) e (tree8 (match x with
      | .add => nodeAdd (rmE e)
      | .max => nodeMinMax true
      | .min => nodeMinMax false) leaf)

/-- FDOT: the exact products of the lanes of A and B by the tree of R155. -/
def execFdot (g : GF) (s : State) : Host.Outcome State Fault Refusal :=
  fireG s (.fdot g) g fun e =>
    let leaf := Lanes.ofFn fun i =>
      if e.m.get i then
        (match e.a.get i, e.b.get i with
         | some a, some b =>
           let p := elMul (fpDec a) (fpDec b)
           (some p.1, snanFlag a ||| snanFlag b ||| p.2)
         | _, _ => (none, 0))
      else (none, 0)
    treeResult (rmE e) e (tree8 (nodeAdd (rmE e)) leaf)

end Sys2Proof.Machine
end

