-- ==== Sys2Proof/Machine/Integer.lean ====
section
/-! DEFINITION. Integer arithmetic, logic, shifts and fields (R109 to R113). -/

namespace Sys2Proof.Machine

open Sys2Proof

/-- A word read signed or unsigned (R101). -/
def sread (x : Sgn) (a : Word) : Int :=
  match x with
  | .sw => a.toInt
  | .uw => a.toNat

/-- A number clamped to a range (R109). -/
def clampInt (lo hi v : Int) : Int := if v < lo then lo else if hi < v then hi else v

/-- MULH: bits [63:32] of the product (R109). -/
def mulhWord (x : Sgn) (a b : Word) : Word := wordOfInt (sread x a * sread x b / 2 ^ 32)

/-- DIV on one lane (R110). -/
def divWord (x : Sgn) (a b : Word) : Word :=
  if b = 0 then 0xFFFFFFFF
  else
    match x with
    | .sw => if a = 0x80000000 ∧ b = 0xFFFFFFFF then 0x80000000 else wordOfInt (Int.tdiv a.toInt b.toInt)
    | .uw => wordOf (a.toNat / b.toNat)

/-- REM on one lane (R110). -/
def remWord (x : Sgn) (a b : Word) : Word :=
  if b = 0 then a
  else
    match x with
    | .sw => if a = 0x80000000 ∧ b = 0xFFFFFFFF then 0 else wordOfInt (Int.tmod a.toInt b.toInt)
    | .uw => wordOf (a.toNat % b.toNat)

/-- SHL on one lane (R111). -/
def shlWord (a : Word) (n : Nat) : Word := if n < 32 then wordOf (a.toNat * 2 ^ n) else 0

/-- SHR on one lane, logical or arithmetic (R111). -/
def shrWord (x : ShrF) (a : Word) (n : Nat) : Word :=
  match x with
  | .uw => if n < 32 then wordOf (a.toNat / 2 ^ n) else 0
  | .sw => if n < 32 then wordOfInt (a.toInt / 2 ^ n) else if a.msb then 0xFFFFFFFF else 0

/-- ROT on one lane (R111). -/
def rotWord (a : Word) (n : Nat) : Word :=
  wordOf (a.toNat * 2 ^ (n % 32) % 2 ^ 32 + a.toNat / 2 ^ (32 - n % 32))

/-- BITC on one lane (R112). -/
def bitcWord (x : BitcF) (a : Word) : Word :=
  match x with
  | .pop => wordOf (popCount 32 a.toNat)
  | .clz => if a = 0 then 32 else wordOf (31 - Nat.log2 a.toNat)
  | .ctz => wordOf ((onesFrom 32 0 a.toNat).headD 32)

/-- EXT on one lane (R112). -/
def extWord (x : ExtF) (a : Word) : Word :=
  match x with
  | .sb => wordOfInt (signed (bits a 0 8) 8)
  | .ub => wordOf (bits a 0 8)
  | .sh => wordOfInt (signed (bits a 0 16) 16)
  | .uh => wordOf (bits a 0 16)

/-- BFX on one lane: the field word holds POS in [4:0] and WM1 in [12:8] (R113). -/
def bfxWord (x : ShrF) (a b : Word) : Word :=
  let w := bits b 8 5 + 1
  let v := fld a.toNat (bits b 0 5) w
  match x with
  | .uw => wordOf v
  | .sw => if 2 ^ (w - 1) ≤ v then wordOfInt ((v : Int) - 2 ^ w) else wordOf v

/-- BFI on one lane (R113). -/
def bfiWord (a b c : Word) : Word :=
  let w := bits c 8 5 + 1
  let p := bits c 0 5
  let mask := wordOf ((2 ^ w - 1) * 2 ^ p)
  (a &&& ~~~mask) ||| (wordOf (b.toNat * 2 ^ p) &&& mask)

/-- ADDS on one lane (R109). -/
def addsWord (x : AddsF) (a b : Word) : Word :=
  match x with
  | .sw => wordOfInt (clampInt (-(2 ^ 31)) (2 ^ 31 - 1) (a.toInt + b.toInt))
  | .uw => wordOfInt (clampInt 0 (2 ^ 32 - 1) ((a.toNat : Int) + b.toNat))
  | .dsw => wordOfInt (clampInt (-(2 ^ 31)) (2 ^ 31 - 1) (a.toInt - b.toInt))
  | .duw => wordOfInt (clampInt 0 (2 ^ 32 - 1) ((a.toNat : Int) - b.toNat))

/-- ABSD on one lane (R109). -/
def absdWord (x : Sgn) (a b : Word) : Word := wordOf (sread x a - sread x b).natAbs

/-- The smaller of two words under a reading (R109). -/
def minWord (x : Sgn) (a b : Word) : Word := if sread x a ≤ sread x b then a else b

/-- The larger of two words under a reading (R109). -/
def maxWord (x : Sgn) (a b : Word) : Word := if sread x a ≤ sread x b then b else a

/-- LEA: A + B × 2^N (R109). -/
def leaWord (x : LeaF) (a b : Word) : Word := a + wordOf (b.toNat * 2 ^ x.code)

/-- ADD: A + B (R109). -/
def execAdd (g : GF) (s : State) : Host.Outcome State Fault Refusal :=
  fireG s (.add g) g fun e => map2 e (· + ·)

/-- SUB: A − B (R109). -/
def execSub (g : GF) (s : State) : Host.Outcome State Fault Refusal :=
  fireG s (.sub g) g fun e => map2 e (· - ·)

/-- MUL: the low word of A × B (R109). -/
def execMul (g : GF) (s : State) : Host.Outcome State Fault Refusal :=
  fireG s (.mul g) g fun e => map2 e (· * ·)

/-- MULH (R109). -/
def execMulh (x : Sgn) (g : GF) (s : State) : Host.Outcome State Fault Refusal :=
  fireG s (.mulh x g) g fun e => map2 e (mulhWord x)

/-- DIV (R110). -/
def execDiv (x : Sgn) (g : GF) (s : State) : Host.Outcome State Fault Refusal :=
  fireG s (.div x g) g fun e => map2 e (divWord x)

/-- REM (R110). -/
def execRem (x : Sgn) (g : GF) (s : State) : Host.Outcome State Fault Refusal :=
  fireG s (.rem x g) g fun e => map2 e (remWord x)

/-- AND (R109). -/
def execAnd (g : GF) (s : State) : Host.Outcome State Fault Refusal :=
  fireG s (.and g) g fun e => map2 e (· &&& ·)

/-- OR (R109). -/
def execOr (g : GF) (s : State) : Host.Outcome State Fault Refusal :=
  fireG s (.or g) g fun e => map2 e (· ||| ·)

/-- XOR (R109). -/
def execXor (g : GF) (s : State) : Host.Outcome State Fault Refusal :=
  fireG s (.xor g) g fun e => map2 e (· ^^^ ·)

/-- ANDN: A and not B (R109). -/
def execAndn (g : GF) (s : State) : Host.Outcome State Fault Refusal :=
  fireG s (.andn g) g fun e => map2 e fun a b => a &&& ~~~b

/-- SHL (R111). -/
def execShl (g : GF) (s : State) : Host.Outcome State Fault Refusal :=
  fireG s (.shl g) g fun e => map2 e fun a b => shlWord a b.toNat

/-- SHR (R111). -/
def execShr (x : ShrF) (g : GF) (s : State) : Host.Outcome State Fault Refusal :=
  fireG s (.shr x g) g fun e => map2 e fun a b => shrWord x a b.toNat

/-- ROT: left by B mod 32 (R111). -/
def execRot (g : GF) (s : State) : Host.Outcome State Fault Refusal :=
  fireG s (.rot g) g fun e => map2 e fun a b => rotWord a b.toNat

/-- MIN (R109). -/
def execMin (x : Sgn) (g : GF) (s : State) : Host.Outcome State Fault Refusal :=
  fireG s (.min x g) g fun e => map2 e (minWord x)

/-- MAX (R109). -/
def execMax (x : Sgn) (g : GF) (s : State) : Host.Outcome State Fault Refusal :=
  fireG s (.max x g) g fun e => map2 e (maxWord x)

/-- BITC (R112). -/
def execBitc (x : BitcF) (g : GF) (s : State) : Host.Outcome State Fault Refusal :=
  fireG s (.bitc x g) g fun e => map1 e (bitcWord x)

/-- EXT (R112). -/
def execExt (x : ExtF) (g : GF) (s : State) : Host.Outcome State Fault Refusal :=
  fireG s (.ext x g) g fun e => map1 e (extWord x)

/-- BFX (R113). -/
def execBfx (x : ShrF) (g : GF) (s : State) : Host.Outcome State Fault Refusal :=
  fireG s (.bfx x g) g fun e => map2 e (bfxWord x)

/-- BFI (R113). -/
def execBfi (g : GF) (s : State) : Host.Outcome State Fault Refusal :=
  fireG s (.bfi g) g fun e => map3 e bfiWord

/-- LEA (R109). -/
def execLea (x : LeaF) (g : GF) (s : State) : Host.Outcome State Fault Refusal :=
  fireG s (.lea x g) g fun e => map2 e (leaWord x)

/-- ADD3: A + B + C (R109). -/
def execAdd3 (g : GF) (s : State) : Host.Outcome State Fault Refusal :=
  fireG s (.add3 g) g fun e => map3 e fun a b c => a + b + c

/-- MAD: A × B + C (R109). -/
def execMad (g : GF) (s : State) : Host.Outcome State Fault Refusal :=
  fireG s (.mad g) g fun e => map3 e fun a b c => a * b + c

/-- ADDS (R109). -/
def execAdds (x : AddsF) (g : GF) (s : State) : Host.Outcome State Fault Refusal :=
  fireG s (.adds x g) g fun e => map2 e (addsWord x)

/-- ABSD (R109). -/
def execAbsd (x : Sgn) (g : GF) (s : State) : Host.Outcome State Fault Refusal :=
  fireG s (.absd x g) g fun e => map2 e (absdWord x)

end Sys2Proof.Machine
end

