-- ==== Sys2Proof/Machine/Immediate.lean ====
section
/-! DEFINITION. Immediate instructions (R116). -/

namespace Sys2Proof.Machine

open Sys2Proof

/-- The sign-extended immediate (R116). -/
def immWord (i : IF) : Word := i.imm.signExtend 32

/-- ADDI (R116). -/
def execAddi (i : IF) (s : State) : Host.Outcome State Fault Refusal :=
  fireT s (.addi i) i.t0 fun e => map1 e fun a => a + immWord i

/-- MULI (R116). -/
def execMuli (i : IF) (s : State) : Host.Outcome State Fault Refusal :=
  fireT s (.muli i) i.t0 fun e => map1 e fun a => a * immWord i

/-- ANDI (R116). -/
def execAndi (i : IF) (s : State) : Host.Outcome State Fault Refusal :=
  fireT s (.andi i) i.t0 fun e => map1 e fun a => a &&& immWord i

/-- ORI (R116). -/
def execOri (i : IF) (s : State) : Host.Outcome State Fault Refusal :=
  fireT s (.ori i) i.t0 fun e => map1 e fun a => a ||| immWord i

/-- XORI (R116). -/
def execXori (i : IF) (s : State) : Host.Outcome State Fault Refusal :=
  fireT s (.xori i) i.t0 fun e => map1 e fun a => a ^^^ immWord i

/-- SHLI (R116). -/
def execShli (i : HF) (s : State) : Host.Outcome State Fault Refusal :=
  fireT s (.shli i) i.t0 fun e => map1 e fun a => shlWord a i.imm.toNat

/-- SHRI (R116). -/
def execShri (i : HF) (s : State) : Host.Outcome State Fault Refusal :=
  fireT s (.shri i) i.t0 fun e => map1 e fun a => shrWord .uw a i.imm.toNat

/-- SARI (R116). -/
def execSari (i : HF) (s : State) : Host.Outcome State Fault Refusal :=
  fireT s (.sari i) i.t0 fun e => map1 e fun a => shrWord .sw a i.imm.toNat

/-- TEQI (R116). -/
def execTeqi (i : IF) (s : State) : Host.Outcome State Fault Refusal :=
  fireT s (.teqi i) i.t0 fun e => map1 e fun a => wbool (a == immWord i)

/-- TNEI (R116). -/
def execTnei (i : IF) (s : State) : Host.Outcome State Fault Refusal :=
  fireT s (.tnei i) i.t0 fun e => map1 e fun a => wbool (a != immWord i)

/-- TLTI (R116). -/
def execTlti (i : IF) (s : State) : Host.Outcome State Fault Refusal :=
  fireT s (.tlti i) i.t0 fun e => map1 e fun a => wbool (decide (a.toInt < (immWord i).toInt))

/-- TLTUI: the immediate is sign-extended first (R116). -/
def execTltui (i : IF) (s : State) : Host.Outcome State Fault Refusal :=
  fireT s (.tltui i) i.t0 fun e => map1 e fun a => wbool (decide (a.toNat < (immWord i).toNat))

/-- TGEI (R116). -/
def execTgei (i : IF) (s : State) : Host.Outcome State Fault Refusal :=
  fireT s (.tgei i) i.t0 fun e => map1 e fun a => wbool (decide ((immWord i).toInt ≤ a.toInt))

/-- TGEUI (R116). -/
def execTgeui (i : IF) (s : State) : Host.Outcome State Fault Refusal :=
  fireT s (.tgeui i) i.t0 fun e => map1 e fun a => wbool (decide ((immWord i).toNat ≤ a.toNat))

/-- ADDLN: A + immediate × lane (R116). -/
def execAddln (i : IF) (s : State) : Host.Outcome State Fault Refusal :=
  fireT s (.addln i) i.t0 fun e =>
    (laneVal e fun k => (e.a.get k).map fun a => a + immWord i * wordOf k, 0)

end Sys2Proof.Machine
end

