-- ==== Sys2Proof/Machine/Tests.lean ====
section
/-! DEFINITION. Tests, predicate logic and UNI (R114, R115). -/

namespace Sys2Proof.Machine

open Sys2Proof

/-- PLOG on one lane (R114). -/
def plogWord (x : PlogF) (p q : Word) : Word :=
  let a := p != 0
  let b := q != 0
  wbool (match x with
    | .and => a && b | .or => a || b | .xor => a != b | .andn => a && !b
    | .nand => !(a && b) | .nor => !(a || b) | .xnor => a == b | .orn => a || !b)

/-- PRED on one lane (R114). -/
def predWord (x : PredF) (a : Word) : Word :=
  wbool (match x with
    | .nz => a != 0 | .z => a == 0 | .neg => a.msb)

/-- UNI's one result over its live lanes (R115). -/
def uniWord (x : UniF) (live : List Word) : Option Word :=
  match live with
  | [] => none
  | a :: _ =>
    some (wbool (match x with
      | .all => live.all (· != 0)
      | .any => live.any (· != 0)
      | .eq => live.all (· == a)))

/-- Lanes of A that match and are not null, in lane order. -/
def liveLanes (e : Env) : List (Nat × Word) :=
  laneNums.filterMap fun i => if e.m.get i then (e.a.get i).map fun a => (i, a) else none

/-- TEQ (R114). -/
def execTeq (g : GF) (s : State) : Host.Outcome State Fault Refusal :=
  fireG s (.teq g) g fun e => map2 e fun a b => wbool (a == b)

/-- TNE (R114). -/
def execTne (g : GF) (s : State) : Host.Outcome State Fault Refusal :=
  fireG s (.tne g) g fun e => map2 e fun a b => wbool (a != b)

/-- TLT (R114). -/
def execTlt (x : Sgn) (g : GF) (s : State) : Host.Outcome State Fault Refusal :=
  fireG s (.tlt x g) g fun e => map2 e fun a b => wbool (decide (sread x a < sread x b))

/-- TLE (R114). -/
def execTle (x : Sgn) (g : GF) (s : State) : Host.Outcome State Fault Refusal :=
  fireG s (.tle x g) g fun e => map2 e fun a b => wbool (decide (sread x a ≤ sread x b))

/-- PLOG (R114). -/
def execPlog (x : PlogF) (g : GF) (s : State) : Host.Outcome State Fault Refusal :=
  fireG s (.plog x g) g fun e => map2 e (plogWord x)

/-- PRED (R114). -/
def execPred (x : PredF) (g : GF) (s : State) : Host.Outcome State Fault Refusal :=
  fireG s (.pred x g) g fun e => map1 e (predWord x)

/-- UNI: one result of the live lanes in every matching lane (R115). -/
def execUni (x : UniF) (g : GF) (s : State) : Host.Outcome State Fault Refusal :=
  fireG s (.uni x g) g fun e =>
    let r := uniWord x ((liveLanes e).map fun p => p.2)
    (laneVal e fun _ => r, 0)

end Sys2Proof.Machine
end

