-- ==== Sys2Proof/Machine/LaneOps.lean ====
section
/-! DEFINITION. Lane instructions: permutations, scans, reductions, compaction and expansion (R156 to R158). -/

namespace Sys2Proof.Machine

open Sys2Proof

/-- A null-aware read of a lane for a permutation (R156). -/
def permute (e : Env) (src : Nat → Option Nat) : Val × Word :=
  (laneVal e fun i => (src i).bind fun k => e.a.get k, 0)

/-- LPERM (R156). -/
def execLperm (g : GF) (s : State) : Host.Outcome State Fault Refusal :=
  fireG s (.lperm g) g fun e => permute e fun i => (e.b.get i).map fun b => bits b 0 3

/-- LBC (R156). -/
def execLbc (x : BitVec 3) (g : GF) (s : State) : Host.Outcome State Fault Refusal :=
  fireG s (.lbc x g) g fun e => permute e fun _ => some x.toNat

/-- LSHF (R156). -/
def execLshf (x : BitVec 3) (g : GF) (s : State) : Host.Outcome State Fault Refusal :=
  fireG s (.lshf x g) g fun e => permute e fun i => if x.toNat ≤ i then some (i - x.toNat) else none

/-- LROT (R156). -/
def execLrot (x : BitVec 3) (g : GF) (s : State) : Host.Outcome State Fault Refusal :=
  fireG s (.lrot x g) g fun e => permute e fun i => some ((i + 8 - x.toNat) % 8)

/-- One fold operation of LSCAN and LRED (R157). -/
def foldOp (rm : Rm) (x : FoldF) (p q : Word) : Word × Word :=
  match x with
  | .add => (p + q, 0)
  | .fadd => fpAdd rm p q
  | .max => (maxWord .sw p q, 0)
  | .min => (minWord .sw p q, 0)
  | .fmax => fpMinMax true false p q
  | .fmin => fpMinMax false false p q
  | .or => (p ||| q, 0)
  | .and => (p &&& q, 0)

/-- Folds the live lanes in increasing order: the accumulator after each live lane, and the flags (R157). -/
def foldLanes (rm : Rm) (x : FoldF) : Option Word → Word → List (Nat × Word) → List (Nat × Word) × Option Word × Word
  | acc, fl, [] => ([], acc, fl)
  | acc, fl, (i, a) :: t =>
    let r := match acc with
      | none => (a, (0 : Word))
      | some p => foldOp rm x p a
    let rest := foldLanes rm x (some r.1) (fl ||| r.2) t
    ((i, r.1) :: rest.1, rest.2)

/-- LSCAN: each live lane receives the fold up to it (R157). -/
def execLscan (x : FoldF) (g : GF) (s : State) : Host.Outcome State Fault Refusal :=
  fireG s (.lscan x g) g fun e =>
    let r := foldLanes (rmE e) x none 0 (liveLanes e)
    (laneVal e fun i => (r.1.find? fun p => p.1 == i).map fun p => p.2, r.2.2)

/-- LRED: every matching lane receives the whole fold (R157). -/
def execLred (x : FoldF) (g : GF) (s : State) : Host.Outcome State Fault Refusal :=
  fireG s (.lred x g) g fun e =>
    let r := foldLanes (rmE e) x none 0 (liveLanes e)
    (laneVal e fun _ => r.2.1, r.2.2)

/-- LCMP: the k-th live lane goes to lane k (R158). -/
def execLcmp (g : GF) (s : State) : Host.Outcome State Fault Refusal :=
  fireG s (.lcmp g) g fun e =>
    let l := (liveLanes e).map fun p => p.2
    (Lanes.ofFn fun i => l[i]?, 0)

/-- LXPD's running index over the lanes that take (R158). -/
def expand (e : Env) : Nat → List Nat → List (Nat × Option Word)
  | _, [] => []
  | k, i :: t =>
    if e.m.get i && (match e.b.get i with | some w => w != 0 | none => false) then (i, e.a.get k) :: expand e (k + 1) t
    else expand e k t

/-- LXPD (R158). -/
def execLxpd (g : GF) (s : State) : Host.Outcome State Fault Refusal :=
  fireG s (.lxpd g) g fun e =>
    let l := expand e 0 laneNums
    (Lanes.ofFn fun i => (l.find? fun p => p.1 == i).bind fun p => p.2, 0)

end Sys2Proof.Machine
end

