-- ==== Sys2Proof/Machine/LaunchEv.lean ====
section
/-! DEFINITION. Launches at the bridge (R352, R353, R358, R359). -/

namespace Sys2Proof.Machine

open Sys2Proof

/-- The queue of a job that a launch names. -/
def queueOf (j : Job) (q : Nat) : Option LQueue := j.queues.find? fun p => p.queue == q

/-- Launches of a job that the bridge holds (R359). -/
def heldOf (s : State) (job : Nat) : Nat := (s.heldLaunches.filter fun h => h.job == job).length

/-- Records that a queue holds by the bridge's copies of TAIL and HEAD (R358). -/
def queueLoad (q : LQueue) : Nat := (q.tail + 2 ^ 32 - q.head) % 2 ^ 32

/-- A queue that is full by the bridge's copy of HEAD has its HEAD read again (R358). -/
def freshHead (s : State) (q : LQueue) : LQueue := if q.size ≤ queueLoad q then { q with head := (readWord s q.key).toNat } else q

/-- Replaces a queue of a job. -/
def putQueue (j : Job) (q : LQueue) : Job := { j with queues := j.queues.map fun p => if p.queue = q.queue then q else p }

/-- The refusal of a launch (R353): 1 LNOJOB, 2 LQFULL, 3 LFORMAT. -/
def launchRefusal (s : State) (tenant : Nat) (payload : List Word) : Option Nat :=
  let w := (payload[0]?).getD 0
  if bits w 18 14 ≠ 0 ∨ payload.length ≠ 16 then some 3
  else
    match Tbl.get none s.jobs (bits w 0 16) with
    | none => some 1
    | some j =>
      if j.tenant ≠ tenant then some 1
      else
        match queueOf j (bits w 16 2) with
        | none => some 3
        | some q => if q.size ≤ queueLoad (freshHead s q) ∨ 16 ≤ heldOf s (bits w 0 16) then some 2 else none

/-- Whether the bridge's writes may land at a root now: its region runs, its boundary is open, and the undo log has room (R359, R172). -/
def rootOpen (s : State) (q : LQueue) : Bool :=
  let g := regionAt s q.region
  let at_ := q.key + 64 + 64 * (q.tail % q.size)
  g.st == .resident && !boundaryHolds s q.region q.root && !isDead s q.root && ejects s q.root &&
  !undoBlocks s at_ true && !undoBlocks (undoLog s at_ true) q.key true && decide (queueLoad q < q.size)

/-- Words written by the bridge, each through the root's update slot (R344, R357). -/
def bridgeWords (s : State) (root key : Nat) (ws : List Word) : State :=
  let r := ws.foldl (fun (p : State × Nat) w => ((storeLane p.1 .update 4 p.2 w.toNat .policy).1, p.2 + 4)) (s, key)
  ownersReexecute r.1 root ((List.range ws.length).map fun i => key + 4 * i)

/-- Enqueues a launch (R358): the record with SEQ, TAIL, then the launch token. -/
def enqueueLaunch (s : State) (n : Nat) (j : Job) (q : LQueue) (payload : List Word) : State :=
  let s := bridgeWords s q.root (q.key + 64 + 64 * (q.tail % q.size)) (payload.drop 1 ++ [wordOf q.tail])
  let s := bridgeWords s q.root (q.key + 4) [wordOf (q.tail + 1)]
  let s := { s with jobs := Tbl.put s.jobs n (some (putQueue j { q with tail := (q.tail + 1) % 2 ^ 32 })) }
  let v : Val := ⟨some (wordOf q.queue), some (wordOf (q.tail + 1)), none, none, none, none, none, none⟩
  report (settleCore (post s hostDst q.root 0 (.token { tag := 0xD0, lanes := v } .nobody)) q.root) (.launchQueued n q.queue)

/-- Enqueues a launch that passed its checks, when its root is open; none when it has to wait. -/
def tryLaunch (s : State) (payload : List Word) : Option State :=
  let w := (payload[0]?).getD 0
  match Tbl.get none s.jobs (bits w 0 16) with
  | none => none
  | some j =>
    match queueOf j (bits w 16 2) with
    | some q =>
      let q := freshHead s q
      if rootOpen s q then some (enqueueLaunch s (bits w 0 16) j q payload) else none
    | none => none

/-- The root that a launch goes to. -/
def rootOfLaunch (s : State) (payload : List Word) : Option Nat :=
  let w := (payload[0]?).getD 0
  (Tbl.get none s.jobs (bits w 0 16)).bind fun j => (queueOf j (bits w 16 2)).map fun q => q.root

/-- Whether the bridge holds an earlier launch for the same root (R359). -/
def heldBefore (s : State) (hs : List Held) (payload : List Word) : Bool := hs.any fun h => rootOfLaunch s h.payload == rootOfLaunch s payload

/-- LAUNCH: the bridge refuses a launch, enqueues it, or holds it behind those that it holds for the same root (R353, R358, R359). -/
def execLaunch (tenant : Nat) (payload : List Word) (s : State) : Host.Outcome State Fault Refusal :=
  match launchRefusal s tenant payload with
  | some k => .next (report s (.launchRefused k))
  | none =>
    let job := bits ((payload[0]?).getD 0) 0 16
    match (if heldBefore s s.heldLaunches payload then none else tryLaunch s payload) with
    | some s => .next s
    | none => .next { s with heldLaunches := s.heldLaunches ++ [{ job := job, payload := payload }] }

/-- HELD_LAUNCH_RELEASE: the oldest launch held for a root is enqueued once the root is open again (R359). -/
def execHeldLaunchRelease (k : Nat) (s : State) : Host.Outcome State Fault Refusal :=
  match s.heldLaunches[k]? with
  | some h =>
    if heldBefore s (s.heldLaunches.take k) h.payload then .next s
    else
      match tryLaunch s h.payload with
      | some t => .next { t with heldLaunches := dropAt t.heldLaunches k }
      | none => .next s
  | none => .next s

end Sys2Proof.Machine
end

