-- ==== Sys2Proof/Machine/Tag.lean ====
section
/-! DEFINITION. The TAG group: bindings, tag spaces and kill filters (R197 to R201). -/

namespace Sys2Proof.Machine

open Sys2Proof

/-- Whether a tag's binding belongs to another context (R197). -/
def tagForeign (s : State) (e : Env) (t : Nat) : Bool :=
  let b := bindingOf (coreOf s e.c) t
  bValid b && bCtx b != e.x

/-- TBLOCK: sets BLK at commit (R197). -/
def execTblock (q : LF) (tag : BitVec 8) (s : State) : Host.Outcome State Fault Refusal :=
  fireQ0 s (.tblock q tag) q.lsid fun s e =>
    if tagForeign s e tag.toNat then .error (ferr e q.lsid .prot (wordOf tag.toNat)) else .ok (.setBlk tag.toNat true)

/-- TUNBLK: clears BLK at commit (R197). -/
def execTunblk (q : LF) (tag : BitVec 8) (s : State) : Host.Outcome State Fault Refusal :=
  fireQ0 s (.tunblk q tag) q.lsid fun s e =>
    if tagForeign s e tag.toNat then .error (ferr e q.lsid .prot (wordOf tag.toNat)) else .ok (.setBlk tag.toNat false)

/-- Whether row `l` of the parent tag table is allocated (R199). -/
def rowTaken (v : Context) (l : Nat) : Bool := (parentOf v l).isSome

/-- TSALLOC (R199). -/
def execTsalloc (q : LF) (level : BitVec 2) (s : State) : Host.Outcome State Fault Refusal :=
  fireQ1 s (.tsalloc q level) q.lsid fun _ e l a =>
    if rowTaken e.v level.toNat || bits a 4 2 + 1 != level.toNat then
      .error (ferr e q.lsid .tagspace (wordOf e.v.itag.toNat) (2 ^ l))
    else .ok (.tsAlloc level.toNat (BitVec.ofNat 6 a.toNat))

/-- TSFREE (R199, R201). -/
def execTsfree (q : LF) (level : BitVec 2) (s : State) : Host.Outcome State Fault Refusal :=
  fireQ0 s (.tsfree q level) q.lsid fun _ e =>
    if rowTaken e.v level.toNat then .ok (.tsFree level.toNat)
    else .error (ferr e q.lsid .tagspace (wordOf e.v.itag.toNat))

/-- TKILL (R200). -/
def execTkill (q : LF) (level : BitVec 2) (depth : BitVec 4) (s : State) : Host.Outcome State Fault Refusal :=
  fireQ1 s (.tkill q level depth) q.lsid fun _ e l a =>
    if rowTaken e.v level.toNat then .ok (.tKill level.toNat (bits a 0 4) depth.toNat)
    else .error (ferr e q.lsid .tagspace (wordOf e.v.itag.toNat) (2 ^ l))

/-- TBIND: writes a binding at commit (R13, R198). -/
def execTbind (q : LF) (tag : BitVec 8) (s : State) : Host.Outcome State Fault Refusal :=
  fireQ1 s (.tbind q tag) q.lsid fun s e l a =>
    if tagForeign s e tag.toNat then .error (ferr e q.lsid .prot (wordOf tag.toNat) (2 ^ l))
    else if 4 < bCtx a ∨ bits a 16 7 ≠ 0 ∨ bits a 0 4 ≠ 0 then
      .error (ferr e q.lsid .illegal (wordOf (slotAddr e.f e.slot)) (2 ^ l))
    else if bClass a = 0 ∨ bCtx a = 4 ∨ bCtx a ≠ e.x then .error (ferr e q.lsid .prot (wordOf tag.toNat) (2 ^ l))
    else .ok (.bind tag.toNat a)

end Sys2Proof.Machine
end

