-- ==== Sys2Proof/Machine/Dispatch.lean ====
section
/-! DEFINITION. One arm per constructor of `Instr`: the direct call of its meaning. -/

namespace Sys2Proof.Machine

open Sys2Proof

/-- What one instruction, or one step without a word, does. -/
def exec (i : Instr) (s : State) : Host.Outcome State Fault Refusal :=
  match i with
  | .mov g => Sys2Proof.Machine.execMov g s
  | .nult x g => Sys2Proof.Machine.execNult x g s
  | .sel g => Sys2Proof.Machine.execSel g s
  | .lit imm => Sys2Proof.Machine.execLit imm s
  | .imm imm => Sys2Proof.Machine.execImm imm s
  | .lane x g => Sys2Proof.Machine.execLane x g s
  | .arg x g => Sys2Proof.Machine.execArg x g s
  | .bro x off => Sys2Proof.Machine.execBro x off s
  | .callo x off => Sys2Proof.Machine.execCallo x off s
  | .br x => Sys2Proof.Machine.execBr x s
  | .call x => Sys2Proof.Machine.execCall x s
  | .ret x kind => Sys2Proof.Machine.execRet x kind s
  | .endBlk x => Sys2Proof.Machine.execEndBlk x s
  | .yieldBlk x => Sys2Proof.Machine.execYieldBlk x s
  | .scall x service => Sys2Proof.Machine.execScall x service s
  | .add g => Sys2Proof.Machine.execAdd g s
  | .sub g => Sys2Proof.Machine.execSub g s
  | .mul g => Sys2Proof.Machine.execMul g s
  | .mulh x g => Sys2Proof.Machine.execMulh x g s
  | .div x g => Sys2Proof.Machine.execDiv x g s
  | .rem x g => Sys2Proof.Machine.execRem x g s
  | .and g => Sys2Proof.Machine.execAnd g s
  | .or g => Sys2Proof.Machine.execOr g s
  | .xor g => Sys2Proof.Machine.execXor g s
  | .andn g => Sys2Proof.Machine.execAndn g s
  | .shl g => Sys2Proof.Machine.execShl g s
  | .shr x g => Sys2Proof.Machine.execShr x g s
  | .rot g => Sys2Proof.Machine.execRot g s
  | .min x g => Sys2Proof.Machine.execMin x g s
  | .max x g => Sys2Proof.Machine.execMax x g s
  | .bitc x g => Sys2Proof.Machine.execBitc x g s
  | .ext x g => Sys2Proof.Machine.execExt x g s
  | .bfx x g => Sys2Proof.Machine.execBfx x g s
  | .bfi g => Sys2Proof.Machine.execBfi g s
  | .lea x g => Sys2Proof.Machine.execLea x g s
  | .add3 g => Sys2Proof.Machine.execAdd3 g s
  | .mad g => Sys2Proof.Machine.execMad g s
  | .adds x g => Sys2Proof.Machine.execAdds x g s
  | .absd x g => Sys2Proof.Machine.execAbsd x g s
  | .uni x g => Sys2Proof.Machine.execUni x g s
  | .teq g => Sys2Proof.Machine.execTeq g s
  | .tne g => Sys2Proof.Machine.execTne g s
  | .tlt x g => Sys2Proof.Machine.execTlt x g s
  | .tle x g => Sys2Proof.Machine.execTle x g s
  | .plog x g => Sys2Proof.Machine.execPlog x g s
  | .pred x g => Sys2Proof.Machine.execPred x g s
  | .addi imm => Sys2Proof.Machine.execAddi imm s
  | .muli imm => Sys2Proof.Machine.execMuli imm s
  | .andi imm => Sys2Proof.Machine.execAndi imm s
  | .ori imm => Sys2Proof.Machine.execOri imm s
  | .xori imm => Sys2Proof.Machine.execXori imm s
  | .shli imm => Sys2Proof.Machine.execShli imm s
  | .shri imm => Sys2Proof.Machine.execShri imm s
  | .sari imm => Sys2Proof.Machine.execSari imm s
  | .teqi imm => Sys2Proof.Machine.execTeqi imm s
  | .tnei imm => Sys2Proof.Machine.execTnei imm s
  | .tlti imm => Sys2Proof.Machine.execTlti imm s
  | .tltui imm => Sys2Proof.Machine.execTltui imm s
  | .tgei imm => Sys2Proof.Machine.execTgei imm s
  | .tgeui imm => Sys2Proof.Machine.execTgeui imm s
  | .addln imm => Sys2Proof.Machine.execAddln imm s
  | .fadd g => Sys2Proof.Machine.execFadd g s
  | .fsub g => Sys2Proof.Machine.execFsub g s
  | .fmul g => Sys2Proof.Machine.execFmul g s
  | .fma g => Sys2Proof.Machine.execFma g s
  | .fms g => Sys2Proof.Machine.execFms g s
  | .fnma g => Sys2Proof.Machine.execFnma g s
  | .fmin x g => Sys2Proof.Machine.execFmin x g s
  | .fmax x g => Sys2Proof.Machine.execFmax x g s
  | .fdiv g => Sys2Proof.Machine.execFdiv g s
  | .fsqrt g => Sys2Proof.Machine.execFsqrt g s
  | .fapx x g => Sys2Proof.Machine.execFapx x g s
  | .fcmp x g => Sys2Proof.Machine.execFcmp x g s
  | .fsgn x g => Sys2Proof.Machine.execFsgn x g s
  | .cvtfi x g => Sys2Proof.Machine.execCvtfi x g s
  | .cvtif x g => Sys2Proof.Machine.execCvtif x g s
  | .frnd x g => Sys2Proof.Machine.execFrnd x g s
  | .fscl g => Sys2Proof.Machine.execFscl g s
  | .fxtr x g => Sys2Proof.Machine.execFxtr x g s
  | .narr x g => Sys2Proof.Machine.execNarr x g s
  | .spl3 x g => Sys2Proof.Machine.execSpl3 x g s
  | .fred x g => Sys2Proof.Machine.execFred x g s
  | .fdot g => Sys2Proof.Machine.execFdot g s
  | .flrp g => Sys2Proof.Machine.execFlrp g s
  | .lperm g => Sys2Proof.Machine.execLperm g s
  | .lbc x g => Sys2Proof.Machine.execLbc x g s
  | .lshf x g => Sys2Proof.Machine.execLshf x g s
  | .lrot x g => Sys2Proof.Machine.execLrot x g s
  | .lscan x g => Sys2Proof.Machine.execLscan x g s
  | .lred x g => Sys2Proof.Machine.execLred x g s
  | .lcmp g => Sys2Proof.Machine.execLcmp g s
  | .lxpd g => Sys2Proof.Machine.execLxpd g s
  | .ldw m => Sys2Proof.Machine.execLdw m s
  | .ldh m => Sys2Proof.Machine.execLdh m s
  | .ldhu m => Sys2Proof.Machine.execLdhu m s
  | .ldb m => Sys2Proof.Machine.execLdb m s
  | .ldbu m => Sys2Proof.Machine.execLdbu m s
  | .ldv m => Sys2Proof.Machine.execLdv m s
  | .ldc m => Sys2Proof.Machine.execLdc m s
  | .ldvs m => Sys2Proof.Machine.execLdvs m s
  | .stw st => Sys2Proof.Machine.execStw st s
  | .sth st => Sys2Proof.Machine.execSth st s
  | .stb st => Sys2Proof.Machine.execStb st s
  | .stv st => Sys2Proof.Machine.execStv st s
  | .stvs st => Sys2Proof.Machine.execStvs st s
  | .clrp q imm => Sys2Proof.Machine.execClrp q imm s
  | .fence q scope => Sys2Proof.Machine.execFence q scope s
  | .spw q reg => Sys2Proof.Machine.execSpw q reg s
  | .amo op f => Sys2Proof.Machine.execAmo op f s
  | .cas f => Sys2Proof.Machine.execCas f s
  | .upd op f => Sys2Proof.Machine.execUpd op f s
  | .spr r => Sys2Proof.Machine.execSpr r s
  | .send q act ch => Sys2Proof.Machine.execSend q act ch s
  | .sendm q act tag => Sys2Proof.Machine.execSendm q act tag s
  | .tblock q tag => Sys2Proof.Machine.execTblock q tag s
  | .tunblk q tag => Sys2Proof.Machine.execTunblk q tag s
  | .tsalloc q level => Sys2Proof.Machine.execTsalloc q level s
  | .tsfree q level => Sys2Proof.Machine.execTsfree q level s
  | .tkill q level depth => Sys2Proof.Machine.execTkill q level depth s
  | .tbind q tag => Sys2Proof.Machine.execTbind q tag s
  | .lpeek e link cnt => Sys2Proof.Machine.execLpeek e link cnt s
  | .lpop q link fwd t0 => Sys2Proof.Machine.execLpop q link fwd t0 s
  | .lpush q out => Sys2Proof.Machine.execLpush q out s
  | .csig q chan reg => Sys2Proof.Machine.execCsig q chan reg s
  | .sdef q unit => Sys2Proof.Machine.execSdef q unit s
  | .sgo q unit resume => Sys2Proof.Machine.execSgo q unit resume s
  | .sstop q unit rel => Sys2Proof.Machine.execSstop q unit rel s
  | .sbar q mask mx => Sys2Proof.Machine.execSbar q mask mx s
  | .scond q unit alt => Sys2Proof.Machine.execScond q unit alt s
  | .sfmt q unit => Sys2Proof.Machine.execSfmt q unit s
  | .mxstat e => Sys2Proof.Machine.execMxstat e s
  | .mxcfg q rel => Sys2Proof.Machine.execMxcfg q rel s
  | .mxldb q bank strm => Sys2Proof.Machine.execMxldb q bank strm s
  | .mxrun q => Sys2Proof.Machine.execMxrun q s
  | .mxout q => Sys2Proof.Machine.execMxout q s
  | .mxclr q first countM1 => Sys2Proof.Machine.execMxclr q first countM1 s
  | .bstat e bn => Sys2Proof.Machine.execBstat e bn s
  | .binit q bn => Sys2Proof.Machine.execBinit q bn s
  | .arv q bn => Sys2Proof.Machine.execArv q bn s
  | .arvd q bn => Sys2Proof.Machine.execArvd q bn s
  | .joinb q bn => Sys2Proof.Machine.execJoinb q bn s
  | .leaveb q bn => Sys2Proof.Machine.execLeaveb q bn s
  | .joinc q gt => Sys2Proof.Machine.execJoinc q gt s
  | .leavec q gt => Sys2Proof.Machine.execLeavec q gt s
  | .cstat e => Sys2Proof.Machine.execCstat e s
  | .cpath e path => Sys2Proof.Machine.execCpath e path s
  | .cstart q gt => Sys2Proof.Machine.execCstart q gt s
  | .cabort q gt => Sys2Proof.Machine.execCabort q gt s
  | .settle q entry verdict => Sys2Proof.Machine.execSettle q entry verdict s
  | .cut q reply sub => Sys2Proof.Machine.execCut q reply sub s
  | .save q reply => Sys2Proof.Machine.execSave q reply s
  | .restore q reply sub => Sys2Proof.Machine.execRestore q reply sub s
  | .scribe q reply => Sys2Proof.Machine.execScribe q reply s
  | .sflip q reply sub => Sys2Proof.Machine.execSflip q reply sub s
  | .selftest q reply => Sys2Proof.Machine.execSelftest q reply s
  | .sister q reply sub => Sys2Proof.Machine.execSister q reply sub s
  | .takeover q reply => Sys2Proof.Machine.execTakeover q reply s
  | .clksel q reply sub => Sys2Proof.Machine.execClksel q reply sub s
  | .winset q reply => Sys2Proof.Machine.execWinset q reply s
  | .bindset q reply => Sys2Proof.Machine.execBindset q reply s
  | .cfgstat e => Sys2Proof.Machine.execCfgstat e s
  | .cfgreq q grant => Sys2Proof.Machine.execCfgreq q grant s
  | .cfgrel q reply => Sys2Proof.Machine.execCfgrel q reply s
  | .spawn q ctx cls => Sys2Proof.Machine.execSpawn q ctx cls s
  | .mapsel q map reply => Sys2Proof.Machine.execMapsel q map reply s
  | .trap x code => Sys2Proof.Machine.execTrap x code s
  | .tokenArrival n => Sys2Proof.Machine.execTokenArrival n s
  | .activationStart cell ctx => Sys2Proof.Machine.execActivationStart cell ctx s
  | .blockCommit cell ctx => Sys2Proof.Machine.execBlockCommit cell ctx s
  | .nextBlockPrediction cell ctx hdr => Sys2Proof.Machine.execNextBlockPrediction cell ctx hdr s
  | .quiescenceFault cell ctx => Sys2Proof.Machine.execQuiescenceFault cell ctx s
  | .lateFaultDelivery cell ctx => Sys2Proof.Machine.execLateFaultDelivery cell ctx s
  | .idleLateTrap cell ctx => Sys2Proof.Machine.execIdleLateTrap cell ctx s
  | .class0Interjection cell ctx => Sys2Proof.Machine.execClass0Interjection cell ctx s
  | .nopreExpiry cell ctx => Sys2Proof.Machine.execNopreExpiry cell ctx s
  | .updateActivationStart cell => Sys2Proof.Machine.execUpdateActivationStart cell s
  | .atomicHandler cell => Sys2Proof.Machine.execAtomicHandler cell s
  | .remoteRequestPerform n => Sys2Proof.Machine.execRemoteRequestPerform n s
  | .presenceRetry n => Sys2Proof.Machine.execPresenceRetry n s
  | .replyArrival n far => Sys2Proof.Machine.execReplyArrival n far s
  | .entryAck n far => Sys2Proof.Machine.execEntryAck n far s
  | .entryRefused n far => Sys2Proof.Machine.execEntryRefused n far s
  | .winsetApply cell ctx => Sys2Proof.Machine.execWinsetApply cell ctx s
  | .streamStartPulse cell unit => Sys2Proof.Machine.execStreamStartPulse cell unit s
  | .streamAltPulse cell unit => Sys2Proof.Machine.execStreamAltPulse cell unit s
  | .streamElement cell unit => Sys2Proof.Machine.execStreamElement cell unit s
  | .streamFinish cell unit => Sys2Proof.Machine.execStreamFinish cell unit s
  | .engineCommandStart cell engine => Sys2Proof.Machine.execEngineCommandStart cell engine s
  | .mxldbBankReady cell => Sys2Proof.Machine.execMxldbBankReady cell s
  | .mxrunRowFire cell => Sys2Proof.Machine.execMxrunRowFire cell s
  | .mxoutReadoutDone cell => Sys2Proof.Machine.execMxoutReadoutDone cell s
  | .barrierArrival n => Sys2Proof.Machine.execBarrierArrival n s
  | .arrivalResend n => Sys2Proof.Machine.execArrivalResend n s
  | .homeBarrierUpdate n => Sys2Proof.Machine.execHomeBarrierUpdate n s
  | .killFilterSet n => Sys2Proof.Machine.execKillFilterSet n s
  | .killFilterClear n => Sys2Proof.Machine.execKillFilterClear n s
  | .controlPulse n => Sys2Proof.Machine.execControlPulse n s
  | .linkValueArrival n => Sys2Proof.Machine.execLinkValueArrival n s
  | .collectiveStart cell ctx => Sys2Proof.Machine.execCollectiveStart cell ctx s
  | .collectivePacketCheck n => Sys2Proof.Machine.execCollectivePacketCheck n s
  | .poisonNotice n => Sys2Proof.Machine.execPoisonNotice n s
  | .collectiveFinish cell ctx => Sys2Proof.Machine.execCollectiveFinish cell ctx s
  | .slotOpen cell => Sys2Proof.Machine.execSlotOpen cell s
  | .slotEnd cell => Sys2Proof.Machine.execSlotEnd cell s
  | .slotExpiry cell => Sys2Proof.Machine.execSlotExpiry cell s
  | .spawnAccept n => Sys2Proof.Machine.execSpawnAccept n s
  | .spawnAck n => Sys2Proof.Machine.execSpawnAck n s
  | .spawnHoldRelease cell ctx => Sys2Proof.Machine.execSpawnHoldRelease cell ctx s
  | .cfgreqService n => Sys2Proof.Machine.execCfgreqService n s
  | .configurationSelect n => Sys2Proof.Machine.execConfigurationSelect n s
  | .drainSweep region => Sys2Proof.Machine.execDrainSweep region s
  | .labelHop n => Sys2Proof.Machine.execLabelHop n s
  | .dynamicHop n => Sys2Proof.Machine.execDynamicHop n s
  | .jobLoad job => Sys2Proof.Machine.execJobLoad job s
  | .launch tenant payload => Sys2Proof.Machine.execLaunch tenant payload s
  | .heldLaunchRelease k => Sys2Proof.Machine.execHeldLaunchRelease k s
  | .energyUpdate cell => Sys2Proof.Machine.execEnergyUpdate cell s
  | .bayPowerSample bay => Sys2Proof.Machine.execBayPowerSample bay s
  | .budgetExceeded bay region allow => Sys2Proof.Machine.execBudgetExceeded bay region allow s
  | .isdutyWrite cell value => Sys2Proof.Machine.execIsdutyWrite cell value s
  | .bvsetWrite bay value => Sys2Proof.Machine.execBvsetWrite bay value s
  | .regulatorSettled bay => Sys2Proof.Machine.execRegulatorSettled bay s
  | .tripClear bay => Sys2Proof.Machine.execTripClear bay s
  | .tempWarn bay temp => Sys2Proof.Machine.execTempWarn bay temp s
  | .droop bay => Sys2Proof.Machine.execDroop bay s
  | .currentCap bay => Sys2Proof.Machine.execCurrentCap bay s
  | .quarterRate bay => Sys2Proof.Machine.execQuarterRate bay s
  | .rateRecovery bay => Sys2Proof.Machine.execRateRecovery bay s
  | .thermalTrip bay temp => Sys2Proof.Machine.execThermalTrip bay temp s
  | .spineRelock spine => Sys2Proof.Machine.execSpineRelock spine s
  | .cutStartPeg n => Sys2Proof.Machine.execCutStartPeg n s
  | .savePoint cell => Sys2Proof.Machine.execSavePoint cell s
  | .fixedPartWritten cell => Sys2Proof.Machine.execFixedPartWritten cell s
  | .recordedMessage n => Sys2Proof.Machine.execRecordedMessage n s
  | .cutSweep region => Sys2Proof.Machine.execCutSweep region s
  | .cutAbort region cell => Sys2Proof.Machine.execCutAbort region cell s
  | .earlyCut cell => Sys2Proof.Machine.execEarlyCut cell s
  | .contextSave cell ctx => Sys2Proof.Machine.execContextSave cell ctx s
  | .savedContextUpdate n => Sys2Proof.Machine.execSavedContextUpdate n s
  | .rollback region => Sys2Proof.Machine.execRollback region s
  | .spareCopyDone dead spare => Sys2Proof.Machine.execSpareCopyDone dead spare s
  | .sisterSync cell => Sys2Proof.Machine.execSisterSync cell s
  | .commitMirror cell => Sys2Proof.Machine.execCommitMirror cell s
  | .automaticTakeover cell => Sys2Proof.Machine.execAutomaticTakeover cell s
  | .takeoverSwap cell => Sys2Proof.Machine.execTakeoverSwap cell s
  | .selfTestDue cell spare => Sys2Proof.Machine.execSelfTestDue cell spare s
  | .deadlockSweep region => Sys2Proof.Machine.execDeadlockSweep region s
  | .mgmtAccess n => Sys2Proof.Machine.execMgmtAccess n s
  | .markCell cell => Sys2Proof.Machine.execMarkCell cell s
  | .registerWrite reg value => Sys2Proof.Machine.execRegisterWrite reg value s
  | .bundleVerify bundle => Sys2Proof.Machine.execBundleVerify bundle s
  | .scribeStage n => Sys2Proof.Machine.execScribeStage n s
  | .sflipTick n => Sys2Proof.Machine.execSflipTick n s
  | .boot bundle => Sys2Proof.Machine.execBoot bundle s
  | .bayReset bay => Sys2Proof.Machine.execBayReset bay s
  | .moduleReset forced => Sys2Proof.Machine.execModuleReset forced s
  | .tenantScrub bay tenant => Sys2Proof.Machine.execTenantScrub bay tenant s
  | .quote tenant nonce => Sys2Proof.Machine.execQuote tenant nonce s
  | .keyEncapsulation tenant ciphertext => Sys2Proof.Machine.execKeyEncapsulation tenant ciphertext s
  | .hostAccess access => Sys2Proof.Machine.execHostAccess access s
  | .hostAtomic access => Sys2Proof.Machine.execHostAtomic access s
  | .hostPageWalk n => Sys2Proof.Machine.execHostPageWalk n s
  | .invalidation port lo hi => Sys2Proof.Machine.execInvalidation port lo hi s
  | .laser port on => Sys2Proof.Machine.execLaser port on s
  | .up port on => Sys2Proof.Machine.execUp port on s
  | .llr port on => Sys2Proof.Machine.execLlr port on s
  | .lock port => Sys2Proof.Machine.execLock port s
  | .train port => Sys2Proof.Machine.execTrain port s
  | .abort port => Sys2Proof.Machine.execAbort port s
  | .laserokChange port ok => Sys2Proof.Machine.execLaserokChange port ok s
  | .lockEnd port codes => Sys2Proof.Machine.execLockEnd port codes s
  | .trainEnd port margins => Sys2Proof.Machine.execTrainEnd port margins s
  | .linkChange port up => Sys2Proof.Machine.execLinkChange port up s
  | .ringLockLoss port ring => Sys2Proof.Machine.execRingLockLoss port ring s
  | .rmaWritePlacement packet => Sys2Proof.Machine.execRmaWritePlacement packet s
  | .rmaCompletion message => Sys2Proof.Machine.execRmaCompletion message s
  | .sendMessageReceive message => Sys2Proof.Machine.execSendMessageReceive message s
  | .pathUnusable peer path => Sys2Proof.Machine.execPathUnusable peer path s
  | .pathProbe peer path sample => Sys2Proof.Machine.execPathProbe peer path sample s
  | .telemetrySample bay => Sys2Proof.Machine.execTelemetrySample bay s
  | .bayAbsent bay => Sys2Proof.Machine.execBayAbsent bay s
  | .flowAlarm => Sys2Proof.Machine.execFlowAlarm s
  | .flowRestore => Sys2Proof.Machine.execFlowRestore s
  | .firmwareUpload bundle => Sys2Proof.Machine.execFirmwareUpload bundle s
  | .rollbackCounterRaise version => Sys2Proof.Machine.execRollbackCounterRaise version s
  | .selftestPeriodSet hours => Sys2Proof.Machine.execSelftestPeriodSet hours s
  | .defectReport => Sys2Proof.Machine.execDefectReport s
  | .loftRowRemap cell bank row => Sys2Proof.Machine.execLoftRowRemap cell bank row s
  | .loftRefresh cell bank => Sys2Proof.Machine.execLoftRefresh cell bank s
  | .rowIdleClose cell bank => Sys2Proof.Machine.execRowIdleClose cell bank s
  | .contextRestore n => Sys2Proof.Machine.execContextRestore n s
  | .selftestEnd cell failing => Sys2Proof.Machine.execSelftestEnd cell failing s
  | .envelopeAlarm => Sys2Proof.Machine.execEnvelopeAlarm s
  | .attestationExtend index digest => Sys2Proof.Machine.execAttestationExtend index digest s
  | .liveFirmwareLoad bay => Sys2Proof.Machine.execLiveFirmwareLoad bay s

end Sys2Proof.Machine
end

