-- ==== Sys2Proof/Machine/Schedule.lean ====
section
/-! DEFINITION. Which step comes next when the outside world names none (notes/assumptions/2.md): the spec leaves the order of
independent steps open but for R35, R36 and R261. The places that a choice looks at rotate with the number of the step, so that nothing
enabled waits for ever. -/

namespace Sys2Proof.Machine

open Sys2Proof

/-! ### Cycles -/

/-- Whether the context in focus goes on from an instruction: it has fired, or its frame is gone. -/
def fires (s : State) (f : Focus) (i : Instr) : Bool :=
  match exec i { s with focus := f } with
  | .next t =>
    match (ctxOf t f.cell f.ctx).frame, (ctxOf s f.cell f.ctx).frame with
    | some g, some h => g.serial != h.serial || (slotOf g f.slot).fired
    | _, _ => true
  | _ => false

/-- The focus of a step that issues no instruction. -/
def eventAt (c x : Nat) : Focus := { cell := c, ctx := x, slot := 256 }

/-- Whether a step at a focus issues the instruction there (R36). -/
def issues (s : State) (at_ : Focus) : Bool :=
  match (ctxOf s at_.cell at_.ctx).frame with
  | some f => (match slotInstr f at_.slot with | some i => armed f at_.slot i && fires s at_ i | none => false)
  | none => false

/-- Whether a context's event counter counts an event (R139). -/
def counts (v : Context) (ev : Nat) : Bool := bit v.evsel 31 && bits v.evsel 0 8 == ev

/-- Whether a context's block waits at commit for pending entries (R34). -/
def waitsForEntries (v : Context) : Bool := match v.frame with | some f => complete f && !entriesFor v f | none => false

/-- Whether a context has a ready instruction and issues none in a step at `at_` (R27, R139). -/
def stalls (s : State) (at_ : Focus) (x : Nat) : Bool :=
  (match (ctxOf s at_.cell x).frame with | some f => anyArmed f | none => false) && !(x == at_.ctx && issues s at_)

/-- What one cycle brings to the frames of a context: the next words of the blocks whose fetch runs (R97). -/
def fetchTick (v : Context) : Context := { v with frame := v.frame.map fetchOn, spec := v.spec.map fetchOn }

/-- One cycle of context `x` of the core in focus (R43, R97, R129, R139). -/
def tickCtx (at_ : Focus) (s : State) (x : Nat) : State :=
  let c := at_.cell
  let s := modCtx s c x fetchTick
  let v := ctxOf s c x
  let s := if v.evNow = 0 then s else modCtx s c x fun v => { v with evNow := 0 }
  let s := if v.st = .running ∨ v.st = .trapped then countEvent s c x 0 1 else s
  let s := if counts v 7 && waitsForEntries v then countEvent s c x 7 1 else s
  let s := if counts v 8 && stalls s at_ x then countEvent s c x 8 1 else s
  if v.nopre then modCtx (countEvent s c x 9 1) c x fun v => { v with nopreb := v.nopreb - 1 } else s

/-- Whether a step at a focus is the issue of a class-0 frame (R37). -/
def class0Issue (s : State) (f : Focus) : Bool :=
  decide (f.slot < 128) && decide (f.ctx < 4) && (ctxOf s f.cell f.ctx).cls == 0 && (ctxOf s f.cell f.ctx).frame.isSome

/-- One cycle of a cell: its static energy is spent (R364), and an issue of a class-0 frame is that of its group of 64 cycles (R37). -/
def cellCycle (leak : Nat) (class0 : Bool) (x : Cell) : Cell :=
  { x with
    cyc := x.cyc + 1
    energyAcc := x.energyAcc + leak
    class0Turn := if class0 then (x.cyc + 1) / 64 + 1 else x.class0Turn }

/-- The step numbered by the state's counter acts at `f`: the core there, if it is out of reset, spends one cycle (R136;
notes/assumptions/8.md). -/
def enter (s : State) (f : Focus) : State :=
  let s := { s with focus := f, tickNo := s.tickNo + 1 }
  if s.cells.any fun p => p.1 == f.cell && !p.2.inReset then
    let s := modCell s f.cell (cellCycle (bayAt s (bayOf f.cell)).leak (class0Issue s f))
    allCtxs.foldl (fun s x => if (coreOf s f.cell).ctxs.any fun p => p.1 == x then tickCtx f s x else s) s
  else s

/-! ### Candidates -/

/-- A list that starts `k` places further on. -/
def rotate {α : Type} (l : List α) (k : Nat) : List α := l.drop (k % l.length) ++ l.take (k % l.length)

/-- Whether an event changes anything (an event that is not enabled leaves the state as it is). -/
def changes (s : State) (i : Instr) : Bool :=
  match exec i s with
  | .next t => decide (t ≠ s)
  | _ => false

/-- The steps that a message may take next. -/
def msgSteps (m : Msg) (n : Nat) : List Instr :=
  match m.body with
  | .routed _ _ _ _ => [.labelHop n]
  | b =>
    if m.wait ≠ 0 then
      match b with
      | .barrier _ _ _ _ _ => [.arrivalResend n]
      | _ => [.presenceRetry n]
    else if m.at_ ≠ m.dst then [.dynamicHop n]
    else .recordedMessage n ::
      match b with
      | .token _ _ => [.tokenArrival n, .collectivePacketCheck n]
      | .mem _ => [.remoteRequestPerform n, .hostPageWalk n]
      | .confirm _ _ => [.remoteRequestPerform n]
      | .cancel _ _ => [.remoteRequestPerform n]
      | .answer _ => [.replyArrival n none, .entryAck n none, .entryRefused n none, .savedContextUpdate n]
      | .barrier _ _ _ _ _ => [.barrierArrival n, .homeBarrierUpdate n]
      | .link _ _ => [.linkValueArrival n]
      | .spawn _ => [.spawnAccept n]
      | .spawnAck _ => [.spawnAck n]
      | .pulse _ _ => [.controlPulse n]
      | .killSet _ _ _ _ _ => [.killFilterSet n]
      | .killClear _ _ _ => [.killFilterClear n]
      | .mgmt _ _ => [.mgmtAccess n, .scribeStage n, .contextRestore n]
      | .register _ _ _ _ => [.mgmtAccess n]
      | .cfg _ _ _ => [.cfgreqService n, .configurationSelect n]
      | .poison _ _ _ => [.poisonNotice n]
      | .peg _ => [.cutStartPeg n]
      | .routed _ _ _ _ => []

/-- A step of a message. -/
def messageStep (s : State) (k : Nat) : Option (Focus × Instr) :=
  (rotate ((List.range s.net.length).zip s.net) k).findSome? fun p =>
    ((msgSteps p.2 p.1).find? (changes s)).map fun i => (eventAt p.2.at_ 0, i)

/-- A list of steps, or none where their condition does not hold. -/
def stepsIf (b : Bool) (l : List Instr) : List Instr := if b then l else []

/-- Steps of a stream unit that its state suggests. -/
def unitSteps (c n : Nat) (u : SUnit) : List Instr :=
  stepsIf (!(u.st == .idle && !u.queued))
    [.engineCommandStart c n, .streamStartPulse c n, .streamAltPulse c n, .streamElement c n, .streamFinish c n]

/-- Steps of a core's engines, queues and cuts that its state suggests. -/
def engineSteps (c : Nat) (x : Cell) : List Instr :=
  let k := x.core
  List.flatten [
    stepsIf (x.paused && x.savedPoint) [.fixedPartWritten c],
    stepsIf x.cutAsked [.earlyCut c],
    k.units.flatMap fun p => unitSteps c p.1 p.2,
    stepsIf (!(k.mx.queue.isEmpty && k.mx.run.isNone)) [.engineCommandStart c 4, .mxldbBankReady c, .mxrunRowFire c, .mxoutReadoutDone c],
    stepsIf (!(k.updQ.isEmpty && k.updTok.isEmpty && k.tokens.isEmpty && k.joins.isEmpty)) [.atomicHandler c, .updateActivationStart c],
    k.spawnHold.map fun m => .spawnHoldRelease c m.ctx,
    k.ctxs.flatMap fun p => stepsIf (!p.2.collq.isEmpty) [.collectiveStart c p.1, .collectiveFinish c p.1],
    stepsIf x.shadow.isSome [.slotOpen c],
    stepsIf x.slot.isSome [.slotEnd c, .slotExpiry c],
    stepsIf (!x.mirror.isEmpty) [.commitMirror c],
    stepsIf x.sistering.isSome [.sisterSync c],
    stepsIf x.takeover.isSome [.takeoverSwap c],
    stepsIf (decide (x.energyMark + 1024 ≤ x.cyc)) [.energyUpdate c]]

/-- Steps of a context other than its instructions. -/
def ctxSteps (c : Nat) (k : Core) (x : Nat) : List Instr :=
  let v : Context := Tbl.get {} k.ctxs x
  List.flatten [
    stepsIf v.frame.isSome [.blockCommit c x, .quiescenceFault c x],
    stepsIf (!v.lateQ.isEmpty) [.lateFaultDelivery c x, .idleLateTrap c x],
    stepsIf (!v.winsets.isEmpty) [.winsetApply c x],
    stepsIf (!v.saves.isEmpty) [.contextSave c x],
    stepsIf (!(k.tokens.isEmpty && k.joins.isEmpty && k.updTok.isEmpty && k.spawnQ.isEmpty)) [.class0Interjection c x, .activationStart c x]]

/-- A step of a core's engines, as it would be taken in the core's next cycle (R367). -/
def engineStep (s : State) (k : Nat) : Option (Focus × Instr) :=
  (rotate s.cells k).findSome? fun p =>
    ((rotate (engineSteps p.1 p.2) k).find? (changes (enter s (eventAt p.1 0)))).map fun i => (eventAt p.1 0, i)

/-- Whether an instruction is M class (R36): loads, stores, atomics, sends, FENCE, SPR, SPW, escapes and exits. -/
def isMClass (i : Instr) : Bool :=
  isExit i || (match encodeNat i with | some w => decide (0x60 ≤ w / 2 ^ 25) | none => false)

/-- Whether an MXCFG that cannot claim the engine yet takes its place among those that wait (R212). -/
def enrols (s : State) (f : Focus) (i : Instr) : Bool :=
  match i with
  | .mxcfg _ _ => changes { s with focus := f } i
  | _ => false

/-- The lowest slot of a context's frame whose instruction is of a class and can fire, where the cell's issue duty lets it (R27, R36,
R367). An MXCFG that begins to wait for the engine is issued too, in the firing order (R212). -/
def instrStep (s : State) (c x : Nat) (mClass : Bool) : Option (Focus × Instr) :=
  match (ctxOf s c x).frame with
  | none => none
  | some f =>
    if !dutyOpen (enter s (eventAt c x)) c x then none else
    (List.range f.words.length).findSome? fun n =>
      match slotInstr f n with
      | some i =>
        let at_ : Focus := { cell := c, ctx := x, slot := n }
        if armed f n i && isMClass i == mClass && (fires s at_ i || enrols s at_ i) then some (at_, i) else none
      | none => none

/-- Puts a context in order of the age of its frame. -/
def insertByAge (x n : Nat) : List (Nat × Nat) → List (Nat × Nat)
  | [] => [(x, n)]
  | (y, m) :: t => if n < m then (x, n) :: (y, m) :: t else (y, m) :: insertByAge x n t

/-- Contexts of a core that hold a frame, the oldest frame first (R36). -/
def byAge (s : State) (c : Nat) : List Nat :=
  ([0, 1, 2, 3, 4].foldl (fun l x =>
    match (ctxOf s c x).frame with | some f => insertByAge x f.serial l | none => l) []).map fun p => p.1

/-- Whether the class-0 issue cycle of a core's present group of 64 cycles is still to come (R37). -/
def class0Due (s : State) (c : Nat) : Bool := decide ((cellOf s c).class0Turn ≤ ((cellOf s c).cyc + 1) / 64)

/-- Contexts of a core that hold a frame, in the order in which they issue: the oldest frame first, but class-0 frames ahead of all others
in the first cycle of each group of 64 in which one is ready (R36, R37). -/
def issueOrder (s : State) (c : Nat) : List Nat :=
  let l := byAge s c
  let class0 (x : Nat) : Bool := x != 4 && (ctxOf s c x).cls == 0
  if class0Due s c then l.filter class0 ++ l.filter fun x => !class0 x else l

/-- The instruction of a class that a core issues: in the first frame in issue order that has one, the lowest slot (R36). -/
def issueStep (s : State) (c : Nat) (mClass : Bool) : Option (Focus × Instr) :=
  (issueOrder s c).findSome? fun x => instrStep s c x mClass

/-- Whether something at a core waits for its cycles alone: the fetch of a block (R97), or a frame or the matrix engine that the issue duty
keeps from working in the next cycle (R367). -/
def needsCycles (s : State) (c : Nat) : Bool :=
  let t := enter s (eventAt c 0)
  let k := (coreOf s c).mx
  (!mxOpen t c && !(k.queue.isEmpty && k.run.isNone)) ||
  allCtxs.any fun x =>
    match (ctxOf s c x).frame with
    | some f => !decoded f || (anyArmed f && !dutyOpen t c x)
    | none => false

/-- A cycle of a core in which nothing issues passes, where something waits for that (R97, R367). -/
def cycleStep (s : State) (c : Nat) : Option (Focus × Instr) :=
  if needsCycles s c then some (eventAt c 0, .energyUpdate c) else none

/-- A step of a core's contexts other than an issue: a block commits or faults, or a context starts, traps or is saved. -/
def otherStep (s : State) (p : Nat × Cell) (k : Nat) : Option (Focus × Instr) :=
  (rotate [0, 1, 2, 3, 4] k).findSome? fun x =>
    ((ctxSteps p.1 p.2.core x).find? (changes s)).map fun i => (eventAt p.1 x, i)

/-- A step of a context: a core issues a V-class and an M-class instruction in turn, then lets its contexts take another step, and then lets a
cycle pass where something waits for it (R36; notes/assumptions/2.md). -/
def contextStep (s : State) (k : Nat) : Option (Focus × Instr) :=
  (rotate s.cells k).findSome? fun p =>
    if coreActs s p.1 then
      (rotate [0, 1, 2, 3] p.2.cyc).findSome? fun n =>
        match n with
        | 0 => issueStep s p.1 false
        | 1 => issueStep s p.1 true
        | 2 => otherStep s p k
        | _ => cycleStep s p.1
    else none

/-- Steps of regions, launches and flips. -/
def regionSteps (s : State) : List Instr :=
  let own (r : Nat) (v : Region) : List Instr :=
    List.flatten [stepsIf (v.st == .draining) [.drainSweep r], stepsIf v.cut.isSome [.cutSweep r], stepsIf v.rolling.isSome [.rollback r]]
  List.flatten [
    s.regions.flatMap fun p => own p.1 p.2,
    (List.range s.heldLaunches.length).map Instr.heldLaunchRelease,
    s.rmas.map fun r => .rmaCompletion r.message,
    (List.range s.flips.length).map Instr.sflipTick]

/-- A step of a region, a launch or a flip. -/
def regionStep (s : State) (k : Nat) : Option (Focus × Instr) :=
  ((rotate (regionSteps s) k).find? (changes s)).map fun i => (eventAt 0 0, i)

/-- A save point that is due comes first (R385). -/
def saveStep (s : State) : Option (Focus × Instr) :=
  (s.cells.find? fun p => p.2.peg && !p.2.savedPoint && (cutAt s p.1).isSome && atSavePoint s p.1).map fun p =>
    (eventAt p.1 0, .savePoint p.1)

/-- A block faults for a word as soon as its fetch has brought it (R97), and one that has used up its NOPRE budget before anything else happens
to it (R43); and a late cause that finds a block fetched
and not begun is delivered before it begins (R46). -/
def dueStep (s : State) : Option (Focus × Instr) :=
  s.cells.findSome? fun p =>
    allCtxs.findSome? fun x =>
      let v := ctxOf s p.1 x
      ((stepsIf (dueWord s p.1 x).isSome [.quiescenceFault p.1 x] ++
        stepsIf (v.frame.isSome && expired v) [.nopreExpiry p.1 x] ++
        stepsIf (v.frame.isSome && !v.lateQ.isEmpty) [.lateFaultDelivery p.1 x]).find? (changes s)).map fun i => (eventAt p.1 x, i)

/-- The first choice that a list of choosers makes. -/
def firstChoice (s : State) (k : Nat) : List (State → Nat → Option (Focus × Instr)) → Option (Focus × Instr)
  | [] => none
  | f :: fs => match f s k with | some q => some q | none => firstChoice s k fs

/-- An armed instruction that waits for its gate. -/
def waitStep (s : State) : Option (Focus × Instr) :=
  s.cells.findSome? fun p =>
    if coreActs s p.1 then
      allCtxs.findSome? fun x =>
        match (ctxOf s p.1 x).frame with
        | none => none
        | some f =>
          (List.range f.words.length).findSome? fun n =>
            match slotInstr f n with
            | some i => if armed f n i then some ({ cell := p.1, ctx := x, slot := n }, i) else none
            | none => none
    else none

/-- The next step, if any is enabled: what acts, and where. When nothing is, an armed instruction goes on waiting. -/
def choose (s : State) : Option (Focus × Instr) :=
  match saveStep s with
  | some q => some q
  | none =>
    match dueStep s with
    | some q => some q
    | none =>
      match firstChoice s (s.tickNo / 4) (rotate [messageStep, engineStep, contextStep, regionStep] s.tickNo) with
      | some q => some q
      | none => waitStep s

/-- Whether the outside world may name an instruction as its next step: an event, not an instruction of a block. -/
def isEvent (i : Instr) : Bool := (encodeNat i).isNone

/-- The bay controller's firmware re-initialises a HALTED context: it becomes IDLE, or RUNNING where the state written names a next block,
at trap level 0, outside a NOPRE section and with no block in flight (R10, R378, R396; notes/assumptions/67.md). A matrix engine that it
owns is released (R212). -/
def rewriteContext (s : State) (c x : Nat) (v : Context) : State :=
  if (ctxOf s c x).st = .halted ∧ x < 4 then
    putCtx (if (coreOf s c).mx.owner = some x then releaseMx s c else s) c x { v with
      st := if v.pc.isSome then .running else .idle
      tl := false
      trapRec := none
      nopre := false
      nopreb := 65536
      frame := none
      spec := []
      waitSince := (cellOf s c).cyc }
  else s

/-- A step that the outside world has named: an event, or a bit error that a counter or a later access shows (R279, R283, R430, R445). -/
def takeInput (s : State) (i : OutsideAct) : Host.Outcome State Fault Refusal :=
  let s := enter s { s.focus with slot := 256 }
  match i with
  | .event i => if isEvent i then exec i s else .next s
  | .sramCorrected c => .next (modCell s c fun x => { x with secorr := x.secorr + 1 })
  | .loftCorrected c bank row => .next (noteCorrected s c bank row)
  | .uncorrectable k => .next { s with bad := keyInsert s.bad (if keyIsLoft k then lineKey k else wordKey k) }
  | .fecCorrected p => .next (modPort s p fun x => { x with feccor := x.feccor + 1 })
  | .fecUncorrectable p => .next (modPort s p fun x => { x with fecunc := x.fecunc + 1 })
  | .contextRewritten c x v => .next (settleCore (rewriteContext s c x v) c)
  | .budgetShare r share => .next (giveShare s r share)
  | .cellsGiven r => .next (giveCells s r)
  | .cellsReturned r => .next (returnCells s r)
  | .ringTracks p ring code => .next (trackRing s p ring code)
  | .routerError c => .next (modCell s c fun x => { x with routerError := true })
  | .loftError c => .next (modCell s c fun x => { x with loftError := true })
  | .attachmentFails b => failAttachment b s
  | .moduleBudget n => .next (if s.booted then { s with modBudget := some n } else s)
  | .bayBudget b n => .next (if s.booted then giveBayBudget s b n else s)
  | .tenantLink l => .next (if s.booted then linkTenants s l else s)
  | .tableWrite a e => .next (writeTable s a e)
  | .tableRoot p r => .next (modPort s p fun x => { x with ptRoot := r })
  | .farMap p m => .next (setFarMap s p m)
  | .ringLocks p ring code => .next (ringLocks s p ring code)
  | .lanePasses p lane h v => .next (lanePasses s p lane h v)
  | .rmaGet d => .next (serveRma d s)
  | .pathTimeout h p => losePacket s h p false
  | .pathTrim h p => losePacket s h p true
  | .pathAck h p level ecn => .next (ackPath s h p level ecn)
  | .certRoots roots => .next { s with certRoots := roots }
  | .operator cert op => operate cert op s

/-- The cell that firmware is to mark, after a second uncorrectable SRAM event (R446). -/
def markDue (s : State) : Option Nat :=
  if s.booted then (s.cells.find? fun p => isCellCore p.1 && decide (2 ≤ p.2.sramErrs) && !p.2.defect).map fun p => p.1 else none

/-- Firmware marks a cell (R446). -/
def firmwareMark (s : State) (c : Nat) : Host.Outcome State Fault Refusal := .next (markDefect (enter s (eventAt c 0)) c)

/-! ### One instruction alone -/

/-- H1 of a block that counts one side effect, that of a word; a load's LSID only orders it (R77, R98). -/
def loneH1 (i : Instr) (w : Word) : Word :=
  match loadLsid i with
  | some _ => 0
  | none => wordOf (2 ^ wordLsid w)

/-- The word of an instruction with four operand positions that nothing has filled: what a target of slot 0 finds. -/
def consumerWord : Word := 0x87000000

/-- A frame that holds one word in slot 1, with every operand that the word uses present and zero. -/
def loneFrame (serial : Nat) (i : Instr) (w : Word) : Frame :=
  let z : Val := Lanes.all (some 0)
  { serial := serial
    hdr := 0
    h1 := loneH1 i w
    h2 := 0xFFFFFFFF
    h3 := 0xFFFFFFFF
    nread := 0
    nopre := false
    descs := []
    words := [consumerWord, w]
    lits := List.replicate 32 0
    slots := [(1, {
      a := if usesA i then some z else none
      b := if usesB i then some z else none
      c := if usesC i then some z else none
      p := if prOf i == .always then none else some z })] }

/-- Cell 0, out of reset, runs in context 0 a frame that holds the word alone. -/
def placeInstr (s : State) (n : Nat) : State :=
  let w := wordOf n
  match decodeWord w with
  | .error _ => s
  | .ok i =>
    let s := modCell { s with inputs := [] } 0 fun x => { x with inReset := false }
    modCtx s 0 0 fun v => { v with st := .running, pc := none, frame := some (loneFrame 0 i w) }

end Sys2Proof.Machine
end

