-- ==== Sys2Proof/Machine/Step.lean ====
section
/-! DEFINITION. One step of the machine, and the placing of one instruction where the next step runs it (notes/assumptions/1.md). -/

namespace Sys2Proof.Machine

open Sys2Proof

/-- One step: what the outside world has named comes first; then a cell that firmware is to mark; otherwise the schedule chooses; otherwise only a
cycle passes. -/
def step (s : State) : Host.Outcome State Fault Refusal :=
  match s.inputs with
  | i :: rest => takeInput { s with inputs := rest } i
  | [] =>
    match markDue s with
    | some c => firmwareMark s c
    | none =>
      match choose s with
      | some (f, i) => exec i (enter s f)
      | none => .next (enter s s.focus)

/-- The instruction of a word stands alone in a frame of context 0 of cell 0, with its operands present: the next step runs it. The bits
of the word are numbered as the opcode table numbers them. -/
def State.withFetchWord (s : State) (nbits w : Nat) : State := placeInstr s (if w < 2 ^ nbits then w else 0)

end Sys2Proof.Machine
end

