-- ==== Sys2Proof/Safety.lean ====
section
/-! DEFINITION. What counts as a safe step and a sound state, in the terms that claims use. -/

namespace Sys2Proof

open Sys2Proof.Machine

/-- The part of a context that the start of a block, or the fault of its header, leaves alone: its general registers, argument buffer,
windows, tables and special registers but for the event counter and those of traps. -/
def Machine.Context.lasting (v : Context) : Context :=
  { v with st := .idle, frame := none, spec := [], nopre := false, nopreb := 0, evcnt := 0, evNow := 0, pc := none, tl := false,
           trapRec := none, tcause := 0, tblock := 0, taddr := 0, tinfo := 0, waitSince := 0 }

/-- No word that the fetch of a block in flight on core `c` has brought faults the block (R97, R99). -/
def Machine.decodesOn (s : State) (c : Nat) : Bool :=
  allCtxs.all fun x =>
    match (ctxOf s c x).frame with
    | some f => (match f.badWord with | some (n, _) => decide (f.fetched ≤ 32 * n) | none => true)
    | none => true

/-- The keys of a list rise strictly from `lo` on. -/
def keysRise : Nat → List Nat → Bool
  | _, [] => true
  | lo, k :: ks => decide (lo ≤ k) && keysRise (k + 1) ks

/-- The memories and presence bits of a state are in canonical form (notes/assumptions/3.md). -/
def Canonical (s : State) : Prop :=
  Memory.wf s.mem = true ∧ Memory.wf s.hostMem = true ∧ Memory.wf s.bridgeMem = true ∧ keysRise 0 s.full = true

/-- A step that neither stops nor refuses. -/
def Proceeds (o : Host.Outcome State Fault Refusal) : Prop := ∃ t, o = .next t

/-- A safe step: it proceeds, and leaves a canonical state canonical. -/
def SafeStep (s : State) : Prop := ∃ t, step s = .next t ∧ (Canonical s → Canonical t)

end Sys2Proof
end

