-- ==== Sys2Proof/Certificates/Slice0/Obligations.lean ====
section
/-! DEFINITION. The statements for the provers. The definitions under `Sys2Proof.Claim` say, in words of their own, what the rules of
the spec ask: operands and lanes (R27 to R30), what a firing may change, and the results of the instructions. -/

namespace Sys2Proof.Claim

open Sys2Proof Sys2Proof.Machine

/-! ### What every statement about a block's instruction uses -/

/-- The context in focus. -/
abbrev here (s : State) : Context := ctxOf s s.focus.cell s.focus.ctx

/-- Instruction `i` stands in the slot in focus of frame `f` with its operands present, and has not fired (R27, R165); and no block on the
core faults in this cycle for a word that its fetch decodes (R99). -/
abbrev Ready (s : State) (f : Frame) (i : Instr) : Prop :=
  (here s).frame = some f ∧ armed f s.focus.slot i = true ∧ decodesOn s s.focus.cell = true

/-- The operands of the slot in focus. -/
abbrev opnd (s : State) (f : Frame) : Slot := slotOf f s.focus.slot

/-- Lane `l` of operand A; absent operands read as null. -/
abbrev laneA (o : Slot) (l : Nat) : Option Word := (o.a.getD Val.allNull).get l

/-- Lane `l` of operand B. -/
abbrev laneB (o : Slot) (l : Nat) : Option Word := (o.b.getD Val.allNull).get l

/-- Lane `l` of operand C. -/
abbrev laneC (o : Slot) (l : Nat) : Option Word := (o.c.getD Val.allNull).get l

/-- Whether lane `l` matches (R28, R82): always without a predicate, else where the predicate's lane is present and nonzero, or present
and zero. -/
def matched (i : Instr) (o : Slot) (l : Nat) : Bool :=
  match prOf i, (o.p.getD Val.allNull).get l with
  | .always, _ => true
  | .onTrue, some w => w != 0
  | .onFalse, some w => w == 0
  | _, none => false

/-- The value whose lanes are those of `r` where they match, null elsewhere (R102). -/
def lanesOf (i : Instr) (o : Slot) (r : Nat → Option Word) : Val :=
  Lanes.ofFn fun l => if matched i o l then r l else none

/-- The template of R102 for operand A. -/
def lanes1 (i : Instr) (o : Slot) (fn : Word → Word) : Val :=
  lanesOf i o fun l => match laneA o l with | some a => some (fn a) | none => none

/-- The template of R102 for operands A and B. -/
def lanes2 (i : Instr) (o : Slot) (fn : Word → Word → Word) : Val :=
  lanesOf i o fun l => match laneA o l, laneB o l with | some a, some b => some (fn a b) | _, _ => none

/-- The template of R102 for operands A, B and C. -/
def lanes3 (i : Instr) (o : Slot) (fn : Word → Word → Word → Word) : Val :=
  lanesOf i o fun l =>
    match laneA o l, laneB o l, laneC o l with | some a, some b, some c => some (fn a b c) | _, _, _ => none

/-- The frame as instruction `i` in focus leaves it when it delivers `r` to `ts` and raises `flags`, or the fault of that delivery
(R27, R32, R50, R80, R81). -/
abbrev delivered (s : State) (f : Frame) (ts : List Target) (r : Val) (flags : Word) : Except BFault Frame :=
  deliverAll { markFired f s.focus.slot with flags := f.flags ||| flags } (slotAddr f s.focus.slot) s.focus.slot r ts

/-- What a firing that ends with frame `F` leaves: of its context only the frame and the event counter (with its events of this cycle)
change (waiting operations of the
frame may depart); every byte of memory and every presence bit reads as before; no other core changes; and on its own core no engine,
barrier, queue, binding or link changes, and other contexts at most start their next block, whose fetch may meet an uncorrectable word that
the bay then counts (R445). -/
def Leaves (s t : State) (F : Frame) : Prop :=
  (∃ (w : List Waiting) (n u : Word), here t = { here s with frame := some { F with waits := w }, evcnt := n, evNow := u }) ∧
  t.focus = s.focus ∧
  (∀ k, memGet t.mem k = memGet s.mem k) ∧ t.full = s.full ∧ t.bad = s.bad ∧ t.hostMem = s.hostMem ∧
  (∀ d, d ≠ s.focus.cell → cellOf t d = cellOf s d) ∧
  (coreOf t s.focus.cell = { coreOf s s.focus.cell with
    ctxs := (coreOf t s.focus.cell).ctxs
    readyAt := (coreOf t s.focus.cell).readyAt
    stamp := (coreOf t s.focus.cell).stamp }) ∧
  (∀ y, (ctxOf t s.focus.cell y).lasting = (ctxOf s s.focus.cell y).lasting) ∧
  (∀ b, bayAt t b = { bayAt s b with uncorr := (bayAt t b).uncorr }) ∧ t.ports = s.ports ∧ t.regions = s.regions ∧ t.jobs = s.jobs

/-- `exec` answers a next state in which the context in focus holds the value `r` delivered to the targets `ts`, `flags` raised, and
nothing else changed; asked where the targets take the value. -/
def Yields (i : Instr) (s : State) (f : Frame) (ts : List Target) (r : Val) (flags : Word) : Prop :=
  ∀ F, delivered s f ts r flags = .ok F → ∃ t, exec i s = .next t ∧ Leaves s t F

/-- The frame with side effect `lsid` counted and its act kept for the commit (R29, R31, R33). -/
def counted (s : State) (f : Frame) (lsid : Nat) (act : Act) : Frame :=
  { markFired f s.focus.slot with
    counted := f.counted ||| wordOf (2 ^ lsid)
    effs := f.effs ++ [{ lsid := lsid, slot := s.focus.slot, act := act }] }

/-- The block declares side effect `lsid` in H1 and has not counted it (R32, R77). -/
abbrev Declares (f : Frame) (lsid : Nat) : Prop := f.h1.getLsbD lsid = true ∧ f.counted.getLsbD lsid = false

/-- `exec` answers a next state in which the side effect is counted with what its commit will do, and nothing else changed. -/
def Counts (i : Instr) (s : State) (f : Frame) (lsid : Nat) (act : Act) : Prop :=
  Declares f lsid → ∃ t, exec i s = .next t ∧ Leaves s t (counted s f lsid act)

/-- The acting lane of an instruction over A (R188): the lowest lane that matches with A present. -/
abbrev ActingA (i : Instr) (o : Slot) (l : Nat) (a : Word) : Prop :=
  l < 8 ∧ matched i o l = true ∧ laneA o l = some a ∧ ∀ k, k < l → matched i o k = true → laneA o k = none

/-- The acting lane of an instruction over A and B (R188). -/
abbrev ActingAB (i : Instr) (o : Slot) (l : Nat) (a b : Word) : Prop :=
  l < 8 ∧ matched i o l = true ∧ laneA o l = some a ∧ laneB o l = some b ∧
  ∀ k, k < l → matched i o k = true → laneA o k = none ∨ laneB o k = none

/-- No lane of an instruction over A acts. -/
abbrev IdleA (i : Instr) (o : Slot) : Prop := ∀ l, l < 8 → matched i o l = true → laneA o l = none

/-- No lane of an instruction over A and B acts. -/
abbrev IdleAB (i : Instr) (o : Slot) : Prop := ∀ l, l < 8 → matched i o l = true → laneA o l = none ∨ laneB o l = none

/-- Some lane matches: when an instruction without operands acts (R175, R188). -/
abbrev Acts (i : Instr) (o : Slot) : Prop := ∃ l, l < 8 ∧ matched i o l = true

end Sys2Proof.Claim

/-! ### Encoding -/

namespace Sys2Proof.Claim

open Sys2Proof Sys2Proof.Machine

/-- A primary opcode that R89 leaves reserved, which R98 rejects. -/
def reservedOpcode (o : Nat) : Bool :=
  o == 0 || o == 0x2F || o == 0x3F || o == 0x57 || o == 0x7F

end Sys2Proof.Claim

open Sys2Proof Sys2Proof.Machine Sys2Proof.Claim

/-- Every well-formed instruction of the architecture has a word, and that word decodes to the instruction, with every operand at every
value its fields admit (R80 to R98). -/
def Obligations.EncodedInstructionDecodesBack : Prop :=
  ∀ i : Instr, i.wf = true → isEvent i = false →
    ∃ n, encodeNat i = some n ∧ n < 2 ^ 32 ∧ decodeWord (wordOf n) = .ok i

/-- A word that decodes is the encoding of what it decodes to, so that no two words mean one instruction and no set bit of a word is
ignored; and what it decodes to is well-formed (R98). -/
def Obligations.DecodedWordEncodesBack : Prop :=
  ∀ (w : Word) (i : Instr), decodeWord w = .ok i → i.wf = true ∧ encodeNat i = some w.toNat

/-- Encodings that R98 rejects: reserved opcodes, PR 0b11, target codes that name nothing, HINT 0b11, FENCE scopes 5 to 7, AOP 14 and 15
of AMO, SPR numbers from 0x1A, and RET kinds from 3. -/
def Obligations.ReservedEncodingsAreRejected : Prop :=
  (∀ w : Word, reservedOpcode (bits w 25 7) = true → ∀ i, decodeWord w ≠ .ok i) ∧
  (∀ w : Word, bits w 23 2 = 3 → ∀ i, decodeWord w ≠ .ok i) ∧
  (∀ w : Word, 1 ≤ bits w 25 7 → bits w 25 7 < 0x08 → 576 ≤ bits w 0 10 → bits w 0 10 < 1023 → ∀ i, decodeWord w ≠ .ok i) ∧
  (∀ w : Word, 0x40 ≤ bits w 25 7 → bits w 25 7 < 0x60 → 576 ≤ bits w 10 10 → bits w 10 10 < 1023 → ∀ i, decodeWord w ≠ .ok i) ∧
  (∀ w : Word, 0x68 ≤ bits w 25 7 → bits w 25 7 ≤ 0x6C → bits w 0 2 = 3 → ∀ i, decodeWord w ≠ .ok i) ∧
  (∀ w : Word, bits w 25 7 = 0x6E → 5 ≤ bits w 0 3 → ∀ i, decodeWord w ≠ .ok i) ∧
  (∀ w : Word, bits w 25 7 = 0x70 → 14 ≤ bits w 14 4 → ∀ i, decodeWord w ≠ .ok i) ∧
  (∀ w : Word, bits w 25 7 = 0x73 → 0x1A ≤ bits w 10 6 → ∀ i, decodeWord w ≠ .ok i) ∧
  (∀ w : Word, bits w 25 7 = 0x0C → 3 ≤ bits w 0 20 → ∀ i, decodeWord w ≠ .ok i)

/-- Words written out from the encoding tables (R83 to R94) decode to the instructions they stand for: ADD to W5 under a true predicate,
IMM −1, a load, a store with a row hint, BRO backwards, an atomic, SEND, TBLOCK, LPOP, SETTLE and TRAP. -/
def Obligations.WrittenOutWordsDecode : Prop :=
  decodeWord 0x208FFE05 = .ok (.add ⟨.onTrue, .none, .w 5⟩) ∧
  decodeWord 0x0A7FFC03 = .ok (.imm ⟨.always, 0x1FFF, .a 3⟩) ∧
  decodeWord 0xC00C0881 = .ok (.ldw ⟨.always, 3, 2, .b 1⟩) ∧
  decodeWord 0xD10C0801 = .ok (.stw ⟨.onFalse, 3, 2, .close⟩) ∧
  decodeWord 0x102FFFFE = .ok (.bro ⟨.always, 2⟩ 0xFFFFE) ∧
  decodeWord 0xE0040207 = .ok (.amo .add ⟨.always, 1, .cell, false, .w 7⟩) ∧
  decodeWord 0xE8084500 = .ok (.send ⟨.always, 2⟩ .next 5) ∧
  decodeWord 0xEC4040A1 = .ok (.tblock ⟨.always, 4⟩ 0xA1) ∧
  decodeWord 0xEE4023FF = .ok (.lpop ⟨.always, 2⟩ 0 false .none) ∧
  decodeWord 0xF8401025 = .ok (.settle ⟨.always, 1⟩ 5 .drop) ∧
  decodeWord 0xFC00002A = .ok (.trap ⟨.always, 0⟩ 42)

/-- A step that the machine takes with an instruction of a block runs the instruction that the word of the slot in focus decodes to:
it is `exec` of it at the state as the cycle finds it (R27, R36; the order of steps is the model's, notes/assumptions/2.md: inputs, and
cells that firmware is to mark, R446, come first). -/
def Obligations.StepRunsTheDecodedWord : Prop :=
  ∀ (s : State) (at_ : Focus) (i : Instr), s.inputs = [] → markDue s = none → choose s = some (at_, i) → isEvent i = false →
    step s = exec i (enter s at_) ∧
    ∃ f w, (ctxOf s at_.cell at_.ctx).frame = some f ∧ f.words[at_.slot]? = some w ∧ decodeWord w = .ok i ∧
      armed f at_.slot i = true

/-! ### Integer, dataflow and lane instructions -/

namespace Sys2Proof.Claim

open Sys2Proof Sys2Proof.Machine

/-- A word read signed or unsigned (R101). -/
def reading (x : Sgn) (a : Word) : Int := match x with | .sw => a.toInt | .uw => (a.toNat : Int)

/-- An integer held within two bounds. -/
def clamped (lo hi v : Int) : Word := BitVec.ofInt 32 (Max.max lo (Min.min hi v))

/-- R109 for two operands: each instruction with its targets and its f. -/
def arith2 : Instr → Option (GF × (Word → Word → Word))
  | .add g => some (g, fun a b => BitVec.ofNat 32 (a.toNat + b.toNat))
  | .sub g => some (g, fun a b => BitVec.ofInt 32 (a.toInt - b.toInt))
  | .mul g => some (g, fun a b => BitVec.ofNat 32 (a.toNat * b.toNat))
  | .mulh .sw g => some (g, fun a b => (a.signExtend 64 * b.signExtend 64).extractLsb' 32 32)
  | .mulh .uw g => some (g, fun a b => (a.setWidth 64 * b.setWidth 64).extractLsb' 32 32)
  | .and g => some (g, fun a b => a &&& b)
  | .or g => some (g, fun a b => a ||| b)
  | .xor g => some (g, fun a b => a ^^^ b)
  | .andn g => some (g, fun a b => a &&& ~~~b)
  | .min .sw g => some (g, fun a b => if a.slt b then a else b)
  | .min .uw g => some (g, fun a b => if a.ult b then a else b)
  | .max .sw g => some (g, fun a b => if a.slt b then b else a)
  | .max .uw g => some (g, fun a b => if a.ult b then b else a)
  | .lea .s0 g => some (g, fun a b => a + b)
  | .lea .s1 g => some (g, fun a b => a + (b <<< 1))
  | .lea .s2 g => some (g, fun a b => a + (b <<< 2))
  | .lea .s3 g => some (g, fun a b => a + (b <<< 3))
  | .lea .s4 g => some (g, fun a b => a + (b <<< 4))
  | .adds .sw g => some (g, fun a b => clamped (-(2 ^ 31)) (2 ^ 31 - 1) (a.toInt + b.toInt))
  | .adds .uw g => some (g, fun a b => clamped 0 (2 ^ 32 - 1) ((a.toNat : Int) + b.toNat))
  | .adds .dsw g => some (g, fun a b => clamped (-(2 ^ 31)) (2 ^ 31 - 1) (a.toInt - b.toInt))
  | .adds .duw g => some (g, fun a b => clamped 0 (2 ^ 32 - 1) ((a.toNat : Int) - b.toNat))
  | .absd x g => some (g, fun a b =>
      if reading x a < reading x b then BitVec.ofInt 32 (reading x b - reading x a) else BitVec.ofInt 32 (reading x a - reading x b))
  | _ => none

/-- R109 for three operands. -/
def arith3 : Instr → Option (GF × (Word → Word → Word → Word))
  | .add3 g => some (g, fun a b c => BitVec.ofNat 32 (a.toNat + b.toNat + c.toNat))
  | .mad g => some (g, fun a b c => BitVec.ofNat 32 (a.toNat * b.toNat + c.toNat))
  | _ => none

/-- R110, R111 and R113 for two operands: DIV and REM, the shifts and the rotate, and BFX. -/
def divShift2 : Instr → Option (GF × (Word → Word → Word))
  | .div .sw g => some (g, fun a b => if b = 0 then 0xFFFFFFFF else a.sdiv b)
  | .div .uw g => some (g, fun a b => if b = 0 then 0xFFFFFFFF else a.udiv b)
  | .rem .sw g => some (g, fun a b => if b = 0 then a else a.srem b)
  | .rem .uw g => some (g, fun a b => if b = 0 then a else a.umod b)
  | .shl g => some (g, fun a b => a <<< b.toNat)
  | .shr .uw g => some (g, fun a b => a >>> b.toNat)
  | .shr .sw g => some (g, fun a b => a.sshiftRight b.toNat)
  | .rot g => some (g, fun a b => a.rotateLeft (b.toNat % 32))
  | .bfx .uw g => some (g, fun a b => ((a >>> (b.extractLsb' 0 5).toNat).setWidth ((b.extractLsb' 8 5).toNat + 1)).setWidth 32)
  | .bfx .sw g => some (g, fun a b => ((a >>> (b.extractLsb' 0 5).toNat).setWidth ((b.extractLsb' 8 5).toNat + 1)).signExtend 32)
  | _ => none

/-- How many of the first places of a list of bits are zero. -/
def zeroRun (l : List Bool) : Nat := (l.takeWhile fun b => !b).length

/-- R112: BITC and EXT. -/
def bits1 : Instr → Option (GF × (Word → Word))
  | .bitc .pop g => some (g, fun a => BitVec.ofNat 32 ((List.range 32).filter fun k => a.getLsbD k).length)
  | .bitc .clz g => some (g, fun a => BitVec.ofNat 32 (zeroRun ((List.range 32).map fun k => a.getLsbD (31 - k))))
  | .bitc .ctz g => some (g, fun a => BitVec.ofNat 32 (zeroRun ((List.range 32).map fun k => a.getLsbD k)))
  | .ext .sb g => some (g, fun a => (a.setWidth 8).signExtend 32)
  | .ext .ub g => some (g, fun a => (a.setWidth 8).setWidth 32)
  | .ext .sh g => some (g, fun a => (a.setWidth 16).signExtend 32)
  | .ext .uh g => some (g, fun a => (a.setWidth 16).setWidth 32)
  | _ => none

/-- The bits that BFI replaces, by the field word in C (R113). -/
def fieldMask (c : Word) : Word :=
  (BitVec.allOnes ((c.extractLsb' 8 5).toNat + 1)).setWidth 32 <<< (c.extractLsb' 0 5).toNat

/-- BFI on one lane (R113). -/
def inserted (a b c : Word) : Word := (a &&& ~~~fieldMask c) ||| ((b <<< (c.extractLsb' 0 5).toNat) &&& fieldMask c)

/-- One where the condition holds, else zero (R114). -/
def truth (b : Bool) : Word := if b then 1 else 0

/-- R114 for two operands. -/
def tests2 : Instr → Option (GF × (Word → Word → Word))
  | .teq g => some (g, fun a b => truth (a == b))
  | .tne g => some (g, fun a b => truth (a != b))
  | .tlt .sw g => some (g, fun a b => truth (a.slt b))
  | .tlt .uw g => some (g, fun a b => truth (a.ult b))
  | .tle .sw g => some (g, fun a b => truth (a.sle b))
  | .tle .uw g => some (g, fun a b => truth (a.ule b))
  | .plog .and g => some (g, fun a b => truth (!(a == 0 || b == 0)))
  | .plog .or g => some (g, fun a b => truth (!(a == 0 && b == 0)))
  | .plog .xor g => some (g, fun a b => truth ((a == 0) != (b == 0)))
  | .plog .andn g => some (g, fun a b => truth (a != 0 && b == 0))
  | .plog .nand g => some (g, fun a b => truth (a == 0 || b == 0))
  | .plog .nor g => some (g, fun a b => truth (a == 0 && b == 0))
  | .plog .xnor g => some (g, fun a b => truth ((a == 0) == (b == 0)))
  | .plog .orn g => some (g, fun a b => truth (a != 0 || b == 0))
  | _ => none

/-- R114 for one operand. -/
def tests1 : Instr → Option (GF × (Word → Word))
  | .pred .nz g => some (g, fun a => truth (a != 0))
  | .pred .z g => some (g, fun a => truth (a == 0))
  | .pred .neg g => some (g, fun a => truth (a.getLsbD 31))
  | _ => none

/-- Whether lane `l` is live (R115, R157): it matches and A is present there. -/
def live (i : Instr) (o : Slot) (l : Nat) : Bool := matched i o l && (laneA o l).isSome

/-- The words of the live lanes, in lane order. -/
def liveWords (i : Instr) (o : Slot) : List Word := laneNums.filterMap fun l => if matched i o l then laneA o l else none

/-- UNI's result over the live words (R115). -/
def unified (x : UniF) (ws : List Word) : Option Word :=
  if ws = [] then none
  else some (truth (match x with
    | .all => ws.all fun w => w != 0
    | .any => ws.any fun w => w != 0
    | .eq => ws.all fun w => ws.all fun v => v == w))

/-- R116: each immediate instruction with its target and its f, over lane A and the lane's number. -/
def immed : Instr → Option (Target × (Word → Nat → Word))
  | .addi i => some (i.t0, fun a _ => a + i.imm.signExtend 32)
  | .muli i => some (i.t0, fun a _ => a * i.imm.signExtend 32)
  | .andi i => some (i.t0, fun a _ => a &&& i.imm.signExtend 32)
  | .ori i => some (i.t0, fun a _ => a ||| i.imm.signExtend 32)
  | .xori i => some (i.t0, fun a _ => a ^^^ i.imm.signExtend 32)
  | .shli i => some (i.t0, fun a _ => a <<< i.imm.toNat)
  | .shri i => some (i.t0, fun a _ => a >>> i.imm.toNat)
  | .sari i => some (i.t0, fun a _ => a.sshiftRight i.imm.toNat)
  | .teqi i => some (i.t0, fun a _ => truth (a == i.imm.signExtend 32))
  | .tnei i => some (i.t0, fun a _ => truth (a != i.imm.signExtend 32))
  | .tlti i => some (i.t0, fun a _ => truth (a.slt (i.imm.signExtend 32)))
  | .tltui i => some (i.t0, fun a _ => truth (a.ult (i.imm.signExtend 32)))
  | .tgei i => some (i.t0, fun a _ => truth (!a.slt (i.imm.signExtend 32)))
  | .tgeui i => some (i.t0, fun a _ => truth (!a.ult (i.imm.signExtend 32)))
  | .addln i => some (i.t0, fun a l => a + i.imm.signExtend 32 * BitVec.ofNat 32 l)
  | _ => none

/-- The dataflow instructions with their targets and lanes (R104 to R108), over the context's argument buffer and the frame's
literals. -/
def dataflow (v : Context) (f : Frame) (o : Slot) : Instr → Option (List Target × (Nat → Option Word))
  | .mov g => some ([g.t0, g.t1], fun l => laneA o l)
  | .nult .present g => some ([g.t0, g.t1], fun l => some (truth (laneA o l).isSome))
  | .nult .null g => some ([g.t0, g.t1], fun l => some (truth (laneA o l).isNone))
  | .sel g => some ([g.t0, g.t1], fun l =>
      match laneC o l with
      | none => none
      | some c => if c = 0 then laneB o l else laneA o l)
  | .lit i => some ([i.t0], fun _ => some (f.lits.getD i.imm.toNat 0))
  | .imm i => some ([i.t0], fun _ => some (i.imm.signExtend 32))
  | .lane .idx g => some ([g.t0, g.t1], fun l => some (BitVec.ofNat 32 l))
  | .lane .bit g => some ([g.t0, g.t1], fun l => some (1 <<< l))
  | .arg x g => some ([g.t0, g.t1], fun l => if v.argn ≤ x.toNat then none else (v.args.getD x.toNat Val.allNull).get l)
  | _ => none

/-- The place among the live lanes that lane `l` would take (R158). -/
def rank (p : Nat → Bool) (l : Nat) : Nat := ((List.range l).filter p).length

/-- R156 and R158: the permutations, LCMP and LXPD, by the lane of A that each result lane reads. -/
def laneMove (i : Instr) (o : Slot) : Option (GF × (Nat → Option Word)) :=
  match i with
  | .lperm g => some (g, fun l => match laneB o l with | some b => laneA o (b.toNat % 8) | none => none)
  | .lbc x g => some (g, fun _ => laneA o x.toNat)
  | .lshf x g => some (g, fun l => if l < x.toNat then none else laneA o (l - x.toNat))
  | .lrot x g => some (g, fun l => laneA o ((l + 8 - x.toNat) % 8))
  | _ => none

/-- LCMP's lanes (R158): the k-th live lane of A goes to lane k. -/
def compacted (i : Instr) (o : Slot) : Val := Lanes.ofFn fun k => (liveWords i o)[k]?

/-- Whether lane `l` takes in LXPD (R158). -/
def takesLane (i : Instr) (o : Slot) (l : Nat) : Bool :=
  matched i o l && (match laneB o l with | some b => b != 0 | none => false)

/-- LXPD's lanes (R158): the k-th lane that takes receives lane k of A with its null bit. -/
def expanded (i : Instr) (o : Slot) : Val :=
  Lanes.ofFn fun l => if takesLane i o l then laneA o (rank (takesLane i o) l) else none

/-- The integer fold operations of LSCAN and LRED (R157). -/
def foldWord : FoldF → Option (Word → Word → Word)
  | .add => some fun p q => p + q
  | .max => some fun p q => if p.slt q then q else p
  | .min => some fun p q => if p.slt q then p else q
  | .or => some fun p q => p ||| q
  | .and => some fun p q => p &&& q
  | _ => none

/-- A fold in increasing order; none of no words (R157). -/
def foldWords (op : Word → Word → Word) : List Word → Option Word
  | [] => none
  | w :: ws => some (ws.foldl op w)

/-- The live words of the lanes up to and with lane `l`. -/
def liveUpTo (i : Instr) (o : Slot) (l : Nat) : List Word :=
  (List.range (l + 1)).filterMap fun k => if matched i o k then laneA o k else none

end Sys2Proof.Claim

/-- ADD, SUB, MUL, MULH, AND, OR, XOR, ANDN, MIN, MAX, LEA, ADDS, ABSD, ADD3 and MAD give the values of R109's table, lane by lane under
R102, and leave everything else as it was. -/
def Obligations.ArithmeticAndLogicResults : Prop :=
  (∀ (i : Instr) (g : GF) (fn : Word → Word → Word), arith2 i = some (g, fn) →
    ∀ s f, Ready s f i → Yields i s f [g.t0, g.t1] (lanes2 i (opnd s f) fn) 0) ∧
  (∀ (i : Instr) (g : GF) (fn : Word → Word → Word → Word), arith3 i = some (g, fn) →
    ∀ s f, Ready s f i → Yields i s f [g.t0, g.t1] (lanes3 i (opnd s f) fn) 0)

/-- DIV and REM with their corners (R110), SHL, SHR and ROT for every count (R111), BITC and EXT (R112), BFX and BFI (R113). -/
def Obligations.DivideShiftAndFieldResults : Prop :=
  (∀ (i : Instr) (g : GF) (fn : Word → Word → Word), divShift2 i = some (g, fn) →
    ∀ s f, Ready s f i → Yields i s f [g.t0, g.t1] (lanes2 i (opnd s f) fn) 0) ∧
  (∀ (i : Instr) (g : GF) (fn : Word → Word), bits1 i = some (g, fn) →
    ∀ s f, Ready s f i → Yields i s f [g.t0, g.t1] (lanes1 i (opnd s f) fn) 0) ∧
  (∀ g s f, Ready s f (.bfi g) → Yields (.bfi g) s f [g.t0, g.t1] (lanes3 (.bfi g) (opnd s f) inserted) 0)

/-- TEQ, TNE, TLT, TLE, PLOG and PRED give 1 or 0 by R114; UNI gives one result of its live lanes to every matching lane (R115). -/
def Obligations.TestAndPredicateResults : Prop :=
  (∀ (i : Instr) (g : GF) (fn : Word → Word → Word), tests2 i = some (g, fn) →
    ∀ s f, Ready s f i → Yields i s f [g.t0, g.t1] (lanes2 i (opnd s f) fn) 0) ∧
  (∀ (i : Instr) (g : GF) (fn : Word → Word), tests1 i = some (g, fn) →
    ∀ s f, Ready s f i → Yields i s f [g.t0, g.t1] (lanes1 i (opnd s f) fn) 0) ∧
  (∀ x g s f, Ready s f (.uni x g) →
    Yields (.uni x g) s f [g.t0, g.t1] (lanesOf (.uni x g) (opnd s f) fun _ => unified x (liveWords (.uni x g) (opnd s f))) 0)

/-- The fifteen immediate instructions give the values of R116's table. -/
def Obligations.ImmediateResults : Prop :=
  ∀ (i : Instr) (t : Target) (fn : Word → Nat → Word), immed i = some (t, fn) →
    ∀ s f, Ready s f i →
      Yields i s f [t] (lanesOf i (opnd s f) fun l => match laneA (opnd s f) l with | some a => some (fn a l) | none => none) 0

/-- MOV, NULT, SEL, LIT, IMM, LANE and ARG give the lanes of R104 to R108; NULT and SEL have null rules of their own, and ARG reads a
port at or above ARGN as null. -/
def Obligations.DataflowResults : Prop :=
  ∀ (i : Instr) s f (ts : List Target) (r : Nat → Option Word), Ready s f i →
    dataflow (here s) f (opnd s f) i = some (ts, r) → Yields i s f ts (lanesOf i (opnd s f) r) 0

/-- LPERM, LBC, LSHF and LROT read the lanes of R156; LCMP compacts and LXPD expands (R158); LSCAN and LRED fold the live lanes in lane
order with the integer operations of R157. -/
def Obligations.LaneInstructionResults : Prop :=
  (∀ (i : Instr) s f (g : GF) (r : Nat → Option Word), Ready s f i → laneMove i (opnd s f) = some (g, r) →
    Yields i s f [g.t0, g.t1] (lanesOf i (opnd s f) r) 0) ∧
  (∀ g s f, Ready s f (.lcmp g) → Yields (.lcmp g) s f [g.t0, g.t1] (compacted (.lcmp g) (opnd s f)) 0) ∧
  (∀ g s f, Ready s f (.lxpd g) → Yields (.lxpd g) s f [g.t0, g.t1] (expanded (.lxpd g) (opnd s f)) 0) ∧
  (∀ x g op s f, foldWord x = some op → Ready s f (.lscan x g) →
    Yields (.lscan x g) s f [g.t0, g.t1]
      (Lanes.ofFn fun l => if live (.lscan x g) (opnd s f) l then foldWords op (liveUpTo (.lscan x g) (opnd s f) l) else none) 0) ∧
  (∀ x g op s f, foldWord x = some op → Ready s f (.lred x g) →
    Yields (.lred x g) s f [g.t0, g.t1]
      (lanesOf (.lred x g) (opnd s f) fun _ => foldWords op (liveWords (.lred x g) (opnd s f))) 0)

/-! ### Floating point -/

namespace Sys2Proof.Claim

open Sys2Proof Sys2Proof.Machine

/-- The rounding direction of the block's FMODE (R49). -/
abbrev dirOf (f : Frame) : Rm := rmOf f.fmode

/-- The words of lanes that raise flags (R141). -/
def fpVal (i : Instr) (o : Slot) (r : Nat → Option (Word × Word)) : Val := lanesOf i o fun l => (r l).map fun p => p.1

/-- The union of the flags of the lanes where a result is computed (R50, R141). -/
def fpFlags (i : Instr) (o : Slot) (r : Nat → Option (Word × Word)) : Word :=
  (laneNums.filterMap fun l => if matched i o l then (r l).map fun p => p.2 else none).foldl (fun x y => x ||| y) 0

/-- The instructions over A alone that raise flags, with the function of one lane (R143, R148 to R153). -/
def fp1 (rm : Rm) : Instr → Option (GF × (Word → Word × Word))
  | .fsqrt g => some (g, fpSqrt rm)
  | .fapx x g => some (g, fpApprox x)
  | .cvtfi x g => some (g, cvtFI rm x)
  | .cvtif x g => some (g, cvtIF rm x)
  | .frnd x g => some (g, fRnd rm x)
  | .fxtr x g => some (g, fXtr x)
  | .narr x g => some (g, narrow rm x)
  | .spl3 x g => some (g, spl3 rm x)
  | _ => none

/-- The instructions over A and B that raise flags (R143, R144, R146). -/
def fp2 (rm : Rm) : Instr → Option (GF × (Word → Word → Word × Word))
  | .fadd g => some (g, fpAdd rm)
  | .fsub g => some (g, fun a b => fpAdd rm a (flipSign b))
  | .fmul g => some (g, fpMul rm)
  | .fdiv g => some (g, fpDiv rm)
  | .fscl g => some (g, fScl rm)
  | .fmin .num g => some (g, fpMinMax false false)
  | .fmin .nan g => some (g, fpMinMax false true)
  | .fmax .num g => some (g, fpMinMax true false)
  | .fmax .nan g => some (g, fpMinMax true true)
  | .fcmp x g => some (g, fCmp x)
  | _ => none

/-- The instructions over A, B and C that raise flags (R143, R145). -/
def fp3 (rm : Rm) : Instr → Option (GF × (Word → Word → Word → Word × Word))
  | .fma g => some (g, fpFused rm false false)
  | .fms g => some (g, fpFused rm false true)
  | .fnma g => some (g, fpFused rm true false)
  | .flrp g => some (g, fLrp rm)
  | _ => none

/-- FSGN on one lane (R147): bits [30:0] of A under the sign that the form gives. -/
def signed2 : FsgnF → Option (Word → Word → Word)
  | .cpy => some fun a b => (a &&& 0x7FFFFFFF) ||| (b &&& 0x80000000)
  | .ncpy => some fun a b => (a &&& 0x7FFFFFFF) ||| (~~~b &&& 0x80000000)
  | .xor => some fun a b => a ^^^ (b &&& 0x80000000)
  | _ => none

/-- FSGN's forms over A alone (R147). -/
def signed1 : FsgnF → Option (Word → Word)
  | .abs => some fun a => a &&& 0x7FFFFFFF
  | .neg => some fun a => a ^^^ 0x80000000
  | _ => none

/-- A fold in increasing lane order with flags (R157): the accumulator and the union of the flags. -/
def foldFlags (op : Word → Word → Word × Word) : List Word → Option Word × Word
  | [] => (none, 0)
  | w :: ws => ws.foldl (fun a v => match a.1 with | some p => (some (op p v).1, a.2 ||| (op p v).2) | none => (some v, a.2)) (some w, 0)

/-- The floating-point fold operations of LSCAN and LRED (R157). -/
def foldFp (rm : Rm) : FoldF → Option (Word → Word → Word × Word)
  | .fadd => some (fpAdd rm)
  | .fmax => some (fpMinMax true false)
  | .fmin => some (fpMinMax false false)
  | _ => none

/-- The number that a finite binary32 word stands for (R47, R52). -/
def number (w : Word) : Rat :=
  let e := (w.extractLsb' 23 8).toNat
  let frac := (w.extractLsb' 0 23).toNat
  let m : Nat := if e = 0 then frac else 2 ^ 23 + frac
  let scale : Rat := if 150 ≤ e then ((2 ^ (e - 150) : Nat) : Rat) else 1 / ((2 ^ (150 - Max.max e 1) : Nat) : Rat)
  if w.getLsbD 31 then -((m : Rat) * scale) else (m : Rat) * scale

/-- Whether a binary32 word is finite. -/
def isNumber (w : Word) : Bool := w.extractLsb' 23 8 != 255

/-- The magnitude of a rational. -/
def mag (q : Rat) : Rat := if q < 0 then -q else q

/-- The number 2 to the power `k`. -/
def power (k : Int) : Rat := if 0 ≤ k then ((2 ^ k.toNat : Nat) : Rat) else 1 / ((2 ^ (-k).toNat : Nat) : Rat)

/-- The numbers of `p` significant bits, whose least place is 2 to the power `lsb` where the format has one (R52). -/
def OfPrecision (p : Nat) (lsb : Option Int) (x : Rat) : Prop :=
  ∃ (m k : Int), m.natAbs < 2 ^ p ∧ (∀ l, lsb = some l → l ≤ k) ∧ x = (m : Rat) * power k

/-- The integers. -/
def Integral (x : Rat) : Prop := ∃ m : Int, x = (m : Rat)

/-- `x` is `q` rounded in direction `rm` among the numbers `G` (R47, R49): the nearest, and of two as near the even one, which is a multiple of
twice their distance; the greatest magnitude toward zero; the least above; the greatest below. -/
def RoundsIn (G : Rat → Prop) (rm : Rm) (q x : Rat) : Prop :=
  G x ∧
  match rm with
  | .near =>
    (∀ v, G v → mag (x - q) ≤ mag (v - q)) ∧
    (∀ v, G v → mag (v - q) = mag (x - q) → v ≠ x → ∃ n : Int, x = (n : Rat) * (2 * mag (v - x)))
  | .zero => mag x ≤ mag q ∧ 0 ≤ x * q ∧ ∀ v, G v → mag v ≤ mag q → 0 ≤ v * q → mag v ≤ mag x
  | .up => q ≤ x ∧ ∀ v, G v → q ≤ v → x ≤ v
  | .down => x ≤ q ∧ ∀ v, G v → v ≤ q → v ≤ x

/-- The word that stands for a result beyond the largest finite number, by the direction (R47); `top` is that number's word. -/
def beyond (rm : Rm) (q : Rat) (top : Word) : Word :=
  match rm, decide (q < 0) with
  | .near, false => 0x7F800000
  | .near, true => 0xFF800000
  | .zero, false => top
  | .zero, true => top ||| 0x80000000
  | .up, false => 0x7F800000
  | .up, true => top ||| 0x80000000
  | .down, false => top
  | .down, true => 0xFF800000

/-- A word with its flags is `q` rounded once into the format of `p` bits, least place 2 to the power `lsb`, least normal exponent `emin` and
largest number `top` (R47, R49): `x` is the rounding, `y` the one with no least place, by which tininess is judged. Without overflow NX is
raised exactly where the result is inexact and UF exactly where it is also tiny, and no other flag; with overflow the pair is `past`. -/
def RoundedInto (p : Nat) (lsb emin : Int) (top : Word) (past : Word × Word) (rm : Rm) (q : Rat) (r : Word × Word) : Prop :=
  ∃ x y, RoundsIn (OfPrecision p (some lsb)) rm q x ∧ RoundsIn (OfPrecision p none) rm q y ∧
    if mag x ≤ number top then
      isNumber r.1 = true ∧ number r.1 = x ∧ r.1.getLsbD 31 = decide (q < 0) ∧
      r.2 = (if x = q then 0 else if mag y < power emin then 3 else 1)
    else r = past

/-- A result with its flags is the exact value `q`, rounded once to binary32 (R47). -/
def RoundedOnce (rm : Rm) (q : Rat) (r : Word × Word) : Prop :=
  RoundedInto 24 (-149) (-126) 0x7F7FFFFF (beyond rm q 0x7F7FFFFF, 5) rm q r

/-- A result with its flags is the exact value `q`, rounded once to BF16 (R52, R151, R152). -/
def RoundedBf16 (rm : Rm) (q : Rat) (r : Word × Word) : Prop :=
  RoundedInto 8 (-133) (-126) 0x7F7F0000 (beyond rm q 0x7F7F0000, 5) rm q r

/-- A result with its flags is what NARR gives for the finite number `q` (R52, R151). -/
def Narrowed (rm : Rm) (x : NarrF) (q : Rat) (r : Word × Word) : Prop :=
  match x with
  | .b16 => RoundedInto 11 (-24) (-14) 0x477FE000 (beyond rm q 0x477FE000, 5) rm q r
  | .bf16 => RoundedBf16 rm q r
  | .e4m3 => RoundedInto 4 (-9) (-6) 0x43E00000 (if q < 0 then 0xC3E00000 else 0x43E00000, 1) rm q r
  | .e5m2 => RoundedInto 3 (-16) (-14) 0x47600000 (if q < 0 then 0xC7600000 else 0x47600000, 1) rm q r

/-- The finite word `w` of a nonnegative number is the root of `q` rounded in direction `rm`; roots are compared by their squares (R47,
R143). -/
def RootOf (rm : Rm) (q : Rat) (w : Word) : Prop :=
  isNumber w = true ∧ 0 ≤ number w ∧
  match rm with
  | .near => ∀ v, isNumber v = true → 0 ≤ number v →
      let mid := (number v + number w) / 2
      (number v < number w → mid * mid ≤ q) ∧ (number w < number v → q ≤ mid * mid)
  | .up => q ≤ number w * number w ∧ ∀ v, isNumber v = true → 0 ≤ number v → q ≤ number v * number v → number w ≤ number v
  | _ => number w * number w ≤ q ∧ ∀ v, isNumber v = true → 0 ≤ number v → number v * number v ≤ q → number v ≤ number w

/-- Whether a word is a NaN: exponent 255, fraction nonzero (R48). -/
def nanWord (w : Word) : Bool := w.extractLsb' 23 8 == 255 && w.extractLsb' 0 23 != 0

/-- Whether a word is a signalling NaN: a NaN with bit [22] clear (R48). -/
def signallingNan (w : Word) : Bool := nanWord w && !w.getLsbD 22

/-- NV where an operand is a signalling NaN (R48). -/
def invalidOf (ws : List Word) : Word := if ws.any signallingNan then 16 else 0

/-- The canonical NaN for a NaN, else the word (R48). -/
def canonical (w : Word) : Word := if nanWord w then 0x7FC00000 else w

/-- combine of R155: either side may be absent; with both, the operation and its flags. -/
def combine {α : Type} (op : α → α → α × Word) (p q : Option α × Word) : Option α × Word :=
  match p.1, q.1 with
  | none, _ => (q.1, p.2 ||| q.2)
  | _, none => (p.1, p.2 ||| q.2)
  | some a, some b => (some (op a b).1, p.2 ||| q.2 ||| (op a b).2)

/-- The fixed tree of R155 over eight lanes. -/
def treeOf {α : Type} (op : α → α → α × Word) (x : Nat → Option α × Word) : Option α × Word :=
  combine op (combine op (combine op (x 0) (x 1)) (combine op (x 2) (x 3))) (combine op (combine op (x 4) (x 5)) (combine op (x 6) (x 7)))

/-- FRED's operation over two words (R155). -/
def fredOp (rm : Rm) : FredF → Word → Word → Word × Word
  | .add => fpAdd rm
  | .max => fpMinMax true false
  | .min => fpMinMax false false

/-- A live lane of FRED with the NV of a signalling operand (R48, R155). -/
def fredLeaf (i : Instr) (o : Slot) (l : Nat) : Option Word × Word :=
  if live i o l then (laneA o l, invalidOf ((laneA o l).toList)) else (none, 0)

/-- A live lane of FDOT: the exact product with the flags of that product (R48, R155). -/
def fdotLeaf (i : Instr) (o : Slot) (l : Nat) : Option El × Word :=
  match matched i o l, laneA o l, laneB o l with
  | true, some a, some b => (some (elMul (fpDec a) (fpDec b)).1, invalidOf [a, b] ||| (elMul (fpDec a) (fpDec b)).2)
  | _, _, _ => (none, 0)

/-- FDOT's operation: an exact sum, rounded once (R155). -/
def fdotOp (rm : Rm) (p q : El) : El × Word :=
  (fpDec (roundB32 rm (elAdd rm p q).1).1, (elAdd rm p q).2 ||| (roundB32 rm (elAdd rm p q).1).2)

/-- Whether a word is an infinity. -/
def isInfinity (w : Word) : Bool := w == 0x7F800000 || w == 0xFF800000

end Sys2Proof.Claim

/-- Every floating-point instruction over lanes completes with the word of its lane function in each matching lane whose operands are
present, raises the union of those lanes' flags and no other, and changes nothing else (R141; the functions are those of R143 to R153). -/
def Sys2Proof.Claim.FloatLanesCompleteWithFlags : Prop :=
  (∀ (i : Instr) s f g fn, fp1 (dirOf f) i = some (g, fn) → Ready s f i →
    let r := fun l => match laneA (opnd s f) l with | some a => some (fn a) | none => none
    Yields i s f [g.t0, g.t1] (fpVal i (opnd s f) r) (fpFlags i (opnd s f) r)) ∧
  (∀ (i : Instr) s f g fn, fp2 (dirOf f) i = some (g, fn) → Ready s f i →
    let r := fun l => match laneA (opnd s f) l, laneB (opnd s f) l with | some a, some b => some (fn a b) | _, _ => none
    Yields i s f [g.t0, g.t1] (fpVal i (opnd s f) r) (fpFlags i (opnd s f) r)) ∧
  (∀ (i : Instr) s f g fn, fp3 (dirOf f) i = some (g, fn) → Ready s f i →
    let r := fun l => match laneA (opnd s f) l, laneB (opnd s f) l, laneC (opnd s f) l with
      | some a, some b, some c => some (fn a b c)
      | _, _, _ => none
    Yields i s f [g.t0, g.t1] (fpVal i (opnd s f) r) (fpFlags i (opnd s f) r))

/-- FSGN acts on bit [31] alone and raises no flag (R147): A's other bits, NaN payloads among them, pass unchanged. -/
def Sys2Proof.Claim.SignInstructionResults : Prop :=
  (∀ x g fn s f, signed2 x = some fn → Ready s f (.fsgn x g) →
    Yields (.fsgn x g) s f [g.t0, g.t1] (lanes2 (.fsgn x g) (opnd s f) fn) 0) ∧
  (∀ x g fn s f, signed1 x = some fn → Ready s f (.fsgn x g) →
    Yields (.fsgn x g) s f [g.t0, g.t1] (lanes1 (.fsgn x g) (opnd s f) fn) 0)

/-- FRED and FDOT complete, whatever their lanes hold, with the result of R155's fixed tree in every matching lane, null where no lane is
live; FDOT rounds the exact sum of two products once (R155). LSCAN and LRED complete with the floating-point folds of the live lanes in lane
order, with their flags (R157). -/
def Obligations.ReductionsComplete : Prop :=
  (∀ x g s f, Ready s f (.fred x g) →
    let r := treeOf (fredOp (dirOf f) x) (fredLeaf (.fred x g) (opnd s f))
    Yields (.fred x g) s f [g.t0, g.t1] (lanesOf (.fred x g) (opnd s f) fun _ => r.1.map canonical) r.2) ∧
  (∀ g s f, Ready s f (.fdot g) →
    let r := treeOf (fdotOp (dirOf f)) (fdotLeaf (.fdot g) (opnd s f))
    let w := r.1.map (roundB32 (dirOf f))
    Yields (.fdot g) s f [g.t0, g.t1] (lanesOf (.fdot g) (opnd s f) fun _ => w.map fun p => p.1)
      (r.2 ||| (match w with | some p => p.2 | none => 0))) ∧
  (∀ g s f a0 b0 a1 b1, Ready s f (.fdot g) →
    (∀ l, l < 8 → live (.fdot g) (opnd s f) l = decide (l < 2)) →
    laneA (opnd s f) 0 = some a0 → laneB (opnd s f) 0 = some b0 → laneA (opnd s f) 1 = some a1 → laneB (opnd s f) 1 = some b1 →
    isNumber a0 = true → isNumber b0 = true → isNumber a1 = true → isNumber b1 = true →
    number a0 * number b0 + number a1 * number b1 ≠ 0 →
    ∃ r, RoundedOnce (dirOf f) (number a0 * number b0 + number a1 * number b1) r ∧
      Yields (.fdot g) s f [g.t0, g.t1] (lanesOf (.fdot g) (opnd s f) fun _ => some r.1) r.2) ∧
  (∀ x g s f, Ready s f (.fred x g) → (∀ l, l < 8 → live (.fred x g) (opnd s f) l = false) →
    Yields (.fred x g) s f [g.t0, g.t1] Val.allNull 0) ∧
  (∀ x g s f l a, Ready s f (.fred x g) → l < 8 → matched (.fred x g) (opnd s f) l = true → laneA (opnd s f) l = some a →
    isNumber a = true → (∀ k, k < 8 → k ≠ l → live (.fred x g) (opnd s f) k = false) →
    Yields (.fred x g) s f [g.t0, g.t1] (lanesOf (.fred x g) (opnd s f) fun _ => some a) 0) ∧
  (∀ g s f a0 a1 a4, Ready s f (.fred .add g) →
    (∀ l, l < 8 → live (.fred .add g) (opnd s f) l = (l == 0 || l == 1 || l == 4)) →
    laneA (opnd s f) 0 = some a0 → laneA (opnd s f) 1 = some a1 → laneA (opnd s f) 4 = some a4 →
    isNumber a0 = true → isNumber a1 = true → isNumber a4 = true →
    let p := fpAdd (dirOf f) a0 a1
    let q := fpAdd (dirOf f) p.1 a4
    Yields (.fred .add g) s f [g.t0, g.t1] (lanesOf (.fred .add g) (opnd s f) fun _ => some q.1) (p.2 ||| q.2)) ∧
  (∀ g s f, Ready s f (.fdot g) → (∀ l, l < 8 → live (.fdot g) (opnd s f) l = false ∨ laneB (opnd s f) l = none) →
    Yields (.fdot g) s f [g.t0, g.t1] Val.allNull 0) ∧
  (∀ g s f l a b, Ready s f (.fdot g) → l < 8 → matched (.fdot g) (opnd s f) l = true → laneA (opnd s f) l = some a →
    laneB (opnd s f) l = some b → isNumber a = true → isNumber b = true →
    (∀ k, k < 8 → k ≠ l → live (.fdot g) (opnd s f) k = false ∨ laneB (opnd s f) k = none) →
    Yields (.fdot g) s f [g.t0, g.t1] (lanesOf (.fdot g) (opnd s f) fun _ => some (fpMul (dirOf f) a b).1) (fpMul (dirOf f) a b).2) ∧
  (∀ x g op s f, foldFp (dirOf f) x = some op → Ready s f (.lscan x g) →
    Yields (.lscan x g) s f [g.t0, g.t1]
      (Lanes.ofFn fun l => if live (.lscan x g) (opnd s f) l then (foldFlags op (liveUpTo (.lscan x g) (opnd s f) l)).1 else none)
      (foldFlags op (liveWords (.lscan x g) (opnd s f))).2) ∧
  (∀ x g op s f, foldFp (dirOf f) x = some op → Ready s f (.lred x g) →
    Yields (.lred x g) s f [g.t0, g.t1]
      (lanesOf (.lred x g) (opnd s f) fun _ => (foldFlags op (liveWords (.lred x g) (opnd s f))).1)
      (foldFlags op (liveWords (.lred x g) (opnd s f))).2)

/-- FADD, FSUB, FMUL, the fused forms and FSCL of finite operands are their exact value, rounded once by FMODE.RM with the flags of that one
rounding (R47, R49, R143, R145); exact zero sums have their own rule. -/
def Sys2Proof.Claim.SumsAndProductsRoundOnce : Prop :=
  ∀ (rm : Rm) (a b c : Word), isNumber a = true → isNumber b = true → isNumber c = true →
    (number a + number b ≠ 0 → RoundedOnce rm (number a + number b) (fpAdd rm a b)) ∧
    (number a - number b ≠ 0 → RoundedOnce rm (number a - number b) (fpAdd rm a (flipSign b))) ∧
    (number a * number b ≠ 0 → RoundedOnce rm (number a * number b) (fpMul rm a b)) ∧
    (number a * number b + number c ≠ 0 → RoundedOnce rm (number a * number b + number c) (fpFused rm false false a b c)) ∧
    (number a * number b - number c ≠ 0 → RoundedOnce rm (number a * number b - number c) (fpFused rm false true a b c)) ∧
    (number c - number a * number b ≠ 0 → RoundedOnce rm (number c - number a * number b) (fpFused rm true false a b c)) ∧
    (number a + number b = 0 → number a ≠ 0 → fpAdd rm a b = (if rm = .down then 0x80000000 else 0, 0)) ∧
    (∀ n : Word, number a ≠ 0 → 0 ≤ n.toInt → n.toInt ≤ 511 → RoundedOnce rm (number a * ((2 ^ n.toNat : Nat) : Rat)) (fScl rm a n)) ∧
    (∀ n : Word, number a ≠ 0 → n.toInt < 0 → -512 ≤ n.toInt →
      RoundedOnce rm (number a / ((2 ^ n.toInt.natAbs : Nat) : Rat)) (fScl rm a n)) ∧
    (∀ n : Word, 511 < n.toInt → fScl rm a n = fScl rm a 511) ∧
    (∀ n : Word, n.toInt < -512 → fScl rm a n = fScl rm a (BitVec.ofInt 32 (-512)))

/-- FDIV, FSQRT, FLRP (two roundings and the union of their flags), and FAPX's reciprocal and reciprocal root of finite operands are the exact
value rounded once; the exact and the special cases of FAPX's other functions (R47, R143, R153). -/
def Sys2Proof.Claim.QuotientsRootsAndBlendsRoundOnce : Prop :=
  (∀ (rm : Rm) (a b : Word), isNumber a = true → isNumber b = true → number b ≠ 0 →
    (number a ≠ 0 → RoundedOnce rm (number a / number b) (fpDiv rm a b)) ∧
    (number a = 0 → fpDiv rm a b = ((a ^^^ b) &&& 0x80000000, 0))) ∧
  (∀ (rm : Rm) (a : Word), isNumber a = true → 0 < number a →
    ∃ w, RootOf rm (number a) w ∧ fpSqrt rm a = (w, if number w * number w = number a then 0 else 1)) ∧
  (∀ (rm : Rm) (a b c : Word), isNumber a = true → isNumber b = true → isNumber c = true → number b - number a ≠ 0 →
    ∃ d, RoundedOnce rm (number b - number a) d ∧
      (isNumber d.1 = true → number c * number d.1 + number a ≠ 0 →
        ∃ r, RoundedOnce rm (number c * number d.1 + number a) r ∧ fLrp rm a b c = (r.1, d.2 ||| r.2))) ∧
  (∀ (rm : Rm) (a b c : Word), isNumber a = true → isNumber b = true → isNumber c = true → number b = number a → number a ≠ 0 →
    fLrp rm a b c = (a, 0)) ∧
  (∀ a, isNumber a = true → number a ≠ 0 → RoundedOnce .near (1 / number a) (fpApprox .rcp a)) ∧
  (∀ a, isNumber a = true → 0 < number a →
    ∃ w, RootOf .near (1 / number a) w ∧ fpApprox .rsq a = (w, if number w * number w * number a = 1 then 0 else 1)) ∧
  (∀ a (n : Int), isNumber a = true → number a = (n : Rat) →
    (-149 ≤ n → n ≤ 127 → ∃ w, isNumber w = true ∧ number w = power n ∧ fpApprox .exp2 a = (w, 0)) ∧
    (128 ≤ n → fpApprox .exp2 a = (0x7F800000, 5)) ∧ (n ≤ -150 → fpApprox .exp2 a = (0, 3)) ∧
    (n ≠ 0 → fpApprox .sin a = (0, 0)) ∧ fpApprox .cos a = (if n % 2 = 0 then 0x3F800000 else 0xBF800000, 0)) ∧
  (∀ a, isNumber a = true → 128 ≤ number a → fpApprox .exp2 a = (0x7F800000, 5)) ∧
  (∀ a, isNumber a = true → number a ≤ -150 → fpApprox .exp2 a = (0, 3)) ∧
  (∀ a (n : Int), isNumber a = true → number a = power n →
    ∃ w, isNumber w = true ∧ number w = (n : Rat) ∧ fpApprox .log2 a = (w, 0)) ∧
  (∀ a (n : Int), isNumber a = true → number a = (n : Rat) + 1 / 2 →
    fpApprox .cos a = (0, 0) ∧ fpApprox .sin a = (if n % 2 = 0 then 0x3F800000 else 0xBF800000, 0)) ∧
  (∀ a, isNumber a = true → number a < 0 → fpApprox .rsq a = (0x7FC00000, 16) ∧ fpApprox .log2 a = (0x7FC00000, 16)) ∧
  (∀ (x : FapxF) (z : Word), z = 0 ∨ z = 0x80000000 →
    fpApprox x z = match x with
      | .rcp => (z ||| 0x7F800000, 8)
      | .rsq => (z ||| 0x7F800000, 8)
      | .exp2 => (0x3F800000, 0)
      | .log2 => (0xFF800000, 8)
      | .sin => (z, 0)
      | .cos => (0x3F800000, 0)) ∧
  (∀ (x : FapxF), fpApprox x 0x7F800000 = (match x with
      | .rcp => (0, 0) | .rsq => (0, 0) | .exp2 => (0x7F800000, 0) | .log2 => (0x7F800000, 0) | .sin => (0x7FC00000, 16) | .cos => (0x7FC00000, 16)) ∧
    fpApprox x 0xFF800000 = (match x with
      | .rcp => (0x80000000, 0) | .rsq => (0x7FC00000, 16) | .exp2 => (0, 0) | .log2 => (0x7FC00000, 16) | .sin => (0x7FC00000, 16)
      | .cos => (0x7FC00000, 16))) ∧
  (∀ (x : FapxF) (a : Word), nanWord a = true → fpApprox x a = (0x7FC00000, invalidOf [a])) ∧
  fpApprox .exp2 0x3F000000 = (0x3FB504F3, 1) ∧ fpApprox .log2 0x40400000 = (0x3FCAE00D, 1) ∧
  fpApprox .sin 0x3E800000 = (0x3F3504F3, 1) ∧ fpApprox .cos 0x3E800000 = (0x3F3504F3, 1)

/-- CVTFI, CVTIF, FRND, FXTR, NARR and SPL3 of every operand: the value rounded to an integer or into a narrow format with the flags of that
rounding, the exponent and the significand, and the cases beyond range, of zeros, infinities and NaNs (R48, R148 to R152). -/
def Sys2Proof.Claim.FloatConversionsRound : Prop :=
  (∀ rm x a, isNumber a = true →
    ∃ v : Int, RoundsIn Integral (match x with | .sw => rm | .uw => rm | _ => .zero) (number a) (v : Rat) ∧
      let least : Int := if x = .sw ∨ x = .swz then -(2 ^ 31) else 0
      let most : Int := if x = .sw ∨ x = .swz then 2 ^ 31 - 1 else 2 ^ 32 - 1
      cvtFI rm x a = (if v < least then (BitVec.ofInt 32 least, 16) else if most < v then (BitVec.ofInt 32 most, 16)
        else (BitVec.ofInt 32 v, if (v : Rat) = number a then 0 else 1))) ∧
  (∀ rm (a : Word), a ≠ 0 → RoundedOnce rm (a.toInt : Rat) (cvtIF rm .sw a) ∧ RoundedOnce rm (a.toNat : Rat) (cvtIF rm .uw a)) ∧
  (∀ rm x, cvtIF rm x 0 = (0, 0)) ∧
  (∀ rm x a, isNumber a = true →
    ∃ w, fRnd rm x a = (w, 0) ∧ isNumber w = true ∧ w.getLsbD 31 = a.getLsbD 31 ∧
      RoundsIn Integral (match x with | .byRm => rm | .rn => .near | .rz => .zero | .ru => .up | .rd => .down) (number a) (number w)) ∧
  (∀ rm x a, isInfinity a = true → fRnd rm x a = (a, 0)) ∧
  (∀ rm x a, nanWord a = true → fRnd rm x a = (0x7FC00000, invalidOf [a])) ∧
  (∀ a, isNumber a = true → number a ≠ 0 →
    ∃ (k : Int) (w : Word), power k ≤ mag (number a) ∧ mag (number a) < power (k + 1) ∧ fXtr .exp a = (BitVec.ofInt 32 k, 0) ∧
      fXtr .sig a = (w, 0) ∧ isNumber w = true ∧ number w = number a / power k) ∧
  (∀ a, (isNumber a = true ∧ number a = 0 ∨ nanWord a = true → fXtr .exp a = (0x80000000, 16)) ∧
    (isInfinity a = true → fXtr .exp a = (0x7FFFFFFF, 16)) ∧
    (isNumber a = true ∧ number a = 0 ∨ isInfinity a = true → fXtr .sig a = (a, 0)) ∧
    (nanWord a = true → fXtr .sig a = (0x7FC00000, invalidOf [a]))) ∧
  (∀ rm x a, isNumber a = true → number a ≠ 0 → Narrowed rm x (number a) (narrow rm x a)) ∧
  (∀ rm x a, isNumber a = true → number a = 0 → narrow rm x a = (a, 0)) ∧
  (∀ rm x a, isInfinity a = true →
    narrow rm x a = if x = .e4m3 then (if a.getLsbD 31 then 0xC3E00000 else 0x43E00000, 16) else (a, 0)) ∧
  (∀ rm x a, nanWord a = true → narrow rm x a = (0x7FC00000, invalidOf [a])) ∧
  (∀ rm a, isNumber a = true → number a ≠ 0 → RoundedBf16 rm (number a) (spl3 rm .h a)) ∧
  (∀ rm a, isNumber a = true → isNumber (spl3 rm .h a).1 = true →
    let rest := number a - number (spl3 rm .h a).1
    let last := rest - number (spl3 rm .m a).1
    (if rest = 0 then spl3 rm .m a = (if rm = .down then 0x80000000 else 0, 0) else RoundedBf16 rm rest (spl3 rm .m a)) ∧
    (if last = 0 then spl3 rm .l a = (if rm = .down then 0x80000000 else 0, 0) else RoundedBf16 rm last (spl3 rm .l a))) ∧
  (∀ rm a, isNumber a = true → number a = 0 → spl3 rm .h a = (a, 0)) ∧
  (∀ rm a, isNumber a = true → isInfinity (spl3 rm .h a).1 = true → spl3 rm .m a = (0, 0) ∧ spl3 rm .l a = (0, 0)) ∧
  (∀ rm a, isInfinity a = true → spl3 rm .h a = (a, 0) ∧ spl3 rm .m a = (0, 0) ∧ spl3 rm .l a = (0, 0)) ∧
  (∀ rm x a, nanWord a = true → spl3 rm x a = (0x7FC00000, invalidOf [a])) ∧
  spl3 .near .h 0x3F808041 = (0x3F810000, 1) ∧ spl3 .near .m 0x3F808041 = (0xBB7F0000, 1) ∧ spl3 .near .l 0x3F808041 = (0xB6FC0000, 0) ∧
  narrow .near .e4m3 0x447A0000 = (0x43E00000, 1)

/-- The invalid cases and the special values of R48, R143, R144, R146 and R148: every NaN produced is the canonical NaN,
signalling operands raise NV, and each listed case gives its value and flags. -/
def Sys2Proof.Claim.FloatInvalidCases : Prop :=
  (∀ rm a b, (nanWord a || nanWord b) = true →
    fpAdd rm a b = (0x7FC00000, invalidOf [a, b]) ∧ fpMul rm a b = (0x7FC00000, invalidOf [a, b]) ∧
    fpDiv rm a b = (0x7FC00000, invalidOf [a, b])) ∧
  (∀ rm, fpAdd rm 0x7F800000 0xFF800000 = (0x7FC00000, 16) ∧ fpMul rm 0 0x7F800000 = (0x7FC00000, 16) ∧
    fpDiv rm 0 0 = (0x7FC00000, 16) ∧ fpDiv rm 0x7F800000 0x7F800000 = (0x7FC00000, 16) ∧
    fpSqrt rm 0xBF800000 = (0x7FC00000, 16) ∧ fpSqrt rm 0x80000000 = (0x80000000, 0)) ∧
  (∀ rm c, signallingNan c = false → fpFused rm false false 0 0x7F800000 c = (0x7FC00000, 16)) ∧
  (∀ rm a, isNumber a = true → number a ≠ 0 →
    fpDiv rm a 0 = (if a.getLsbD 31 then 0xFF800000 else 0x7F800000, 8) ∧
    fpDiv rm a 0x80000000 = (if a.getLsbD 31 then 0x7F800000 else 0xFF800000, 8)) ∧
  (∀ m a b, nanWord a = true → nanWord b = false →
    fpMinMax m false a b = (b, invalidOf [a, b]) ∧ fpMinMax m true a b = (0x7FC00000, invalidOf [a, b])) ∧
  (∀ m p a b, isNumber a = true → isNumber b = true → number a < number b →
    fpMinMax m p a b = (if m then b else a, 0) ∧ fpMinMax m p b a = (if m then b else a, 0)) ∧
  (∀ m p, fpMinMax m p 0 0x80000000 = (if m then 0 else 0x80000000, 0) ∧ fpMinMax m p 0x80000000 0 = (if m then 0 else 0x80000000, 0)) ∧
  (∀ a b, isNumber a = true → isNumber b = true →
    fCmp .eq a b = (truth (decide (number a = number b)), 0) ∧ fCmp .ne a b = (truth (decide (number a ≠ number b)), 0) ∧
    fCmp .lt a b = (truth (decide (number a < number b)), 0) ∧ fCmp .le a b = (truth (decide (number a ≤ number b)), 0) ∧
    fCmp .un a b = (0, 0) ∧ fCmp .ord a b = (1, 0)) ∧
  (∀ a b, (nanWord a || nanWord b) = true →
    fCmp .eq a b = (0, invalidOf [a, b]) ∧ fCmp .ne a b = (1, invalidOf [a, b]) ∧ fCmp .lt a b = (0, 16) ∧
    fCmp .le a b = (0, 16) ∧ fCmp .un a b = (1, invalidOf [a, b]) ∧ fCmp .ord a b = (0, invalidOf [a, b])) ∧
  (∀ rm x a, nanWord a = true → cvtFI rm x a = (0, 16)) ∧
  (∀ rm x a, isInfinity a = true →
    cvtFI rm x a = (match x, a.getLsbD 31 with
      | .sw, false => 0x7FFFFFFF | .swz, false => 0x7FFFFFFF | .sw, true => 0x80000000 | .swz, true => 0x80000000
      | .uw, false => 0xFFFFFFFF | .uwz, false => 0xFFFFFFFF | .uw, true => 0 | .uwz, true => 0, 16))

/-! ### Memory instructions -/

namespace Sys2Proof.Claim

open Sys2Proof Sys2Proof.Machine

/-- Effective address of a lane (R159, R163). -/
def eaOf (a : Word) (imm : BitVec 8) (unit : Nat) : Word := a + BitVec.ofNat 32 (imm.toNat * unit)

/-- The window entry that bits [31:28] of an address select (R159). -/
abbrev windowOf (v : Context) (ea : Word) : Win := Tbl.get {} v.wins (ea.extractLsb' 28 4).toNat

/-- The offset in bits [27:0] (R159). -/
def offsetOf (ea : Word) : Nat := (ea.extractLsb' 0 28).toNat

/-- KIND of a window entry as its code (R285). -/
def kindCode (w : Win) : Nat := (w.w0.extractLsb' 28 3).toNat

/-- MODE of a window entry as its code (R285, R289). -/
def modeCode (w : Win) : Nat := (w.w0.extractLsb' 26 2).toNat

/-- The place of a byte at an offset of a local window (R287): base plus offset in the cell's own SRAM or loft. -/
def localByte (c : Nat) (w : Win) (off : Nat) : Nat :=
  if kindCode w = 0 then sramKey c ((w.base.toNat + off) % sramSize c) else loftKey c ((w.base.toNat + off) % 2 ^ 21)

/-- The checks of R160 all pass in a local window: valid, SRAM or LOFT, writable where the access writes, aligned, within the limit. -/
abbrev LocalOk (v : Context) (ea : Word) (size : Nat) (writes : Bool) : Prop :=
  (windowOf v ea).w0.getLsbD 31 = true ∧ kindCode (windowOf v ea) ≤ 1 ∧
  (writes = true → (windowOf v ea).w0.getLsbD 25 = false) ∧ offsetOf ea % size = 0 ∧
  offsetOf ea + size ≤ ((windowOf v ea).w2.extractLsb' 0 28).toNat

/-- A read returns at once: no uncorrectable error, and a RANDOM or STREAM window, or a PRESENCE word that is full and not taken (R166,
R167). -/
abbrev Readable (s : State) (w : Win) (key : Nat) : Prop :=
  isBad s key = false ∧ (modeCode w ≤ 1 ∨ (modeCode w = 2 ∧ isFull s key = true ∧ isTaken s key = false))

/-- The number that `n` bytes hold, least significant first (R1). -/
def littleEndian (m : List Host.Cell) (k : Nat) : Nat → Nat
  | 0 => 0
  | n + 1 => (memGet m k).toNat + 256 * littleEndian m (k + 1) n

/-- No side effect of a lower LSID has been counted whose bytes a load would have to overlay (R165). -/
abbrev NoLower (f : Frame) (lsid : BitVec 5) : Prop := ∀ e ∈ f.effs, lsid.toNat ≤ e.lsid

/-- The loads that read each lane at its own address: size, and what they make of the number read (R163). -/
def laneLoad : Instr → Option (MF × Nat × (Nat → Word))
  | .ldw m => some (m, 4, fun n => BitVec.ofNat 32 n)
  | .ldh m => some (m, 2, fun n => (BitVec.ofNat 16 n).signExtend 32)
  | .ldhu m => some (m, 2, fun n => BitVec.ofNat 32 n)
  | .ldb m => some (m, 1, fun n => (BitVec.ofNat 8 n).signExtend 32)
  | .ldbu m => some (m, 1, fun n => BitVec.ofNat 32 n)
  | _ => none

/-- The word at an offset of a local window. -/
def localWord (s : State) (w : Win) (off : Nat) : Word :=
  BitVec.ofNat 32 (littleEndian s.mem (localByte s.focus.cell w off) 4)

/-- The address that lane `l` of a strided access reaches from base lane value `a` (R164, R171). -/
def strided (a : Word) (imm : BitVec 8) (d : Word) (l : Nat) : Word := eaOf a imm 4 + BitVec.ofNat 32 l * d

/-- The only lane that acts over A. -/
abbrev OnlyA (i : Instr) (o : Slot) (l : Nat) (a : Word) : Prop :=
  ActingA i o l a ∧ ∀ k, k < 8 → k ≠ l → matched i o k = true → laneA o k = none

/-- The stores that write each lane at its own address, with their sizes (R170). -/
def laneStore : Instr → Option (SF × Nat)
  | .stw st => some (st, 4)
  | .sth st => some (st, 2)
  | .stb st => some (st, 1)
  | _ => none

/-- A byte range that a local store writes at commit. -/
def storedLane (s : State) (l : Nat) (ea : Word) (w : Win) (off size : Nat) (b : Word) : StLane :=
  { lane := l, key := localByte s.focus.cell w off, size := size, val := BitVec.ofNat 32 (b.toNat % 2 ^ (8 * size)), ea := ea,
    mode := winMode w }

/-- The lanes that a per-lane store writes, in lane order (R170). -/
def storedLanes (s : State) (i : Instr) (o : Slot) (imm : BitVec 8) (size : Nat) : List StLane :=
  laneNums.filterMap fun l =>
    match matched i o l, laneA o l, laneB o l with
    | true, some a, some b =>
      let ea := eaOf a imm size
      some (storedLane s l ea (windowOf (here s) ea) (offsetOf ea) size b)
    | _, _, _ => none

/-- The lanes that STV writes from base lane value `a` (R171). -/
def storedVector (s : State) (i : Instr) (o : Slot) (imm : BitVec 8) (a : Word) : List StLane :=
  let ea := eaOf a imm 32
  laneNums.filterMap fun l =>
    match matched i o l, laneB o l with
    | true, some b => some (storedLane s l (ea + BitVec.ofNat 32 (4 * l)) (windowOf (here s) ea) (offsetOf ea + 4 * l) 4 b)
    | _, _ => none

/-- The lanes that STVS writes from base lane value `a` at stride `d` (R171). -/
def storedStride (s : State) (i : Instr) (o : Slot) (imm : BitVec 8) (a d : Word) : List StLane :=
  laneNums.filterMap fun l =>
    match matched i o l, laneB o l with
    | true, some b =>
      let ea := strided a imm d l
      some (storedLane s l ea (windowOf (here s) ea) (offsetOf ea) 4 b)
    | _, _ => none

/-- The words that CLRP empties, in lane order (R167, R170). -/
def clearedLanes (s : State) (i : Instr) (o : Slot) (imm : BitVec 8) : List StLane :=
  laneNums.filterMap fun l =>
    match matched i o l, laneA o l with
    | true, some a =>
      let ea := eaOf a imm 4
      some (storedLane s l ea (windowOf (here s) ea) (offsetOf ea) 4 0)
    | _, _ => none

/-- How an access takes the addresses of its lanes: each lane its own (R159), consecutive words from the base lane, or words at a stride from it
(R164, R171). -/
inductive Reach where
  | each | vector | stride
  deriving DecidableEq

/-- What R160 and R161 need to know of a memory instruction: how it reaches its lanes, immediate, unit, access size, whether it writes, which
windows permit it, whether a lane needs B and C, and its LSID. -/
structure Access where
  reach : Reach
  imm : BitVec 8
  unit : Nat
  size : Nat
  writes : Bool
  permits : Win → Bool
  needB : Bool
  needC : Bool
  lsid : BitVec 5

/-- Kinds SRAM, LOFT, CELL and SPREAD (R161). -/
def ownedKind (w : Win) : Bool := decide (kindCode w ≤ 3)

/-- Every kind but MGMT and PORT (R161, R408, R429). -/
def memoryKind (w : Win) : Bool := decide (kindCode w ≤ 5)

/-- The memory instructions as R160 and R161 see them. -/
def accessOf : Instr → Option Access
  | .ldw m => some ⟨.each, m.imm, 4, 4, false, fun _ => true, false, false, m.lsid⟩
  | .ldh m => some ⟨.each, m.imm, 2, 2, false, memoryKind, false, false, m.lsid⟩
  | .ldhu m => some ⟨.each, m.imm, 2, 2, false, memoryKind, false, false, m.lsid⟩
  | .ldb m => some ⟨.each, m.imm, 1, 1, false, memoryKind, false, false, m.lsid⟩
  | .ldbu m => some ⟨.each, m.imm, 1, 1, false, memoryKind, false, false, m.lsid⟩
  | .ldv m => some ⟨.vector, m.imm, 32, 32, false, memoryKind, false, false, m.lsid⟩
  | .ldvs m => some ⟨.stride, m.imm, 4, 4, false, memoryKind, false, false, m.lsid⟩
  | .ldc m => some ⟨.each, m.imm, 4, 4, true, fun w => ownedKind w && modeCode w == 2, false, false, m.lsid⟩
  | .stw st => some ⟨.each, st.imm, 4, 4, true, fun _ => true, true, false, st.lsid⟩
  | .sth st => some ⟨.each, st.imm, 2, 2, true, fun w => memoryKind w && modeCode w != 2, true, false, st.lsid⟩
  | .stb st => some ⟨.each, st.imm, 1, 1, true, fun w => memoryKind w && modeCode w != 2, true, false, st.lsid⟩
  | .stv st => some ⟨.vector, st.imm, 32, 32, true, memoryKind, true, false, st.lsid⟩
  | .stvs st => some ⟨.stride, st.imm, 4, 4, true, memoryKind, true, false, st.lsid⟩
  | .clrp q imm => some ⟨.each, imm, 4, 4, true, fun w => ownedKind w && modeCode w == 2, false, false, q.lsid⟩
  | .cas f => some ⟨.each, 0, 4, 4, true, fun w => (ownedKind w && modeCode w == 3) || kindCode w == 5, true, true, f.lsid⟩
  | .upd _ f => some ⟨.each, 0, 4, 4, true, fun w => ownedKind w && modeCode w == 3, true, false, f.lsid⟩
  | .amo op f => some ⟨.each, 0, 4, 4, true, fun w => (ownedKind w && modeCode w == 3) ||
      (kindCode w == 5 && (op == .add || op == .and || op == .or || op == .xor || op == .swap)), true, false, f.lsid⟩
  | _ => none

/-- The base lane of an access with its value of A (R164, R171): the lowest lane that matches with A present. -/
def baseLane (i : Instr) (o : Slot) : Option (Nat × Word) :=
  laneNums.findSome? fun l => if matched i o l then (laneA o l).map fun a => (l, a) else none

/-- The stride of an access at its base lane: operand B of LDVS, operand C of STVS (R164, R171). -/
def strideAt (acc : Access) (o : Slot) (b : Nat) : Option Word := if acc.writes then laneC o b else laneB o b

/-- The address that R160 checks for lane `l` of an access, and the lane's own address; none where the lane takes no part (R159, R163, R164,
R170, R171, R177). -/
def laneAddress (i : Instr) (acc : Access) (o : Slot) (l : Nat) : Option (Word × Word) :=
  if matched i o l = true ∧ (acc.needB = true → (laneB o l).isSome = true) ∧ (acc.needC = true → (laneC o l).isSome = true) then
    match acc.reach with
    | .each => (laneA o l).map fun a => (eaOf a acc.imm acc.unit, eaOf a acc.imm acc.unit)
    | .vector => (baseLane i o).map fun b => (eaOf b.2 acc.imm 32, eaOf b.2 acc.imm 32 + BitVec.ofNat 32 (4 * l))
    | .stride => (baseLane i o).bind fun b => (strideAt acc o b.1).map fun d => (strided b.2 acc.imm d l, strided b.2 acc.imm d l)
  else none

/-- The first check of R160 that an access of core `c` fails, and its fault; a bay controller that names another bay's registers meets PROT
(R408). -/
def failedCheck (c : Nat) (v : Context) (a : Access) (ea : Word) : Option Cause :=
  let w := windowOf v ea
  if w.w0.getLsbD 31 = false then some .window
  else if a.permits w = false then some .window
  else if a.writes = true ∧ w.w0.getLsbD 25 = true then some .prot
  else if kindCode w = 6 ∧ 1048576 ≤ c ∧ c < 1049600 ∧ (ea.extractLsb' 18 10).toNat ≠ c - 1048576 then some .prot
  else if offsetOf ea % a.size ≠ 0 then some .align
  else if (w.w2.extractLsb' 0 28).toNat < offsetOf ea + a.size then some .bounds
  else none

/-- The fault of lane `l` of an access, with the lane's own address. -/
def laneFault (s : State) (i : Instr) (acc : Access) (o : Slot) (l : Nat) : Option (Cause × Word) :=
  (laneAddress i acc o l).bind fun p => (failedCheck s.focus.cell (here s) acc p.1).map fun k => (k, p.2)

/-- The mask of the lanes of an access that meet cause `k` (R162). That TINFO.LANES joins lanes of one cause is the model's choice
(notes/assumptions/93.md). -/
def lanesMeeting (s : State) (i : Instr) (acc : Access) (o : Slot) (k : Cause) : Nat :=
  (laneNums.map fun l => if (laneFault s i acc o l).map (fun p => p.1) = some k then 2 ^ l else 0).sum

/-- Context `x` of core `c` takes a trap for a fault of its block `f` (R32, R45, R124, R134, R162, R374): the record registers are written,
MORE among them where late causes wait (R376), the frame is gone, registers and memory are as before, and the context is TRAPPED with its
next block at TRAPV, or HALTED with a report where no handler is installed or trap level 1 holds. -/
def TrapsAt (s u : State) (c x slot : Nat) (f : Frame) (cause : Cause) (taddr : Word) (lanes lsid : Nat) : Prop :=
  (ctxOf u c x).tcause = BitVec.ofNat 32 (causeCode cause + if (ctxOf s c x).lateQ.isEmpty then 0 else 256) ∧
    (ctxOf u c x).tblock = BitVec.ofNat 32 f.hdr ∧
  (ctxOf u c x).taddr = taddr ∧ (ctxOf u c x).tinfo = BitVec.ofNat 32 (slot * 2 ^ 16 + lanes * 2 ^ 8 + lsid) ∧
  (ctxOf u c x).frame = none ∧ (ctxOf u c x).spec = [] ∧ (ctxOf u c x).regs = (ctxOf s c x).regs ∧
  (ctxOf u c x).flags = (ctxOf s c x).flags ∧ (∀ k, memGet u.mem k = memGet s.mem k) ∧ u.full = s.full ∧
  (if (ctxOf s c x).tl = false ∧ (ctxOf s c x).trapv ≠ 0 then
    (ctxOf u c x).st = .trapped ∧ (ctxOf u c x).tl = true ∧ (ctxOf u c x).pc = some (ctxOf s c x).trapv.toNat ∧
    (ctxOf u c x).trapRec = some ⟨some f.hdr, some f.hdr, (ctxOf s c x).calls.length⟩
  else
    (ctxOf u c x).st = .halted ∧ (ctxOf u c x).pc = none ∧
    u.outbox = s.outbox ++ [.haltEvent c x (ctxOf u c x).tcause (ctxOf u c x).tblock taddr])

/-- The context in focus takes a trap for a fault of its block at the slot in focus. -/
abbrev TrapsWith (s u : State) (f : Frame) (cause : Cause) (taddr : Word) (lanes lsid : Nat) : Prop :=
  TrapsAt s u s.focus.cell s.focus.ctx s.focus.slot f cause taddr lanes lsid

/-- `exec` answers the next state in which the block in focus has faulted; contexts of the cell then start their next blocks. -/
def Faults (i : Instr) (s : State) (f : Frame) (cause : Cause) (taddr : Word) (lanes lsid : Nat) : Prop :=
  s.focus.ctx ≠ 4 → s.focus.slot < 128 → lanes < 256 → lsid < 32 →
    ∃ u, exec i s = .next (settleCore u s.focus.cell) ∧ u.focus = s.focus ∧ TrapsWith s u f cause taddr lanes lsid

/-- The atomics with their operations and fields (R177). -/
def atomicOf : Instr → Option (AF × MemOp)
  | .amo op f => some (f, .amo op)
  | .cas f => some (f, .cas)
  | .upd h f => some (f, .upd h.toNat)
  | _ => none

/-- Whether an atomic uses operand C. -/
def usesThird : MemOp → Bool
  | .cas => true
  | _ => false

/-- The request that an atomic's one acting lane sends to the owner of its word (R179, R182). -/
def atomicRequest (s : State) (f : Frame) (af : AF) (op : MemOp) (l : Nat) (a b c : Word) (key : Nat) : MemReq :=
  { op := op
    noret := af.noret
    lanes := [{
      lane := l
      key := key
      ea := a
      b := b
      c := c
      mode := winMode (windowOf (here s) a)
      ring := (windowOf (here s) a).w0.getLsbD 22 && kindCode (windowOf (here s) a) == 2 }]
    asker := if af.noret then .nobody else .frame s.focus.cell s.focus.ctx f.serial s.focus.slot
    offset := issuerOffset s (keyCore key) s.focus.cell
    ctx := s.focus.ctx }

/-- Whether core `o` lies in the scope of a FENCE that is not .engine (R175). -/
def scopeHas (s : State) (sc : FenceScope) (o : Nat) : Bool :=
  match sc with
  | .cell => o == s.focus.cell
  | .region => decide (o < hostDst) && sameRegion s o s.focus.cell
  | .wafer => decide (o < hostDst)
  | .system => true
  | .engine => false

end Sys2Proof.Claim

/-- Loads through a local window, with no store of the block before them, return the little-endian bytes of memory at base plus offset,
narrowed as R163 gives; LDV and LDVS read from their base lane (R164). -/
def Obligations.LocalLoadsReadMemory : Prop :=
  (∀ (i : Instr) m size nar s f, laneLoad i = some (m, size, nar) → Ready s f i → s.focus.ctx ≠ 4 → NoLower f m.lsid →
    (∀ l a, l < 8 → matched i (opnd s f) l = true → laneA (opnd s f) l = some a →
      LocalOk (here s) (eaOf a m.imm size) size false ∧
      Readable s (windowOf (here s) (eaOf a m.imm size))
        (localByte s.focus.cell (windowOf (here s) (eaOf a m.imm size)) (offsetOf (eaOf a m.imm size)))) →
    Yields i s f [m.t0] (lanesOf i (opnd s f) fun l =>
      match laneA (opnd s f) l with
      | some a => some (nar (littleEndian s.mem
          (localByte s.focus.cell (windowOf (here s) (eaOf a m.imm size)) (offsetOf (eaOf a m.imm size))) size))
      | none => none) 0) ∧
  (∀ m s f b a, Ready s f (.ldv m) → s.focus.ctx ≠ 4 → NoLower f m.lsid → ActingA (.ldv m) (opnd s f) b a →
    LocalOk (here s) (eaOf a m.imm 32) 32 false →
    (∀ l, l < 8 → matched (.ldv m) (opnd s f) l = true → Readable s (windowOf (here s) (eaOf a m.imm 32))
      (localByte s.focus.cell (windowOf (here s) (eaOf a m.imm 32)) (offsetOf (eaOf a m.imm 32) + 4 * l))) →
    Yields (.ldv m) s f [m.t0] (lanesOf (.ldv m) (opnd s f) fun l =>
      some (localWord s (windowOf (here s) (eaOf a m.imm 32)) (offsetOf (eaOf a m.imm 32) + 4 * l))) 0) ∧
  (∀ m s f b a d, Ready s f (.ldvs m) → s.focus.ctx ≠ 4 → NoLower f m.lsid → ActingA (.ldvs m) (opnd s f) b a →
    laneB (opnd s f) b = some d → d.toNat % 4 = 0 →
    (∀ l, l < 8 → matched (.ldvs m) (opnd s f) l = true →
      LocalOk (here s) (strided a m.imm d l) 4 false ∧
      Readable s (windowOf (here s) (strided a m.imm d l))
        (localByte s.focus.cell (windowOf (here s) (strided a m.imm d l)) (offsetOf (strided a m.imm d l)))) →
    Yields (.ldvs m) s f [m.t0] (lanesOf (.ldvs m) (opnd s f) fun l =>
      some (localWord s (windowOf (here s) (strided a m.imm d l)) (offsetOf (strided a m.imm d l)))) 0) ∧
  (∀ m s f, Ready s f (.ldv m) → s.focus.ctx ≠ 4 → IdleA (.ldv m) (opnd s f) → Yields (.ldv m) s f [m.t0] Val.allNull 0) ∧
  (∀ m s f, Ready s f (.ldvs m) → s.focus.ctx ≠ 4 → IdleA (.ldvs m) (opnd s f) → Yields (.ldvs m) s f [m.t0] Val.allNull 0)

/-- LDC that finds its PRESENCE word full, where no lower store of its block supplies it, returns the value and takes the word, which stays
full in memory until the commit confirms
(R167, R168); a load that finds its word empty is deferred in the bank's waiter table, and its frame waits (R166). -/
def Obligations.PresenceLoadsTakeAndDefer : Prop :=
  (∀ m s f F l a,
    let ea := eaOf a m.imm 4
    let w := windowOf (here s) ea
    let key := localByte s.focus.cell w (offsetOf ea)
    Ready s f (.ldc m) → s.focus.ctx ≠ 4 → NoLower f m.lsid → OnlyA (.ldc m) (opnd s f) l a → LocalOk (here s) ea 4 true →
    modeCode w = 2 → isBad s key = false → isFull s key = true → isTaken s key = false → waiterFull s key = false →
    delivered s f [m.t0] (lanesOf (.ldc m) (opnd s f) fun k => if k = l then some (localWord s w (offsetOf ea)) else none) 0 = .ok F →
    ∃ t, exec (.ldc m) s = .next t ∧
      (∃ ws, (here t).frame = some { F with waits := ws, takes := f.takes ++ [(s.focus.slot, wordKey key)] }) ∧
      isTaken t key = true ∧ isFull t key = true ∧ (∀ k, memGet t.mem k = memGet s.mem k) ∧ (here t).regs = (here s).regs) ∧
  (∀ m s f l a,
    let ea := eaOf a m.imm 4
    let w := windowOf (here s) ea
    let key := localByte s.focus.cell w (offsetOf ea)
    Ready s f (.ldw m) → s.focus.ctx ≠ 4 → NoLower f m.lsid → OnlyA (.ldw m) (opnd s f) l a → LocalOk (here s) ea 4 false →
    modeCode w = 2 → isBad s key = false → isFull s key = false → waiterFull s key = false →
    ∃ t, exec (.ldw m) s = .next t ∧
      (∃ ws p, (here t).frame = some { markFired f s.focus.slot with waits := ws } ∧ p ∈ ws ∧ p.slot = s.focus.slot ∧ p.left = [l]) ∧
      (coreOf t s.focus.cell).waiters = (coreOf s s.focus.cell).waiters ++
        [⟨bankOf key, wordKey key, .reader, l, .frame s.focus.cell s.focus.ctx f.serial s.focus.slot, s.focus.cell, 4, key % 4⟩] ∧
      (∀ k, memGet t.mem k = memGet s.mem k) ∧ t.full = s.full ∧ (here t).regs = (here s).regs)

/-- A store through a local window counts its LSID and keeps for the commit the bytes it will write: which lanes, at which places, with
which values (R29, R33, R170, R171, R172); CLRP keeps the words it will empty. Nothing is written before the commit. -/
def Obligations.LocalStoresCountTheirBytes : Prop :=
  (∀ (i : Instr) st size s f, laneStore i = some (st, size) → Ready s f i →
    (∀ l a b, l < 8 → matched i (opnd s f) l = true → laneA (opnd s f) l = some a → laneB (opnd s f) l = some b →
      LocalOk (here s) (eaOf a st.imm size) size true ∧
      (size < 4 → modeCode (windowOf (here s) (eaOf a st.imm size)) ≠ 2)) →
    Counts i s f st.lsid.toNat (.store (storedLanes s i (opnd s f) st.imm size) [] [] st.hint)) ∧
  (∀ st s f b a, Ready s f (.stv st) → ActingA (.stv st) (opnd s f) b a → LocalOk (here s) (eaOf a st.imm 32) 32 true →
    Counts (.stv st) s f st.lsid.toNat (.store (storedVector s (.stv st) (opnd s f) st.imm a) [] [] st.hint)) ∧
  (∀ st s f b a d, Ready s f (.stvs st) → ActingA (.stvs st) (opnd s f) b a → laneC (opnd s f) b = some d → d.toNat % 4 = 0 →
    (∀ l, l < 8 → matched (.stvs st) (opnd s f) l = true → LocalOk (here s) (strided a st.imm d l) 4 true) →
    Counts (.stvs st) s f st.lsid.toNat (.store (storedStride s (.stvs st) (opnd s f) st.imm a d) [] [] st.hint)) ∧
  (∀ st s f, Ready s f (.stv st) → IdleA (.stv st) (opnd s f) → Counts (.stv st) s f st.lsid.toNat (.store [] [] [] st.hint)) ∧
  (∀ st s f, Ready s f (.stvs st) → IdleA (.stvs st) (opnd s f) → Counts (.stvs st) s f st.lsid.toNat (.store [] [] [] st.hint)) ∧
  (∀ q imm s f, Ready s f (.clrp q imm) →
    (∀ l a, l < 8 → matched (.clrp q imm) (opnd s f) l = true → laneA (opnd s f) l = some a →
      LocalOk (here s) (eaOf a imm 4) 4 true ∧ modeCode (windowOf (here s) (eaOf a imm 4)) = 2) →
    Counts (.clrp q imm) s f q.lsid.toNat (.clrp (clearedLanes s (.clrp q imm) (opnd s f) imm) []))

/-- The checks of R160, in order, against the windows that R161 permits, for every memory instruction: where lanes fail, the lowest of them gives
the cause and the address, and the record names every lane that met it, the slot and the LSID (R162); a stride that is null or no multiple of
4 faults ALIGN (R164, R171), for the base lane (the lane and its address are the model's reading, notes/assumptions/68.md). -/
def Obligations.AccessChecksFaultInOrder : Prop :=
  (∀ (i : Instr) (acc : Access) s f l k ea, accessOf i = some acc → Ready s f i → l < 8 →
    laneFault s i acc (opnd s f) l = some (k, ea) → (∀ j, j < l → laneFault s i acc (opnd s f) j = none) →
    (acc.reach = .stride → ∀ b d, baseLane i (opnd s f) = some b → strideAt acc (opnd s f) b.1 = some d → d.toNat % 4 = 0) →
    Faults i s f k ea (lanesMeeting s i acc (opnd s f) k) acc.lsid.toNat) ∧
  (∀ (i : Instr) (acc : Access) s f b, accessOf i = some acc → acc.reach = .stride → Ready s f i → baseLane i (opnd s f) = some b →
    (∀ d, strideAt acc (opnd s f) b.1 = some d → d.toNat % 4 ≠ 0) →
    Faults i s f .align (strided b.2 acc.imm ((strideAt acc (opnd s f) b.1).getD 0) b.1) (2 ^ b.1) acc.lsid.toNat)

/-- An atomic on one word: with NORET it counts its LSID and keeps its request for the commit (R178, R183); without, its frame waits
for the reply, and its request departs at once where every word of the block is decoded and everything else of it has been counted (R97, R178,
R179). -/
def Obligations.AtomicsRequestTheirOwners : Prop :=
  (∀ (i : Instr) af op s f l a b c key, atomicOf i = some (af, op) → af.noret = true → Ready s f i → OnlyA i (opnd s f) l a →
    laneB (opnd s f) l = some b → (if usesThird op then laneC (opnd s f) l = some c else c = 0) →
    isBayCore s.focus.cell = false → accCheck s.focus.cell (windowOf (here s) a) .upd a 4 = none →
    translate s s.focus.cell (windowOf (here s) a) (offsetOf a) = .mem key →
    Counts i s f af.lsid.toNat (.atomic (match op with | .upd _ => 3 | _ => 2)
      [(keyCore key, atomicRequest s f af op l a b c key)] (af.scope == .cell))) ∧
  (∀ (i : Instr) af op s f l a b c key, atomicOf i = some (af, op) → af.noret = false → Ready s f i → OnlyA i (opnd s f) l a →
    laneB (opnd s f) l = some b → (if usesThird op then laneC (opnd s f) l = some c else c = 0) →
    isBayCore s.focus.cell = false → accCheck s.focus.cell (windowOf (here s) a) .upd a 4 = none → replyCount s s.focus.cell < 64 →
    translate s s.focus.cell (windowOf (here s) a) (offsetOf a) = .mem key → (∀ w ∈ f.waits, w.unsent = []) →
    ∃ t, exec i s = .next t ∧
      (∃ ws p, (here t).frame = some { markFired f s.focus.slot with waits := ws } ∧ p ∈ ws ∧ p.slot = s.focus.slot ∧ p.left = [l] ∧
        p.lsid = some af.lsid.toNat ∧ p.t0 = af.t0) ∧
      (∀ k, memGet t.mem k = memGet s.mem k) ∧ t.full = s.full ∧ (here t).regs = (here s).regs ∧
      (f.exit.isSome = true → allDecoded f = true → (f.h1 &&& ~~~f.counted) &&& ~~~(BitVec.ofNat 32 (2 ^ af.lsid.toNat)) = 0 →
        (f.h2 &&& ~~~f.wroteLo) &&& ~~~(targetLo af.t0) = 0 → (f.h3 &&& ~~~f.wroteHi) &&& ~~~(targetHi af.t0) = 0 →
        ∃ m ∈ t.net, m.src = s.focus.cell ∧ m.dst = keyCore key ∧ m.body = .mem (atomicRequest s f af op l a b c key)))

/-- FENCE of a scope counts once no pending entry of its context has an owner in that scope; FENCE.engine once the context's stream, matrix
and collective commands are done; a FENCE that does not act counts at once (R175). While an entry of its scope is pending and not refused it
waits, and nothing changes. -/
def Obligations.FenceCountsAndWaits : Prop :=
  (∀ q sc s f, Ready s f (.fence q sc) → sc ≠ .engine →
    (∀ p ∈ (here s).pend, p.2.st = .free ∨ ∀ o ∈ entryOwners p.2, scopeHas s sc o = false) →
    Counts (.fence q sc) s f q.lsid.toNat .nothing) ∧
  (∀ q s f, Ready s f (.fence q .engine) →
    (∀ u ∈ (coreOf s s.focus.cell).units, u.2.owner = s.focus.ctx → (u.2.st = .idle ∨ u.2.st = .loaded ∨ u.2.st = .held) ∧ u.2.endings = []) →
    ((coreOf s s.focus.cell).mx.owner = some s.focus.ctx →
      (coreOf s s.focus.cell).mx.queue = [] ∧ (coreOf s s.focus.cell).mx.run = none) →
    (here s).collq = [] → Counts (.fence q .engine) s f q.lsid.toNat .nothing) ∧
  (∀ q sc s f, Ready s f (.fence q sc) → (here s).pend = [] → (coreOf s s.focus.cell).units = [] →
    (coreOf s s.focus.cell).mx.queue = [] → (coreOf s s.focus.cell).mx.run = none → (here s).collq = [] →
    Counts (.fence q sc) s f q.lsid.toNat .nothing) ∧
  (∀ q sc s f, Ready s f (.fence q sc) → ¬ Acts (.fence q sc) (opnd s f) → Counts (.fence q sc) s f q.lsid.toNat .nothing) ∧
  (∀ q sc s f n p, Ready s f (.fence q sc) → Acts (.fence q sc) (opnd s f) → sc ≠ .engine → (here s).pend = [(n, p)] →
    p.st = .opened → p.act = .nothing → p.ownerCell = s.focus.cell → p.ownerCell < 1048576 →
    exec (.fence q sc) s = .next s)

/-! ### Exits and special registers -/

namespace Sys2Proof.Claim

open Sys2Proof Sys2Proof.Machine

/-- The frame of a block that has taken its exit in the slot in focus (R31, R118). -/
def exited (s : State) (f : Frame) (k : ExitKind) : Frame := { markFired f s.focus.slot with exit := some (k, s.focus.slot) }

/-- The block in focus is one of a user context. -/
abbrev UserFocus (s : State) : Prop := s.focus.ctx < 4

/-- The header address at 16 × OFF20 from the block's own (R119). -/
def relative (f : Frame) (off : BitVec 20) : Nat := (BitVec.ofNat 32 f.hdr + (off.signExtend 32 <<< 4)).toNat

/-- The lowest call depth that RET kind 0 may not go below (R121). -/
def floorOf (v : Context) : Nat :=
  match v.tl, v.trapRec, v.inter with
  | true, some r, _ => r.depth
  | true, none, _ => 0
  | false, _, some i => i.depth
  | false, _, none => 0

/-- Whether a pending entry of the context is FAULTED (R125). -/
def anyFaulted (v : Context) : Bool := v.pend.any fun p => p.2.st == .faulted

/-- The exits that need no word, with what they do at commit and when they may be taken (R119 to R125). -/
def exitOf (v : Context) (f : Frame) : Instr → Option (ExitKind × Bool)
  | .bro _ off => some (.goto (relative f off), true)
  | .callo _ off => some (.call (relative f off), decide (v.calls.length < 16))
  | .ret _ .call => some (.ret, decide (floorOf v < v.calls.length))
  | .ret _ .retry => some (.trapRet .retry, v.tl && !anyFaulted v)
  | .ret _ .succ => some (.trapRet .succ, v.tl && !anyFaulted v)
  | .endBlk _ => some (.done, !v.tl || !anyFaulted v)
  | .yieldBlk _ => some (.yielded, !v.tl || !anyFaulted v)
  | .scall _ n => some (.scall n.toNat, !v.tl)
  | .trap _ n => some (.trap n.toNat, !v.tl)
  | _ => none

/-- Whether an instruction is an exit of the opcode table. -/
def isAnExit : Instr → Bool
  | .bro _ _ | .callo _ _ | .br _ | .call _ | .ret _ _ | .endBlk _ | .yieldBlk _ | .scall _ _ | .trap _ _ => true
  | _ => false

/-- The fault of an exit that needs no word and may not be taken (R120, R121, R123, R125, R126): cause and TADDR. -/
def exitFault (v : Context) (f : Frame) (n : Nat) : Instr → Option (Cause × Word)
  | .callo _ _ => if v.calls.length = 16 then some (.stack, 0) else none
  | .ret _ .call => if v.calls.length = floorOf v then some (.stack, 0) else none
  | .ret _ .retry => if v.tl = false then some (.illegal, BitVec.ofNat 32 (slotAddr f n)) else none
  | .ret _ .succ => if v.tl = false then some (.illegal, BitVec.ofNat 32 (slotAddr f n)) else none
  | .scall _ _ => if v.tl then some (.illegal, BitVec.ofNat 32 (slotAddr f n)) else none
  | .trap _ _ => if v.tl then some (.illegal, BitVec.ofNat 32 (slotAddr f n)) else none
  | _ => none

/-- The special registers as SPR reads them, but for EVCNT, the cycle count and SPINE (R130 to R139). -/
def specialReg (s : State) (v : Context) (x : Nat) : Nat → Option Word
  | 0x00 => some (BitVec.ofNat 32 ((if x = 4 then 0 else v.cls % 4) * 16 + (if v.tl then 8 else 0) + x))
  | 0x01 => some (BitVec.ofNat 32 (v.rtag % 256))
  | 0x02 => some (v.itag.setWidth 32)
  | 0x03 => some (BitVec.ofNat 32 v.argn)
  | 0x04 => some (cellOf s s.focus.cell).regpos
  | 0x05 => some (cellOf s s.focus.cell).regdim
  | 0x06 => some (cellOf s s.focus.cell).npn
  | 0x07 => some (cellOf s s.focus.cell).npe
  | 0x08 => some (cellOf s s.focus.cell).nps
  | 0x09 => some (cellOf s s.focus.cell).npw
  | 0x0A => some v.flags
  | 0x0B => some v.fmode
  | 0x0C => some v.trapv
  | 0x0D => some v.tcause
  | 0x0E => some v.tblock
  | 0x0F => some v.taddr
  | 0x10 => some v.tinfo
  | 0x11 => some (BitVec.ofNat 32 ((v.pend.filter fun p => p.2.st == .faulted).length * 256 +
      (v.pend.filter fun p => p.2.st != .free).length))
  | 0x15 => some (BitVec.ofNat 32 v.nopreb)
  | 0x16 => some (cellOf s s.focus.cell).energy
  | 0x17 => some (if x = 4 then 0 else v.evsel)
  | 0x19 => some (BitVec.ofNat 32 v.calls.length)
  | _ => none

end Sys2Proof.Claim

/-- An exit whose lane 0 matches is taken: the frame holds it, with what its commit will do, and nothing else changes; one whose lane 0
does not match counts nothing (R30, R118 to R123). BR and CALL also need lane 0 of A. -/
def Obligations.ExitsAreCounted : Prop :=
  (∀ (i : Instr) k s f, Ready s f i → f.exit = none → matched i (opnd s f) 0 = true → exitOf (here s) f i = some (k, true) →
    ∃ t, exec i s = .next t ∧ Leaves s t (exited s f k)) ∧
  (∀ x s f a, Ready s f (.br x) → f.exit = none → matched (.br x) (opnd s f) 0 = true → laneA (opnd s f) 0 = some a →
    a.toNat % 16 = 0 → ∃ t, exec (.br x) s = .next t ∧ Leaves s t (exited s f (.goto a.toNat))) ∧
  (∀ x s f a, Ready s f (.call x) → f.exit = none → matched (.call x) (opnd s f) 0 = true → laneA (opnd s f) 0 = some a →
    a.toNat % 16 = 0 → (here s).calls.length < 16 →
    ∃ t, exec (.call x) s = .next t ∧ Leaves s t (exited s f (.call a.toNat))) ∧
  (∀ (i : Instr) s f, isAnExit i = true → Ready s f i → matched i (opnd s f) 0 = false →
    ∃ t, exec i s = .next t ∧ Leaves s t (markFired f s.focus.slot)) ∧
  (∀ x s f, Ready s f (.br x) → laneA (opnd s f) 0 = none →
    ∃ t, exec (.br x) s = .next t ∧ Leaves s t (markFired f s.focus.slot)) ∧
  (∀ x s f, Ready s f (.call x) → laneA (opnd s f) 0 = none →
    ∃ t, exec (.call x) s = .next t ∧ Leaves s t (markFired f s.focus.slot))

/-- The faults that an exit raises when it is taken (R32, R119 to R121, R123, R125, R126). -/
def Obligations.ExitsFaultWhenTaken : Prop :=
  (∀ (i : Instr) k a s f, Ready s f i → matched i (opnd s f) 0 = true → exitFault (here s) f s.focus.slot i = some (k, a) →
    Faults i s f k a 0 0) ∧
  (∀ x s f a, Ready s f (.br x) → matched (.br x) (opnd s f) 0 = true → laneA (opnd s f) 0 = some a → a.toNat % 16 ≠ 0 →
    Faults (.br x) s f .align a 1 0) ∧
  (∀ x s f a, Ready s f (.call x) → matched (.call x) (opnd s f) 0 = true → laneA (opnd s f) 0 = some a → a.toNat % 16 ≠ 0 →
    Faults (.call x) s f .align a 1 0) ∧
  (∀ x s f a, Ready s f (.call x) → matched (.call x) (opnd s f) 0 = true → laneA (opnd s f) 0 = some a → a.toNat % 16 = 0 →
    (here s).calls.length = 16 → Faults (.call x) s f .stack 0 0 0) ∧
  (∀ (i : Instr) s f n e, (i = .endBlk n ∨ i = .yieldBlk n ∨ i = .ret n .retry ∨ i = .ret n .succ) → Ready s f i →
    matched i (opnd s f) 0 = true → (here s).tl = true → (here s).pend = [(e, { st := .faulted })] → e < 32 →
    Faults i s f .unsettled (BitVec.ofNat 32 (2 ^ e)) 0 0) ∧
  (∀ (i : Instr) k s f q, Ready s f i → matched i (opnd s f) 0 = true → exitOf (here s) f i = some (k, true) → f.exit = some q →
    Faults i s f .multiexit 0 0 0)

/-- SPR delivers the register's value in every matching lane (R127, R130 to R139); reads of the cycle count keep one sample for their
block; EVCNT counts the issue of the SPR itself (notes/assumptions/33.md). -/
def Sys2Proof.Claim.SpecialRegisterReads : Prop :=
  (∀ r s f w, Ready s f (.spr r) → specialReg s (here s) s.focus.ctx r.reg.toNat = some w →
    Yields (.spr r) s f [r.t0] (lanesOf (.spr r) (opnd s f) fun _ => some w) 0) ∧
  (∀ r s f, Ready s f (.spr r) → r.reg.toNat = 0x14 →
    Yields (.spr r) s f [r.t0] (lanesOf (.spr r) (opnd s f) fun _ => some
      (BitVec.ofNat 32 (Tbl.get 0 s.spines (cellOf s s.focus.cell).spine % 4096 * 2 ^ 16 + (cellOf s s.focus.cell).spine))) 0) ∧
  (∀ r s f F n, Ready s f (.spr r) → r.reg.toNat = 0x12 ∨ r.reg.toNat = 0x13 → n = f.sample.getD (cellOf s s.focus.cell).cyc →
    deliverAll { markFired f s.focus.slot with sample := some n, flags := f.flags ||| 0 } (slotAddr f s.focus.slot) s.focus.slot
      (lanesOf (.spr r) (opnd s f) fun _ => some (BitVec.ofNat 32 (if r.reg.toNat = 0x12 then n else n / 2 ^ 32))) [r.t0] = .ok F →
    ∃ t, exec (.spr r) s = .next t ∧ Leaves s t F) ∧
  (∀ r s f, Ready s f (.spr r) → UserFocus s → r.reg.toNat = 0x18 →
    Yields (.spr r) s f [r.t0] (lanesOf (.spr r) (opnd s f) fun _ => some
      (if (here s).evsel.getLsbD 31 = true ∧ (here s).evsel.extractLsb' 0 8 = 2 then (here s).evcnt + 1 else (here s).evcnt)) 0) ∧
  (∀ r s f, Ready s f (.spr r) → s.focus.ctx = 4 → r.reg.toNat = 0x18 →
    Yields (.spr r) s f [r.t0] (lanesOf (.spr r) (opnd s f) fun _ => some 0) 0)

/-- SPW counts its LSID with the word of its lowest acting lane, kept for the commit; without one it counts and writes nothing
(R29, R128). -/
def Sys2Proof.Claim.SpecialRegisterWritesCount : Prop :=
  (∀ q reg s f l a, Ready s f (.spw q reg) → ActingA (.spw q reg) (opnd s f) l a →
    Counts (.spw q reg) s f q.lsid.toNat (.spw reg.toNat a)) ∧
  (∀ q reg s f, Ready s f (.spw q reg) → IdleA (.spw q reg) (opnd s f) → Counts (.spw q reg) s f q.lsid.toNat .nothing)
/-! ### Commit -/

namespace Sys2Proof.Claim

open Sys2Proof Sys2Proof.Machine

/-- Context `x` of core `c` holds a block that has counted everything it declares and one exit, `k` (R31), all of whose words are decoded
(R99), within its NOPRE budget (R43), with no older block ready to commit (R35), on a core that runs; and nothing outside the context has to
follow it: no sister, no running update handler or waiting request, no predicted frame, no collective operation. -/
structure Finished (s : State) (c x : Nat) (f : Frame) (k : ExitKind) : Prop where
  user : x < 4
  frame : (ctxOf s c x).frame = some f
  exit : ∃ n, f.exit = some (k, n)
  effects : f.counted &&& f.h1 = f.h1
  low : f.wroteLo &&& f.h2 = f.h2
  high : f.wroteHi &&& f.h3 = f.h3
  runs : coreActs s c = true
  alone : (cellOf s c).sister = none
  handler : (ctxOf s c 4).frame = none
  guesses : ∀ y, y < 4 → (ctxOf s c y).spec = []
  entries : ∀ e ∈ (ctxOf s c x).pend, e.2.st = .free
  eats : f.eats = []
  takes : f.takes = []
  plain : (ctxOf s c x).tuple = none
  decoded : allDecoded f = true
  budget : (ctxOf s c x).nopre = true → (ctxOf s c x).nopreb ≠ 0
  oldest : ∀ y g, y < 4 → y ≠ x → (ctxOf s c y).frame = some g → f.serial ≤ g.serial ∨ readyCommit s c y g = false
  quiet : (coreOf s c).updQ = []

/-- The acts of a block in LSID order. -/
def actsOf (f : Frame) : List Act := (sortEffs f.effs).map fun e => e.act

/-- The bytes that stores of a block write, in LSID order. -/
def bytesOf (f : Frame) : List StLane :=
  (actsOf f).flatMap fun a => match a with | .store here _ _ _ => here | _ => []

/-- The byte at `k` after the lanes of a list have been stored in order over memory `m`. -/
def byteAfter (m : List Host.Cell) : List StLane → Nat → Byte
  | [], k => memGet m k
  | l :: ls, k =>
    if ∃ n ∈ ls, n.key ≤ k ∧ k < n.key + n.size then byteAfter m ls k
    else if l.key ≤ k ∧ k < l.key + l.size then l.val.extractLsb' (8 * (k - l.key)) 8
    else memGet m k

/-- Register `r` of a context, lane `l`. -/
abbrev regLane (v : Context) (r l : Nat) : Word := (Tbl.get (Lanes.all 0) v.regs r).get l

/-- Commits: `exec` of BLOCK_COMMIT answers the state `u`, once waiting contexts of the cell have started their blocks. -/
abbrev CommitsTo (s : State) (c x : Nat) (u : State) : Prop := exec (.blockCommit c x) s = .next (settleCore u c)

/-- A store act of the core's own memory through RANDOM windows, with nothing remote in it. -/
abbrev ownStores (c : Nat) (a : Act) : Prop :=
  ∃ here hint, a = .store here [] [] hint ∧ ∀ l ∈ here, keyCore l.key = c ∧ l.size ≤ 4 ∧ l.mode = .random

/-- The successor of a finished block as context `v` goes on (R119 to R121). -/
def successor (v : Context) (f : Frame) : ExitKind → Option (Nat × List Nat)
  | .goto h => some (h, v.calls)
  | .call h => some (h, v.calls ++ [f.hdr + 16 * ((4 + f.nread + f.words.length + f.lits.length + 3) / 4)])
  | .ret => some (v.calls.getLastD 0, v.calls.dropLast)
  | _ => none

end Sys2Proof.Claim

/-- The commit of a block without side effects writes the non-null lanes of its registers, ORs its IEEE flags into FLAGS, and goes on at
the successor that its exit selects; no byte of memory, no presence bit and no other register or context changes (R29, R33, R119 to R121). -/
def Obligations.CommitWritesRegistersAndGoesOn : Prop :=
  ∀ s c x f k h calls, Finished s c x f k → f.effs = [] → (f.regs.map fun p => p.1).Nodup → successor (ctxOf s c x) f k = some (h, calls) →
    ∃ u, CommitsTo s c x u ∧
      (∀ r l, l < 8 → regLane (ctxOf u c x) r l =
        match Tbl.get Val.allNull f.regs r |>.get l with
        | some w => w
        | none => regLane (ctxOf s c x) r l) ∧
      (ctxOf u c x).flags = (ctxOf s c x).flags ||| (f.flags &&& 0x3F) ∧
      (ctxOf u c x).pc = some h ∧ (ctxOf u c x).calls = calls ∧ (ctxOf u c x).frame = none ∧
      (ctxOf u c x).st = (ctxOf s c x).st ∧ (ctxOf u c x).tl = (ctxOf s c x).tl ∧ (ctxOf u c x).trapRec = (ctxOf s c x).trapRec ∧
      (ctxOf u c x).args = (ctxOf s c x).args ∧ (ctxOf u c x).fmode = (ctxOf s c x).fmode ∧ (ctxOf u c x).trapv = (ctxOf s c x).trapv ∧
      (ctxOf u c x).wins = (ctxOf s c x).wins ∧ (ctxOf u c x).parents = (ctxOf s c x).parents ∧
      (∀ y, y ≠ x → ctxOf u c y = ctxOf s c y) ∧ (∀ d, d ≠ c → cellOf u d = cellOf s d) ∧ u.mem = s.mem ∧ u.full = s.full ∧
      u.net = s.net ∧ u.hostMem = s.hostMem

/-- END and YIELD end the activation at commit: the context is IDLE at trap level 0 with an empty call stack (R22, R122, R125), also where
its trap handler ends a chain that had interjected (the interrupted chain is then dropped: the model's reading, notes/assumptions/64.md); at
trap level 0 an interjected chain gives way to the one it interrupted (R37). -/
def Sys2Proof.Claim.CommitEndsTheActivation : Prop :=
  (∀ s c x f k, Finished s c x f k → f.effs = [] → f.regs = [] → (k = .done ∨ k = .yielded) → (ctxOf s c x).inter = none →
    ∃ u, CommitsTo s c x u ∧ (ctxOf u c x).st = .idle ∧ (ctxOf u c x).tl = false ∧ (ctxOf u c x).trapRec = none ∧
      (ctxOf u c x).calls = [] ∧ (ctxOf u c x).pc = none ∧ (ctxOf u c x).frame = none ∧ (ctxOf u c x).yielded = decide (k = .yielded) ∧
      (ctxOf u c x).regs = (ctxOf s c x).regs ∧ u.mem = s.mem ∧ u.full = s.full ∧ (∀ y, y ≠ x → ctxOf u c y = ctxOf s c y)) ∧
  (∀ s c x f k, Finished s c x f k → f.effs = [] → f.regs = [] → (k = .done ∨ k = .yielded) → (ctxOf s c x).tl = true →
    ∃ u, CommitsTo s c x u ∧ (ctxOf u c x).st = .idle ∧ (ctxOf u c x).tl = false ∧ (ctxOf u c x).trapRec = none ∧
      (ctxOf u c x).inter = none ∧ (ctxOf u c x).calls = [] ∧ (ctxOf u c x).pc = none ∧ (ctxOf u c x).frame = none ∧
      (ctxOf u c x).regs = (ctxOf s c x).regs ∧ u.mem = s.mem ∧ u.full = s.full ∧ (∀ y, y ≠ x → ctxOf u c y = ctxOf s c y)) ∧
  (∀ s c x f k i, Finished s c x f k → f.effs = [] → f.regs = [] → (k = .done ∨ k = .yielded) → (ctxOf s c x).inter = some i →
    (ctxOf s c x).tl = false →
    ∃ u, CommitsTo s c x u ∧ (ctxOf u c x).st = .running ∧ (ctxOf u c x).rtag = i.rtag ∧ (ctxOf u c x).itag = i.itag ∧
      (ctxOf u c x).argn = i.argn ∧ (ctxOf u c x).args = i.args ∧ (ctxOf u c x).cls = i.cls ∧ (ctxOf u c x).pc = some i.succ ∧
      (ctxOf u c x).calls = (ctxOf s c x).calls.take i.depth ∧ (ctxOf u c x).inter = none ∧
      (ctxOf u c x).regs = (ctxOf s c x).regs ∧ u.mem = s.mem ∧ (∀ y, y ≠ x → ctxOf u c y = ctxOf s c y))

/-- SCALL and TRAP commit their block and enter trap level 1 with the records of R123, R124 and R134, or HALTED where no handler is
installed (R45); RET kinds 1 and 2 return to the recorded address with the recorded call depth (R125). -/
def Sys2Proof.Claim.CommitEntersAndLeavesTraps : Prop :=
  (∀ s c x f k n j sc, Finished s c x f k → f.effs = [] → f.regs = [] → ((k = .scall n ∧ sc = true) ∨ (k = .trap n ∧ sc = false)) →
    (ctxOf s c x).tl = false → f.exit = some (k, j) → j < 128 →
    ∃ u, CommitsTo s c x u ∧ (ctxOf u c x).tcause = (if (ctxOf s c x).lateQ.isEmpty then 0x1A else 0x11A) ∧
      (ctxOf u c x).tblock = BitVec.ofNat 32 f.hdr ∧
      (ctxOf u c x).taddr = BitVec.ofNat 32 n ∧ (ctxOf u c x).tinfo = BitVec.ofNat 32 ((if sc then 2 ^ 30 else 0) + j * 2 ^ 16) ∧
      (ctxOf u c x).regs = (ctxOf s c x).regs ∧ (ctxOf u c x).calls = (ctxOf s c x).calls ∧ (ctxOf u c x).frame = none ∧
      u.mem = s.mem ∧ u.full = s.full ∧ (∀ y, y ≠ x → ctxOf u c y = ctxOf s c y) ∧
      (if (ctxOf s c x).trapv = 0 then (ctxOf u c x).st = .halted
       else (ctxOf u c x).st = .trapped ∧ (ctxOf u c x).tl = true ∧ (ctxOf u c x).pc = some (ctxOf s c x).trapv.toNat ∧
         (ctxOf u c x).trapRec = some ⟨some f.hdr, some (f.hdr + 16 * ((4 + f.nread + f.words.length + f.lits.length + 3) / 4)),
           (ctxOf s c x).calls.length⟩)) ∧
  (∀ s c x f kind r a, Finished s c x f (.trapRet kind) → f.effs = [] → f.regs = [] → (ctxOf s c x).trapRec = some r →
    ((kind = .retry ∧ r.retry = some a) ∨ (kind = .succ ∧ r.succ = some a)) →
    ∃ u, CommitsTo s c x u ∧ (ctxOf u c x).st = .running ∧ (ctxOf u c x).tl = false ∧ (ctxOf u c x).pc = some a ∧
      (ctxOf u c x).calls = (ctxOf s c x).calls.take r.depth ∧ (ctxOf u c x).args = (ctxOf s c x).args ∧
      (ctxOf u c x).rtag = (ctxOf s c x).rtag ∧ (ctxOf u c x).itag = (ctxOf s c x).itag ∧ (ctxOf u c x).argn = (ctxOf s c x).argn ∧
      (ctxOf u c x).tcause = (ctxOf s c x).tcause ∧ (ctxOf u c x).tblock = (ctxOf s c x).tblock ∧
      (ctxOf u c x).regs = (ctxOf s c x).regs ∧ u.mem = s.mem ∧ (∀ y, y ≠ x → ctxOf u c y = ctxOf s c y)) ∧
  (∀ s c x f kind r, Finished s c x f (.trapRet kind) → f.effs = [] → f.regs = [] → (ctxOf s c x).trapRec = some r →
    ((kind = .retry ∧ r.retry = none) ∨ (kind = .succ ∧ r.succ = none)) → (ctxOf s c x).inter = none →
    ∃ u, CommitsTo s c x u ∧ (ctxOf u c x).st = .idle ∧ (ctxOf u c x).tl = false ∧ (ctxOf u c x).calls = [] ∧ (ctxOf u c x).pc = none ∧
      (ctxOf u c x).regs = (ctxOf s c x).regs ∧ u.mem = s.mem)

/-- The commit of a block whose side effects are stores into its own SRAM writes exactly the bytes of its lanes, later LSIDs and higher
lanes last, and no other byte; presence bits and registers stay (R33, R170, R172, R173, R279). Asked where no other block of the core is being
fetched, whose words the stores could rewrite (R100). -/
def Obligations.CommitStoresExactlyItsBytes : Prop :=
  ∀ s c x f h, Finished s c x f (.goto h) → Memory.wf s.mem = true → f.regs = [] → (∀ a ∈ actsOf f, ownStores c a) →
    (∀ l ∈ bytesOf f, keyIsLoft l.key = false ∧ isBad s l.key = false) →
    (∀ y g, y ≠ x → (ctxOf s c y).frame = some g → decoded g = true) →
    ∃ u, CommitsTo s c x u ∧ (∀ k, memGet u.mem k = byteAfter s.mem (bytesOf f) k) ∧ u.full = s.full ∧ u.net = s.net ∧
      (ctxOf u c x).regs = (ctxOf s c x).regs ∧ (ctxOf u c x).pc = some h ∧ (∀ y, y ≠ x → ctxOf u c y = ctxOf s c y) ∧
      (∀ d, d ≠ c → cellOf u d = cellOf s d)

/-- A block commits only when it has counted each LSID of H1, each register of H2 and H3 and an exit; until then BLOCK_COMMIT changes
nothing (R31). -/
def Obligations.CommitWaitsForEveryCount : Prop :=
  ∀ s c x f, (ctxOf s c x).frame = some f →
    (f.exit = none ∨ f.counted &&& f.h1 ≠ f.h1 ∨ f.wroteLo &&& f.h2 ≠ f.h2 ∨ f.wroteHi &&& f.h3 ≠ f.h3) →
    exec (.blockCommit c x) s = .next s

/-- Special registers written by SPW at commit, by their access codes: FLAGS keeps bits 5 to 0 and then takes the block's own flags,
FMODE bits 4 to 0, TRAPV bits 15 to 4, EVSEL bits 31 and 7 to 0, EVCNT the whole word, to which this cycle's events are added; a higher LSID
prevails, and a write to another
register is ignored (R4, R5, R128, R129, R133, R139). -/
def Obligations.SpecialRegisterWritesCommit : Prop :=
  (∀ s c x f h reg w e, Finished s c x f (.goto h) → f.regs = [] → f.effs = [e] → e.act = .spw reg w →
    ∃ u, CommitsTo s c x u ∧
      (ctxOf u c x).flags = (if reg = 0x0A then w &&& 0x3F else (ctxOf s c x).flags) ||| (f.flags &&& 0x3F) ∧
      (ctxOf u c x).fmode = (if reg = 0x0B then w &&& 0x1F else (ctxOf s c x).fmode) ∧
      (ctxOf u c x).trapv = (if reg = 0x0C then w &&& 0xFFF0 else (ctxOf s c x).trapv) ∧
      (ctxOf u c x).evsel = (if reg = 0x17 then w &&& 0x800000FF else (ctxOf s c x).evsel) ∧
      (ctxOf u c x).evcnt = (if reg = 0x18 then w + (ctxOf s c x).evNow else (ctxOf s c x).evcnt) +
        (if (ctxOf u c x).evsel.getLsbD 31 = true ∧ (ctxOf u c x).evsel.extractLsb' 0 8 = 3 then 1 else 0) ∧
      (ctxOf u c x).tcause = (ctxOf s c x).tcause ∧ (ctxOf u c x).tblock = (ctxOf s c x).tblock ∧
      (ctxOf u c x).taddr = (ctxOf s c x).taddr ∧ (ctxOf u c x).tinfo = (ctxOf s c x).tinfo ∧
      (ctxOf u c x).nopreb = (ctxOf s c x).nopreb ∧ (ctxOf u c x).rtag = (ctxOf s c x).rtag ∧
      (ctxOf u c x).regs = (ctxOf s c x).regs ∧ u.mem = s.mem ∧ u.full = s.full) ∧
  (∀ s c x f h reg v w m n a b, Finished s c x f (.goto h) → f.regs = [] →
    (f.effs = [⟨m, a, .spw reg v⟩, ⟨n, b, .spw reg w⟩] ∨ f.effs = [⟨n, b, .spw reg w⟩, ⟨m, a, .spw reg v⟩]) → m < n →
    (reg = 0x0B ∨ reg = 0x0C) →
    ∃ u, CommitsTo s c x u ∧ (ctxOf u c x).fmode = (if reg = 0x0B then w &&& 0x1F else (ctxOf s c x).fmode) ∧
      (ctxOf u c x).trapv = (if reg = 0x0C then w &&& 0xFFF0 else (ctxOf s c x).trapv))
/-! ### Sends, tags and links -/

namespace Sys2Proof.Claim

open Sys2Proof Sys2Proof.Machine

/-- Some lane of an instruction matches with A present there (R193, R204). -/
def AnyA (i : Instr) (o : Slot) : Prop := ∃ l a, l < 8 ∧ matched i o l = true ∧ laneA o l = some a

/-- A's lanes where they match, null elsewhere (R193, R204). -/
def sentLanes (i : Instr) (o : Slot) : Val := lanesOf i o fun l => laneA o l

/-- The iteration tag that a token carries, or none where R194 faults; `b` is lane 0 of B. -/
def carried (v : Context) (b : Option Word) : TagAct → Option (BitVec 6)
  | .keep => some v.itag
  | .next => some (v.itag.extractLsb' 4 2 ++ (v.itag.extractLsb' 0 4 + 1))
  | .enter => if v.itag.extractLsb' 4 2 = 3 then none else some ((v.itag.extractLsb' 4 2 + 1) ++ (0 : BitVec 4))
  | .leave => if v.itag.extractLsb' 4 2 = 0 then none else Tbl.get none v.parents (v.itag.extractLsb' 4 2).toNat
  | .set => some (v.itag.extractLsb' 4 2 ++ (b.getD 0).extractLsb' 0 4)
  | .zero => some 0

/-- A SET send also needs lane 0 of B (R193). -/
abbrev SetReady (act : TagAct) (o : Slot) : Prop := act = .set → (laneB o 0).isSome = true

/-- The channel entry of the context in focus (R195). -/
abbrev chanEntry (s : State) (ch : BitVec 6) : Word := Tbl.get 0 (here s).chans ch.toNat

/-- The parent tag of a row of the context's parent tag table, or none while the row is not allocated (R199). -/
abbrev parentRow (v : Context) (l : Nat) : Option (BitVec 6) := Tbl.get none v.parents l

/-- The binding of a tag of the core in focus (R12). -/
abbrev boundTo (s : State) (t : Nat) : Word := bindingOf (coreOf s s.focus.cell) t

/-- The binding belongs to another context (R197). -/
abbrev Foreign (s : State) (t : Nat) : Prop :=
  (boundTo s t).getLsbD 31 = true ∧ ((boundTo s t).extractLsb' 23 3).toNat ≠ s.focus.ctx

/-- The word of a binding that TBIND may write from context `x` (R12, R198). -/
abbrev BindWord (w : Word) (x : Nat) : Prop :=
  w.extractLsb' 16 7 = 0 ∧ w.extractLsb' 0 4 = 0 ∧ w.extractLsb' 28 2 ≠ 0 ∧ (w.extractLsb' 23 3).toNat = x ∧ x < 4

/-- The entries of an input link of the core in focus; link 0 is W (R202). -/
abbrev linkOf (s : State) (link : BitVec 1) : List Val :=
  if link = 0 then (coreOf s s.focus.cell).linkW else (coreOf s s.focus.cell).linkN

/-- The matrix engine of the core in focus is released, and so holds no link (R204, R212). -/
abbrev EngineFree (s : State) : Prop := (coreOf s s.focus.cell).mx.owner = none

/-- A neighbour of the region stands on an output, E for 0 and S for 1 (R204): past the last column or row of a region that spans the torus
stands its first (R246, R248). -/
abbrev HasNeighbour (s : State) (out : BitVec 1) : Prop :=
  (cellOf s s.focus.cell).region.isSome = true ∧
  (if out = 0 then ((cellOf s s.focus.cell).regdim.extractLsb' 0 16 = 960 ∨
      ((cellOf s s.focus.cell).regpos.extractLsb' 0 16).toNat + 1 < ((cellOf s s.focus.cell).regdim.extractLsb' 0 16).toNat)
   else ((cellOf s s.focus.cell).regdim.extractLsb' 16 16 = 960 ∨
      ((cellOf s s.focus.cell).regpos.extractLsb' 16 16).toNat + 1 < ((cellOf s s.focus.cell).regdim.extractLsb' 16 16).toNat))

end Sys2Proof.Claim

/-- A send that acts counts its LSID and keeps its token for the commit: A's matching lanes, the iteration tag of its tag action, and the
route or the destination (R193 to R196); one that does not act counts and sends nothing (R193). -/
def Obligations.SendsKeepTheirTokens : Prop :=
  (∀ q act ch s f t, Ready s f (.send q act ch) → AnyA (.send q act ch) (opnd s f) → SetReady act (opnd s f) →
    carried (here s) (laneB (opnd s f) 0) act = some t → (cellOf s s.focus.cell).slot = none → (chanEntry s ch).getLsbD 31 = true →
    Counts (.send q act ch) s f q.lsid.toNat (.sendRoute ((chanEntry s ch).extractLsb' 0 9).toNat false
      { tag := 0, itag := t, port := ((chanEntry s ch).extractLsb' 9 2).toNat, lanes := sentLanes (.send q act ch) (opnd s f),
        tuple := (here s).tuple })) ∧
  (∀ q act tag s f t c r (d : Nat × Nat) c', Ready s f (.sendm q act tag) → AnyA (.sendm q act tag) (opnd s f) → SetReady act (opnd s f) →
    carried (here s) (laneB (opnd s f) 0) act = some t → laneC (opnd s f) 0 = some c → c.extractLsb' 24 8 = 0 →
    regionOf s s.focus.cell = some r → regionCell s s.focus.cell d.1 d.2 = some c' → d.1 < (regionAt s r).w → d.2 < (regionAt s r).h →
    (d.1 : Int) = ((cellOf s s.focus.cell).regpos.extractLsb' 0 16).toNat + (c.extractLsb' 0 11).toInt →
    (d.2 : Int) = ((cellOf s s.focus.cell).regpos.extractLsb' 16 16).toNat + (c.extractLsb' 11 11).toInt →
    Counts (.sendm q act tag) s f q.lsid.toNat (.sendDyn c'
      { tag := tag.toNat, itag := t, port := (c.extractLsb' 22 2).toNat, lanes := sentLanes (.sendm q act tag) (opnd s f),
        tuple := (here s).tuple } c)) ∧
  (∀ q act ch s f, Ready s f (.send q act ch) → (¬ AnyA (.send q act ch) (opnd s f) ∨ ¬ SetReady act (opnd s f)) →
    Counts (.send q act ch) s f q.lsid.toNat .nothing) ∧
  (∀ q act tag s f, Ready s f (.sendm q act tag) →
    (¬ AnyA (.sendm q act tag) (opnd s f) ∨ ¬ SetReady act (opnd s f) ∨ laneC (opnd s f) 0 = none) →
    Counts (.sendm q act tag) s f q.lsid.toNat .nothing)

/-- The TAG functions count with what their commit does to a binding, a row of the parent tag table or a kill filter (R188, R197 to
R200); without an acting lane they count and do nothing. -/
def Sys2Proof.Claim.TagFunctionsCount : Prop :=
  (∀ q tag s f, Ready s f (.tblock q tag) → Acts (.tblock q tag) (opnd s f) → ¬ Foreign s tag.toNat →
    Counts (.tblock q tag) s f q.lsid.toNat (.setBlk tag.toNat true)) ∧
  (∀ q tag s f, Ready s f (.tunblk q tag) → Acts (.tunblk q tag) (opnd s f) → ¬ Foreign s tag.toNat →
    Counts (.tunblk q tag) s f q.lsid.toNat (.setBlk tag.toNat false)) ∧
  (∀ q lv s f l a, Ready s f (.tsalloc q lv) → ActingA (.tsalloc q lv) (opnd s f) l a → parentRow (here s) lv.toNat = none →
    (a.extractLsb' 4 2).toNat + 1 = lv.toNat → Counts (.tsalloc q lv) s f q.lsid.toNat (.tsAlloc lv.toNat (a.extractLsb' 0 6))) ∧
  (∀ q lv s f, Ready s f (.tsfree q lv) → Acts (.tsfree q lv) (opnd s f) → parentRow (here s) lv.toNat ≠ none →
    Counts (.tsfree q lv) s f q.lsid.toNat (.tsFree lv.toNat)) ∧
  (∀ q lv d s f l a, Ready s f (.tkill q lv d) → ActingA (.tkill q lv d) (opnd s f) l a → parentRow (here s) lv.toNat ≠ none →
    Counts (.tkill q lv d) s f q.lsid.toNat (.tKill lv.toNat (a.extractLsb' 0 4).toNat d.toNat)) ∧
  (∀ q tag s f l a, Ready s f (.tbind q tag) → ActingA (.tbind q tag) (opnd s f) l a → ¬ Foreign s tag.toNat →
    BindWord a s.focus.ctx → Counts (.tbind q tag) s f q.lsid.toNat (.bind tag.toNat a)) ∧
  (∀ (i : Instr) q n s f, (i = .tblock q n ∨ i = .tunblk q n) → Ready s f i → ¬ Acts i (opnd s f) → Counts i s f q.lsid.toNat .nothing) ∧
  (∀ q lv s f, Ready s f (.tsfree q lv) → ¬ Acts (.tsfree q lv) (opnd s f) → Counts (.tsfree q lv) s f q.lsid.toNat .nothing) ∧
  (∀ (i : Instr) q n d t s f, (i = .tsalloc q n ∨ i = .tkill q n d ∨ i = .tbind q t) → Ready s f i → IdleA i (opnd s f) →
    Counts i s f q.lsid.toNat .nothing)

/-- LPEEK shows the head of a link or its occupancy; LPOP reserves the next entry, delivers it and counts; LPUSH and CSIG count with
what their commit does (R202 to R205). -/
def Sys2Proof.Claim.LinkFunctionsCount : Prop :=
  (∀ q link s f v rest, Ready s f (.lpeek q link false) → EngineFree s → linkOf s link = v :: rest →
    Yields (.lpeek q link false) s f [q.t0] (lanesOf (.lpeek q link false) (opnd s f) fun l => v.get l) 0) ∧
  (∀ q link s f, Ready s f (.lpeek q link false) → EngineFree s → linkOf s link = [] →
    Yields (.lpeek q link false) s f [q.t0] Val.allNull 0) ∧
  (∀ q link s f, Ready s f (.lpeek q link true) → EngineFree s →
    Yields (.lpeek q link true) s f [q.t0]
      (lanesOf (.lpeek q link true) (opnd s f) fun _ => some (BitVec.ofNat 32 (linkOf s link).length)) 0) ∧
  (∀ q link fwd t0 s f F v rest, Ready s f (.lpop q link fwd t0) → Acts (.lpop q link fwd t0) (opnd s f) → EngineFree s →
    linkOf s link = v :: rest → f.popsW = 0 → f.popsN = 0 → lowerPopUnfired f (link == 0) q.lsid.toNat = false →
    (∀ y g, y ≠ s.focus.ctx → (ctxOf s s.focus.cell y).frame = some g → g.popsW = 0 ∧ g.popsN = 0) →
    deliver { markFired f s.focus.slot with popsW := if link = 0 then 1 else 0, popsN := if link = 0 then 0 else 1 }
      (slotAddr f s.focus.slot) s.focus.slot t0 (lanesOf (.lpop q link fwd t0) (opnd s f) fun l => v.get l) = .ok F →
    F.h1.getLsbD q.lsid.toNat = true → F.counted.getLsbD q.lsid.toNat = false →
    ∃ t, exec (.lpop q link fwd t0) s = .next t ∧ linkOf t link = linkOf s link ∧
      Leaves s t { F with
        counted := F.counted ||| BitVec.ofNat 32 (2 ^ q.lsid.toNat)
        effs := F.effs ++ [⟨q.lsid.toNat, s.focus.slot, .lpop (link == 0) fwd⟩] }) ∧
  (∀ q link fwd t0 s f, Ready s f (.lpop q link fwd t0) → Acts (.lpop q link fwd t0) (opnd s f) → EngineFree s → linkOf s link = [] →
    exec (.lpop q link fwd t0) s = .next s) ∧
  (∀ q link fwd t0 s f F, Ready s f (.lpop q link fwd t0) → ¬ Acts (.lpop q link fwd t0) (opnd s f) →
    deliver (markFired f s.focus.slot) (slotAddr f s.focus.slot) s.focus.slot t0 Val.allNull = .ok F →
    F.h1.getLsbD q.lsid.toNat = true → F.counted.getLsbD q.lsid.toNat = false →
    ∃ t, exec (.lpop q link fwd t0) s = .next t ∧
      Leaves s t { F with
        counted := F.counted ||| BitVec.ofNat 32 (2 ^ q.lsid.toNat)
        effs := F.effs ++ [⟨q.lsid.toNat, s.focus.slot, .nothing⟩] }) ∧
  (∀ q out s f, Ready s f (.lpush q out) → AnyA (.lpush q out) (opnd s f) → EngineFree s → HasNeighbour s out →
    Counts (.lpush q out) s f q.lsid.toNat (.lpush (out == 0) (sentLanes (.lpush q out) (opnd s f)))) ∧
  (∀ q out s f, Ready s f (.lpush q out) → ¬ AnyA (.lpush q out) (opnd s f) → Counts (.lpush q out) s f q.lsid.toNat .nothing) ∧
  (∀ q ch reg s f, Ready s f (.csig q ch reg) → Acts (.csig q ch reg) (opnd s f) →
    Counts (.csig q ch reg) s f q.lsid.toNat (.csig ch.toNat reg)) ∧
  (∀ q ch reg s f, Ready s f (.csig q ch reg) → ¬ Acts (.csig q ch reg) (opnd s f) →
    Counts (.csig q ch reg) s f q.lsid.toNat .nothing)
/-! ### Stream units and the matrix engine -/

namespace Sys2Proof.Claim

open Sys2Proof Sys2Proof.Machine

/-- The stream functions that act at commit and need no word, with their acts (R208). -/
def streamNoWord : Instr → Option (LF × Act)
  | .sgo q u r => some (q, .sgo u.toNat r)
  | .sstop q u r => some (q, .sstop u.toNat r)
  | .scond q u alt => some (q, .scond u.toNat alt.toNat)
  | _ => none

/-- The stream functions whose word is that of the acting lane (R206, R210). -/
def streamWord (a : Word) : Instr → Option (LF × Act)
  | .sdef q u => some (q, .sdef u.toNat a)
  | .sfmt q u => some (q, .sfmt u.toNat a)
  | _ => none

/-- Stream unit `n` of the core in focus. -/
abbrev streamUnit (s : State) (n : Nat) : SUnit := Tbl.get {} (coreOf s s.focus.cell).units n

/-- The matrix engine of the core in focus. -/
abbrev engine (s : State) : Mx := (coreOf s s.focus.cell).mx

/-- The engine belongs to the context in focus (R212). -/
abbrev Owned (s : State) : Prop := (engine s).owner = some s.focus.ctx

/-- The largest K of a configuration (R213). -/
def limitK (w : Word) : Nat :=
  match (w.extractLsb' 0 3).toNat, w.getLsbD 3 with
  | 0, false => 128
  | 0, true => 64
  | 1, false => 40
  | 1, true => 16
  | 2, false => 256
  | 2, true => 64
  | 3, false => 256
  | 4, false => 256
  | 5, false => 256
  | _, _ => 0

/-- A configuration word that MXCFG accepts (R212, R213). -/
abbrev ConfigWord (w : Word) : Prop :=
  w.extractLsb' 21 11 = 0 ∧ w.extractLsb' 10 2 ≠ 3 ∧ w.extractLsb' 4 2 ≠ 3 ∧ (w.extractLsb' 13 8).toNat + 1 ≤ limitK w ∧
  (w.getLsbD 3 = true → 9 ≤ (w.extractLsb' 6 4).toNat + 1)

/-- K and the bytes of an element of the engine's mode (R212 to R214). -/
def engineK (s : State) : Nat := ((engine s).cfg.extractLsb' 13 8).toNat + 1

/-- Bytes of a B element by mode (R214). -/
def elementBytes (s : State) : Nat :=
  match ((engine s).cfg.extractLsb' 0 3).toNat with
  | 0 => 2
  | 1 => 4
  | _ => 1

/-- A run of `n` bytes at `ea` in a valid window of KIND SRAM, inside its limit and aligned to `unit` (R160, R214, R217). -/
abbrev SpanOk (s : State) (ea : Word) (n unit : Nat) : Prop :=
  (windowOf (here s) ea).w0.getLsbD 31 = true ∧ kindCode (windowOf (here s) ea) = 0 ∧ offsetOf ea % unit = 0 ∧ 0 < n ∧ unit ≤ n ∧
  offsetOf ea + n ≤ ((windowOf (here s) ea).w2.extractLsb' 0 28).toNat

/-- Rows and first row of a run word (R215). -/
abbrev RunWord (s : State) (w : Word) : Prop :=
  w.extractLsb' 25 7 = 0 ∧
  let rows := (w.extractLsb' 0 7).toNat + 1
  let base := (w.extractLsb' 7 6).toNat
  if w.getLsbD 15 = true ∨ (engine s).cfg.getLsbD 3 = false then base + rows ≤ 64
  else (rows = 16 ∨ rows = 32) ∧ (base = 0 ∨ base = 32) ∧ base + 2 * rows ≤ 64

/-- A readout word of binary32 elements that any mode accepts while no row is in recombination state (R217). -/
abbrev PlainReadout (w : Word) : Prop :=
  w.extractLsb' 27 5 = 0 ∧ w.extractLsb' 15 2 = 0 ∧ w.extractLsb' 13 2 ≠ 3 ∧
  (w.extractLsb' 0 6).toNat + (w.extractLsb' 6 7).toNat + 1 ≤ 64

end Sys2Proof.Claim

/-- The stream functions count with the command that their commit gives to the unit (R188, R206, R208, R210); SBAR counts once its
units, and the engine where asked, are between commands, and waits until then (R211). -/
def Obligations.StreamFunctionsCount : Prop :=
  (∀ (i : Instr) q act s f, streamNoWord i = some (q, act) → Ready s f i → Acts i (opnd s f) → Counts i s f q.lsid.toNat act) ∧
  (∀ (i : Instr) q act s f, streamNoWord i = some (q, act) → Ready s f i → ¬ Acts i (opnd s f) → Counts i s f q.lsid.toNat .nothing) ∧
  (∀ (i : Instr) q act s f l a, streamWord a i = some (q, act) → Ready s f i → ActingA i (opnd s f) l a → Counts i s f q.lsid.toNat act) ∧
  (∀ (i : Instr) q act s f a, streamWord a i = some (q, act) → Ready s f i → IdleA i (opnd s f) → Counts i s f q.lsid.toNat .nothing) ∧
  (∀ q mask mx s f, Ready s f (.sbar q mask mx) →
    (∀ n, n < 4 → mask.getLsbD n = true → (streamUnit s n).st = .idle ∨ (streamUnit s n).st = .loaded ∨ (streamUnit s n).st = .held) →
    (mx = true → (engine s).queue = [] ∧ (engine s).run = none) →
    Counts (.sbar q mask mx) s f q.lsid.toNat .nothing) ∧
  (∀ q mask mx s f, Ready s f (.sbar q mask mx) → ¬ Acts (.sbar q mask mx) (opnd s f) →
    Counts (.sbar q mask mx) s f q.lsid.toNat .nothing) ∧
  (∀ q mask mx s f n, Ready s f (.sbar q mask mx) → Acts (.sbar q mask mx) (opnd s f) → n < 4 → mask.getLsbD n = true →
    ((streamUnit s n).st = .armed ∨ (streamUnit s n).st = .running) → exec (.sbar q mask mx) s = .next s) ∧
  (∀ q mask s f, Ready s f (.sbar q mask true) → Acts (.sbar q mask true) (opnd s f) →
    ((engine s).queue ≠ [] ∨ (engine s).run ≠ none) → exec (.sbar q mask true) s = .next s)

/-- MXCFG counts with the claim or the release that its commit makes, and waits while another context owns the engine or, with REL, while the
engine is busy; MXSTAT delivers the engine's state to its owner (R212, R213,
R218), where a partly filled A row counts as present by the model's choice (notes/assumptions/71.md). -/
def Sys2Proof.Claim.MatrixConfigurationCounts : Prop :=
  (∀ q s f F l a, Ready s f (.mxcfg q false) → ActingA (.mxcfg q false) (opnd s f) l a → ConfigWord a →
    (engine s).queue = [] → (engine s).run = none → Owned s → (engine s).waiting = [(s.focus.ctx, f.serial)] →
    F = counted s f q.lsid.toNat (.mxcfg false a) → Declares f q.lsid.toNat →
    ∃ t, exec (.mxcfg q false) s = .next t ∧ Leaves s t F) ∧
  (∀ q s f l a, Ready s f (.mxcfg q false) → ActingA (.mxcfg q false) (opnd s f) l a → ConfigWord a →
    (engine s).queue = [] → (engine s).run = none → (engine s).owner = none → (engine s).waiting = [] → Declares f q.lsid.toNat →
    ∃ t ws, exec (.mxcfg q false) s = .next t ∧
      (here t).frame = some { counted s f q.lsid.toNat (.mxcfg false a) with waits := ws } ∧
      (engine t).owner = none ∧ (here t).regs = (here s).regs ∧ (∀ k, memGet t.mem k = memGet s.mem k)) ∧
  (∀ q s f l a y, Ready s f (.mxcfg q false) → ActingA (.mxcfg q false) (opnd s f) l a → ConfigWord a → (engine s).owner = some y →
    y ≠ s.focus.ctx →
    ∃ t, exec (.mxcfg q false) s = .next t ∧ (here t) = (here s) ∧ (engine t).owner = some y ∧ (engine t).acc = (engine s).acc ∧
      (∀ k, memGet t.mem k = memGet s.mem k)) ∧
  (∀ q s f, Ready s f (.mxcfg q true) → Acts (.mxcfg q true) (opnd s f) → Owned s → (engine s).queue = [] → (engine s).run = none →
    Counts (.mxcfg q true) s f q.lsid.toNat (.mxcfg true 0)) ∧
  (∀ q s f, Ready s f (.mxcfg q true) → Acts (.mxcfg q true) (opnd s f) → Owned s → ((engine s).queue ≠ [] ∨ (engine s).run ≠ none) →
    exec (.mxcfg q true) s = .next s) ∧
  (∀ q s f, Ready s f (.mxcfg q true) → ¬ Acts (.mxcfg q true) (opnd s f) → Counts (.mxcfg q true) s f q.lsid.toNat .nothing) ∧
  (∀ q s f, Ready s f (.mxcfg q false) → IdleA (.mxcfg q false) (opnd s f) → Counts (.mxcfg q false) s f q.lsid.toNat .nothing) ∧
  (∀ q s f, Ready s f (.mxstat q) → Owned s → s.focus.ctx < 8 → (engine s).queue.length ≤ 4 → (engine s).arows.length ≤ 16 →
    Yields (.mxstat q) s f [q.t0] (lanesOf (.mxstat q) (opnd s f) fun _ => some (BitVec.ofNat 32 (
      (if (engine s).sideUsed then 2 ^ 15 else 0) + (engine s).queue.length * 2 ^ 12 + (engine s).arows.length * 2 ^ 7 +
      (if (engine s).ready1 then 2 ^ 6 else 0) + (if (engine s).ready0 then 2 ^ 5 else 0) +
      (if (engine s).run.isSome then 2 ^ 4 else 0) + s.focus.ctx * 2 + 1))) 0)

/-- The commands of the matrix engine count with what their commit puts into its queue (R214, R215, R217, R218). -/
def Sys2Proof.Claim.MatrixCommandsCount : Prop :=
  (∀ q bank s f, Ready s f (.mxldb q bank true) → Acts (.mxldb q bank true) (opnd s f) → Owned s →
    Counts (.mxldb q bank true) s f q.lsid.toNat (.mxcmd (.load bank.toNat true 0 0))) ∧
  (∀ q bank s f l a, Ready s f (.mxldb q bank false) → ActingA (.mxldb q bank false) (opnd s f) l a → Owned s →
    SpanOk s a (engineK s * 16 * elementBytes s) (elementBytes s) →
    Counts (.mxldb q bank false) s f q.lsid.toNat
      (.mxcmd (.load bank.toNat false (localByte s.focus.cell (windowOf (here s) a) (offsetOf a)) a
        (modeCode (windowOf (here s) a) == 2)))) ∧
  (∀ q s f l a, Ready s f (.mxrun q) → ActingA (.mxrun q) (opnd s f) l a → Owned s → RunWord s a →
    Counts (.mxrun q) s f q.lsid.toNat (.mxcmd (.run a))) ∧
  (∀ q s f l a b, Ready s f (.mxout q) → ActingAB (.mxout q) (opnd s f) l a b → Owned s → PlainReadout a →
    a.extractLsb' 13 2 = 0 → (engine s).cfg.getLsbD 3 = false → (engine s).recomb = [] → (engine s).run = none → (engine s).queue = [] → f.effs = [] →
    lowerRunUnfired f q.lsid.toNat = false → (windowOf (here s) b).w0.getLsbD 25 = false →
    SpanOk s b (((a.extractLsb' 6 7).toNat + 1) * 64) 4 →
    Counts (.mxout q) s f q.lsid.toNat
      (.mxcmd (.out a (localByte s.focus.cell (windowOf (here s) b) (offsetOf b)) b (modeCode (windowOf (here s) b) == 2)))) ∧
  (∀ q s f l a b, Ready s f (.mxout q) → ActingAB (.mxout q) (opnd s f) l a b → Owned s → PlainReadout a → a.extractLsb' 13 2 ≠ 0 →
    (engine s).cfg.getLsbD 3 = false → (engine s).recomb = [] → (engine s).run = none → (engine s).queue = [] → f.effs = [] →
    lowerRunUnfired f q.lsid.toNat = false → Counts (.mxout q) s f q.lsid.toNat (.mxcmd (.out a 0 0 false))) ∧
  (∀ q s f, Ready s f (.mxout q) → IdleAB (.mxout q) (opnd s f) → lowerRunUnfired f q.lsid.toNat = false →
    Counts (.mxout q) s f q.lsid.toNat .nothing) ∧
  (∀ q first n s f, Ready s f (.mxclr q first n) → Acts (.mxclr q first n) (opnd s f) → Owned s → first.toNat + n.toNat + 1 ≤ 64 →
    Counts (.mxclr q first n) s f q.lsid.toNat (.mxcmd (.clear first.toNat (n.toNat + 1)))) ∧
  (∀ (i : Instr) q bank first n s f, (i = .mxldb q bank true ∨ i = .mxclr q first n) → Ready s f i → ¬ Acts i (opnd s f) →
    Counts i s f q.lsid.toNat .nothing) ∧
  (∀ (i : Instr) q bank s f, (i = .mxldb q bank false ∨ i = .mxrun q) → Ready s f i → IdleA i (opnd s f) →
    Counts i s f q.lsid.toNat .nothing)
/-! ### Barriers, groups and collectives -/

namespace Sys2Proof.Claim

open Sys2Proof Sys2Proof.Machine

/-- The cell that a destination or home word names from the core in focus (R196, R312). -/
abbrev Names (s : State) (w : Word) (d : Nat) : Prop :=
  ∃ r x y, regionOf s s.focus.cell = some r ∧ regionCell s s.focus.cell x y = some d ∧ x < (regionAt s r).w ∧ y < (regionAt s r).h ∧
    (x : Int) = ((cellOf s s.focus.cell).regpos.extractLsb' 0 16).toNat + (w.extractLsb' 0 11).toInt ∧
    (y : Int) = ((cellOf s s.focus.cell).regpos.extractLsb' 16 16).toNat + (w.extractLsb' 11 11).toInt

/-- The barrier operations of point Reply, with the home operation of their word B and the bits of B they allow (R189, R220). -/
def homeOp (b : Word) : Instr → Option (LF × BitVec 7 × BarOp × Nat)
  | .binit q bn => some (q, bn, .init b, 19)
  | .joinb q bn => some (q, bn, .join b.toNat, 11)
  | .leaveb q bn => some (q, bn, .leave b.toNat, 11)
  | _ => none

/-- The arrivals (R220). -/
def arrivalOf : Instr → Option (LF × BitVec 7 × Bool)
  | .arv q bn => some (q, bn, false)
  | .arvd q bn => some (q, bn, true)
  | _ => none

/-- Barrier object `n` of the core in focus. -/
abbrev barrierAt (s : State) (n : Nat) : Barrier := Tbl.get {} (coreOf s s.focus.cell).bars n

/-- The context in focus is the collective context of its cell (R281, R319). -/
abbrev Collective (s : State) : Prop := collCtx s s.focus.cell = some s.focus.ctx

/-- Group entry `n` of the core in focus, as its cache holds it or else its loft (R320, R321). -/
abbrev groupAt (s : State) (n : Nat) : Group := groupOf s s.focus.cell n

/-- The 8 words of a descriptor in the core's SRAM (R323). -/
def descriptorAt (s : State) (a : Nat) : List Word :=
  (List.range 8).map fun n => BitVec.ofNat 32 (littleEndian s.mem (sramKey s.focus.cell a + 4 * n) 4)

/-- A collective descriptor without reserved bits whose handler tag is one of the shadow tags (R323). -/
abbrev DescriptorOk (d : List Word) : Prop :=
  ((d[0]?).getD 0).extractLsb' 16 16 = 0 ∧ ((d[1]?).getD 0).extractLsb' 27 5 = 0 ∧
  0xE0 ≤ (((d[0]?).getD 0).extractLsb' 0 8).toNat ∧ (((d[0]?).getD 0).extractLsb' 0 8).toNat ≤ 0xEF

end Sys2Proof.Claim

/-- BSTAT delivers a barrier object (R222); ARV and ARVD count and keep their arrival for the commit (R220, R312); BINIT, JOINB and LEAVEB
wait for the home's reply, and their message departs at once where every word of the block is decoded and everything else of it has been
counted (R97, R189, R220). -/
def Sys2Proof.Claim.BarrierFunctionsComplete : Prop :=
  (∀ q bn s f, Ready s f (.bstat q bn) → (barrierAt s bn.toNat).arr < 2 ^ 11 → (barrierAt s bn.toNat).e < 2 ^ 11 →
    Yields (.bstat q bn) s f [q.t0] (lanesOf (.bstat q bn) (opnd s f) fun _ => some (BitVec.ofNat 32 (
      (barrierAt s bn.toNat).arr + (barrierAt s bn.toNat).e * 2 ^ 11 + (if (barrierAt s bn.toNat).phase then 2 ^ 22 else 0) +
      (if (barrierAt s bn.toNat).init then 2 ^ 23 else 0) + (barrierAt s bn.toNat).facc.toNat * 2 ^ 24))) 0) ∧
  (∀ (i : Instr) q bn drop s f l a d, arrivalOf i = some (q, bn, drop) → Ready s f i → ActingA i (opnd s f) l a →
    a.extractLsb' 22 10 = 0 → Names s a d → Counts i s f q.lsid.toNat (.arrive bn.toNat drop a d)) ∧
  (∀ (i : Instr) q bn drop s f, arrivalOf i = some (q, bn, drop) → Ready s f i → IdleA i (opnd s f) →
    Counts i s f q.lsid.toNat .nothing) ∧
  (∀ (i : Instr) q bn op lo s f l a b d, homeOp b i = some (q, bn, op, lo) → Ready s f i → ActingAB i (opnd s f) l a b →
    a.extractLsb' 22 10 = 0 → Names s a d → b.toNat < 2 ^ lo → replyCount s s.focus.cell < 64 → (∀ w ∈ f.waits, w.unsent = []) →
    ∃ t, exec i s = .next t ∧
      (∃ ws p, (here t).frame = some { markFired f s.focus.slot with waits := ws } ∧ p ∈ ws ∧ p.slot = s.focus.slot ∧ p.left = [l] ∧
        p.lsid = some q.lsid.toNat) ∧
      (∀ k, memGet t.mem k = memGet s.mem k) ∧ t.full = s.full ∧ (here t).regs = (here s).regs ∧
      (f.exit.isSome = true → allDecoded f = true → (f.h1 &&& ~~~f.counted) &&& ~~~(BitVec.ofNat 32 (2 ^ q.lsid.toNat)) = 0 →
        f.h2 &&& ~~~f.wroteLo = 0 → f.h3 &&& ~~~f.wroteHi = 0 →
        ∃ m ∈ t.net, m.src = s.focus.cell ∧ m.dst = d ∧
          m.body = .barrier bn.toNat op a s.focus.ctx (.frame s.focus.cell s.focus.ctx f.serial s.focus.slot))) ∧
  (∀ (i : Instr) q bn op lo s f b, homeOp b i = some (q, bn, op, lo) → Ready s f i → IdleAB i (opnd s f) →
    replyCount s s.focus.cell < 64 → Counts i s f q.lsid.toNat .nothing)

/-- What CPATH reads of a path of a peer (R226, R440): its level, its acknowledgements, whether it is usable, and the microseconds since the last. -/
def pathReading (s : State) (p : Path) : Nat :=
  p.level % 256 + min 255 (p.acks.filter id).length * 2 ^ 8 + (if p.usable then 2 ^ 16 else 0) +
    min 255 (Config.micros s.tickNo - Config.micros p.ackAt) * 2 ^ 24

/-- The group and collective functions of the collective context: JOINC, LEAVEC, CSTART and CABORT count with what their commit does;
CSTAT and CPATH deliver their words (R223 to R226, R320, R322, R323). The age of a path sample is open (notes/assumptions/5.md). -/
def Sys2Proof.Claim.CollectiveFunctionsComplete : Prop :=
  (∀ q gt s f l a b, Ready s f (.joinc q gt) → ActingAB (.joinc q gt) (opnd s f) l a b → Collective s →
    (groupAt s gt.toNat).live = false → a.toNat + 128 ≤ progEnd s s.focus.cell →
    (∀ k, a.toNat ≤ k → k < a.toNat + 128 → isBad s (sramKey s.focus.cell k) = false) →
    (littleEndian s.mem (sramKey s.focus.cell a.toNat) 128).testBit (b.extractLsb' 0 10).toNat = true →
    Counts (.joinc q gt) s f q.lsid.toNat
      (.joinc gt.toNat (littleEndian s.mem (sramKey s.focus.cell a.toNat) 128) (b.extractLsb' 0 10).toNat)) ∧
  (∀ q gt s f, Ready s f (.leavec q gt) → Acts (.leavec q gt) (opnd s f) → Collective s → (groupAt s gt.toNat).live = true →
    (∀ o ∈ (here s).collq, o.gt ≠ gt.toNat) → Counts (.leavec q gt) s f q.lsid.toNat (.leavec gt.toNat)) ∧
  (∀ q gt s f l a, Ready s f (.cstart q gt) → ActingA (.cstart q gt) (opnd s f) l a → Collective s →
    (groupAt s gt.toNat).live = true → (groupAt s gt.toNat).poison = false → a.toNat % 16 = 0 →
    a.toNat + 32 ≤ progEnd s s.focus.cell → (∀ k, a.toNat ≤ k → k < a.toNat + 32 → isBad s (sramKey s.focus.cell k) = false) →
    DescriptorOk (descriptorAt s a.toNat) →
    Counts (.cstart q gt) s f q.lsid.toNat (.cstart gt.toNat a.toNat (descriptorAt s a.toNat))) ∧
  (∀ q gt s f, Ready s f (.cabort q gt) → Acts (.cabort q gt) (opnd s f) → Collective s →
    Counts (.cabort q gt) s f q.lsid.toNat (.cabort gt.toNat)) ∧
  (∀ q s f l a, Ready s f (.cstat q) → ActingA (.cstat q) (opnd s f) l a → Collective s →
    (groupAt s (a.extractLsb' 0 8).toNat).rank < 1024 → (groupAt s (a.extractLsb' 0 8).toNat).seq < 2 ^ 16 →
    Yields (.cstat q) s f [q.t0] (lanesOf (.cstat q) (opnd s f) fun _ => some (BitVec.ofNat 32 (
      (groupAt s (a.extractLsb' 0 8).toNat).seq + (if (groupAt s (a.extractLsb' 0 8).toNat).live then 2 ^ 16 else 0) +
      (if (groupAt s (a.extractLsb' 0 8).toNat).poison then 2 ^ 17 else 0) +
      (if (groupAt s (a.extractLsb' 0 8).toNat).busy then 2 ^ 18 else 0) +
      (groupAt s (a.extractLsb' 0 8).toNat).rank * 2 ^ 19))) 0) ∧
  (∀ q s f, Ready s f (.cstat q) → IdleA (.cstat q) (opnd s f) → Yields (.cstat q) s f [q.t0] Val.allNull 0) ∧
  (∀ q n s f l a, Ready s f (.cpath q n) → ActingA (.cpath q n) (opnd s f) l a →
    (Tbl.get {} s.peers (a.extractLsb' 0 16).toNat : Peer).known = true →
    Yields (.cpath q n) s f [q.t0] (lanesOf (.cpath q n) (opnd s f) fun _ => some (BitVec.ofNat 32 (pathReading s
      (Tbl.get {} (Tbl.get {} s.peers (a.extractLsb' 0 16).toNat : Peer).paths n.toNat)))) 0) ∧
  (∀ q n s f l a, Ready s f (.cpath q n) → ActingA (.cpath q n) (opnd s f) l a →
    (Tbl.get {} s.peers (a.extractLsb' 0 16).toNat : Peer).known = false → Yields (.cpath q n) s f [q.t0] Val.allNull 0) ∧
  (∀ q n s f, Ready s f (.cpath q n) → IdleA (.cpath q n) (opnd s f) → Yields (.cpath q n) s f [q.t0] Val.allNull 0) ∧
  (∀ q gt s f, Ready s f (.joinc q gt) → IdleAB (.joinc q gt) (opnd s f) → Counts (.joinc q gt) s f q.lsid.toNat .nothing) ∧
  (∀ q gt s f, Ready s f (.cstart q gt) → IdleA (.cstart q gt) (opnd s f) → Counts (.cstart q gt) s f q.lsid.toNat .nothing) ∧
  (∀ (i : Instr) q gt s f, (i = .leavec q gt ∨ i = .cabort q gt) → Ready s f i → ¬ Acts i (opnd s f) →
    Counts i s f q.lsid.toNat .nothing)
/-! ### Management, configuration and spawns -/

namespace Sys2Proof.Claim

open Sys2Proof Sys2Proof.Machine

/-- The privileged functions whose one operand is a management address, with their number, SUB and reply tag (R228). -/
def manage1 : Instr → Option (LF × Nat × Nat × BitVec 8)
  | .cut q r sub => some (q, 33, sub.toNat, r)
  | .save q r => some (q, 34, 0, r)
  | .restore q r sub => some (q, 35, sub.toNat, r)
  | .sflip q r sub => some (q, 37, sub.toNat, r)
  | .takeover q r => some (q, 40, 0, r)
  | _ => none

/-- The privileged functions with a second operand (R228). -/
def manage2 : Instr → Option (LF × Nat × Nat × BitVec 8)
  | .scribe q r => some (q, 36, 0, r)
  | .selftest q r => some (q, 38, 0, r)
  | .sister q r sub => some (q, 39, sub.toNat, r)
  | .clksel q r sub => some (q, 41, sub.toNat, r)
  | .winset q r => some (q, 42, 0, r)
  | .bindset q r => some (q, 43, 0, r)
  | _ => none

/-- The LSID of a privileged function: the SYS functions from 33 on, and MAPSEL (R95). -/
def privilegedLsid : Instr → Option (BitVec 5)
  | .mapsel q _ _ => some q.lsid
  | i => match manage1 i, manage2 i with
    | some m, _ => some m.1.lsid
    | none, some m => some m.1.lsid
    | none, none => none

/-- A bay controller or a sill processor: where a privileged function has its effect (R95). -/
abbrev Manager (c : Nat) : Prop := 1048576 ≤ c ∧ c < 1049604

/-- A management address as function `fn` allows it, naming the controller's own bay where a controller issues it (R228). -/
abbrev AddressOk (s : State) (fn : Nat) (a : Word) : Prop :=
  a.getLsbD 31 = false ∧ (fn ≠ 43 → a.extractLsb' 27 4 = 0) ∧ (fn ≠ 43 → fn ≠ 42 → a.extractLsb' 23 4 = 0) ∧
  (s.focus.cell < 1049600 → (a.extractLsb' 0 10).toNat = (s.focus.cell - 1048576) % 1024)

/-- What a management function sends at commit (R228). -/
def sentFunction (s : State) (fn sub : Nat) (reply : BitVec 8) (a b : Word) : Act :=
  .mgmt { fn := fn, sub := sub, addr := a, b := b, core := s.focus.cell, reply := reply.toNat, sill := decide (1049600 ≤ s.focus.cell) }

end Sys2Proof.Claim

/-- In a bay controller or a sill processor the privileged functions count with what their commit sends (R95, R228, R231); in any other
core they fault PRIV, whatever their lanes (R95). -/
def Obligations.PrivilegedFunctionsNeedAManager : Prop :=
  (∀ (i : Instr) q fn sub r s f l a, manage1 i = some (q, fn, sub, r) → Ready s f i → ActingA i (opnd s f) l a →
    Manager s.focus.cell → AddressOk s fn a → Counts i s f q.lsid.toNat (sentFunction s fn sub r a 0)) ∧
  (∀ (i : Instr) q fn sub r s f l a b, manage2 i = some (q, fn, sub, r) → Ready s f i → ActingAB i (opnd s f) l a b →
    Manager s.focus.cell → AddressOk s fn a → (fn = 38 → b.extractLsb' 7 25 = 0) →
    Counts i s f q.lsid.toNat (sentFunction s fn sub r a b)) ∧
  (∀ q map r s f l a, Ready s f (.mapsel q map r) → ActingA (.mapsel q map r) (opnd s f) l a → Manager s.focus.cell →
    Counts (.mapsel q map r) s f q.lsid.toNat (.cfg (.mapsel a map.toNat r.toNat))) ∧
  (∀ (i : Instr) q fn sub r s f, manage1 i = some (q, fn, sub, r) → Ready s f i → IdleA i (opnd s f) → Manager s.focus.cell →
    Counts i s f q.lsid.toNat .nothing) ∧
  (∀ (i : Instr) q fn sub r s f, manage2 i = some (q, fn, sub, r) → Ready s f i → IdleAB i (opnd s f) → Manager s.focus.cell →
    Counts i s f q.lsid.toNat .nothing) ∧
  (∀ q map r s f, Ready s f (.mapsel q map r) → IdleA (.mapsel q map r) (opnd s f) → Manager s.focus.cell →
    Counts (.mapsel q map r) s f q.lsid.toNat .nothing) ∧
  (∀ (i : Instr) n s f, privilegedLsid i = some n → Ready s f i → ¬ Manager s.focus.cell → Faults i s f .priv 0 0 n.toNat)

/-- SETTLE at trap level 1, the configuration functions and SPAWN count with what their commit does; CFGSTAT delivers its word (R227, R229,
R230, R232). That CFGREQ does not look at B[31:24], which R229 wants zero, is the model's choice (notes/assumptions/82.md). -/
def Obligations.ConfigurationFunctionsComplete : Prop :=
  (∀ q n v s f, Ready s f (.settle q n v) → Acts (.settle q n v) (opnd s f) → (here s).tl = true →
    Counts (.settle q n v) s f q.lsid.toNat (.settle n.toNat v)) ∧
  (∀ q n v s f, Ready s f (.settle q n v) → ¬ Acts (.settle q n v) (opnd s f) → Counts (.settle q n v) s f q.lsid.toNat .nothing) ∧
  (∀ q s f r, Ready s f (.cfgstat q) → regionOf s s.focus.cell = some r → (here s).cfgOut < 256 → (regionAt s r).mapping < 4 →
    Yields (.cfgstat q) s f [q.t0] (lanesOf (.cfgstat q) (opnd s f) fun _ => some (BitVec.ofNat 32 (
      (here s).cfgOut + (if (regionAt s r).st = .draining then 2 ^ 8 else 0) + (regionAt s r).mapping * 2 ^ 9 +
      (if mapselPending (regionAt s r) then 2 ^ 11 else 0)))) 0) ∧
  (∀ q g s f l a b, Ready s f (.cfgreq q g) → ActingAB (.cfgreq q g) (opnd s f) l a b →
    Counts (.cfgreq q g) s f q.lsid.toNat (.cfg (.request (a.extractLsb' 0 16).toNat b g.toNat))) ∧
  (∀ q g s f, Ready s f (.cfgreq q g) → IdleAB (.cfgreq q g) (opnd s f) → Counts (.cfgreq q g) s f q.lsid.toNat .nothing) ∧
  (∀ q r s f l a, Ready s f (.cfgrel q r) → ActingA (.cfgrel q r) (opnd s f) l a →
    Counts (.cfgrel q r) s f q.lsid.toNat (.cfg (.release a r.toNat))) ∧
  (∀ q r s f, Ready s f (.cfgrel q r) → IdleA (.cfgrel q r) (opnd s f) → Counts (.cfgrel q r) s f q.lsid.toNat .nothing) ∧
  (∀ q x cls s f l a b o wh r (x0 y0 : Nat) d, Ready s f (.spawn q x cls) → ActingAB (.spawn q x cls) (opnd s f) l a b →
    laneC (opnd s f) 0 = some o → laneC (opnd s f) 1 = some wh → a.toNat % 16 = 0 → regionOf s s.focus.cell = some r →
    (x0 : Int) = ((cellOf s s.focus.cell).regpos.extractLsb' 0 16).toNat + (o.extractLsb' 0 16).toInt →
    (y0 : Int) = ((cellOf s s.focus.cell).regpos.extractLsb' 16 16).toNat + (o.extractLsb' 16 16).toInt →
    x0 + (wh.extractLsb' 0 16).toNat + 1 ≤ (regionAt s r).w → y0 + (wh.extractLsb' 16 16).toNat + 1 ≤ (regionAt s r).h →
    regionCell s s.focus.cell x0 y0 = some d →
    Counts (.spawn q x cls) s f q.lsid.toNat (.spawn
      { ctx := x.toNat, cls := cls.toNat, hdr := a.toNat, arg := b, x := 0, y := 0, w := (wh.extractLsb' 0 16).toNat + 1,
        h := (wh.extractLsb' 16 16).toNat + 1, asker := .nobody } d o)) ∧
  (∀ q x cls s f, Ready s f (.spawn q x cls) →
    (IdleAB (.spawn q x cls) (opnd s f) ∨ laneC (opnd s f) 0 = none ∨ laneC (opnd s f) 1 = none) →
    Counts (.spawn q x cls) s f q.lsid.toNat .nothing)
/-! ### Faults at firing and at delivery; what no firing changes -/

namespace Sys2Proof.Claim

open Sys2Proof Sys2Proof.Machine

/-- Instructions that raise their faults at firing by rules of R194 to R232, with the words they act on: the fault's cause, TADDR, lanes
and LSID where the rule gives one. -/
def functionFault (s : State) (f : Frame) (o : Slot) (l : Nat) (a : Word) : Instr → Option (Cause × Word × Nat × BitVec 5)
  | .send q act ch => if carried (here s) (laneB o 0) act = none then some (.tagspace, (here s).itag.setWidth 32, 0, q.lsid)
      else if (chanEntry s ch).getLsbD 31 then none else some (.channel, ch.setWidth 32, 0, q.lsid)
  | .tblock q t => if (boundTo s t.toNat).getLsbD 31 && !(((boundTo s t.toNat).extractLsb' 23 3).toNat == s.focus.ctx)
      then some (.prot, t.setWidth 32, 0, q.lsid) else none
  | .tunblk q t => if (boundTo s t.toNat).getLsbD 31 && !(((boundTo s t.toNat).extractLsb' 23 3).toNat == s.focus.ctx)
      then some (.prot, t.setWidth 32, 0, q.lsid) else none
  | .tsalloc q lv => if (parentRow (here s) lv.toNat).isSome || !((a.extractLsb' 4 2).toNat + 1 == lv.toNat)
      then some (.tagspace, (here s).itag.setWidth 32, 2 ^ l, q.lsid) else none
  | .tsfree q lv => if parentRow (here s) lv.toNat = none then some (.tagspace, (here s).itag.setWidth 32, 0, q.lsid) else none
  | .tkill q lv _ => if parentRow (here s) lv.toNat = none then some (.tagspace, (here s).itag.setWidth 32, 2 ^ l, q.lsid) else none
  | .mxcfg q true => if (engine s).owner = some s.focus.ctx then none else some (.prot, 0, 0, q.lsid)
  | .mxrun q => if (engine s).owner = some s.focus.ctx then none else some (.prot, 0, 0, q.lsid)
  | .mxclr q first n => if (engine s).owner = some s.focus.ctx then
        (if 64 < first.toNat + n.toNat + 1 then some (.illegal, BitVec.ofNat 32 (slotAddr f s.focus.slot), 0, q.lsid) else none)
      else some (.prot, 0, 0, q.lsid)
  | .mxldb q _ true => if (engine s).owner = some s.focus.ctx then none else some (.prot, 0, 0, q.lsid)
  | .arv q _ => if a.extractLsb' 22 10 = 0 then none else some (.channel, a, 2 ^ l, q.lsid)
  | .arvd q _ => if a.extractLsb' 22 10 = 0 then none else some (.channel, a, 2 ^ l, q.lsid)
  | .joinc q gt => if collCtx s s.focus.cell = some s.focus.ctx ∧ (groupAt s gt.toNat).live = false then none
      else if collCtx s s.focus.cell = some s.focus.ctx ∧ progEnd s s.focus.cell < a.toNat + 128 then none
      else some (.collGroup, gt.setWidth 32, 0, q.lsid)
  | .leavec q gt => if collCtx s s.focus.cell = some s.focus.ctx ∧ (groupAt s gt.toNat).live = true then none
      else some (.collGroup, gt.setWidth 32, 0, q.lsid)
  | .cstart q gt => if collCtx s s.focus.cell = some s.focus.ctx then (if a.toNat % 16 = 0 then none else some (.align, a, 0, q.lsid))
      else some (.collGroup, gt.setWidth 32, 0, q.lsid)
  | .cabort q gt => if collCtx s s.focus.cell = some s.focus.ctx then none else some (.collGroup, gt.setWidth 32, 0, q.lsid)
  | .settle q _ _ => if (here s).tl then none else some (.illegal, BitVec.ofNat 32 (slotAddr f s.focus.slot), 0, q.lsid)
  | .spawn q _ _ => if a.toNat % 16 = 0 then none else some (.align, a, 2 ^ l, q.lsid)
  | _ => none

/-- The functions of the table above that act over A and B, over A, or over nothing (R188). -/
def overAB : Instr → Bool
  | .joinc _ _ => true
  | .spawn _ _ _ => true
  | _ => false

/-- Whether a function of that table reads A alone. -/
def overA : Instr → Bool
  | .tsalloc _ _ | .tkill _ _ _ | .mxrun _ | .arv _ _ | .arvd _ _ | .cstart _ _ => true
  | _ => false

/-- The function acts with its words in lane `l` (R188, R193, R230). -/
abbrev ActsWith (i : Instr) (o : Slot) (l : Nat) (a b : Word) : Prop :=
  match i with
  | .send _ act _ => AnyA i o ∧ SetReady act o
  | .spawn _ _ _ => ActingAB i o l a b ∧ (laneC o 0).isSome = true ∧ (laneC o 1).isSome = true
  | i => if overAB i then ActingAB i o l a b else if overA i then ActingA i o l a else Acts i o

/-- The fault of delivering a value to one target of a frame, or none (R32, R81): a slot of NINST or above, a position that the
instruction does not use, or one that already holds a value; a register not declared or already written. -/
def deliveryFault (f : Frame) (t : Target) : Option (Cause × Word) :=
  let at_ (n : BitVec 7) (uses : Instr → Bool) (taken : Bool) : Bool :=
    match slotInstr f n.toNat with
    | none => decide (f.words.length ≤ n.toNat) || taken
    | some i => !uses i || taken
  match t with
  | .none => none
  | .a n => if at_ n usesA (slotOf f n.toNat).a.isSome then some (.target, 0) else none
  | .b n => if at_ n usesB (slotOf f n.toNat).b.isSome then some (.target, 0) else none
  | .c n => if at_ n usesC (slotOf f n.toNat).c.isSome then some (.target, 0) else none
  | .p n => if at_ n (fun i => prOf i != .always) (slotOf f n.toNat).p.isSome then some (.target, 0) else none
  | .w r => if (f.h2 ++ f.h3 : BitVec 64).getLsbD (if r.toNat < 32 then r.toNat + 32 else r.toNat - 32) = true ∧
      (f.wroteLo ++ f.wroteHi : BitVec 64).getLsbD (if r.toNat < 32 then r.toNat + 32 else r.toNat - 32) = false then none
      else some (.overrun, r.setWidth 32)

/-- The fault of delivering one value to several targets, the first target's before the second's; a target named twice takes only one
value (R32, R81). -/
def targetsFault (f : Frame) : List Target → Option (Cause × Word)
  | [t] => deliveryFault f t
  | [t, u] =>
    match deliveryFault f t with
    | some k => some k
    | none =>
      if t = u then (match t with | .none => none | .w r => some (.overrun, r.setWidth 32) | _ => some (.target, 0))
      else deliveryFault f u
  | _ => none

/-- The targets of the dataflow, lane, integer, test and immediate instructions, which end in the delivery of one value (R102, R104 to R116, R156 to
R158). -/
def producing (v : Context) (f : Frame) (o : Slot) (i : Instr) : Option (List Target) :=
  match arith2 i, arith3 i, divShift2 i, bits1 i, tests2 i, tests1 i with
  | some x, _, _, _, _, _ => some [x.1.t0, x.1.t1]
  | _, some x, _, _, _, _ => some [x.1.t0, x.1.t1]
  | _, _, some x, _, _, _ => some [x.1.t0, x.1.t1]
  | _, _, _, some x, _, _ => some [x.1.t0, x.1.t1]
  | _, _, _, _, some x, _ => some [x.1.t0, x.1.t1]
  | _, _, _, _, _, some x => some [x.1.t0, x.1.t1]
  | _, _, _, _, _, _ =>
    match immed i, dataflow v f o i, laneMove i o, i with
    | some x, _, _, _ => some [x.1]
    | _, some x, _, _ => some x.1
    | _, _, some x, _ => some [x.1.t0, x.1.t1]
    | _, _, _, .bfi g => some [g.t0, g.t1]
    | _, _, _, .uni _ g => some [g.t0, g.t1]
    | _, _, _, .lcmp g => some [g.t0, g.t1]
    | _, _, _, .lxpd g => some [g.t0, g.t1]
    | _, _, _, .lscan .add g => some [g.t0, g.t1]
    | _, _, _, .lred .add g => some [g.t0, g.t1]
    | _, _, _, _ => none

/-- The instructions that count an LSID at firing, also where no lane matches (R29, R170, R175, R178, R188, R193). -/
def countsAtFiring : Instr → Option (BitVec 5)
  | .stw st | .sth st | .stb st | .stv st | .stvs st => some st.lsid
  | .amo _ f | .cas f | .upd _ f => if f.noret then some f.lsid else none
  | .clrp q _ | .spw q _ | .send q _ _ | .sendm q _ _ | .tblock q _ | .tunblk q _ | .tsalloc q _ | .tsfree q _ | .tkill q _ _ | .tbind q _
  | .lpush q _ | .csig q _ _ | .sdef q _ | .sgo q _ _ | .sstop q _ _ | .sbar q _ _ | .scond q _ _ | .sfmt q _ | .mxcfg q _ | .mxldb q _ _
  | .mxrun q | .mxclr q _ _ | .arv q _ | .arvd q _ | .joinc q _ | .leavec q _ | .cstart q _ | .cabort q _ | .settle q _ _ | .cfgreq q _
  | .cfgrel q _ | .spawn q _ _ => some q.lsid
  | .fence q _ => some q.lsid
  | _ => none

/-- The instructions that stand in blocks: those with a word. -/
def inBlock (i : Instr) : Bool := (encodeNat i).isSome

end Sys2Proof.Claim

/-- The faults that the sends, the tag, matrix, barrier, collective, SETTLE and SPAWN functions raise at firing, when they act: cause,
TADDR, lanes and LSID (R188, R194, R195, R197, R199, R200, R212, R218, R223 to R225, R227, R230, R312, R319, R374). -/
def Sys2Proof.Claim.FunctionsFaultAtFiring : Prop :=
  ∀ (i : Instr) s f l a b k ta lanes n, Ready s f i → ActsWith i (opnd s f) l a b → l < 8 → (cellOf s s.focus.cell).slot = none →
    functionFault s f (opnd s f) l a i = some (k, ta, lanes, n) → Faults i s f k ta lanes n.toNat

/-- A value delivered to a position that cannot take it faults TARGET, a register write that was not declared or was already counted faults
OVERRUN (every dataflow, lane, integer, test and immediate instruction, both targets), and a side effect whose LSID is not declared or already
counted faults OVERRUN (every instruction that counts at firing, where no lane matches; SPW, CSIG, the stream and the configuration functions also
where they act) (R32, R81, R374). That a record's LSID reads 0 and its TADDR 0 where R374 names none is the model's reading
(notes/assumptions/58.md), and so is the first target's fault before the second's (93.md). -/
def Sys2Proof.Claim.DeliveryAndCountingFaults : Prop :=
  (∀ (i : Instr) s f ts k a, Ready s f i → producing (here s) f (opnd s f) i = some ts →
    targetsFault (markFired f s.focus.slot) ts = some (k, a) →
    Faults i s f k (if k = .target then BitVec.ofNat 32 (slotAddr f s.focus.slot) else a) 0 0) ∧
  (∀ (i : Instr) s f n, Ready s f i → countsAtFiring i = some n → ¬ Acts i (opnd s f) → ¬ Declares f n.toNat →
    Faults i s f .overrun 0 0 n.toNat) ∧
  (∀ q reg s f, Ready s f (.spw q reg) → ¬ Declares f q.lsid.toNat → Faults (.spw q reg) s f .overrun 0 0 q.lsid.toNat) ∧
  (∀ q ch reg s f, Ready s f (.csig q ch reg) → ¬ Declares f q.lsid.toNat → Faults (.csig q ch reg) s f .overrun 0 0 q.lsid.toNat) ∧
  (∀ (i : Instr) q act s f, streamNoWord i = some (q, act) → Ready s f i → ¬ Declares f q.lsid.toNat →
    Faults i s f .overrun 0 0 q.lsid.toNat) ∧
  (∀ (i : Instr) q act s f l a, streamWord a i = some (q, act) → Ready s f i → ActingA i (opnd s f) l a → ¬ Declares f q.lsid.toNat →
    Faults i s f .overrun 0 0 q.lsid.toNat) ∧
  (∀ (i : Instr) q (x : BitVec 8) s f, (i = .cfgreq q x ∨ i = .cfgrel q x) → Ready s f i → ¬ Declares f q.lsid.toNat →
    Faults i s f .overrun 0 0 q.lsid.toNat)

/-- What no firing of a block's instruction changes, whatever its outcome: registers, argument buffer, tables, FLAGS, FMODE and TRAPV of
every context of its core; their pending entries, but for the one whose refusal a FENCE delivers (R176); every byte of memory and of host
  memory, presence bits and errors; bindings, barriers, links, pulses, stream
units, bays but for their counts of uncorrectable words, ports, regions and jobs; and every other core but for the waiter entries of the
frame (R26, R29, R31, R33). -/
def Obligations.FiringsLeaveArchitecturalState : Prop :=
  ∀ (i : Instr) s t, inBlock i = true → exec i s = .next t →
    (∀ y, (ctxOf t s.focus.cell y).regs = (ctxOf s s.focus.cell y).regs ∧ (ctxOf t s.focus.cell y).args = (ctxOf s s.focus.cell y).args ∧
      (ctxOf t s.focus.cell y).flags = (ctxOf s s.focus.cell y).flags ∧ (ctxOf t s.focus.cell y).fmode = (ctxOf s s.focus.cell y).fmode ∧
      (ctxOf t s.focus.cell y).trapv = (ctxOf s s.focus.cell y).trapv ∧ (ctxOf t s.focus.cell y).calls = (ctxOf s s.focus.cell y).calls ∧
      (ctxOf t s.focus.cell y).wins = (ctxOf s s.focus.cell y).wins ∧ (ctxOf t s.focus.cell y).chans = (ctxOf s s.focus.cell y).chans ∧
      (ctxOf t s.focus.cell y).parents = (ctxOf s s.focus.cell y).parents ∧
      ((∀ q sc, i ≠ .fence q sc) → (ctxOf t s.focus.cell y).pend = (ctxOf s s.focus.cell y).pend)) ∧
    (∀ k, memGet t.mem k = memGet s.mem k) ∧ t.full = s.full ∧ t.bad = s.bad ∧ t.hostMem = s.hostMem ∧
    (coreOf t s.focus.cell).bindings = (coreOf s s.focus.cell).bindings ∧ (coreOf t s.focus.cell).bars = (coreOf s s.focus.cell).bars ∧
    (coreOf t s.focus.cell).linkW = (coreOf s s.focus.cell).linkW ∧ (coreOf t s.focus.cell).linkN = (coreOf s s.focus.cell).linkN ∧
    (coreOf t s.focus.cell).pulses = (coreOf s s.focus.cell).pulses ∧ (coreOf t s.focus.cell).units = (coreOf s s.focus.cell).units ∧
    (coreOf t s.focus.cell).tokens = (coreOf s s.focus.cell).tokens ∧ (coreOf t s.focus.cell).gcache = (coreOf s s.focus.cell).gcache ∧
    (coreOf t s.focus.cell).joins = (coreOf s s.focus.cell).joins ∧
    (∀ d, d ≠ s.focus.cell → ∀ y, ctxOf t d y = ctxOf s d y) ∧
    (∀ b, bayAt t b = { bayAt s b with uncorr := (bayAt t b).uncorr }) ∧ t.ports = s.ports ∧ t.regions = s.regions ∧ t.jobs = s.jobs ∧
      t.focus = s.focus
/-! ### Memory, reset and the invariant -/

namespace Sys2Proof.Claim

open Sys2Proof Sys2Proof.Machine

/-- A context as R9 starts it: registers zero, an argument buffer of nulls with ARGN 1, an empty call stack, unallocated parent rows,
FREE entries, no window or channel, and every special register at its reset value (R130 to R139). -/
def StartsClean (v : Context) : Prop :=
  (∀ r l, l < 8 → regLane v r l = 0) ∧ v.args = [Val.allNull, Val.allNull, Val.allNull, Val.allNull] ∧ v.argn = 1 ∧ v.calls = [] ∧
  (∀ l, Tbl.get none v.parents l = none) ∧ v.pend = [] ∧ v.lateQ = [] ∧ (∀ w, (Tbl.get {} v.wins w : Win).w0.getLsbD 31 = false) ∧
  (∀ n, (Tbl.get 0 v.chans n : Word).getLsbD 31 = false) ∧
  v.rtag = 0 ∧ v.itag = 0 ∧ v.flags = 0 ∧ v.fmode = 0 ∧ v.trapv = 0 ∧ v.tcause = 0 ∧ v.tblock = 0 ∧ v.taddr = 0 ∧ v.tinfo = 0 ∧
  v.tl = false ∧ v.nopreb = 65536 ∧ v.evsel = 0 ∧ v.evcnt = 0

/-- The block in context `x` of core `c` ends in `goto h` with one side effect, `e`, no register written. -/
abbrev OneEffect (s : State) (c x : Nat) (f : Frame) (h : Nat) (e : Eff) : Prop :=
  Finished s c x f (.goto h) ∧ f.regs = [] ∧ f.effs = [e]

end Sys2Proof.Claim

/-- After reset every context of every core is as R9 says, and IDLE; every binding is invalid with CLASS 0b11, and no group entry is live;
and the neighbour
registers, the spine and the duty register hold the values of their maps (R6, R9, R12, R132, R137, R367). -/
def Obligations.ResetLeavesTheSpecsValues : Prop :=
  (∀ c x, StartsClean (ctxOf State.reset c x) ∧ (ctxOf State.reset c x).st = .idle) ∧
  (∀ c t, bindingOf (coreOf State.reset c) t = 0x30000000) ∧ (∀ c g, (groupOf State.reset c g).live = false) ∧
  (∀ c, (cellOf State.reset c).npn = 0xFF00 ∧ (cellOf State.reset c).npe = 0x0001 ∧ (cellOf State.reset c).nps = 0x0100 ∧
    (cellOf State.reset c).npw = 0x00FF ∧ (cellOf State.reset c).spine = 6 ∧ (cellOf State.reset c).energy = 0 ∧
    (cellOf State.reset c).cyc = 0 ∧ (cellOf State.reset c).regpos = 0 ∧ (cellOf State.reset c).regdim = 0 ∧
    (cellOf State.reset c).isduty = 0x4040)

/-- The memories and the presence bits stay in canonical form through every step, of instructions and of events alike
(notes/assumptions/3.md). -/
def Obligations.StepsKeepMemoryCanonical : Prop := ∀ s t, Canonical s → step s = .next t → Canonical t

/-- The state after reset is canonical. -/
def Obligations.ResetIsCanonical : Prop := Canonical State.reset

/-- No instruction and no event stops the machine except a block's instruction in a context without a block, which no step of the machine
runs: `exec` answers a next state (R27, R31). -/
def Obligations.NothingStopsTheMachine : Prop :=
  (∀ (i : Instr) s, ((here s).frame ≠ none ∨ isEvent i = true) → ∃ t, exec i s = .next t) ∧ (∀ s, ∃ t, step s = .next t)

/-- A byte reads as the last value written there, and every other byte is left alone; equal canonical memories are those that read
equal (R1, R279). -/
def Obligations.MemoryReadsWhatWasWritten : Prop :=
  (∀ m k b, Memory.wf m = true → memGet (memPut m k b) k = b) ∧ (∀ m k b j, j ≠ k → memGet (memPut m k b) j = memGet m j) ∧
  (∀ s k n v j, Memory.wf s.mem = true → j < n → memGet (rawWrite s k n v).mem (k + j) = BitVec.ofNat 8 (v / 2 ^ (8 * j))) ∧
  (∀ s k n v j, (j < k ∨ k + n ≤ j) → memGet (rawWrite s k n v).mem j = memGet s.mem j) ∧
  (∀ m w, Memory.wf m = true → Memory.wf w = true → (∀ k, memGet m k = memGet w k) → m = w)

/-- The acts of a block on its own core take effect at its commit: bindings (R13, R197, R198), rows of the parent tag table (R199), control
pulses (R205), links (R203, R204) and the matrix engine (R212). -/
def Sys2Proof.Claim.CommitAppliesLocalActs : Prop :=
  (∀ s c x f h e tag b, Finished s c x f (.goto h) → f.regs = [] → f.effs = [e] → e.act = .setBlk tag b →
    bindingOf (coreOf s c) tag &&& 0xFF80FFF0 = bindingOf (coreOf s c) tag →
    ∃ u, CommitsTo s c x u ∧
      bindingOf (coreOf u c) tag = (if b then bindingOf (coreOf s c) tag ||| 0x40000000 else bindingOf (coreOf s c) tag &&& 0xBFFFFFFF) ∧
      (∀ t, t ≠ tag → bindingOf (coreOf u c) t = bindingOf (coreOf s c) t) ∧ u.mem = s.mem) ∧
  (∀ s c x f h e tag w, Finished s c x f (.goto h) → f.regs = [] → f.effs = [e] → e.act = .bind tag w → BindWord w x →
    ∃ u, CommitsTo s c x u ∧ bindingOf (coreOf u c) tag = w ∧
      (∀ t, t ≠ tag → bindingOf (coreOf u c) t = bindingOf (coreOf s c) t) ∧ u.mem = s.mem) ∧
  (∀ s c x f h e l p, Finished s c x f (.goto h) → f.regs = [] → f.effs = [e] → e.act = .tsAlloc l p →
    ∃ u, CommitsTo s c x u ∧ parentRow (ctxOf u c x) l = some p ∧
      (∀ k, k ≠ l → parentRow (ctxOf u c x) k = parentRow (ctxOf s c x) k) ∧ u.mem = s.mem) ∧
  (∀ s c x f h e n, Finished s c x f (.goto h) → f.regs = [] → f.effs = [e] → e.act = .csig n false →
    ∃ u, CommitsTo s c x u ∧ Tbl.get 0 (coreOf u c).pulses n = min 15 (Tbl.get 0 (coreOf s c).pulses n + 1) ∧
      (∀ k, k ≠ n → Tbl.get 0 (coreOf u c).pulses k = Tbl.get 0 (coreOf s c).pulses k) ∧ u.mem = s.mem) ∧
  (∀ s c x f h e v rest, Finished s c x f (.goto h) → f.regs = [] → f.effs = [e] → e.act = .lpop true false →
    (coreOf s c).linkW = v :: rest →
    ∃ u, CommitsTo s c x u ∧ (coreOf u c).linkW = rest ∧ (coreOf u c).linkN = (coreOf s c).linkN ∧ u.mem = s.mem) ∧
  (∀ s c x f h e v rest, Finished s c x f (.goto h) → f.regs = [] → f.effs = [e] → e.act = .lpop false false →
    (coreOf s c).linkN = v :: rest →
    ∃ u, CommitsTo s c x u ∧ (coreOf u c).linkN = rest ∧ (coreOf u c).linkW = (coreOf s c).linkW ∧ u.mem = s.mem) ∧
  (∀ s c x f h e east v d, OneEffect s c x f h e → e.act = .lpush east v → linkInside s c east = true →
    coreOffset s c (if east then 1 else 0) (if east then 0 else 1) = some d → linkLoad s d east < 8 →
    ∃ u, CommitsTo s c x u ∧ (∃ m ∈ u.net, m.src = c ∧ m.dst = d ∧ m.vc = 5 ∧ m.body = .link east v) ∧ (coreOf u c).linkW = (coreOf s c).linkW ∧
      (coreOf u c).linkN = (coreOf s c).linkN ∧ (ctxOf u c x).pc = some h ∧ u.mem = s.mem) ∧
  (∀ s c x f h e east v d, OneEffect s c x f h e → e.act = .lpush east v → linkInside s c east = true →
    coreOffset s c (if east then 1 else 0) (if east then 0 else 1) = some d → 8 ≤ linkLoad s d east →
    ∃ u, CommitsTo s c x u ∧ (ctxOf u c x).frame = some f ∧ u.net = s.net ∧ u.mem = s.mem) ∧
  (∀ s c x f h e, Finished s c x f (.goto h) → f.regs = [] → f.effs = [e] → e.act = .mxcfg true 0 →
    ∃ u, CommitsTo s c x u ∧ (coreOf u c).mx.owner = none ∧ u.mem = s.mem) ∧
  (∀ s c x f h e m, Finished s c x f (.goto h) → f.regs = [] → f.effs = [e] → e.act = .mxcmd m → (coreOf s c).mx.queue.length < 4 →
    ∃ u, CommitsTo s c x u ∧ (∃ waits, (coreOf u c).mx.queue = (coreOf s c).mx.queue ++ [(m, waits)]) ∧ u.mem = s.mem) ∧
  (∀ s c x f h e m, Finished s c x f (.goto h) → f.regs = [] → f.effs = [e] → e.act = .mxcmd m → 4 ≤ (coreOf s c).mx.queue.length →
    ∃ u, CommitsTo s c x u ∧ (ctxOf u c x).frame = some f ∧ (coreOf u c).mx = (coreOf s c).mx ∧ (ctxOf u c x).regs = (ctxOf s c x).regs)

/-- A block with a remote side effect commits into a free pending entry, which is opened with its kind, LSID and slot, and its message
departs at the commit (R33, R34, R379), that of TSFREE to the cells of its region, whose row is free from then on (R199, R201); while the table has no
free entry the block waits (R34). -/
def Sys2Proof.Claim.CommitOpensPendingEntries : Prop :=
  (∀ s c x f h e d t w, Finished s c x f (.goto h) → f.regs = [] → f.effs = [e] → e.act = .sendDyn d t w → t.tuple = none →
    (ctxOf s c x).pend = [] →
    ∃ u p, CommitsTo s c x u ∧ (ctxOf u c x).pend = [(0, p)] ∧ p.st = .opened ∧ p.kind = 5 ∧ p.lsid = e.lsid ∧ p.slot = e.slot ∧
      p.addr = w ∧
      (∃ m ∈ u.net, m.src = c ∧ m.dst = d ∧ m.body = .token t (.entry c x 0)) ∧ u.mem = s.mem ∧
      (ctxOf u c x).pc = some h) ∧
  (∀ s c x f h e l r, OneEffect s c x f h e → e.act = .tsFree l → (ctxOf s c x).pend = [] → regionOf s c = some r →
    ∃ u p, CommitsTo s c x u ∧ parentRow (ctxOf u c x) l = none ∧ (∀ k, k ≠ l → parentRow (ctxOf u c x) k = parentRow (ctxOf s c x) k) ∧
      (ctxOf u c x).pend = [(0, p)] ∧ p.st = .opened ∧ p.kind = 7 ∧ p.lsid = e.lsid ∧ p.slot = e.slot ∧ p.left = (regionCells s r).length ∧
      (∃ m ∈ u.net, m.src = c ∧ m.dst = regionOrigin s r ∧ m.body = .killClear x l (.entry c x 0)) ∧ (ctxOf u c x).pc = some h ∧ u.mem = s.mem) ∧
  (∀ s c x f n e d t w k, (ctxOf s c x).frame = some f → f.exit = some (k, n) → x < 4 → f.counted &&& f.h1 = f.h1 →
    f.wroteLo &&& f.h2 = f.h2 → f.wroteHi &&& f.h3 = f.h3 → coreActs s c = true → allDecoded f = true →
    ((ctxOf s c x).nopre = true → (ctxOf s c x).nopreb ≠ 0) → olderReady s c x f.serial = false → f.effs = [e] → e.act = .sendDyn d t w →
    (∀ i, i < 32 → (Tbl.get {} (ctxOf s c x).pend i : Entry).st = .opened) →
    ∃ u, exec (.blockCommit c x) s = .next (settleCore u c) ∧ (ctxOf u c x).frame = some f ∧ (ctxOf u c x).regs = (ctxOf s c x).regs ∧
      u.mem = s.mem ∧ u.net = s.net)
/-! ### Events of activations and late faults -/

namespace Sys2Proof.Claim

open Sys2Proof Sys2Proof.Machine

/-- An idle user context with nothing due before its next activation (R20, R21, R38, R288, R330, R343, R394). -/
structure Idle (s : State) (c x : Nat) : Prop where
  user : x < 4
  runs : coreActs s c = true
  idle : (ctxOf s c x).st = .idle
  late : (ctxOf s c x).lateQ = []
  windows : (ctxOf s c x).winsets = []
  saves : (ctxOf s c x).saves = []
  slot : slotDue s c x = false

/-- The only queued activation of the core is that of token `q`, for the tag of a binding of arity 1. -/
abbrev OneToken (s : State) (c : Nat) (q : Queued) : Prop :=
  (coreOf s c).tokens = [q] ∧ (coreOf s c).joins = [] ∧ (coreOf s c).spawnQ = [] ∧ (coreOf s c).updTok = [] ∧ q.t.tag < 256 ∧
    q.held = false ∧ q.t.src = none ∧
  q.t.release = false

/-- The argument buffer with one input (R21). -/
def oneInput (v : Val) : List Val := [v, Val.allNull, Val.allNull, Val.allNull]

/-- The late record of TINFO (R134, R375). -/
def lateInfo (lanes info : Nat) : Word := BitVec.ofNat 32 (2 ^ 31 + 0x7F * 2 ^ 16 + lanes * 2 ^ 8 + info)

/-- A late cause with no pending entry is the first of context `x`, and no engine of the core holds one back (R375, R376). -/
abbrev FirstLate (s : State) (c x : Nat) (l : Late) (rest : List Late) : Prop :=
  (ctxOf s c x).lateQ = l :: rest ∧ l.entry = none ∧ (coreOf s c).units = [] ∧ (coreOf s c).mx.late = none ∧ l.lanes < 256 ∧ l.info < 32 ∧
  (ctxOf s c x).spec = []

/-- Context `x` is at trap level 1 in its handler with the record of a late cause (R45, R124, R376). -/
def TakesLate (s u : State) (c x : Nat) (l : Late) (rest : List Late) (block : Option Nat) : Prop :=
  (ctxOf u c x).st = .trapped ∧ (ctxOf u c x).tl = true ∧ (ctxOf u c x).pc = some (ctxOf s c x).trapv.toNat ∧
  (ctxOf u c x).tcause = BitVec.ofNat 32 (causeCode l.cause + (if rest = [] then 0 else 256)) ∧
  (ctxOf u c x).tblock = BitVec.ofNat 32 (block.getD 0) ∧ (ctxOf u c x).taddr = l.taddr ∧ (ctxOf u c x).tinfo = lateInfo l.lanes l.info ∧
  (ctxOf u c x).trapRec = some ⟨block, block, (ctxOf s c x).calls.length⟩ ∧ (ctxOf u c x).lateQ = rest ∧
  (ctxOf u c x).regs = (ctxOf s c x).regs ∧ u.mem = s.mem

end Sys2Proof.Claim

/-- ACTIVATION_START, CLASS0_INTERJECTION, UPDATE_ACTIVATION_START and NEXT_BLOCK_PREDICTION: what a context runs next, and what it
saves (R20, R21, R24 to R26, R37 to R39, R182). -/
def Sys2Proof.Claim.ActivationsStart : Prop :=
  (∀ s c x cls q, Idle s c x → OneToken s c q → pickTag s c x = some (cls, q.t.tag) →
    ∃ u, exec (.activationStart c x) s = .next (settleCore u c) ∧ (ctxOf u c x).st = .running ∧ (ctxOf u c x).rtag = q.t.tag ∧
      (ctxOf u c x).itag = q.t.itag ∧ (ctxOf u c x).argn = 1 ∧ (ctxOf u c x).args = oneInput q.t.lanes ∧
      (ctxOf u c x).pc = some (((bindingOf (coreOf s c) q.t.tag).extractLsb' 4 12).toNat * 16) ∧
      (ctxOf u c x).regs = (ctxOf s c x).regs ∧ (coreOf u c).tokens = [] ∧ (∀ y, y ≠ x → ctxOf u c y = ctxOf s c y) ∧ u.mem = s.mem) ∧
  (∀ s c x cls j n, Idle s c x → (coreOf s c).tokens = [] → (coreOf s c).updTok = [] → (coreOf s c).spawnQ = [] →
    (coreOf s c).joins = [j] → j.tag < 256 →
    j.done = some n → j.solo = false → j.releases = [] → j.srcs = [] → pickTag s c x = some (cls, j.tag) →
    ∃ u, exec (.activationStart c x) s = .next (settleCore u c) ∧ (ctxOf u c x).st = .running ∧ (ctxOf u c x).rtag = j.tag ∧
      (ctxOf u c x).itag = j.itag ∧ (ctxOf u c x).argn = ((bindingOf (coreOf s c) j.tag).extractLsb' 26 2).toNat + 1 ∧
      (∀ p, p < 4 → (ctxOf u c x).args[p]? = some (if p < ((bindingOf (coreOf s c) j.tag).extractLsb' 26 2).toNat + 1
        then ((j.ports[p]?).join).getD Val.allNull else Val.allNull)) ∧
      (ctxOf u c x).regs = (ctxOf s c x).regs ∧ (coreOf u c).joins = [] ∧ u.mem = s.mem) ∧
  (∀ s c x q h, interjects s c x = true → OneToken s c q → (ctxOf s c x).pc = some h → (ctxOf s c x).spec = [] →
    readyClass0 (coreOf s c) x = [q.t.tag] →
    ∃ u, exec (.class0Interjection c x) s = .next (settleCore u c) ∧ (ctxOf u c x).st = .running ∧ (ctxOf u c x).rtag = q.t.tag ∧
      (ctxOf u c x).itag = q.t.itag ∧ (ctxOf u c x).argn = 1 ∧ (ctxOf u c x).args = oneInput q.t.lanes ∧
      (ctxOf u c x).inter = some ⟨(ctxOf s c x).rtag, (ctxOf s c x).itag, (ctxOf s c x).argn, (ctxOf s c x).args,
        (ctxOf s c x).cls, h, (ctxOf s c x).calls.length, (ctxOf s c x).tuple⟩ ∧
      (ctxOf u c x).regs = (ctxOf s c x).regs ∧ (ctxOf u c x).calls = (ctxOf s c x).calls ∧ u.mem = s.mem) ∧
  (∀ s c k u f g, let hdr := ((bindingOf (coreOf s c) (0xF0 + k)).extractLsb' 4 12).toNat * 16
    coreActs s c = true → k < 16 → (ctxOf s c 4).frame = none → (coreOf s c).updCur = none → (coreOf s c).updQ = [] →
    (coreOf s c).tokens = [] → (coreOf s c).joins = [] → tagKept (coreOf s c) (0xF0 + k) = false → (coreOf s c).updTok = [u] → u.r.op = .upd k →
    (bindingOf (coreOf s c) (0xF0 + k)).getLsbD 31 = true → (bindingOf (coreOf s c) (0xF0 + k)).getLsbD 30 = false →
    ((bindingOf (coreOf s c) (0xF0 + k)).extractLsb' 23 3).toNat = 4 →
    fetchBlock s c 4 hdr (coreOf s c).stamp (ctxOf s c 4) = .ok f → f.badWord = none → readDescs (ctxOf s c 4) f 0 f.descs = .ok g →
    ∃ t, exec (.updateActivationStart c) s = .next t ∧ (ctxOf t c 4).frame = some g ∧ (ctxOf t c 4).rtag = 0xF0 + k ∧
      (ctxOf t c 4).argn = 1 ∧ (ctxOf t c 4).args = oneInput (updLanes u) ∧ (coreOf t c).updCur = some u ∧ (coreOf t c).updTok = [] ∧
      t.mem = s.mem) ∧
  (∀ s c x hdr f g, coreActs s c = true → x < 4 → (ctxOf s c x).frame = some g → (ctxOf s c x).spec.length < 3 → firstClaim s c = none →
    hdr % 16 = 0 → fetchBlock s c x hdr (coreOf s c).stamp (ctxOf s c x) = .ok f → f.badWord = none → usedFrames s c < 7 →
    usedChunks s c + (f.words.length + 15) / 16 ≤ 14 →
    ∃ t, exec (.nextBlockPrediction c x hdr) s = .next t ∧
      ctxOf t c x = { ctxOf s c x with spec := (ctxOf s c x).spec ++ [f] } ∧ (∀ y, y ≠ x → ctxOf t c y = ctxOf s c y) ∧ t.mem = s.mem)

/-- QUIESCENCE_FAULT and NOPRE_EXPIRY fault the block in flight (R32, R43, R374); LATE_FAULT_DELIVERY, also while the
next block has fired nothing, and IDLE_LATE_TRAP deliver the first late cause (R46, R124, R343, R376). -/
def Sys2Proof.Claim.BlocksAndEntriesFaultInTime : Prop :=
  (∀ s c x f, (ctxOf s c x).frame = some f → x < 4 → coreActs s c = true → anyArmed f = false → (∀ w ∈ f.waits, w.unsent ≠ []) →
    allDecoded f = true → f.exit = none →
    ∃ u, exec (.quiescenceFault c x) s = .next (settleCore u c) ∧ TrapsAt s u c x 0x7F f .noexit 0 0 0) ∧
  (∀ s c x f e, (ctxOf s c x).frame = some f → x < 4 → coreActs s c = true → anyArmed f = false → (∀ w ∈ f.waits, w.unsent ≠ []) →
    allDecoded f = true → f.exit = some e → f.h1 &&& ~~~f.counted ≠ 0 →
    (∀ w ∈ f.waits, ∀ n, w.lsid = some n → f.h1 &&& ~~~f.counted &&& ~~~(BitVec.ofNat 32 (2 ^ n)) ≠ 0) →
    ∃ u, exec (.quiescenceFault c x) s = .next (settleCore u c) ∧ TrapsAt s u c x 0x7F f .incomplete (f.h1 &&& ~~~f.counted) 0 0) ∧
  (∀ s c x f, (ctxOf s c x).frame = some f → x < 4 → coreActs s c = true → (ctxOf s c x).nopre = true → (ctxOf s c x).nopreb = 0 →
    ∃ u, exec (.nopreExpiry c x) s = .next (settleCore u c) ∧ TrapsAt s u c x 0x7F f .nopre (BitVec.ofNat 32 f.hdr) 0 0 ∧
      (ctxOf u c x).nopre = false) ∧
  (∀ s c x l rest h, FirstLate s c x l rest → x < 4 → coreActs s c = true → (ctxOf s c x).st = .running → (ctxOf s c x).frame = none →
    (ctxOf s c x).pc = some h → (ctxOf s c x).tl = false → (ctxOf s c x).trapv ≠ 0 →
    ∃ u, exec (.lateFaultDelivery c x) s = .next (settleCore u c) ∧ TakesLate s u c x l rest (some h)) ∧
  (∀ s c x l rest f, FirstLate s c x l rest → x < 4 → coreActs s c = true → (ctxOf s c x).st = .running →
    (ctxOf s c x).frame = some f → (∀ p ∈ f.slots, p.2.fired = false) → f.takes = [] → (ctxOf s c x).tl = false → (ctxOf s c x).trapv ≠ 0 →
    ∃ u, exec (.lateFaultDelivery c x) s = .next (settleCore u c) ∧ TakesLate s u c x l rest (some f.hdr) ∧ (ctxOf u c x).frame = none) ∧
  (∀ s c x l rest, FirstLate s c x l rest → x < 4 → coreActs s c = true → (ctxOf s c x).st = .idle → (ctxOf s c x).tl = false →
    (ctxOf s c x).trapv ≠ 0 →
    ∃ u, exec (.idleLateTrap c x) s = .next (settleCore u c) ∧ TakesLate s u c x l rest none)
/-! ### Events of requests and answers -/

namespace Sys2Proof.Claim

open Sys2Proof Sys2Proof.Machine

/-- A message from core `a` to core `b` with a body is in flight. -/
def Sends (t : State) (a b : Nat) (body : Body) : Prop := ∃ m ∈ t.net, m.src = a ∧ m.dst = b ∧ m.body = body

/-- Message `n` has arrived with a memory request of one lane at a live owner of its region that answers core `m.src`, and no earlier
request of that core waits at the owner's update slot (R174, R295,
R300). -/
structure Arrives (s : State) (n : Nat) (m : Msg) (r : MemReq) (l : LaneReq) : Prop where
  came : arrived s n = some m
  body : m.body = .mem r
  inside : m.dst < hostDst
  asker : ∃ c x serial slot, r.asker = .frame c x serial slot
  fresh : staleFrame s r.asker = false
  path : refusedPath s m r = false
  lanes : r.lanes = [l]
  order : behindUpdate s m = false
  sound : isBad s l.key = false
  first : m.recorded = false

/-- The new word of an AMO on integers (R180). -/
def amoWord (op : AmoOp) (w b : Word) : Option Word :=
  match op with
  | .add => some (w + b)
  | .and => some (w &&& b)
  | .or => some (w ||| b)
  | .xor => some (w ^^^ b)
  | .smin => some (if w.slt b then w else b)
  | .smax => some (if w.slt b then b else w)
  | .umin => some (if w.ult b then w else b)
  | .umax => some (if w.ult b then b else w)
  | .swap => some b
  | .incw => some (if b.ule w then 0 else w + 1)
  | .decw => some (if w = 0 ∨ b.ult w then b else w - 1)
  | .fadd => none
  | .fmin => none
  | .fmax => none

/-- The built-in handlers on a word: what an atomic leaves there (R180, R181). -/
def atomicWord (op : MemOp) (w b c : Word) : Option Word :=
  match op with
  | .amo o => amoWord o w b
  | .cas => some (if w = b then c else w)
  | _ => none

/-- The word of memory at a key. -/
abbrev memWord (s : State) (k : Nat) : Word := BitVec.ofNat 32 (littleEndian s.mem k 4)

/-- The update slot of core `c` is free for its one queued request `u`, no user block is ready to commit ahead of it, and none is being fetched
(R35, R39, R100). -/
structure SlotWaits (s : State) (c : Nat) (u : UpdReq) : Prop where
  runs : coreActs s c = true
  idle : (ctxOf s c 4).frame = none
  free : (coreOf s c).updCur = none
  alone : (cellOf s c).sister = none
  queue : (coreOf s c).updQ = [u]
  handlers : (coreOf s c).updTok = []
  tokens : (coreOf s c).tokens = []
  joins : (coreOf s c).joins = []
  first : ∀ x f, x < 4 → (ctxOf s c x).frame = some f → readyCommit s c x f = false
  fetched : ∀ x f, (ctxOf s c x).frame = some f → decoded f = true
  fresh : u.recorded = false

end Sys2Proof.Claim

/-- REMOTE_REQUEST_PERFORM performs loads and stores at their owner and answers them, and queues atomics for the update slot (R174, R179,
R295); ATOMIC_HANDLER performs an AMO or CAS as one commit and answers with the old word (R179 to R181). -/
def Sys2Proof.Claim.OwnersPerformRequests : Prop :=
  (∀ s n m r l, Arrives s n m r l → r.op = .load → l.mode = .random → 0 < r.size → r.size ≤ 4 → keyIsLoft l.key = false →
    ∃ u, exec (.remoteRequestPerform n) s = .next (settleCore u m.dst) ∧
      Sends u m.dst (answerTo r.asker m.src)
        (.answer { asker := r.asker, vals := [(l.lane, BitVec.ofNat 32 (littleEndian s.mem l.key r.size))] }) ∧
      (∀ k, memGet u.mem k = memGet s.mem k) ∧ u.full = s.full) ∧
  (∀ s n m r l, Arrives s n m r l → r.op = .store → l.mode = .random → 0 < r.size → r.size ≤ 4 → keyIsLoft l.key = false →
    (cellOf s m.dst).sister = none → Memory.wf s.mem = true →
    ∃ u, exec (.remoteRequestPerform n) s = .next (settleCore u m.dst) ∧
      Sends u m.dst (answerTo r.asker m.src) (.answer { asker := r.asker, vals := [(l.lane, 0)] }) ∧
      (∀ k, memGet u.mem k = if l.key ≤ k ∧ k < l.key + r.size then l.b.extractLsb' (8 * (k - l.key)) 8 else memGet s.mem k) ∧
      u.full = s.full) ∧
  (∀ s n m r l op, Arrives s n m r l → r.op = .amo op →
    ∃ u, exec (.remoteRequestPerform n) s = .next (settleCore u m.dst) ∧
      (∃ p, (coreOf u m.dst).updQ = (coreOf s m.dst).updQ ++ [p] ∧ p.r = r ∧ p.src = m.src) ∧ u.mem = s.mem) ∧
  (∀ s c (u : UpdReq) l w, SlotWaits s c u → Memory.wf s.mem = true → u.r.lanes = [l] → keyIsLoft l.key = false → isBad s l.key = false →
    atomicWord u.r.op (memWord s l.key) l.b l.c = some w → (∃ c' x serial slot, u.r.asker = .frame c' x serial slot) →
    ∃ t, exec (.atomicHandler c) s = .next (settleCore t c) ∧ memWord t l.key = w ∧
      (∀ k, (k < l.key ∨ l.key + 4 ≤ k) → memGet t.mem k = memGet s.mem k) ∧ (coreOf t c).updQ = [] ∧ t.full = s.full ∧
      Sends t c (answerTo u.r.asker u.src) (.answer { asker := u.r.asker, vals := [(l.lane, memWord s l.key)] }))

/-- REPLY_ARRIVAL completes the operation that waits in its frame; ENTRY_ACK frees a pending entry, and ENTRY_REFUSED makes it REFUSED and
queues its cause (R174, R178, R376, R380); PRESENCE_RETRY sends a refused read again (R293); WINSET_APPLY writes the window at a block
boundary (R288). -/
def Sys2Proof.Claim.AnswersReachTheirAskers : Prop :=
  (∀ s n m a c x f w F v l, arrived s n = some m → m.body = .answer a → a.asker = .frame c x f.serial w.slot → a.cause = none →
    a.vals = [(l, v)] → a.taken = [] → (ctxOf s c x).frame = some f → f.waits = [w] → w.left = [l] → w.overlay = [] → w.ext = .word →
    w.lsid = none →
    deliver { f with waits := [] } (slotAddr f w.slot) w.slot w.t0 (Lanes.ofFn fun i => if i = l then some v else w.got.get i) = .ok F →
    ∃ u, exec (.replyArrival n none) s = .next (settleCore u c) ∧ (ctxOf u c x).frame = some F ∧
      (ctxOf u c x).regs = (ctxOf s c x).regs ∧ u.mem = s.mem) ∧
  (∀ s n m a c x i, arrived s n = some m → m.body = .answer a → a.asker = .entry c x i → a.cause = none →
    (Tbl.get {} (ctxOf s c x).pend i : Entry).st = .opened → (Tbl.get {} (ctxOf s c x).pend i : Entry).left = 1 →
    (Tbl.get {} (ctxOf s c x).pend i : Entry).cause = none → (ctxOf s c x).st ≠ .saved → (cellOf s c).savedPoint = false →
    (cellOf s c).sister = none →
    ∃ u, exec (.entryAck n none) s = .next (settleCore u c) ∧ (Tbl.get {} (ctxOf u c x).pend i : Entry).st = .free ∧
      (∀ j, j ≠ i → (Tbl.get {} (ctxOf u c x).pend j : Entry) = Tbl.get {} (ctxOf s c x).pend j) ∧
      (ctxOf u c x).lateQ = (ctxOf s c x).lateQ ∧ (ctxOf u c x).regs = (ctxOf s c x).regs ∧ u.mem = s.mem) ∧
  (∀ s n m a c x i k, arrived s n = some m → m.body = .answer a → a.asker = .entry c x i → a.cause = some k →
    (Tbl.get {} (ctxOf s c x).pend i : Entry).st = .opened → (Tbl.get {} (ctxOf s c x).pend i : Entry).left = 1 →
    (Tbl.get {} (ctxOf s c x).pend i : Entry).cause = none → (ctxOf s c x).st ≠ .saved → (cellOf s c).savedPoint = false →
    (cellOf s c).sister = none →
    ∃ u p, exec (.entryRefused n none) s = .next (settleCore u c) ∧ (Tbl.get {} (ctxOf u c x).pend i : Entry) = p ∧ p.st = .refused ∧
      p.cause = some k ∧ (∃ q, (ctxOf u c x).lateQ = (ctxOf s c x).lateQ ++ [q] ∧ q.cause = k ∧ q.entry = some i ∧ q.taddr = p.addr) ∧
      (ctxOf u c x).regs = (ctxOf s c x).regs ∧ u.mem = s.mem) ∧
  (∀ s n m r, s.net[n]? = some m → m.body = .mem r → m.wait ≠ 0 → staleFrame s r.asker = false →
    ∃ t, exec (.presenceRetry n) s = .next t ∧
      (∃ q ∈ t.net, q.src = m.src ∧ q.dst = m.dst ∧ q.at_ = m.src ∧ q.body = .mem r ∧ q.wait = 0 ∧ q.backoff = m.wait) ∧
      t.mem = s.mem ∧ t.full = s.full) ∧
  (∀ s c x n w m rest, (ctxOf s c x).winsets = (n, w, m) :: rest → x < 4 → coreActs s c = true → (ctxOf s c x).frame = none →
    (ctxOf s c x).st ≠ .saved →
    ∃ u, exec (.winsetApply c x) s = .next (settleCore u c) ∧ Tbl.get {} (ctxOf u c x).wins n = w ∧
      (∀ j, j ≠ n → Tbl.get {} (ctxOf u c x).wins j = Tbl.get {} (ctxOf s c x).wins j) ∧ (ctxOf u c x).winsets = rest ∧
      (∃ v, Sends u (maCell m.addr) m.core (.token { tag := m.reply, lanes := v } .nobody) ∧ v.get 0 = some 0) ∧ u.mem = s.mem)
/-! ### Events of stream units and the matrix engine -/

namespace Sys2Proof.Claim

open Sys2Proof Sys2Proof.Machine

/-- Stream unit `n` of core `c`. -/
abbrev unitAt (s : State) (c n : Nat) : SUnit := Tbl.get {} (coreOf s c).units n

/-- Pulses of a control channel of core `c` (R205). -/
abbrev pulseCount (s : State) (c ch : Nat) : Nat := Tbl.get 0 (coreOf s c).pulses ch

/-- A run of one element in a 32-bit format, at `base` (R206, R207): FMT 17, every COUNT 1, every STRIDE 0. -/
abbrev oneWord (u : SUnit) (base : Word) (tkind : Nat) : Prop :=
  u.desc[0]? = some base ∧ (∀ j, 1 ≤ j → j ≤ 4 → u.desc[j]? = some 1) ∧ u.desc[5]? = some 17 ∧
  (∃ w, u.desc[6]? = some w ∧ (w.extractLsb' 0 2).toNat = tkind) ∧ u.next = 0 ∧ u.st = .running ∧ u.queued = false ∧ u.asked = [] ∧ u.got = []

/-- The byte at `base` lies in a valid RANDOM window of KIND SRAM of the unit's owner, at key `k` of core `c`, with no error. -/
abbrev InSram (s : State) (c : Nat) (u : SUnit) (base : Word) (k : Nat) : Prop :=
  kindCode (windowOf (ctxOf s c u.owner) base) = 0 ∧ modeCode (windowOf (ctxOf s c u.owner) base) = 0 ∧
  offsetOf base % 4 = 0 ∧ k = sramKey c ((windowOf (ctxOf s c u.owner) base).base.toNat + offsetOf base) ∧
  (windowOf (ctxOf s c u.owner) base).base.toNat % 4 = 0 ∧
  (windowOf (ctxOf s c u.owner) base).base.toNat + offsetOf base + 4 ≤ sramSize c ∧ isBad s k = false

/-- The engine of core `c`. -/
abbrev engineAt (s : State) (c : Nat) : Mx := (coreOf s c).mx

/-- INT8 mode in classical order with K = 8 and no A rows from links (R212). -/
abbrev Int8 (m : Mx) : Prop :=
  m.cfg.extractLsb' 0 3 = 2 ∧ m.cfg.getLsbD 3 = false ∧ m.cfg.extractLsb' 10 2 = 0 ∧ m.cfg.extractLsb' 13 8 = 7 ∧ m.recomb = [] ∧ m.grp = []

/-- The 48-bit two's complement accumulator (R67). -/
def wrapped (v : Int) : Int := (v + 2 ^ 47) % 2 ^ 48 - 2 ^ 47

/-- The integer of an accumulator. -/
abbrev accInt (m : Mx) (row col : Nat) : Int := elToInt (Tbl.get elZero m.acc (row * 16 + col))

/-- A unit at the start of its run, with nothing fetched, sent on or stored (R208). -/
abbrev AtStart (u : SUnit) : Prop := u.next = 0 ∧ u.done = 0 ∧ u.flags = 0 ∧ u.refused = none ∧ u.asked = [] ∧ u.got = [] ∧ u.ahead = []

/-- FACT, START and SEN of a descriptor (R206). -/
abbrev word7 (u : SUnit) : Word := u.desc[7]?.getD 0

end Sys2Proof.Claim

/-- The stream functions act on their unit at commit: SDEF loads it with the eight words of its descriptor, SGO starts or resumes it, SSTOP
returns it to LOADED (a unit that ran or was armed finishes with STOPPED, and with REL a settled one becomes IDLE), SCOND arms it with its
alternate channel, and SFMT replaces word 5; a unit of another context, and one in a state that the function does not take, fault STREAM (R192,
R206, R208 to R210, R374). -/
def Sys2Proof.Claim.CommitActsOnStreams : Prop :=
  (∀ s c x f h e n a, OneEffect s c x f h e → e.act = .sdef n a → n < 4 →
    ((unitAt s c n).st = .idle ∨ ((unitAt s c n).st = .loaded ∧ (unitAt s c n).owner = x)) → a.toNat % 32 = 0 → a.toNat + 32 ≤ progEnd s c →
    spanBad s c a.toNat 32 = none → descBad s c x n ((List.range 8).map fun i => memWord s (sramKey c (a.toNat + 4 * i))) = false →
    ∃ u, CommitsTo s c x u ∧ (unitAt u c n).st = .loaded ∧ (unitAt u c n).owner = x ∧
      (unitAt u c n).desc = (List.range 8).map (fun i => memWord s (sramKey c (a.toNat + 4 * i))) ∧ AtStart (unitAt u c n) ∧
      (∀ j, j ≠ n → unitAt u c j = unitAt s c j) ∧ (ctxOf u c x).pc = some h ∧ u.mem = s.mem) ∧
  (∀ s c x f h e n, OneEffect s c x f h e → e.act = .sgo n false → n < 4 → ((unitAt s c n).st = .loaded ∨ (unitAt s c n).st = .held) →
    (unitAt s c n).owner = x → descBad s c x n (unitAt s c n).desc = false →
    ∃ u, CommitsTo s c x u ∧ (unitAt u c n).st = (if (word7 (unitAt s c n)).getLsbD 6 then .armed else .running) ∧ AtStart (unitAt u c n) ∧
      (unitAt u c n).desc = (unitAt s c n).desc ∧ (∀ j, j ≠ n → unitAt u c j = unitAt s c j) ∧ u.mem = s.mem) ∧
  (∀ s c x f h e n, OneEffect s c x f h e → e.act = .sgo n true → n < 4 → (unitAt s c n).st = .held → (unitAt s c n).owner = x →
    descBad s c x n (unitAt s c n).desc = false →
    ∃ u, CommitsTo s c x u ∧ (unitAt u c n).st = .running ∧ (unitAt u c n).next = (unitAt s c n).next ∧
      (unitAt u c n).done = (unitAt s c n).done ∧ (unitAt u c n).flags = (unitAt s c n).flags ∧
      (∀ j, j ≠ n → unitAt u c j = unitAt s c j) ∧ u.mem = s.mem) ∧
  (∀ s c x f h e n rel, OneEffect s c x f h e → e.act = .sstop n rel → n < 4 → (unitAt s c n).owner = x →
    ((unitAt s c n).st = .armed ∨ (unitAt s c n).st = .running) → (unitAt s c n).asked = [] → (word7 (unitAt s c n)).extractLsb' 14 2 = 2 →
    ∃ u, CommitsTo s c x u ∧ (unitAt u c n).st = .loaded ∧ AtStart (unitAt u c n) ∧
      Sends u c c (.token { tag := ((word7 (unitAt s c n)).extractLsb' 16 8).toNat, lanes := ⟨some 1,
        some (BitVec.ofNat 32 ((unitAt s c n).done - (unitAt s c n).nrefused)), some ((unitAt s c n).flags &&& 0x3F), some (BitVec.ofNat 32 n),
        none, none, none, none⟩ } .nobody) ∧ (∀ j, j ≠ n → unitAt u c j = unitAt s c j) ∧ u.mem = s.mem) ∧
  (∀ s c x f h e n rel, OneEffect s c x f h e → e.act = .sstop n rel → n < 4 → (unitAt s c n).owner = x →
    ((unitAt s c n).st = .loaded ∨ (unitAt s c n).st = .held) →
    ∃ u, CommitsTo s c x u ∧ (unitAt u c n).st = (if rel then .idle else .loaded) ∧ AtStart (unitAt u c n) ∧ u.net = s.net ∧
      (∀ j, j ≠ n → unitAt u c j = unitAt s c j) ∧ u.mem = s.mem) ∧
  (∀ s c x f h e n alt, OneEffect s c x f h e → e.act = .scond n alt → n < 4 → (unitAt s c n).st = .loaded → (unitAt s c n).owner = x →
    descBad s c x n (unitAt s c n).desc = false →
    ∃ u, CommitsTo s c x u ∧ (unitAt u c n).st = .armed ∧ (unitAt u c n).alt = some alt ∧ AtStart (unitAt u c n) ∧
      (∀ j, j ≠ n → unitAt u c j = unitAt s c j) ∧ u.mem = s.mem) ∧
  (∀ s c x f h e n w d, OneEffect s c x f h e → e.act = .sfmt n w → n < 4 → ((unitAt s c n).st = .loaded ∨ (unitAt s c n).st = .held) →
    (unitAt s c n).owner = x → (unitAt s c n).desc.length = 8 → d = (unitAt s c n).desc.set 5 w → descBad s c x n d = false →
    ∃ u, CommitsTo s c x u ∧ unitAt u c n = { unitAt s c n with desc := d } ∧ (∀ j, j ≠ n → unitAt u c j = unitAt s c j) ∧ u.mem = s.mem) ∧
  (∀ s c x f h e n r alt w, OneEffect s c x f h e → e.slot < 128 →
    (e.act = .sgo n r ∨ e.act = .sstop n r ∨ e.act = .scond n alt ∨ e.act = .sfmt n w) → n < 4 →
    (unitAt s c n).st ≠ .idle → (unitAt s c n).owner ≠ x →
    ∃ u, CommitsTo s c x u ∧ TrapsAt s u c x e.slot f .stream (unitAt s c n).daddr 0 n) ∧
  (∀ s c x f h e n r alt w, OneEffect s c x f h e → e.slot < 128 →
    (e.act = .sgo n r ∨ e.act = .sstop n r ∨ e.act = .scond n alt ∨ e.act = .sfmt n w) → n < 4 →
    (unitAt s c n).st = .idle → ∃ u, CommitsTo s c x u ∧ TrapsAt s u c x e.slot f .stream (unitAt s c n).daddr 0 n) ∧
  (∀ s c x f h e n a, OneEffect s c x f h e → e.slot < 128 → e.act = .sdef n a → n < 4 → (unitAt s c n).st ≠ .idle →
    ((unitAt s c n).owner ≠ x ∨ (unitAt s c n).st ≠ .loaded) →
    ∃ u, CommitsTo s c x u ∧ TrapsAt s u c x e.slot f .stream a 0 n)

/-- The events of stream units: a command that waited starts, a pulse starts an ARMED unit or cancels it, an element is stored, read ahead
or sent, and a run finishes (R191, R205, R207, R208, R210, R304). That reading ahead and delivery are two steps is the model's choice
(notes/assumptions/51.md). -/
def Sys2Proof.Claim.StreamUnitsAdvance : Prop :=
  (∀ s c n, n < 4 → coreActs s c = true → (unitAt s c n).queued = true → (unitAt s c n).holdOn = [] → (unitAt s c n).late = none →
    ∃ t, exec (.engineCommandStart c n) s = .next t ∧ unitAt t c n = { unitAt s c n with queued := false } ∧
      (∀ j, j ≠ n → unitAt t c j = unitAt s c j) ∧ t.mem = s.mem) ∧
  (∀ s c n ch, n < 4 → coreActs s c = true → (unitAt s c n).st = .armed → (unitAt s c n).queued = false →
    ch = (((unitAt s c n).desc[7]?.getD 0).extractLsb' 0 6).toNat → 0 < pulseCount s c ch →
    ∃ t, exec (.streamStartPulse c n) s = .next t ∧ unitAt t c n = { unitAt s c n with st := .running, alt := none } ∧
      pulseCount t c ch = pulseCount s c ch - 1 ∧ (∀ j, j ≠ ch → pulseCount t c j = pulseCount s c j) ∧ t.mem = s.mem) ∧
  (∀ s c n ch alt, n < 4 → coreActs s c = true → (unitAt s c n).st = .armed → (unitAt s c n).queued = false →
    (unitAt s c n).alt = some alt → ch = (((unitAt s c n).desc[7]?.getD 0).extractLsb' 0 6).toNat → pulseCount s c ch = 0 →
    0 < pulseCount s c alt → ((unitAt s c n).desc[7]?.getD 0).extractLsb' 14 2 = 0 →
    ∃ t, exec (.streamAltPulse c n) s = .next t ∧ unitAt t c n = { unitAt s c n with st := .loaded, alt := none } ∧
      pulseCount t c alt = pulseCount s c alt - 1 ∧ (∀ j, j ≠ alt → pulseCount t c j = pulseCount s c j) ∧ t.mem = s.mem) ∧
  (∀ s c n base k w, (n = 2 ∨ n = 3) → coreActs s c = true → Memory.wf s.mem = true → oneWord (unitAt s c n) base 1 →
    (unitAt s c n).pending = [some w] →
    InSram s c (unitAt s c n) base k →
    ∃ u, exec (.streamElement c n) s = .next (settleCore u c) ∧ memWord u k = w ∧
      (∀ j, (j < k ∨ k + 4 ≤ j) → memGet u.mem j = memGet s.mem j) ∧ (unitAt u c n).next = 1 ∧ (unitAt u c n).pending = []) ∧
  (∀ s c n base k tkind, (n = 0 ∨ n = 1) → coreActs s c = true → oneWord (unitAt s c n) base tkind → (unitAt s c n).ahead = [] →
    InSram s c (unitAt s c n) base k →
    ∃ u, exec (.streamElement c n) s = .next (settleCore u c) ∧ (unitAt u c n).ahead = [((memWord s k).toNat, none)] ∧
      (unitAt u c n).next = 0 ∧ (unitAt u c n).asked = [] ∧ u.mem = s.mem ∧ u.full = s.full) ∧
  (∀ s c n base w ch, (n = 0 ∨ n = 1) → coreActs s c = true → oneWord (unitAt s c n) base 0 → (unitAt s c n).sent = 0 →
    (unitAt s c n).ahead = [((w : Word).toNat, none)] → (cellOf s c).slot = none →
    ch = (Tbl.get 0 (ctxOf s c (unitAt s c n).owner).chans (((unitAt s c n).desc[6]?.getD 0).extractLsb' 2 8).toNat : Word) →
    ∃ u, exec (.streamElement c n) s = .next (settleCore u c) ∧
      (∃ m ∈ u.net, m.src = c ∧ m.body = .routed (ch.extractLsb' 0 9).toNat false
        { tag := 0, port := (ch.extractLsb' 9 2).toNat, lanes := Lanes.ofFn fun l => if l = 0 then some w else none,
          src := some (c, n, 1) } .nobody) ∧
      (unitAt u c n).next = 1 ∧ (unitAt u c n).sent = 1 ∧ u.mem = s.mem) ∧
  (∀ s c n, (n = 2 ∨ n = 3) → coreActs s c = true → (unitAt s c n).st = .running → (unitAt s c n).queued = false →
    descTotal (unitAt s c n).desc ≤ (unitAt s c n).next → (unitAt s c n).asked = [] → (unitAt s c n).late = none →
    (unitAt s c n).refused = none → ((unitAt s c n).desc[7]?.getD 0).extractLsb' 14 2 = 1 →
    ∃ u, exec (.streamFinish c n) s = .next (settleCore u c) ∧ (unitAt u c n).st = .loaded ∧
      pulseCount u c (((unitAt s c n).desc[7]?.getD 0).extractLsb' 8 6).toNat =
        min 15 (pulseCount s c (((unitAt s c n).desc[7]?.getD 0).extractLsb' 8 6).toNat + 1) ∧ u.mem = s.mem)

/-- The events of the matrix engine: commands start in queue order; a bank is filled from SRAM; a row fires in INT8 mode, adding 8 products
to each accumulator; a readout saturates them to INT32 and stores them; all three in a cycle that MXALLOW gives the engine (R66, R67,
R214, R215, R217, R218, R304, R367). -/
def Sys2Proof.Claim.MatrixEngineAdvances : Prop :=
  (∀ s c cmd q, coreActs s c = true → (engineAt s c).queue = (cmd, []) :: q → (engineAt s c).run = none → (∀ a n, cmd ≠ .clear a n) →
    ∃ t, exec (.engineCommandStart c 4) s = .next t ∧ (engineAt t c).queue = q ∧ (engineAt t c).run = some { cmd := cmd } ∧
      (engineAt t c).acc = (engineAt s c).acc ∧ t.mem = s.mem) ∧
  (∀ s c a n q, coreActs s c = true → (engineAt s c).queue = (.clear a n, []) :: q → (engineAt s c).run = none →
    (engineAt s c).recomb = [] → (engineAt s c).cfg.getLsbD 3 = false →
    ∃ u, exec (.engineCommandStart c 4) s = .next (settleCore u c) ∧ (engineAt u c).queue = q ∧
      (∀ row col, a ≤ row → row < a + n → col < 16 → accInt (engineAt u c) row col = 0) ∧
      (∀ row col, (row < a ∨ a + n ≤ row) → col < 16 → accInt (engineAt u c) row col = accInt (engineAt s c) row col) ∧ u.mem = s.mem) ∧
  (∀ s c bank key ea, coreActs s c = true → mxOpen s c = true → Int8 (engineAt s c) → (engineAt s c).run = some { cmd := .load bank false key ea } →
    (∀ i, i < 32 → isBad s (key + 4 * i) = false) →
    ∃ u els, exec (.mxldbBankReady c) s = .next (settleCore u c) ∧ (engineAt u c).run = none ∧ els.length = 128 ∧
      (if bank = 0 then (engineAt u c).ready0 = true ∧ (engineAt u c).bank0 = els ∧ (engineAt u c).bank1 = (engineAt s c).bank1
       else (engineAt u c).ready1 = true ∧ (engineAt u c).bank1 = els ∧ (engineAt u c).bank0 = (engineAt s c).bank0) ∧
      (∀ i, i < 128 → elToInt (els.getD i elZero) = (memGet s.mem (key + i)).toInt) ∧ u.mem = s.mem) ∧
  (∀ s c w (xs bs : List Int) rest n src fed, coreActs s c = true → mxOpen s c = true → Int8 (engineAt s c) →
    (engineAt s c).run = some { cmd := .run w, next := n } →
    n < (w.extractLsb' 0 7).toNat + 1 → w.getLsbD 13 = false → (engineAt s c).ready0 = true → (engineAt s c).bank0 = bs.map intEl →
    (engineAt s c).arows = { els := xs.map intEl, full := true, src := src, fed := fed } :: rest → xs.length = 8 → bs.length = 128 →
    ∃ u, exec (.mxrunRowFire c) s = .next (settleCore u c) ∧
      (∀ col, col < 16 → accInt (engineAt u c) ((w.extractLsb' 7 6).toNat + n) col =
        wrapped ((if w.getLsbD 14 then 0 else accInt (engineAt s c) ((w.extractLsb' 7 6).toNat + n) col) +
          ((List.range 8).map fun i => xs.getD i 0 * bs.getD (i * 16 + col) 0).sum)) ∧
      (∀ row col, row ≠ (w.extractLsb' 7 6).toNat + n → col < 16 → accInt (engineAt u c) row col = accInt (engineAt s c) row col) ∧
      (engineAt u c).arows = rest ∧ u.mem = s.mem) ∧
  (∀ s c w key ea, coreActs s c = true → mxOpen s c = true → Memory.wf s.mem = true → Int8 (engineAt s c) → (engineAt s c).late = none →
    (engineAt s c).run = some { cmd := .out w key ea false } → w.extractLsb' 13 2 = 0 → w.extractLsb' 15 2 = 1 → w.extractLsb' 6 7 = 0 →
    w.getLsbD 17 = false → keyIsLoft key = false → key % 4 = 0 → keyIsLoft (key + 64) = false →
    ∃ u, exec (.mxoutReadoutDone c) s = .next (settleCore u c) ∧ (engineAt u c).run = none ∧
      (∀ col, col < 16 → memWord u (key + 4 * col) = clamped (-(2 ^ 31)) (2 ^ 31 - 1) (accInt (engineAt s c) (w.extractLsb' 0 6).toNat col)) ∧
      (∀ k, (k < key ∨ key + 64 ≤ k) → memGet u.mem k = memGet s.mem k) ∧ (engineAt u c).acc = (engineAt s c).acc)

/-! ### The matrix engine in all its modes and orders -/

namespace Sys2Proof.Claim

open Sys2Proof Sys2Proof.Machine

/-- The number of a finite element. -/
def elNumber (x : El) : Rat :=
  match x with
  | .fin n m e => (if n then -(m : Rat) else (m : Rat)) * power e
  | _ => 0

/-- An operand as the engine holds it: a finite number of the size that its entry allows, an INT8 operand an integer (R64, R216). -/
def Holds (mode : BitVec 3) (x : El) : Prop :=
  (∃ n m e, x = .fin n m e ∧ m < 2 ^ 48 ∧ -400 ≤ e ∧ mag (elNumber x) < power 150) ∧ (mode = 2 → ∃ v : Int, x = intEl v)

/-- The number in an accumulator (R65, R67). -/
def total (mode : BitVec 3) (x : El) : Rat := if mode = 2 then (elToInt x : Rat) else elNumber x

/-- An accumulator that holds a number within reach. -/
def Bounded (mode : BitVec 3) (x : El) : Prop := elIsFinite x = true ∧ mag (total mode x) < power 400

/-- One accumulator addition: a rounding to 32 significant bits, or modulo 2 to the 48 in INT8 mode (R65 to R67). -/
def Added (mode : BitVec 3) (old q new : Rat) : Prop :=
  if mode = 2 then ∃ v : Int, old + q = (v : Rat) ∧ new = (wrapped v : Rat)
  else RoundsIn (OfPrecision 32 (some (-541))) .near (old + q) new

/-- One piece of a split: `x` rounded to `p` bits; with the range of BF16, one too large is the largest finite value (R73). -/
def PieceOf (p : Nat) (lsb : Option Int) (x h : Rat) : Prop :=
  ∃ y, RoundsIn (OfPrecision p lsb) .near x y ∧
    h = if lsb.isSome ∧ number 0x7F7F0000 < mag y then (if y < 0 then number 0xFF7F0000 else number 0x7F7F0000) else y

/-- The split of S3 mode into three pieces of `p` bits (R73). -/
def SplitsIn (p : Nat) (lsb : Option Int) (x h m l : Rat) : Prop := PieceOf p lsb x h ∧ PieceOf p lsb (x - h) m ∧ PieceOf p lsb (x - h - m) l

/-- What one pair of operands adds to its sum: the product, in S3 mode the six partial products of their pieces (R66, R73). -/
def Term (mode : BitVec 3) (p : Nat) (la lb : Option Int) (a b v : Rat) : Prop :=
  if mode = 1 then
    ∃ h m l h' m' l', SplitsIn p la a h m l ∧ SplitsIn p lb b h' m' l' ∧ v = h * h' + h * m' + m * h' + h * l' + l * h' + m * m'
  else v = a * b

/-- The least place of an operand's BF16 pieces; a burst scale that is held apart stays outside the split (R64, R73). -/
def leastPlace (x : El) : Option Int :=
  match x with
  | .fin _ m _ => if m < 2 ^ 24 then some (-133) else none
  | _ => none

/-- A pre-sum: 10 significant bits in BF16 mode, 26 in S3 mode, exact in INT8 mode (R69). -/
def PreSum (mode : BitVec 3) (q x : Rat) : Prop :=
  if mode = 0 then RoundsIn (OfPrecision 10 none) .near q x else if mode = 1 then RoundsIn (OfPrecision 26 none) .near q x else x = q

/-- The terms that one slice adds to M1 to M7 (R68). -/
def SliceTerms (mode : BitVec 3) (a11 a12 a21 a22 b11 b12 b21 b22 : Rat) (v : Nat → Rat) : Prop :=
  ∃ s1 s2 s3 s4 t1 t2 t3 t4,
    PreSum mode (a21 + a22) s1 ∧ PreSum mode (s1 - a11) s2 ∧ PreSum mode (a11 - a21) s3 ∧ PreSum mode (a12 - s2) s4 ∧
    PreSum mode (b12 - b11) t1 ∧ PreSum mode (b22 - t1) t2 ∧ PreSum mode (b22 - b12) t3 ∧ PreSum mode (t2 - b21) t4 ∧
    Term mode 10 none none a11 b11 (v 1) ∧ Term mode 10 none none a12 b21 (v 2) ∧ Term mode 10 none none s4 b22 (v 3) ∧
    Term mode 10 none none a22 t4 (v 4) ∧ Term mode 10 none none s1 t1 (v 5) ∧ Term mode 10 none none s2 t2 (v 6) ∧
    Term mode 10 none none s3 t3 (v 7)

/-- An output of a recombination tile from its M accumulators: `low` for rows 0 to 7, `left` for columns 0 to 7 (R70). -/
def PostAdded (mode : BitVec 3) (g : Nat → Rat) (low left : Bool) (c : Rat) : Prop :=
  match low, left with
  | true, true => Added mode (g 1) (g 2) c
  | true, false => ∃ u a, Added mode (g 1) (g 6) u ∧ Added mode u (g 5) a ∧ Added mode a (g 3) c
  | false, true => ∃ u a, Added mode (g 1) (g 6) u ∧ Added mode u (g 7) a ∧ Added mode a (-g 4) c
  | false, false => ∃ u a, Added mode (g 1) (g 6) u ∧ Added mode u (g 7) a ∧ Added mode a (g 5) c

/-- MODE, and K (R212). -/
abbrev modeOf (m : Mx) : BitVec 3 := m.cfg.extractLsb' 0 3
abbrev depthOf (m : Mx) : Nat := (m.cfg.extractLsb' 13 8).toNat + 1

/-- Element `n` of a row of K elements, zero beyond it (R68). -/
def elemAt (l : List El) (n : Nat) : Rat := if n < l.length then elNumber (l.getD n elZero) else 0

/-- Accumulator Mk of row pair `i` and column pair `j` of tile `t` (R68). -/
abbrev mAcc (m : Mx) (t i j k : Nat) : El := Tbl.get elZero m.mac (((t * 8 + i) * 8 + j) * 8 + k)

/-- The run that the engine of `c` works on at its row or pair `n`, with its B bank ready and A rows from a stream (R215, R216). -/
structure Fires (s : State) (c : Nat) (w : Word) (n : Nat) (b : List El) : Prop where
  acts : coreActs s c = true
  allowed : mxOpen s c = true
  run : ∃ fl r l, (engineAt s c).run = some { cmd := .run w, next := n, flags := fl, refused := r, loaded := l }
  bank : if w.getLsbD 13 then (engineAt s c).ready1 = true ∧ (engineAt s c).bank1 = b else (engineAt s c).ready0 = true ∧ (engineAt s c).bank0 = b
  fits : b.length = depthOf (engineAt s c) * 16
  source : (engineAt s c).cfg.extractLsb' 10 2 = 0
  held : ∀ x ∈ b, Holds (modeOf (engineAt s c)) x

/-- A full A row of numbers. -/
def FullRow (m : Mx) (r : ARow) : Prop := r.full = true ∧ r.els.length = depthOf m ∧ ∀ x ∈ r.els, Holds (modeOf m) x

end Sys2Proof.Claim

/-- The matrix engine in every mode and order on finite operands. A classical row adds to each accumulator its group sums of 8 products, each with
one rounding; a row pair of a recombination run adds to M1 to M7 the sums of each chunk over the pre-sums; a readout rounds to binary32 what the
accumulators hold, in a recombination tile after the additions of R70; MXLDB reads BF16 elements (R64 to R70, R73, R214, R215, R217). -/
def Sys2Proof.Claim.MatrixModesAccumulate : Prop :=
  (∀ s c m w n b r rest row, m = engineAt s c → Fires s c w n b → (w.getLsbD 15 = true ∨ m.cfg.getLsbD 3 = false) →
    n < (w.extractLsb' 0 7).toNat + 1 → row = (w.extractLsb' 7 6).toNat + n → depthOf m % 8 = 0 →
    m.arows = r :: rest → FullRow m r →
    (w.getLsbD 14 = true ∨
      (Tbl.get (m.cfg.getLsbD 3) m.recomb row = false ∧
       ∀ col, col < 16 → Tbl.get [] m.grp (row * 16 + col) = [] ∧
        Bounded (modeOf m) (Tbl.get elZero m.acc (row * 16 + col)))) →
    ∃ u, exec (.mxrunRowFire c) s = .next (settleCore u c) ∧ (engineAt u c).arows = rest ∧ u.mem = s.mem ∧
      (∀ key, key / 16 ≠ row → Tbl.get elZero (engineAt u c).acc key = Tbl.get elZero m.acc key) ∧
      ∀ col, col < 16 → ∃ (v : Nat → Rat) (a : Nat → Rat),
        (∀ k, k < depthOf m →
          Term (modeOf m) 8 (leastPlace (r.els.getD k elZero))
            (leastPlace (b.getD (k * 16 + col) elZero)) (elemAt r.els k) (elemAt b (k * 16 + col)) (v k)) ∧
        a 0 = (if w.getLsbD 14 then 0
          else total (modeOf m) (Tbl.get elZero m.acc (row * 16 + col))) ∧
        (∀ g, g < depthOf m / 8 →
          Added (modeOf m) (a g) ((List.range 8).map fun k => v (8 * g + k)).sum (a (g + 1))) ∧
        total (modeOf m) (Tbl.get elZero (engineAt u c).acc (row * 16 + col)) =
          a (depthOf m / 8)) ∧
  (∀ s c m w n b r0 r1 t i, m = engineAt s c → Fires s c w n b → w.getLsbD 15 = false → m.cfg.getLsbD 3 = true →
    (modeOf m).toNat < 3 → 2 * n < (w.extractLsb' 0 7).toNat + 1 →
    t = (w.extractLsb' 7 6).toNat / 32 + n / 8 → i = n % 8 →
    m.arows[0]? = some r0 → m.arows[8 - i]? = some r1 →
    FullRow m r0 → FullRow m r1 →
    (w.getLsbD 14 = true ∨
      (Tbl.get true m.recomb (32 * t + i) = true ∧ Tbl.get true m.recomb (32 * t + i + 8) = true ∧
       ∀ j k, j < 8 → 1 ≤ k → k ≤ 7 → Bounded (modeOf m) (mAcc m t i j k))) →
    ∃ u, exec (.mxrunRowFire c) s = .next (settleCore u c) ∧ u.mem = s.mem ∧
      (engineAt u c).arows = (m.arows.eraseIdx (8 - i)).drop 1 ∧
      (∀ k, k < 4 → Tbl.get true (engineAt u c).recomb (32 * t + i + 8 * k) = true) ∧
      ∀ j, j < 8 → ∃ (v : Nat → Nat → Nat → Rat) (a : Nat → Nat → Rat),
        (∀ g p, g < (depthOf m + 15) / 16 → p < 8 →
          let x : Nat → Rat := elemAt r0.els
          let y : Nat → Rat := elemAt r1.els
          let z : Nat → Nat → Rat := fun k col => elemAt b (k * 16 + col)
          SliceTerms (modeOf m) (x (16 * g + p)) (x (16 * g + 8 + p)) (y (16 * g + p)) (y (16 * g + 8 + p))
            (z (16 * g + p) j) (z (16 * g + p) (j + 8)) (z (16 * g + 8 + p) j) (z (16 * g + 8 + p) (j + 8)) (v g p)) ∧
        ∀ k, 1 ≤ k → k ≤ 7 →
          a k 0 = (if w.getLsbD 14 then 0 else total (modeOf m) (mAcc m t i j k)) ∧
          (∀ g, g < (depthOf m + 15) / 16 →
            Added (modeOf m) (a k g) ((List.range 8).map fun p => v g p k).sum (a k (g + 1))) ∧
          total (modeOf m) (mAcc (engineAt u c) t i j k) =
            a k ((depthOf m + 15) / 16)) ∧
  (∀ s c m w key ea row, m = engineAt s c → coreActs s c = true → mxOpen s c = true → Memory.wf s.mem = true → m.late = none →
    m.run = some { cmd := .out w key ea false } → w.extractLsb' 13 2 = 0 → w.extractLsb' 15 2 = 0 → w.extractLsb' 6 7 = 0 →
    w.getLsbD 17 = false → keyIsLoft key = false → key % 4 = 0 → keyIsLoft (key + 64) = false → row = (w.extractLsb' 0 6).toNat →
    Tbl.get (m.cfg.getLsbD 3) m.recomb row = false →
    (∀ col, col < 16 → Tbl.get [] m.grp (row * 16 + col) = []) →
    ∃ u, exec (.mxoutReadoutDone c) s = .next (settleCore u c) ∧ (engineAt u c).run = none ∧
      (∀ k, (k < key ∨ key + 64 ≤ k) → memGet u.mem k = memGet s.mem k) ∧
      ∀ col, col < 16 → elIsFinite (Tbl.get elZero m.acc (row * 16 + col)) = true →
        elNumber (Tbl.get elZero m.acc (row * 16 + col)) ≠ 0 →
        ∃ fl, RoundedOnce .near (elNumber (Tbl.get elZero m.acc (row * 16 + col)))
          (memWord u (key + 4 * col), fl)) ∧
  (∀ s c m w key ea row, m = engineAt s c → coreActs s c = true → mxOpen s c = true → Memory.wf s.mem = true → m.late = none →
    m.run = some { cmd := .out w key ea false } → w.extractLsb' 13 2 = 0 → w.extractLsb' 15 2 = 0 → w.extractLsb' 6 7 = 0 →
    w.getLsbD 17 = false → keyIsLoft key = false → key % 4 = 0 → keyIsLoft (key + 64) = false → row = (w.extractLsb' 0 6).toNat →
    row % 32 < 16 → Tbl.get (m.cfg.getLsbD 3) m.recomb row = true →
    (∀ col, col < 16 → m.side.any (fun p => p.1 == row * 16 + col) = false) →
    (∀ j k, j < 8 → 1 ≤ k → k ≤ 7 →
      Bounded (modeOf m) (mAcc m (row / 32) (row % 8) j k)) →
    ∃ u, exec (.mxoutReadoutDone c) s = .next (settleCore u c) ∧ (engineAt u c).run = none ∧
      (∀ k, (k < key ∨ key + 64 ≤ k) → memGet u.mem k = memGet s.mem k) ∧
      ∀ col, col < 16 → ∃ q,
        PostAdded (modeOf m)
          (fun k => total (modeOf m) (mAcc m (row / 32) (row % 8) (col % 8) k))
          (decide (row % 32 < 8)) (decide (col < 8)) q ∧
        (q ≠ 0 → ∃ fl, RoundedOnce .near q (memWord u (key + 4 * col), fl))) ∧
  (∀ s c m bank key ea, m = engineAt s c → coreActs s c = true → mxOpen s c = true → modeOf m = 0 →
    m.run = some { cmd := .load bank false key ea } →
    (∀ i, i < depthOf m * 32 → isBad s (key + i) = false) →
    ∃ u els, exec (.mxldbBankReady c) s = .next (settleCore u c) ∧ (engineAt u c).run = none ∧ u.mem = s.mem ∧
      els.length = depthOf m * 16 ∧
      (if bank = 0 then (engineAt u c).ready0 = true ∧ (engineAt u c).bank0 = els
       else (engineAt u c).ready1 = true ∧ (engineAt u c).bank1 = els) ∧
      ∀ i (e : Word), i < els.length → e = memGet s.mem (key + 2 * i + 1) ++ memGet s.mem (key + 2 * i) ++ (0 : BitVec 16) →
        isNumber e = true → elIsFinite (els.getD i elZero) = true ∧ elNumber (els.getD i elZero) = number e)
/-! ### Events of tokens, barriers and collectives -/

namespace Sys2Proof.Claim

open Sys2Proof Sys2Proof.Machine

/-- An event ends at core `c` in state `u`, once waiting contexts of the core have started their blocks. -/
abbrev Ends (i : Instr) (s u : State) (c : Nat) : Prop := exec i s = .next (settleCore u c)

/-- Message `n` has arrived with body `b` at a live core of a region that has no sister cell. -/
structure Came (s : State) (n : Nat) (m : Msg) (b : Body) : Prop where
  came : arrived s n = some m
  body : m.body = b
  alive : isDead s m.dst = false
  placed : (regionOf s m.dst).isSome = true
  alone : (cellOf s m.dst).sister = none

/-- Whoever waits for the message hears that it was accepted (R178, R193). -/
def Hears (u : State) (m : Msg) (a : Asker) : Prop :=
  a ≠ .nobody → Sends u m.dst (answerTo a m.src) (.answer { asker := a, recorded := m.recorded })

/-- The kill filter `g` removes tokens with iteration tag `t` of a binding `b` (R200). -/
abbrev Removes (g : Kill) (b : Word) (t : BitVec 6) : Prop :=
  g.ctx = (b.extractLsb' 23 3).toNat ∧ (t.extractLsb' 4 2).toNat = g.level ∧
  1 ≤ ((t.extractLsb' 0 4).toNat + 16 - g.e % 16) % 16 ∧ ((t.extractLsb' 0 4).toNat + 16 - g.e % 16) % 16 ≤ g.depth

/-- Queue `tag` of core `c` takes a token with iteration tag `t`: its binding is valid with arity 1, no filter removes it, and there is
room, UPDs counted with tokens (R15, R16, R182, R200). -/
abbrev TakesOne (s : State) (c tag : Nat) (t : BitVec 6) : Prop :=
  (bindingAt s c tag).getLsbD 31 = true ∧ (bindingAt s c tag).extractLsb' 26 2 = 0 ∧
  (∀ g ∈ (coreOf s c).kills, ¬ Removes g (bindingAt s c tag) t) ∧
  (coreOf s c).tokens.length + (coreOf s c).updTok.length < (cellOf s c).pool ∧
  ((coreOf s c).tokens.filter fun q => q.t.tag == tag).length + ((coreOf s c).updTok.filter fun q => updTagOf q == tag).length < 16

/-- Barrier object `n` of core `c`. -/
abbrev barOf (s : State) (c n : Nat) : Barrier := Tbl.get {} (coreOf s c).bars n

/-- An arrival that its home counts: the object is initialised and the phase not full, the arriver has no record in it, and a record is
free (R220, R310, R311). -/
abbrev CountsArrival (s : State) (c bn cell ctx : Nat) : Prop :=
  (barOf s c bn).init = true ∧ (barOf s c bn).arr < (barOf s c bn).e ∧ (coreOf s c).recs.length < 2048 ∧
  ∀ r ∈ (coreOf s c).recs, ¬ (r.bn = bn ∧ r.cell = cell ∧ r.ctx = ctx)

/-- DELTA after an arrival (R220). -/
def deltaAfter (b : Barrier) (dropping : Bool) : Int := if dropping then b.delta - 1 else b.delta

/-- Every byte of memory reads as before, but for group table entries that the cache of core `c` writes back to the loft (R321). -/
def KeepsMemory (s u : State) (c : Nat) : Prop :=
  ∀ k, (∀ p ∈ (coreOf s c).gcache, k < groupKey c p.1 ∨ groupKey c p.1 + 136 ≤ k) → memGet u.mem k = memGet s.mem k

/-- Everything of core `c` but its group table cache is as before, and entry `gt` reads as before (R321). -/
def KeepsGroups (s u : State) (c gt : Nat) : Prop :=
  { coreOf u c with gcache := (coreOf s c).gcache } = coreOf s c ∧ groupOf u c gt = groupOf s c gt ∧ KeepsMemory s u c

/-- A collective packet of tuple `u` has arrived at its home, the collective context `x` of core `m.dst`, whose cache takes its entry
(R321, R325, R326). -/
structure Packet (s : State) (n : Nat) (m : Msg) (t : Token) (a : Asker) (u : Tuple) (x : Nat) : Prop where
  came : Came s n m (.token t a)
  tuple : t.tuple = some u
  tag : 0xE0 ≤ t.tag ∧ t.tag ≤ 0xEF
  home : isCollHome s m.dst = true
  ctx : collCtx s m.dst = some x
  port : t.port = 0
  source : t.src = none
  room : groupRoom s m.dst u.gt = true

/-- A live, unpoisoned entry of which the sender is a member (R320, R326). -/
abbrev Member (s : State) (c : Nat) (u : Tuple) : Prop :=
  (groupOf s c u.gt).live = true ∧ (groupOf s c u.gt).members.testBit u.rank = true ∧ (groupOf s c u.gt).poison = false

/-- The lanes of a completion token (R191). -/
def fourLanes (a b c d : Word) : Val := ⟨some a, some b, some c, some d, none, none, none, none⟩

/-- The context of a slot as it goes on where the slot began (R331). -/
def Resumes (u : State) (c x : Nat) (w : Context) : Prop :=
  (ctxOf u c x).st = .running ∧ (ctxOf u c x).pc = w.pc ∧ (ctxOf u c x).rtag = w.rtag ∧ (ctxOf u c x).itag = w.itag ∧
  (ctxOf u c x).args = w.args ∧ (ctxOf u c x).argn = w.argn ∧ (ctxOf u c x).calls = w.calls

end Sys2Proof.Claim

/-- TOKEN_ARRIVAL queues a token, or allocates its matching entry, or discards it and counts that (R15 to R18, R200); KILL_FILTER_SET and
KILL_FILTER_CLEAR change the filters and remove what the new one matches (R200, R201); CONTROL_PULSE counts to 15 (R205);
LINK_VALUE_ARRIVAL fills the link queue (R203). -/
def Sys2Proof.Claim.TokensAndSignalsArrive : Prop :=
  (∀ s n m t a, Came s n m (.token t a) → t.tag < 256 → t.tuple = none → t.port = 0 → TakesOne s m.dst t.tag t.itag →
    ∃ u q, Ends (.tokenArrival n) s u m.dst ∧ (coreOf u m.dst).tokens = (coreOf s m.dst).tokens ++ [q] ∧ q.t = t ∧ q.held = false ∧
      (coreOf u m.dst).joins = (coreOf s m.dst).joins ∧ Hears u m a ∧ u.mem = s.mem) ∧
  (∀ s n m t a, let b := bindingAt s m.dst t.tag
    Came s n m (.token t a) → t.tag < 256 → t.tuple = none → b.getLsbD 31 = true → b.extractLsb' 26 2 ≠ 0 →
    t.port ≤ (b.extractLsb' 26 2).toNat → (∀ g ∈ (coreOf s m.dst).kills, ¬ Removes g b t.itag) →
    (∀ j ∈ (coreOf s m.dst).joins, j.tag = t.tag → j.itag = t.itag → j.solo = true) → (coreOf s m.dst).joins.length < 64 →
    ∃ u j, Ends (.tokenArrival n) s u m.dst ∧ (coreOf u m.dst).joins = (coreOf s m.dst).joins ++ [j] ∧ j.tag = t.tag ∧ j.itag = t.itag ∧
      j.done = none ∧ (∀ p, p < 4 → j.ports[p]? = some (if p = t.port then some t.lanes else none)) ∧
      (coreOf u m.dst).tokens = (coreOf s m.dst).tokens ∧ Hears u m a ∧ u.mem = s.mem) ∧
  (∀ s n m t a, let b := bindingAt s m.dst t.tag
    Came s n m (.token t a) → t.tag < 256 → t.tuple = none → t.src = none →
    (b.getLsbD 31 = false ∨ (b.extractLsb' 26 2).toNat < t.port ∨ ∃ g ∈ (coreOf s m.dst).kills, Removes g b t.itag) →
    ∃ u, Ends (.tokenArrival n) s u m.dst ∧ (cellOf u m.dst).discard = (cellOf s m.dst).discard + 1 ∧
      coreOf u m.dst = coreOf s m.dst ∧ Hears u m a ∧ u.mem = s.mem) ∧
  (∀ s n m x l e d a, Came s n m (.killSet x l e d a) →
    ∃ u, Ends (.killFilterSet n) s u m.dst ∧ (⟨x, l, e, d⟩ : Kill) ∈ (coreOf u m.dst).kills ∧
      (∀ g, g ∈ (coreOf u m.dst).kills ↔ g = ⟨x, l, e, d⟩ ∨ (g ∈ (coreOf s m.dst).kills ∧ ¬ (g.ctx = x ∧ g.level = l))) ∧
      (∀ q, q ∈ (coreOf u m.dst).tokens ↔
        q ∈ (coreOf s m.dst).tokens ∧ ¬ Removes ⟨x, l, e, d⟩ (bindingAt s m.dst q.t.tag) q.t.itag) ∧
      (∀ j, j ∈ (coreOf u m.dst).joins ↔
        j ∈ (coreOf s m.dst).joins ∧ ¬ Removes ⟨x, l, e, d⟩ (bindingAt s m.dst j.tag) j.itag) ∧
      (∀ q, q ∈ (coreOf u m.dst).updTok ↔
        q ∈ (coreOf s m.dst).updTok ∧ ¬ Removes ⟨x, l, e, d⟩ (bindingAt s m.dst (updTagOf q)) 0) ∧ Hears u m a ∧ u.mem = s.mem) ∧
  (∀ s n m x l a, Came s n m (.killClear x l a) →
    ∃ u, Ends (.killFilterClear n) s u m.dst ∧
      (∀ g, g ∈ (coreOf u m.dst).kills ↔ g ∈ (coreOf s m.dst).kills ∧ ¬ (g.ctx = x ∧ g.level = l)) ∧
      (coreOf u m.dst).tokens = (coreOf s m.dst).tokens ∧ Hears u m a ∧ u.mem = s.mem) ∧
  (∀ s n m ch a, Came s n m (.pulse ch a) → pulseCount s m.dst ch ≤ 15 →
    ∃ u, Ends (.controlPulse n) s u m.dst ∧ pulseCount u m.dst ch = min 15 (pulseCount s m.dst ch + 1) ∧
      (∀ k, k ≠ ch → pulseCount u m.dst k = pulseCount s m.dst k) ∧ Hears u m a ∧ u.mem = s.mem) ∧
  (∀ s n m west v, Came s n m (.link west v) → (coreOf s m.dst).mx.owner = none →
    (if west then (coreOf s m.dst).linkW else (coreOf s m.dst).linkN).length < 8 →
    ∃ u, Ends (.linkValueArrival n) s u m.dst ∧
      (coreOf u m.dst).linkW = (if west then (coreOf s m.dst).linkW ++ [v] else (coreOf s m.dst).linkW) ∧
      (coreOf u m.dst).linkN = (if west then (coreOf s m.dst).linkN else (coreOf s m.dst).linkN ++ [v]) ∧ u.mem = s.mem)

/-- BARRIER_ARRIVAL counts an arrival, and the one that completes the phase releases it to every arriver; a refused one is answered with
BAR_OVER (R219, R220, R310, R311, R314). ARRIVAL_RESEND sends a refused arrival again (R310). HOME_BARRIER_UPDATE applies BINIT, JOINB and
LEAVEB (R220). Each waits for the operations on its object that reached the home before it (R313). -/
def Sys2Proof.Claim.BarriersCountAtTheirHome : Prop :=
  (∀ s n m bn drop fl w x a, Came s n m (.barrier bn (.arrive drop fl) w x a) → CountsArrival s m.dst bn m.src x → barWaits s m = false →
    (barOf s m.dst bn).arr + 1 < (barOf s m.dst bn).e →
    ∃ u r, Ends (.barrierArrival n) s u m.dst ∧
      barOf u m.dst bn = { barOf s m.dst bn with
        arr := (barOf s m.dst bn).arr + 1
        facc := (barOf s m.dst bn).facc ||| fl.getD 0
        delta := deltaAfter (barOf s m.dst bn) drop } ∧
      (coreOf u m.dst).recs = (coreOf s m.dst).recs ++ [r] ∧ r.bn = bn ∧ r.cell = m.src ∧ r.ctx = x ∧
      (∀ k, k ≠ bn → barOf u m.dst k = barOf s m.dst k) ∧ Hears u m a ∧ u.mem = s.mem) ∧
  (∀ s n m bn drop fl w x a, let b := barOf s m.dst bn
    Came s n m (.barrier bn (.arrive drop fl) w x a) → CountsArrival s m.dst bn m.src x → barWaits s m = false →
    b.arr + 1 = b.e →
    ∃ u, Ends (.barrierArrival n) s u m.dst ∧ (barOf u m.dst bn).phase = !b.phase ∧ (barOf u m.dst bn).arr = 0 ∧
      (barOf u m.dst bn).facc = 0 ∧ (barOf u m.dst bn).delta = 0 ∧ (barOf u m.dst bn).rtag = b.rtag ∧
      (barOf u m.dst bn).e = ((b.e : Int) + deltaAfter b drop).toNat ∧
      ((barOf u m.dst bn).init = true ↔ (barOf u m.dst bn).e ≠ 0) ∧
      (coreOf u m.dst).recs = (coreOf s m.dst).recs.filter (fun r => r.bn != bn) ∧
      (∀ d, (d = m.src ∨ ∃ r ∈ (coreOf s m.dst).recs, r.bn = bn ∧ r.cell = d) →
        Sends u m.dst d (.token { tag := b.rtag, release := true, lanes := ⟨some (BitVec.ofNat 32
          ((b.facc ||| fl.getD 0).toNat + if b.phase then 256 else 0)), some (BitVec.ofNat 32 bn), none, none, none, none, none, none⟩ }
          .nobody)) ∧ Hears u m a ∧ u.mem = s.mem) ∧
  (∀ s n m bn drop fl w x a, Came s n m (.barrier bn (.arrive drop fl) w x a) → a ≠ .nobody → barWaits s m = false →
    ((barOf s m.dst bn).init = false ∨ (barOf s m.dst bn).arr = (barOf s m.dst bn).e ∨
      ∃ r ∈ (coreOf s m.dst).recs, r.bn = bn ∧ r.cell = m.src ∧ r.ctx = x) →
    ∃ u, Ends (.barrierArrival n) s u m.dst ∧ coreOf u m.dst = coreOf s m.dst ∧ u.mem = s.mem ∧
      ∃ lanes, Sends u m.dst (answerTo a m.src)
        (.answer { asker := a, cause := some .barOver, refused := lanes, recorded := m.recorded })) ∧
  (∀ s n m bn drop fl w x a, s.net[n]? = some m → m.body = .barrier bn (.arrive drop fl) w x a → m.wait ≠ 0 →
    ∃ t, exec (.arrivalResend n) s = .next t ∧
      (∃ q ∈ t.net, q.src = m.src ∧ q.dst = m.dst ∧ q.at_ = m.src ∧ q.body = m.body ∧ q.wait = 0) ∧ t.mem = s.mem) ∧
  (∀ s n m bn w h x a, Came s n m (.barrier bn (.init w) h x a) → a ≠ .nobody → barWaits s m = false → (barOf s m.dst bn).arr = 0 →
    1 ≤ (w.extractLsb' 0 11).toNat → (w.extractLsb' 0 11).toNat ≤ 1024 →
    ∃ u, Ends (.homeBarrierUpdate n) s u m.dst ∧
      barOf u m.dst bn = ⟨true, false, 0, (w.extractLsb' 11 8).toNat, (w.extractLsb' 0 11).toNat, 0, 0⟩ ∧
      (∀ k, k ≠ bn → barOf u m.dst k = barOf s m.dst k) ∧
      (∃ v, Sends u m.dst (answerTo a m.src) (.answer { asker := a, vals := v, recorded := m.recorded })) ∧ u.mem = s.mem) ∧
  (∀ s n m bn op k (d : Int) h x a, Came s n m (.barrier bn op h x a) → a ≠ .nobody → ((op = .join k ∧ d = k) ∨ (op = .leave k ∧ d = -k)) →
    barWaits s m = false → (barOf s m.dst bn).init = true → 1 ≤ k → k ≤ 1024 → 1 ≤ ((barOf s m.dst bn).e : Int) + (barOf s m.dst bn).delta + d →
    ((barOf s m.dst bn).e : Int) + (barOf s m.dst bn).delta + d ≤ 1024 →
    ∃ u, Ends (.homeBarrierUpdate n) s u m.dst ∧
      barOf u m.dst bn = { barOf s m.dst bn with delta := (barOf s m.dst bn).delta + d } ∧
      (∀ j, j ≠ bn → barOf u m.dst j = barOf s m.dst j) ∧
      (∃ v, Sends u m.dst (answerTo a m.src) (.answer { asker := a, vals := v, recorded := m.recorded })) ∧ u.mem = s.mem)

/-- The collective engine starts an operation and finishes it (R324, R328); the home queues, counts, discards or holds a packet, answers
it with a notice, or poisons the entry (R326, R327); a notice poisons (R327). -/
def Sys2Proof.Claim.CollectivesRunInOrder : Prop :=
  (∀ s c x o, coreActs s c = true → collCtx s c = some x → (ctxOf s c x).collq = [o] → o.started = false → o.holdOn = [] →
    groupRoom s c o.gt = true →
    (∀ q ∈ (coreOf s c).tokens, q.held = false) → TakesOne s c (512 + o.htag) 0 →
    ∃ u q, Ends (.collectiveStart c x) s u c ∧
      groupOf u c o.gt = { groupOf s c o.gt with busy := true, digp := (groupOf s c o.gt).dig, dig := o.digest } ∧
      (ctxOf u c x).collq = [{ o with started := true }] ∧ (coreOf u c).tokens = (coreOf s c).tokens ++ [q] ∧
      q.t.tag = 512 + o.htag ∧ q.t.itag = 0 ∧ q.t.port = 0 ∧
      q.t.lanes = ⟨some (BitVec.ofNat 32 o.addr), some (BitVec.ofNat 32 (o.gt % 256 + o.seq % 2 ^ 16 * 2 ^ 16)),
        some (BitVec.ofNat 32 o.digest), none, none, none, none, none⟩ ∧ KeepsMemory s u c) ∧
  (∀ s c x o rest, coreActs s c = true → (ctxOf s c x).collq = o :: rest → groupRoom s c o.gt = true → o.started = true → o.expect ≤ o.arrived →
    max 1 o.expect ≤ o.ended → (∀ e ∈ (ctxOf s c x).pend, e.2.st = .free) → (∀ p ∈ rest, ¬ (p.gt = o.gt ∧ p.seq = o.seq)) →
    ∃ u, Ends (.collectiveFinish c x) s u c ∧ (groupOf u c o.gt).busy = false ∧ (ctxOf u c x).collq = rest ∧
      Sends u c c (.token { tag := o.ftag, lanes := fourLanes 0 (BitVec.ofNat 32 o.seq) 0 (BitVec.ofNat 32 o.gt) } .nobody) ∧
      KeepsMemory s u c) ∧
  (∀ s n m t a p x, Packet s n m t a p x →
    ((groupOf s m.dst p.gt).live = false ∨ (groupOf s m.dst p.gt).members.testBit p.rank = false) →
    ∃ u, Ends (.collectivePacketCheck n) s u m.dst ∧ (cellOf u m.dst).discard = (cellOf s m.dst).discard + 1 ∧
      KeepsGroups s u m.dst p.gt) ∧
  (∀ s n m t a p x, Packet s n m t a p x → (groupOf s m.dst p.gt).live = true →
    (groupOf s m.dst p.gt).members.testBit p.rank = true → (groupOf s m.dst p.gt).poison = true →
    senderOf m < hostDst → ∃ u, Ends (.collectivePacketCheck n) s u m.dst ∧ Sends u m.dst (senderOf m) (.poison p.gt p.seq false) ∧
      KeepsGroups s u m.dst p.gt) ∧
  (∀ s n m t a p x o, Packet s n m t a p x → Member s m.dst p → (ctxOf s m.dst x).collq = [o] → o.gt = p.gt → o.seq = p.seq →
    o.started = true → (groupOf s m.dst p.gt).dig = p.digest → TakesOne s m.dst (512 + t.tag) t.itag →
    ∃ u q, Ends (.collectivePacketCheck n) s u m.dst ∧ (coreOf u m.dst).tokens = (coreOf s m.dst).tokens ++ [q] ∧
      q.t = { t with tag := 512 + t.tag } ∧ q.held = false ∧ (ctxOf u m.dst x).collq = [{ o with arrived := o.arrived + 1 }] ∧
      KeepsMemory s u m.dst) ∧
  (∀ s n m t a p x, Packet s n m t a p x → Member s m.dst p → (ctxOf s m.dst x).collq = [] →
    0 < (p.seq + 65536 - (groupOf s m.dst p.gt).seq) % 65536 →
    (p.seq + 65536 - (groupOf s m.dst p.gt).seq) % 65536 < 32768 → TakesOne s m.dst (512 + t.tag) t.itag →
    ∃ u q, Ends (.collectivePacketCheck n) s u m.dst ∧ (coreOf u m.dst).tokens = (coreOf s m.dst).tokens ++ [q] ∧
      q.t = { t with tag := 512 + t.tag } ∧ q.held = true ∧ KeepsMemory s u m.dst) ∧
  (∀ s n m t a p x o, Packet s n m t a p x → Member s m.dst p → (ctxOf s m.dst x).collq = [o] → o.gt = p.gt → o.seq = p.seq →
    o.started = true → (groupOf s m.dst p.gt).dig ≠ p.digest → p.gt ∉ (coreOf s m.dst).gtold →
    (ctxOf s m.dst x).lateQ = [] → senderOf m < hostDst →
    ∃ u l, Ends (.collectivePacketCheck n) s u m.dst ∧ (groupOf u m.dst p.gt).poison = true ∧ (ctxOf u m.dst x).collq = [] ∧
      (ctxOf u m.dst x).lateQ = [l] ∧ l.cause = .collOrder ∧ l.taddr = BitVec.ofNat 32 (p.gt + p.seq % 2 ^ 16 * 2 ^ 16) ∧
      Sends u m.dst (senderOf m) (.poison p.gt p.seq true) ∧
      Sends u m.dst m.dst (.token { tag := o.ftag, lanes := fourLanes 6 (BitVec.ofNat 32 o.seq) 0 (BitVec.ofNat 32 o.gt) } .nobody) ∧
      KeepsMemory s u m.dst) ∧
  (∀ s n m gt seq x, Came s n m (.poison gt seq false) → collCtx s m.dst = some x → groupRoom s m.dst gt = true → (groupOf s m.dst gt).live = true →
    ∃ u, Ends (.poisonNotice n) s u m.dst ∧ (groupOf u m.dst gt).poison = true ∧
      (ctxOf u m.dst x).collq = (ctxOf s m.dst x).collq.filter (fun o => o.gt != gt) ∧
      (∀ o ∈ (ctxOf s m.dst x).collq, o.gt = gt →
        Sends u m.dst m.dst (.token { tag := o.ftag, lanes := fourLanes 6 (BitVec.ofNat 32 o.seq) 0 (BitVec.ofNat 32 gt) } .nobody)) ∧
      (ctxOf u m.dst x).lateQ = (ctxOf s m.dst x).lateQ ∧ KeepsMemory s u m.dst)

/-- A collective slot opens on the collective context where it has yielded or is idle, ends when no shadow tag of it is ready, and expires
after 8,192 cycles with NOPRE for a handler in flight; the context then goes on where it was (R330, R331). -/
def Sys2Proof.Claim.CollectiveSlotsOpenAndEnd : Prop :=
  (∀ s c x, coreActs s c = true → x < 4 → slotDue s c x = true → (∀ y, y < x → slotDue s c y = false) →
    ∃ u k, Ends (.slotOpen c) s u c ∧ (cellOf u c).slot = some k ∧ k.ctx = x ∧ k.began = (cellOf s c).cyc ∧
      k.resume = (if (ctxOf s c x).st = .running then some (ctxOf s c x) else none) ∧ (ctxOf u c x).st = .idle ∧
      (ctxOf u c x).regs = (ctxOf s c x).regs ∧ (∀ y, y ≠ x → ctxOf u c y = ctxOf s c y) ∧ u.mem = s.mem) ∧
  (∀ s c k w, coreActs s c = true → (cellOf s c).slot = some k → k.resume = some w → (ctxOf s c k.ctx).st = .idle →
    (ctxOf s c k.ctx).frame = none → shadowReady s c k.ctx = false →
    ∃ u, Ends (.slotEnd c) s u c ∧ (cellOf u c).slot = none ∧ Resumes u c k.ctx w ∧
      (ctxOf u c k.ctx).regs = (ctxOf s c k.ctx).regs ∧ u.mem = s.mem) ∧
  (∀ s c k w, coreActs s c = true → (cellOf s c).slot = some k → k.resume = some w → (ctxOf s c k.ctx).st = .idle →
    k.began + 8192 ≤ (cellOf s c).cyc →
    ∃ u, Ends (.slotExpiry c) s u c ∧ (cellOf u c).slot = none ∧ Resumes u c k.ctx w ∧ u.mem = s.mem) ∧
  (∀ s c k f, coreActs s c = true → (cellOf s c).slot = some k → k.ctx < 4 → k.resume = none → (ctxOf s c k.ctx).st = .running →
    (ctxOf s c k.ctx).frame = some f → k.began + 8192 ≤ (cellOf s c).cyc →
    ∃ u, Ends (.slotExpiry c) s u c ∧ (cellOf u c).slot = none ∧
      TrapsAt s u c k.ctx 0x7F f .nopre (BitVec.ofNat 32 f.hdr) 0 0)
/-! ### Events of spawn trees, routers and regions -/

namespace Sys2Proof.Claim

open Sys2Proof Sys2Proof.Machine

/-- A place of a spawn rectangle forwards east: it stands in the origin row, before its end (R362). -/
abbrev goesEast (q : SpawnMsg) : Prop := q.y = 0 ∧ q.x + 1 < q.w

/-- A place of a spawn rectangle forwards south (R362). -/
abbrev goesSouth (q : SpawnMsg) : Prop := q.y + 1 < q.h

/-- Core `c` acknowledges its place of a tree: to its parent, or from the origin to the issuer (R362). -/
def Acknowledges (s u : State) (c : Nat) (q : SpawnMsg) : Prop :=
  if q.x = 0 ∧ q.y = 0 then q.asker ≠ .nobody → Sends u c (answerTo q.asker c) (.answer { asker := q.asker })
  else ∀ p, coreOffset s c (if 0 < q.y then 0 else -1) (if 0 < q.y then -1 else 0) = some p → Sends u c p (.spawnAck q)

/-- Core `c` has accepted a spawn message: it stands at the end of the spawn queue, has gone on to its children, and is acknowledged at
once where it has none (R230, R362). -/
def AcceptsSpawn (s u : State) (c : Nat) (q : SpawnMsg) : Prop :=
  (∃ k, (coreOf u c).spawnQ = (coreOf s c).spawnQ ++ [{ q with stamp := k }]) ∧
  (goesEast q → ∀ d, coreOffset s c 1 0 = some d → Sends u c d (.spawn { q with x := q.x + 1 })) ∧
  (goesSouth q → ∀ d, coreOffset s c 0 1 = some d → Sends u c d (.spawn { q with y := q.y + 1 })) ∧
  (if goesEast q ∨ goesSouth q then
    (coreOf u c).spawnTrees = (coreOf s c).spawnTrees ++ [⟨q, (if goesEast q then 1 else 0) + (if goesSouth q then 1 else 0)⟩]
   else (coreOf u c).spawnTrees = (coreOf s c).spawnTrees ∧ Acknowledges s u c q) ∧
  u.mem = s.mem

/-- Spawn messages of context `x` in a list. -/
abbrev spawnsOf (l : List SpawnMsg) (x : Nat) : List SpawnMsg := l.filter fun q => q.ctx == x

/-- Message `n` is a static-route token at router `m.at_`, at the head of its buffer, with no earlier one of its label there, and no boundary
holds it (R257, R261, R271). -/
abbrev AtRouter (s : State) (n : Nat) (m : Msg) (l : Nat) (sh : Bool) (t : Token) (a : Asker) : Prop :=
  s.net[n]? = some m ∧ m.body = .routed l sh t a ∧ routeBehind s n m l sh = false ∧ blocked s n m = false ∧
  heldRoute s m (labelWord s m.at_ l sh) = false

/-- Message `n` is a dynamic message on its way, at the head of its buffer, inside no boundary that holds it, and the buffer behind its next
link has a credit (R257, R271). -/
structure Hops (s : State) (n : Nat) (m : Msg) : Prop where
  here_ : s.net[n]? = some m
  away : m.at_ ≠ m.dst
  ready : m.wait = 0
  dynamic : ∀ l sh t a, m.body ≠ .routed l sh t a
  first : blocked s n m = false
  open_ : heldInside s m = false
  channel : m.vc < 8
  credit : ∀ h, nextLink s m = some h → hasCredit s h.goal h.inp h.vc = true

/-- Message `n` crosses to `d`, with the physical links `leg` of its logical hop still before it, and nothing else happens to it. -/
def CrossesTo (s : State) (n : Nat) (m : Msg) (d : Nat) (leg : List Nat) : Prop :=
  ∃ u p, exec (.dynamicHop n) s = .next u ∧ u.net[n]? = some p ∧ p.at_ = d ∧ p.leg = leg ∧ p.src = m.src ∧ p.dst = m.dst ∧ p.body = m.body ∧
    u.mem = s.mem

/-- The output towards the next logical cell in dimension order, x before y: 0 N, 1 E, 2 S, 3 W (R258). -/
def outwards (s : State) (m : Msg) : Nat :=
  if (deltaOf s m.at_ m.dst).1 > 0 then 1 else if (deltaOf s m.at_ m.dst).1 < 0 then 3
  else if (deltaOf s m.at_ m.dst).2 > 0 then 2 else 0

/-- The router passes tokens on the label word `w` of kind `k`: VALID, and of its own region unless TRANSIT or XR (R252, R253). -/
abbrev RouterTakes (s : State) (c : Nat) (w : Word) (k : Nat) : Prop :=
  w.getLsbD 31 = true ∧ (w.extractLsb' 29 2).toNat = k ∧ k < 3 ∧
  (k = 1 ∨ w.getLsbD 28 = true ∨ regionOf s c = some (w.extractLsb' 0 12).toNat)

/-- The state once message `n` has been taken and its sender told of it. -/
abbrev accepted (s : State) (n : Nat) (m : Msg) (a : Asker) : State := reply (receive s n m) m.dst m { asker := a }

/-- A select, with its handle, reply tag and function number (R191, R229, R231). -/
abbrev SelectIs (op : CfgOp) (h : Word) (tag fn : Nat) : Prop :=
  (op = .release h tag ∧ fn = 33) ∨ ∃ m, op = .mapsel h m tag ∧ fn = 35

end Sys2Proof.Claim

/-- SPAWN_ACCEPT, SPAWN_HOLD_RELEASE and SPAWN_ACK pass a spawn message down its tree and its acknowledgement up (R230, R362). LABEL_HOP
ejects, forwards or drops a static-route token by its label (R253); DYNAMIC_HOP takes a dynamic message over one physical link of its path,
toward its logical neighbour in dimension order (R258, R421), or along the mesh and the attachment router of a management path (R453), each once
the next router has a credit (R257). -/
def Obligations.MessagesTravelTheFabric : Prop :=
  (∀ s n m q, Came s n m (.spawn q) → spawnsOf (coreOf s m.dst).spawnHold q.ctx = [] → (spawnsOf (coreOf s m.dst).spawnQ q.ctx).length < 4 →
    ∃ u, Ends (.spawnAccept n) s u m.dst ∧ AcceptsSpawn s u m.dst q) ∧
  (∀ s n m q, Came s n m (.spawn q) → spawnsOf (coreOf s m.dst).spawnHold q.ctx = [] → 4 ≤ (spawnsOf (coreOf s m.dst).spawnQ q.ctx).length →
    ∃ u, exec (.spawnAccept n) s = .next u ∧ (coreOf u m.dst).spawnHold = (coreOf s m.dst).spawnHold ++ [q] ∧
      (coreOf u m.dst).spawnQ = (coreOf s m.dst).spawnQ ∧ u.mem = s.mem) ∧
  (∀ s n m q, Came s n m (.spawn q) → spawnsOf (coreOf s m.dst).spawnHold q.ctx ≠ [] → exec (.spawnAccept n) s = .next s) ∧
  (∀ s c q, coreActs s c = true → (cellOf s c).sister = none → (coreOf s c).spawnHold = [q] → (spawnsOf (coreOf s c).spawnQ q.ctx).length < 4 →
    ∃ u, Ends (.spawnHoldRelease c q.ctx) s u c ∧ (coreOf u c).spawnHold = [] ∧ AcceptsSpawn s u c q) ∧
  (∀ s n m q tr, arrived s n = some m → m.body = .spawnAck q → (coreOf s m.dst).spawnTrees = [tr] → tr.m.asker = q.asker →
    (if 0 < q.y then tr.m.x = q.x ∧ tr.m.y + 1 = q.y else tr.m.x + 1 = q.x ∧ tr.m.y = q.y) →
    ∃ u, exec (.spawnAck n) s = .next u ∧ u.mem = s.mem ∧
      (if tr.left ≤ 1 then (coreOf u m.dst).spawnTrees = [] ∧ Acknowledges s u m.dst tr.m
       else (coreOf u m.dst).spawnTrees = [{ tr with left := tr.left - 1 }])) ∧
  (∀ s n m l sh t a w, AtRouter s n m l sh t a → m.leg = [] → w = labelWord s m.at_ l sh → RouterTakes s m.at_ w 2 →
    ∃ u p, exec (.labelHop n) s = .next u ∧ u.net[n]? = some p ∧ p.at_ = m.at_ ∧ p.dst = m.at_ ∧
      p.body = .token { t with tag := (w.extractLsb' 13 8).toNat } a ∧ u.mem = s.mem) ∧
  (∀ s n m l sh t a w k d, AtRouter s n m l sh t a → m.leg = [] → w = labelWord s m.at_ l sh → RouterTakes s m.at_ w k → k < 2 →
    (cellOf s m.at_).altsel = false → d = linkEnd s m.at_ (w.extractLsb' 22 4).toNat →
    hasCredit s d (inputOf (w.extractLsb' 22 4).toNat) (if w.getLsbD 27 then 7 else 6) = true →
    ∃ u p, exec (.labelHop n) s = .next u ∧ u.net[n]? = some p ∧ p.at_ = d ∧ p.vc = (if w.getLsbD 27 then 7 else 6) ∧
      p.body = .routed (w.extractLsb' 13 9).toNat sh t a ∧ u.mem = s.mem) ∧
  (∀ s n m l sh t a o os, AtRouter s n m l sh t a → m.leg = o :: os → hasCredit s (physMove m.at_ o) (inputOf o) m.vc = true →
    ∃ u p, exec (.labelHop n) s = .next u ∧ u.net[n]? = some p ∧ p.at_ = physMove m.at_ o ∧ p.leg = os ∧ p.vc = m.vc ∧
      p.body = m.body ∧ u.mem = s.mem) ∧
  (∀ s n m l sh t a w, AtRouter s n m l sh t a → m.leg = [] → w = labelWord s m.at_ l sh → (∀ k, ¬ RouterTakes s m.at_ w k) → t.src = none →
    ∃ u, exec (.labelHop n) s = .next u ∧ (cellOf u m.at_).discard = (cellOf s m.at_).discard + 1 ∧
      Report.discardEvent m.at_ ∈ u.outbox ∧ u.mem = s.mem ∧
      (∀ c x i, a = .entry c x i → Sends u m.at_ c (.answer { asker := a, cause := some .remote, recorded := m.recorded }))) ∧
  (∀ s n m x y, Hops s n m → m.leg = [] → byManagement m = false → logicalOf s m.at_ = some (x, y) → (logicalOf s m.dst).isSome = true →
    deltaOf s m.at_ m.dst ≠ (0, 0) → activeBank (cellOf s m.at_) = [] →
    CrossesTo s n m (match outwards s m with
      | 0 => coreAt s x ((y + 959) % 960) | 1 => coreAt s ((x + 1) % 960) y | 2 => coreAt s x ((y + 1) % 960)
      | _ => coreAt s ((x + 959) % 960) y) []) ∧
  (∀ s n m l ls, Hops s n m → m.leg = [] → byManagement m = false → (logicalOf s m.at_).isSome = true → (logicalOf s m.dst).isSome = true →
    deltaOf s m.at_ m.dst ≠ (0, 0) → activeBank (cellOf s m.at_) ≠ [] → hopLinks s m.at_ (outwards s m) = l :: ls → l < 8 →
    CrossesTo s n m (physMove m.at_ l) ls) ∧
  (∀ s n m l ls, Hops s n m → m.leg = l :: ls → l < 8 → CrossesTo s n m (physMove m.at_ l) ls) ∧
  (∀ s n m b, Hops s n m → m.leg = [] → m.src = bayCore b → m.at_ = bayCore b → b < 1024 → isCellCore m.dst = true →
    (bayAt s b).attachDown = false → CrossesTo s n m (b * 1024 + 15 * 32 + 15) []) ∧
  (∀ s n m b goal, Hops s n m → m.leg = [] → isCellCore m.at_ = true → b < 1024 →
    ((m.dst = bayCore b ∧ isCellCore m.src = true ∧ goal = b * 1024 + 15 * 32 + 15) ∨ (m.src = bayCore b ∧ isCellCore m.dst = true ∧ goal = m.dst)) →
    m.at_ ≠ goal →
    CrossesTo s n m (physMove m.at_ (if waferX m.at_ < waferX goal then 1 else if waferX goal < waferX m.at_ then 3
      else if waferY m.at_ < waferY goal then 2 else 0)) []) ∧
  (∀ s n m b, Hops s n m → m.leg = [] → m.dst = bayCore b → b < 1024 → isCellCore m.src = true → m.at_ = b * 1024 + 15 * 32 + 15 →
    (bayAt s b).attachDown = false → CrossesTo s n m (bayCore b) []) ∧
  (∀ s n m b, s.net[n]? = some m → m.at_ ≠ m.dst → m.leg = [] → m.vc < 8 → m.dst = bayCore b → b < 1024 → isCellCore m.src = true →
    m.at_ = b * 1024 + 15 * 32 + 15 → (bayAt s b).attachDown = true → exec (.dynamicHop n) s = .next s)

/-- CFGREQ_SERVICE loads the subgraph, or answers NOIMAGE or NOSPACE and changes no channel or tag (R229, R268). CONFIGURATION_SELECT
makes the region drain (R270), once a cut or a roll-back under way has ended (R390), or is REFUSED for a stale handle (R250), or answered
  NOIMAGE. DRAIN_SWEEP compares two sweeps, and a clean one frees the region
or loads its new mapping (R231, R272, R273). -/
def Obligations.RegionsAreRequestedAndDrained : Prop :=
  (∀ s n m id link tag x a, Came s n m (.cfg (.request id link tag) x a) → Tbl.get none s.catalogue id = none →
    ∃ u, exec (.cfgreqService n) s = .next u ∧ Sends u m.dst m.src (.token { tag := tag, lanes := fourLanes 22 0 0 32 } .nobody) ∧
      (ctxOf u m.src x).cfgOut = (ctxOf s m.src x).cfgOut - 1 ∧ (ctxOf u m.src x).chans = (ctxOf s m.src x).chans ∧
      (coreOf u m.src).bindings = (coreOf s m.src).bindings ∧ u.regions = s.regions ∧ u.mem = s.mem) ∧
  (∀ s n m id link tag x a g, Came s n m (.cfg (.request id link tag) x a) → Tbl.get none s.catalogue id = some g →
    (link.extractLsb' 6 6).toNat ≤ g.ins.length → (link.extractLsb' 20 4).toNat ≤ g.outs.length →
    serveRequest (accepted s n m a) m.src x g link = none →
    ∃ u, exec (.cfgreqService n) s = .next u ∧ Sends u m.dst m.src (.token { tag := tag, lanes := fourLanes 21 0 0 32 } .nobody) ∧
      (ctxOf u m.src x).chans = (ctxOf s m.src x).chans ∧ (coreOf u m.src).bindings = (coreOf s m.src).bindings ∧
      u.regions = s.regions ∧ u.mem = s.mem) ∧
  (∀ s n m id link tag x a g t r, Came s n m (.cfg (.request id link tag) x a) → Tbl.get none s.catalogue id = some g →
    (link.extractLsb' 6 6).toNat ≤ g.ins.length → (link.extractLsb' 20 4).toNat ≤ g.outs.length →
    serveRequest (accepted s n m a) m.src x g link = some (t, r) →
    ∃ u, Ends (.cfgreqService n) s u m.src ∧ (regionAt s r).st = .free ∧ (regionAt u r).st = .resident ∧
      (regionAt u r).w = g.desc.w ∧ (regionAt u r).h = g.desc.h ∧ (regionAt u r).gen = ((regionAt s r).gen + 1) % 16 ∧
      Sends u m.dst m.src (.token ⟨tag, 0, 0, fourLanes 0 (BitVec.ofNat 32 (r + (regionAt u r).gen * 4096))
        (BitVec.ofNat 32 (link.extractLsb' 0 6).toNat) 32, none, none, false⟩ .nobody)) ∧
  (∀ s n m op x a h tag fn r, Came s n m (.cfg op x a) → SelectIs op h tag fn → handleRegion s h = some r →
    ((regionAt s r).st = .resident ∨ (regionAt s r).st = .draining) → stagedFor (regionAt s r) op = true →
    ∃ u, exec (.configurationSelect n) s = .next u ∧
      (regionAt u r).st = (if (regionAt s r).cut.isSome ∨ (regionAt s r).rolling.isSome then (regionAt s r).st else .draining) ∧
      (regionAt u r).selects = (regionAt s r).selects ++ [⟨op, m.src⟩] ∧ (∀ k, k ≠ r → regionAt u k = regionAt s k) ∧ u.mem = s.mem) ∧
  (∀ s n m op x a h tag fn, Came s n m (.cfg op x a) → SelectIs op h tag fn → handleRegion s h = none →
    ∃ u, exec (.configurationSelect n) s = .next u ∧ u.regions = s.regions ∧
      Sends u (fabricManager m.src) m.src (.token { tag := tag, lanes := fourLanes 16 0 0 (BitVec.ofNat 32 fn) } .nobody) ∧ u.mem = s.mem) ∧
  (∀ s n m x a h tag k r, Came s n m (.cfg (.mapsel h k tag) x a) → handleRegion s h = some r →
    ((regionAt s r).st = .resident ∨ (regionAt s r).st = .draining) → (regionAt s r).plan = none →
      stagedFor (regionAt s r) (.mapsel h k tag) = false →
    ∃ u, exec (.configurationSelect n) s = .next u ∧ u.regions = s.regions ∧
      Sends u (fabricManager m.src) m.src (.token { tag := tag, lanes := fourLanes 22 0 0 35 } .nobody) ∧ u.mem = s.mem) ∧
  (∀ s r, (regionAt s r).st = .draining →
    (sweepClean s r = false ∨ (regionAt s r).sums ≠ some ((drainSums s r).1 + (drainSums s r).2.2.1)) →
    ∃ u, exec (.drainSweep r) s = .next u ∧
      regionAt u r = { regionAt s r with sums := some ((drainSums s r).1 + (drainSums s r).2.2.1) } ∧
      (∀ k, k ≠ r → regionAt u k = regionAt s k) ∧ u.cells = s.cells ∧ u.mem = s.mem) ∧
  (∀ s r h tag core, (regionAt s r).st = .draining → sweepClean s r = true →
    (regionAt s r).sums = some ((drainSums s r).1 + (drainSums s r).2.2.1) → (regionAt s r).selects = [⟨.release h tag, core⟩] →
    ∃ u, exec (.drainSweep r) s = .next u ∧ regionAt u r = { gen := (regionAt s r).gen } ∧
      (∀ c ∈ regionCells s r, (cellOf u c).region = none) ∧
      (∀ p ∈ u.cells, ∀ l ∈ p.2.labels, 32 ≤ l.1 → (l.2.extractLsb' 0 12).toNat ≠ r) ∧
      (∀ l ∈ (regionAt s r).links, Tbl.get 0 (ctxOf u l.1 l.2.1).chans l.2.2 = (0 : Word)) ∧
      Sends u (fabricManager core) core (.token { tag := tag, lanes := fourLanes 0 0 0 33 } .nobody) ∧ u.mem = s.mem) ∧
  (∀ s r h k tag core t, (regionAt s r).st = .draining → sweepClean s r = true →
    (regionAt s r).sums = some ((drainSums s r).1 + (drainSums s r).2.2.1) → (regionAt s r).selects = [⟨.mapsel h k tag, core⟩] →
    loadMapping s r k = some t → (∀ q ∈ t.net, heldAtBoundary t r q = false) →
    ∃ u, exec (.drainSweep r) s = .next u ∧ (regionAt u r).st = .resident ∧ (regionAt u r).mapping = k ∧ (regionAt u r).selects = [] ∧
      Sends u (fabricManager core) core (.token { tag := tag, lanes := fourLanes 0 0 0 35 } .nobody))
/-! ### Events of cuts, contexts, sisters and spares -/

namespace Sys2Proof.Claim

open Sys2Proof Sys2Proof.Machine

/-- The reply of management function `m` leaves (R191, R228). -/
def Replies (u : State) (m : MgmtFn) (status : Word) (detail : Word) : Prop :=
  Sends u (maCell m.addr) m.core (.token { tag := m.reply, lanes := fourLanes status detail m.addr (BitVec.ofNat 32 m.fn) } .nobody)

/-- Whoever asked for the cut `k` hears of its end (R384, R389). -/
def CutEnds (u : State) (req : Option MgmtFn) (status detail : Word) : Prop := ∀ m, req = some m → Replies u m status detail

/-- Place of core `c` in its region (R131). -/
abbrev placeX (s : State) (c : Nat) : Nat := ((cellOf s c).regpos.extractLsb' 0 16).toNat

/-- Row of core `c` in its region (R131). -/
abbrev placeY (s : State) (c : Nat) : Nat := ((cellOf s c).regpos.extractLsb' 16 16).toNat

/-- The slot that a cut or a SAVE writes (R384, R394). -/
abbrev idleSlot (s : State) (c : Nat) : Option Snap := if (cellOf s c).lastB then (cellOf s c).slotA else (cellOf s c).slotB

/-- The slot of the last complete cut. -/
abbrev lastSlot (s : State) (c : Nat) : Option Snap := if (cellOf s c).lastB then (cellOf s c).slotB else (cellOf s c).slotA

/-- Context `x` of a slot. -/
abbrev slotCtx (p : Snap) (x : Nat) : Context := Tbl.get {} p.core.ctxs x

/-- SRAM byte `a` of core `c`. -/
abbrev sramByte (s : State) (c a : Nat) : Byte := memGet s.mem (sramKey c a)

/-- The state of region `r` once its cut is over: a select that waited makes it drain (R390). -/
def afterCut (s : State) (r : Nat) : RegionSt := if (regionAt s r).selects = [] then (regionAt s r).st else .draining

/-- The save of a cut fails at core `c`: its slot or its undo log is uncorrectable once it has saved, or it is dead before (R389). -/
def SaveFailsAt (s : State) (c : Nat) : Prop :=
  if (cellOf s c).savedPoint then slotBad s c (idleB (cellOf s c)) = true ∨ undoBad s c = true else isDead s c = true

/-- The cut of region `r` has failed at core `c` (R389). -/
def CutFails (s u : State) (r c : Nat) (k : Cut) : Prop :=
  (regionAt u r).cut = none ∧ (regionAt u r).st = afterCut s r ∧
  (∀ d ∈ regionCells s r, (cellOf u d).savedPoint = false ∧ (cellOf u d).peg = false ∧ (cellOf u d).lastB = (cellOf s d).lastB ∧
    (cellOf u d).undo = (cellOf s d).undo) ∧
  CutEnds u k.req 17 (BitVec.ofNat 32 (c / 1024 % 1024 + c % 32 * 1024 + c / 32 % 32 * 32768)) ∧ u.mem = s.mem

/-- Core `z` stands where core `a` stood in its region, with registers `regs` in each context (R397, R401, R402). -/
def StandsFor (s u : State) (a z : Nat) (regs : Nat → Tbl (Lanes Word)) : Prop :=
  (cellOf u z).region = (cellOf s a).region ∧ (cellOf u z).regpos = (cellOf s a).regpos ∧ (cellOf u z).regdim = (cellOf s a).regdim ∧
  ∀ x, (ctxOf u z x).regs = regs x

end Sys2Proof.Claim

/-- A cut from its peg to its end: CUT_START_PEG, SAVE_POINT, FIXED_PART_WRITTEN, RECORDED_MESSAGE, CUT_SWEEP, CUT_ABORT and EARLY_CUT (R384
to R389, R391 to R393). -/
def Obligations.CutsSaveTheirRegion : Prop :=
  (∀ s n m r, arrived s n = some m → m.body = .peg r → (regionAt s r).cut ≠ none → isDead s m.dst = false → regionOf s m.dst = some r →
    ∃ u, exec (.cutStartPeg n) s = .next u ∧ (cellOf u m.dst).peg = true ∧ u.mem = s.mem ∧
      (placeY s m.dst = 0 → placeX s m.dst + 1 < (regionAt s r).w → ∀ d, regionCell s m.dst (placeX s m.dst + 1) 0 = some d →
        Sends u m.dst d (.peg r)) ∧
      (placeY s m.dst + 1 < (regionAt s r).h → ∀ d, regionCell s m.dst (placeX s m.dst) (placeY s m.dst + 1) = some d →
        Sends u m.dst d (.peg r))) ∧
  (∀ s c r k, regionOf s c = some r → (regionAt s r).cut = some k → atSavePoint s c = true →
    ∃ u p, exec (.savePoint c) s = .next u ∧ idleSlot u c = some p ∧ p.sealed_ = false ∧ p.complete = false ∧ p.recorded = [] ∧
      (∀ a, a < 2 ^ 22 → memGet p.sram a = sramByte s c a) ∧
      (∀ x, (ctxOf s c x).st ≠ .saved → (slotCtx p x).regs = (ctxOf s c x).regs ∧ (slotCtx p x).st = (ctxOf s c x).st) ∧
      (cellOf u c).colour = !(cellOf s c).colour ∧ (cellOf u c).savedPoint = true ∧ (cellOf u c).paused = true ∧
      (cellOf s c).undo <+: (cellOf u c).undo ∧ (cellOf u c).undoMark = (cellOf u c).undo.length ∧
      (∀ x, x < 4 → (ctxOf u c x).frame = none ∧ (ctxOf u c x).st = (if k.sub = 0 then (ctxOf s c x).st else .saved)) ∧ KeepsMemory s u c) ∧
  (∀ s c r k, regionOf s c = some r → (regionAt s r).cut = some k → (cellOf s c).paused = true → (cellOf s c).savedPoint = true →
    ∃ u, Ends (.fixedPartWritten c) s u c ∧ (cellOf u c).paused = false ∧ ((cellOf u c).stopped = true ↔ k.sub ≠ 0) ∧
      coreOf u c = coreOf s c ∧ u.mem = s.mem) ∧
  (∀ s n m r k p, recordable s n = some m → regionOf s m.dst = some r → (regionAt s r).cut = some k → idleSlot s m.dst = some p →
    p.recorded.length < 81 →
    ∃ u, exec (.recordedMessage n) s = .next u ∧ idleSlot u m.dst = some { p with recorded := p.recorded ++ [m] } ∧
      u.net[n]? = some { m with recorded := true } ∧ u.mem = s.mem) ∧
  (∀ s n m r k p, recordable s n = some m → regionOf s m.dst = some r → (regionAt s r).cut = some k → idleSlot s m.dst = some p →
    81 ≤ p.recorded.length → ∃ u, exec (.recordedMessage n) s = .next u ∧ CutFails s u r m.dst k) ∧
  (∀ s r k, (regionAt s r).cut = some k → cutComplete s r = true → (regionCells s r).Nodup →
    ∃ u, exec (.cutSweep r) s = .next u ∧ (regionAt u r).cut = none ∧ (regionAt u r).complete = true ∧
      (regionAt u r).st = (if k.sub = 0 then afterCut s r else .saved) ∧
      (∀ c ∈ regionCells s r, (cellOf u c).lastB = !(cellOf s c).lastB ∧ (cellOf u c).savedPoint = false ∧ (cellOf u c).peg = false ∧
        (cellOf u c).undo = (cellOf s c).undo.drop (cellOf s c).undoMark ∧
        (∀ p, idleSlot s c = some p → lastSlot u c = some { p with complete := true, sealed_ := true })) ∧
      CutEnds u k.req 0 0 ∧ u.mem = s.mem) ∧
  (∀ s r k, (regionAt s r).cut = some k → cutComplete s r = false → (∀ c ∈ regionCells s r, ¬ SaveFailsAt s c) →
    exec (.cutSweep r) s = .next s) ∧
  (∀ s r k c before rest, (regionAt s r).cut = some k → regionCells s r = before ++ c :: rest → (∀ d ∈ before, ¬ SaveFailsAt s d) →
    SaveFailsAt s c → ∃ u, exec (.cutSweep r) s = .next u ∧ CutFails s u r c k) ∧
  (∀ s r c k, (regionAt s r).cut = some k → regionOf s c = some r → SaveFailsAt s c →
    ∃ u, exec (.cutAbort r c) s = .next u ∧ CutFails s u r c k) ∧
  (∀ s c r, (cellOf s c).cutAsked = true → regionOf s c = some r → cutRefused (regionAt s r) = false →
    ∃ u, exec (.earlyCut c) s = .next u ∧ (cellOf u c).cutAsked = false ∧ (regionAt u r).cut = some ⟨0, none⟩ ∧
      u.outbox = s.outbox ++ [.earlyCut c] ∧ Sends u (regionOrigin s r) (regionOrigin s r) (.peg r) ∧ u.mem = s.mem)

/-- CONTEXT_SAVE, SAVED_CONTEXT_UPDATE and CONTEXT_RESTORE (R387, R394 to R396); ROLLBACK (R391, R397) and DEADLOCK_SWEEP (R405, R406). -/
def Obligations.ContextsAndRegionsAreRestored : Prop :=
  (∀ s c x m rest, (ctxOf s c x).saves = m :: rest → x < 4 → coreActs s c = true → cutAt s c = none → mayBeSaved s c x = true →
    slotBad s c (idleB (cellOf s c)) = false →
    ∃ u p, Ends (.contextSave c x) s u c ∧ (ctxOf u c x).st = .saved ∧ idleSlot u c = some p ∧ (slotCtx p x).regs = (ctxOf s c x).regs ∧
      (slotCtx p x).st = (ctxOf s c x).st ∧ (slotCtx p x).pc = (ctxOf s c x).pc ∧ Replies u m 0 0 ∧ (∀ q ∈ rest, Replies u q 16 0) ∧
      (∀ y, y ≠ x → ctxOf u c y = ctxOf s c y) ∧ u.mem = s.mem) ∧
  (∀ s c x m rest, (ctxOf s c x).saves = m :: rest → x < 4 → coreActs s c = true → cutAt s c = none → mayBeSaved s c x = true →
    slotBad s c (idleB (cellOf s c)) = true →
    ∃ u, Ends (.contextSave c x) s u c ∧ ctxOf u c x = { ctxOf s c x with saves := rest } ∧ Replies u m 17 0 ∧ u.mem = s.mem) ∧
  (∀ s c x m rest, (ctxOf s c x).saves = m :: rest → (ctxOf s c x).st = .saved → cutAt s c = none →
    ∃ u, exec (.contextSave c x) s = .next u ∧ ctxOf u c x = { ctxOf s c x with saves := [] } ∧ (∀ q ∈ m :: rest, Replies u q 16 0) ∧
      u.mem = s.mem) ∧
  (∀ s n m a c x i p, arrived s n = some m → m.body = .answer a → a.asker = .entry c x i → a.cause = none → a.recorded = false →
    (Tbl.get {} (ctxOf s c x).pend i : Entry).st = .opened → (Tbl.get {} (ctxOf s c x).pend i : Entry).left = 1 →
    (Tbl.get {} (ctxOf s c x).pend i : Entry).cause = none → (ctxOf s c x).st = .saved → (cellOf s c).savedPoint = false →
    (cellOf s c).sister = none → (ctxOf s c x).record = true → idleSlot s c = some p →
    (Tbl.get {} (slotCtx p x).pend i : Entry) = Tbl.get {} (ctxOf s c x).pend i →
    ∃ u q, Ends (.savedContextUpdate n) s u c ∧ (Tbl.get {} (ctxOf u c x).pend i : Entry).st = .free ∧ idleSlot u c = some q ∧
      (Tbl.get {} (slotCtx q x).pend i : Entry).st = .free ∧ (slotCtx q x).regs = (slotCtx p x).regs ∧ u.mem = s.mem) ∧
  (∀ s n m f a w, let x := (f.addr.extractLsb' 20 3).toNat
    Came s n m (.mgmt f a) → f.fn = 35 → f.sub = 0 → x < 4 → ((ctxOf s m.dst x).st = .saved ∨ (ctxOf s m.dst x).st = .halted) →
    newestRecord (cellOf s m.dst) x = some w →
    slotBad s m.dst (recordB (cellOf s m.dst) x) = false →
    ∃ u, Ends (.contextRestore n) s u m.dst ∧ (ctxOf u m.dst x).st = w.st ∧ (ctxOf u m.dst x).regs = w.regs ∧
      (ctxOf u m.dst x).pc = w.pc ∧ (ctxOf u m.dst x).args = w.args ∧ (ctxOf u m.dst x).calls = w.calls ∧
      (ctxOf u m.dst x).wins = w.wins ∧ (ctxOf u m.dst x).chans = w.chans ∧
      ((ctxOf s m.dst x).st = .saved → (ctxOf u m.dst x).pend = (ctxOf s m.dst x).pend ∧ (ctxOf u m.dst x).flags = (ctxOf s m.dst x).flags) ∧
      Replies u f 0 0 ∧ u.mem = s.mem) ∧
  (∀ s n m f a, let x := (f.addr.extractLsb' 20 3).toNat
    Came s n m (.mgmt f a) → f.fn = 35 → f.sub = 0 → x < 4 →
    (((ctxOf s m.dst x).st ≠ .saved ∧ (ctxOf s m.dst x).st ≠ .halted) ∨ newestRecord (cellOf s m.dst) x = none) →
    ∃ u, exec (.contextRestore n) s = .next u ∧ ctxOf u m.dst x = ctxOf s m.dst x ∧ Replies u f 16 0 ∧ u.mem = s.mem) ∧
  (∀ s r req, (regionAt s r).rolling = some req → (∀ c ∈ regionCells s r, cellUnfit s c = false ∧ regionOf s c = some r) →
    (regionCells s r).Nodup → Memory.wf s.mem = true →
    ∃ u, exec (.rollback r) s = .next u ∧ (regionAt u r).rolling = none ∧ (regionAt u r).hold = false ∧ (regionAt u r).cut = none ∧
      (regionAt u r).st = (if (regionAt s r).selects = [] then .resident else .draining) ∧ CutEnds u req 0 0 ∧
      (∀ c ∈ regionCells s r, (cellOf u c).undo = [] ∧
        ∀ p, lastSlot s c = some p → (cellOf u c).stopped = false ∧ ∀ x, (ctxOf u c x).regs = (slotCtx p x).regs) ∧
      (∀ c p, regionCells s r = [c] → lastSlot s c = some p → Memory.wf p.sram = true → (∀ b ∈ p.sram, b.1 < 2 ^ 22) →
        (∀ a, a < 2 ^ 22 → sramByte u c a = memGet p.sram a) ∧
        (∀ n bs l, (regionAt s r).staged.length ≤ 1 → (cellOf s c).undo = [⟨loftKey c (64 * n), some bs, l⟩] → bs.length = 64 → n < 2 ^ 16 →
          ∀ i, i < 64 → memGet u.mem (loftKey c (64 * n) + i) = bs.getD i 0))) ∧
  (∀ s r, (regionAt s r).ended = true → exec (.deadlockSweep r) s = .next s) ∧
  (∀ s r, (regionAt s r).ended = false → (regionAt s r).watched ≠ some (regionWork s r) →
    ∃ u, exec (.deadlockSweep r) s = .next u ∧ regionAt u r = { regionAt s r with watched := some (regionWork s r) } ∧ u.cells = s.cells ∧
      u.outbox = s.outbox ∧ u.mem = s.mem) ∧
  (∀ s r, (regionCells s r).Nodup → (regionAt s r).ended = false → (regionAt s r).watched = some (regionWork s r) →
    ∃ u ws, exec (.deadlockSweep r) s = .next u ∧ u.outbox = s.outbox ++ [.sweep ws] ∧ u.mem = s.mem ∧ u.regions = s.regions ∧
      (∀ c ∈ regionCells s r, coreOf u c = coreOf s c ∧
        (∀ j ∈ (coreOf s c).joins, j.done = none → ∃ w0 w1 w2, [w0, w1, w2, tagName s c j.itag] <:+: ws ∧ w0.extractLsb' 28 4 = (1 : BitVec 4) ∧
          w1.extractLsb' 0 8 = BitVec.ofNat 8 j.tag) ∧
        (∀ x i, x < 5 → (x, i) ∈ (cellOf s c).openMark → (x, i) ∈ openEntries s c → ∃ w0 w2 w3, [w0, BitVec.ofNat 32 (x + i * 16), w2, w3] <:+: ws ∧
          w0.extractLsb' 28 4 = (4 : BitVec 4))))

/-- SISTER_SYNC, COMMIT_MIRROR, TAKEOVER_SWAP, AUTOMATIC_TAKEOVER, SELF_TEST_DUE, SELFTEST_END, SPARE_COPY_DONE and MARK: a sister follows
its partner and takes its place, a spare that of a dead cell, and cells are tested and marked (R397, R399 to R403, R409, R443 to R447). That a
cell without a sister is held in reset at once (notes/assumptions/27.md), and which test of a region's cell comes when (notes/assumptions/45.md),
is the model's choice. -/
def Obligations.SparesAndSistersTakeOver : Prop :=
  (∀ s z p m, (cellOf s z).partner = some p → (cellOf s z).sistering = some m → (cellOf s z).inReset = false → (cellOf s z).synced = false →
    Memory.wf s.mem = true → p ≠ z →
    ∃ u, exec (.sisterSync z) s = .next u ∧ (cellOf u z).synced = true ∧ coreOf u z = coreOf s p ∧
      (∀ a, a < 2 ^ 22 → sramByte u z a = sramByte s p a) ∧ coreOf u p = coreOf s p ∧ Replies u m 0 0) ∧
  (∀ s z p m rest, (cellOf s z).mirror = m :: rest → (cellOf s z).partner = some p → p ≠ z →
    ∃ u, Ends (.commitMirror z) s u p ∧ coreOf u z = m.1 ∧ (cellOf u z).mirror = rest ∧ coreOf u p = coreOf s p) ∧
  (∀ s a z m, (cellOf s a).takeover = some m → (cellOf s a).sister = some z → a ≠ z → mayTakeOver s a = true →
    (cellOf s z).synced = true →
    ∃ u, Ends (.takeoverSwap a) s u z ∧ StandsFor s u a z (fun x => (ctxOf s a x).regs) ∧ (cellOf u z).sister = some a ∧
      (cellOf u a).partner = some z ∧ (cellOf u a).region = none ∧ (bayAt u (bayOf a)).takeswp = (bayAt s (bayOf a)).takeswp + 1 ∧
      Replies u m 0 0) ∧
  (∀ s a z m, (cellOf s a).takeover = some m → (cellOf s a).sister = some z → (cellOf s z).synced = false →
    ∃ u, Ends (.takeoverSwap a) s u a ∧ (cellOf u a).takeover = none ∧ coreOf u a = coreOf s a ∧ Replies u m 16 0 ∧ u.mem = s.mem) ∧
  (∀ s a z, (cellOf s a).inReset = false → isCellCore a = true → (cellOf s a).sister = some z → a ≠ z → (cellOf s z).synced = true →
    (cellOf s z).mirror = [] → enginesIdle s a = true → (cellOf s a).routerError = false → (cellOf s a).loftError = false →
    ∃ u, Ends (.automaticTakeover a) s u z ∧ StandsFor s u a z (fun x => (ctxOf s z x).regs) ∧ (cellOf u a).defect = true ∧
      (cellOf u a).region = none ∧ (bayAt u (bayOf a)).takeaut = (bayAt s (bayOf a)).takeaut + 1) ∧
  (∀ s a, (cellOf s a).inReset = false → isCellCore a = true →
    (∀ z, (cellOf s a).sister = some z →
      (cellOf s z).synced = false ∨ enginesIdle s a = false ∨ (cellOf s a).routerError = true ∨ (cellOf s a).loftError = true) →
    ∃ u, exec (.automaticTakeover a) s = .next u ∧ (cellOf u a).inReset = true ∧ ∀ x, x < 4 → (ctxOf u a x).frame = none) ∧
  (∀ s c spare, (cellOf s c).roving = false → mayTest s c = false → exec (.selfTestDue c spare) s = .next s) ∧
  (∀ s c spare p, s.booted = true → (cellOf s c).inReset = false → (cellOf s c).defect = false → cutAt s c = none → isCellCore c = true →
    (cellOf s c).roving = true → (cellOf s c).partner = some p → (cellOf s p).sister = some c → p ≠ c → isCellCore p = true →
    ∃ u m, exec (.selfTestDue c spare) s = .next u ∧ (cellOf u c).testing = some m ∧ m.fn = 38 ∧ (cellOf u c).partner = none ∧
      (cellOf u p).sister = none ∧ coreOf u p = coreOf s p ∧ u.mem = s.mem) ∧
  (∀ s c spare, s.booted = true → ((cellOf s c).roving = true ∨ mayTest s c = true) → (cellOf s c).inReset = false →
    (cellOf s c).defect = false → cutAt s c = none → isCellCore c = true →
    (cellOf s c).region = none → (cellOf s c).partner = none → (cellOf s c).testing = none →
    ∃ u m, exec (.selfTestDue c spare) s = .next u ∧ (cellOf u c).testing = some m ∧ m.fn = 38 ∧ coreOf u c = coreOf s c ∧ u.mem = s.mem) ∧
  (∀ s c z spare, s.booted = true → ((cellOf s c).roving = true ∨ mayTest s c = true) → (cellOf s c).inReset = false →
    (cellOf s c).defect = false → cutAt s c = none → isCellCore c = true →
    (cellOf s c).region ≠ none → (cellOf s c).partner = none → (cellOf s c).sister = some z → (cellOf s z).synced = true →
    (cellOf s c).takeover = none →
    ∃ u m, exec (.selfTestDue c spare) s = .next u ∧ (cellOf u c).takeover = some m ∧ m.fn = 40 ∧ coreOf u c = coreOf s c ∧ u.mem = s.mem) ∧
  (∀ s c m, (cellOf s c).testing = some m →
    ∃ u, exec (.selftestEnd c none) s = .next u ∧ (cellOf u c).testing = none ∧ (cellOf u c).defect = (cellOf s c).defect ∧
      (bayAt u (bayOf c)).stpass = min 65535 ((bayAt s (bayOf c)).stpass + 1) ∧ Replies u m 0 0 ∧ u.mem = s.mem) ∧
  (∀ s c m k, (cellOf s c).testing = some m →
    ∃ u, exec (.selftestEnd c (some k)) s = .next u ∧ (cellOf u c).testing = none ∧ (cellOf u c).defect = true ∧
      (bayAt u (bayOf c)).stfail = min 65535 ((bayAt s (bayOf c)).stfail + 1) ∧ Replies u m 17 (BitVec.ofNat 32 k) ∧ u.mem = s.mem) ∧
  (∀ s dead spare r, regionOf s dead = some r → (regionAt s r).rolling ≠ none → logicalOf s spare = some (placeInRegion s r dead) →
    cellUnfit s dead = true → cellUnfit s spare = false → regionOf s spare = none → isCellCore spare = true → bayOf spare = bayOf dead →
    (cellOf s spare).partner = none → dead ≠ spare →
    ∃ u, exec (.spareCopyDone dead spare) s = .next u ∧ StandsFor s u dead spare (fun x => (ctxOf s dead x).regs) ∧
      (cellOf u dead).defect = true ∧ (cellOf u dead).region = none ∧ (cellOf u spare).stopped = true ∧
      (bayAt u (bayOf dead)).depoch = (if (cellOf s dead).defect then (bayAt s (bayOf dead)).depoch
        else ((bayAt s (bayOf dead)).depoch + 1) % 65536)) ∧
  (∀ s c, isCellCore c = true → isDead s c = false →
    ∃ u, exec (.markCell c) s = .next u ∧ (cellOf u c).defect = true ∧
      (bayAt u (bayOf c)).depoch = ((bayAt s (bayOf c)).depoch + 1) % 65536 ∧ u.mem = s.mem)
/-! ### Events of the management network and the fleet -/

namespace Sys2Proof.Claim

open Sys2Proof Sys2Proof.Machine

/-- Message `n` has arrived with body `b` at its live target (R228, R408). -/
structure Reached (s : State) (n : Nat) (m : Msg) (b : Body) : Prop where
  came : arrived s n = some m
  body : m.body = b
  alive : isDead s m.dst = false

/-- Management function `f` of number `fn` has arrived at its live target, and no cut keeps it (R228, R390). -/
structure CameFn (s : State) (n : Nat) (m : Msg) (f : MgmtFn) (a : Asker) (fn : Nat) : Prop where
  came : Reached s n m (.mgmt f a)
  fn : f.fn = fn
  free : cutAt s m.dst = none

/-- The answer of a register access (R408, R409). -/
def Answers (u : State) (m : Msg) (a : Asker) (vals : List (Nat × Word)) : Prop :=
  a ≠ .nobody → Sends u m.dst (answerTo a m.src) (.answer { asker := a, vals := vals, recorded := m.recorded })

/-- The word of a bank image at `i`. -/
abbrev imageWord (img : List Word) (i : Nat) : Word := img.getD i 0

/-- The registers of a cell by offset (R367, R409, R445). -/
def cellRegister (x : Cell) : Nat → Word
  | 0x40 => x.isduty
  | 0x50 => BitVec.ofNat 32 ((if x.active then 1 else 0) + (if x.svalid then 2 else 0) + (if x.defect then 8 else 0) +
      (if x.altsel then 16 else 0) + x.rejects % 256 * 2 ^ 8 + x.staged % 65536 * 2 ^ 16)
  | 0x60 => x.secorr
  | 0x64 => x.lecorr
  | 0x68 => x.discard
  | 0x6C => x.dropeff
  | _ => 0

/-- What a write of ISDUTY leaves: the 14 bits that hold values (R367); while a plate's flow is low firmware holds it at 16 (R449). -/
def dutyLeft (s : State) (w : Word) : Word := if s.lowFlow then 0x1010 else w &&& 0x7F7F

/-- A write of ISDUTY, and one notice to each user context when it changes (R367, R368). -/
def DutyWritten (s u : State) (c : Nat) (w : Word) : Prop :=
  (cellOf u c).isduty = dutyLeft s w ∧
  (dutyLeft s w ≠ (cellOf s c).isduty → ∀ x, x < 4 → Sends u c c (.token { tag := 0xDC + x, lanes :=
    ⟨some (dutyLeft s w), some (cellOf s c).isduty, none, none, none, none, none, none⟩ } .nobody))

/-- A row of a cell's loft has given 16 corrected lines within 24 hours (R446). -/
def RowFailing (s : State) (c bank row : Nat) : Prop :=
  16 ≤ ((cellOf s c).rowErrs.filter fun e => e.1 == bank && e.2.1 == row &&
    decide (Config.seconds s.tickNo < Config.seconds e.2.2 + 24 * 3600)).length

end Sys2Proof.Claim

/-- MGMT_ACCESS reads and writes the registers of R365, R367 and R409 and performs the management functions of R228, as do
REGISTER_WRITE for the sill processors (R4), SCRIBE_STAGE and SFLIP_TICK for the scribe banks (R423, R424) and BUNDLE_VERIFY (R422). -/
def Obligations.ManagementReachesItsTargets : Prop :=
  (∀ s n m c off a l, Reached s n m (.register (.cell c off) none a l) →
    ∃ u, exec (.mgmtAccess n) s = .next u ∧ Answers u m a [(l, cellRegister (cellOf s c) off)] ∧ u.mem = s.mem) ∧
  (∀ s n m c w a l, Reached s n m (.register (.cell c 0x40) (some w) a l) →
    ∃ u, exec (.mgmtAccess n) s = .next u ∧ DutyWritten s u c w ∧ Answers u m a [(l, 0)] ∧ u.mem = s.mem) ∧
  (∀ s n m b w a l, Reached s n m (.register (.bay b 4) (some w) a l) →
    ∃ u, exec (.mgmtAccess n) s = .next u ∧ bayAt u b = { bayAt s b with cap := (w.extractLsb' 0 12).toNat } ∧
      Answers u m a [(l, 0)] ∧ u.mem = s.mem) ∧
  (∀ s n m b w a l, Reached s n m (.register (.bay b 0x18) (some w) a l) → isBayCore m.src = true →
    ∃ u, exec (.mgmtAccess n) s = .next u ∧ u.bays = s.bays ∧ Answers u m a [(l, 0)] ∧ u.mem = s.mem) ∧
  (∀ s b w, s.booted = true → isDead s (bayCore b) = false →
    ∃ u, exec (.registerWrite (.bay b 0x18) w) s = .next u ∧
      bayAt u b = { bayAt s b with vbundle := (w.extractLsb' 16 16).toNat } ∧ u.mem = s.mem) ∧
  (∀ s c w, s.booted = true → isDead s c = false → ∃ u, exec (.registerWrite (.cell c 0x40) w) s = .next u ∧ DutyWritten s u c w ∧ u.mem = s.mem) ∧
  (∀ s n m f a r, CameFn s n m f a 33 → regionOf s m.dst = some r → cutRefused (regionAt s r) = false →
    ∃ u, exec (.mgmtAccess n) s = .next u ∧ (regionAt u r).cut = some ⟨f.sub, some f⟩ ∧
      Sends u (regionOrigin s r) (regionOrigin s r) (.peg r) ∧ u.mem = s.mem) ∧
  (∀ s n m f a, let x := (f.addr.extractLsb' 20 3).toNat
    CameFn s n m f a 34 → x < 4 → (ctxOf s m.dst x).st ≠ .saved →
    ∃ u, exec (.mgmtAccess n) s = .next u ∧ (ctxOf u m.dst x).saves = (ctxOf s m.dst x).saves ++ [f] ∧ u.mem = s.mem) ∧
  (∀ s n m f a r, CameFn s n m f a 35 → f.sub = 1 → regionOf s m.dst = some r → (regionAt s r).complete = true →
    (regionAt s r).rolling = none → (∀ c ∈ regionCells s r, slotBad s c (cellOf s c).lastB = false ∧ undoBad s c = false) →
    ∃ u, exec (.mgmtAccess n) s = .next u ∧ (regionAt u r).rolling = some (some f) ∧ (regionAt u r).hold = true ∧
      (∀ c ∈ regionCells s r, (cellOf u c).stopped = true ∧ ∀ x, x < 5 → (ctxOf u c x).frame = none)) ∧
  (∀ s n m f a r k, CameFn s n m f a 35 → f.sub = 1 → regionOf s m.dst = some r → (regionAt s r).complete = true →
    (regionAt s r).rolling = none → k ∈ regionCells s r → (slotBad s k (cellOf s k).lastB = true ∨ undoBad s k = true) → k < 1048576 →
    ∃ u n, exec (.mgmtAccess n) s = .next u ∧ Replies u f 17 0 ∧ regionAt u r = regionAt s r ∧
      (bayAt u (k / 1024)).uncorr = (bayAt s (k / 1024)).uncorr + BitVec.ofNat 32 n ∧ 0 < n) ∧
  (∀ s n m f a, CameFn s n m f a 37 → f.sub = 1 → f.sill = false →
    ∃ u, exec (.mgmtAccess n) s = .next u ∧ Replies u f 16 0 ∧ u.flips = s.flips ∧ u.mem = s.mem) ∧
  (∀ s n m f a, CameFn s n m f a 37 → (f.sub = 0 ∨ f.sill = true) →
    ∃ u, exec (.mgmtAccess n) s = .next u ∧ u.flips = s.flips ++ [(f, bayOf m.dst)] ∧ u.mem = s.mem) ∧
  (∀ s n m f a, CameFn s n m f a 38 → (cellOf s m.dst).region = none → (cellOf s m.dst).partner = none → (cellOf s m.dst).testing = none →
    ∃ u, exec (.mgmtAccess n) s = .next u ∧ (cellOf u m.dst).testing = some f ∧ u.mem = s.mem) ∧
  (∀ s n m f a z, CameFn s n m f a 40 → (cellOf s m.dst).sister = some z → (cellOf s z).synced = true → (cellOf s m.dst).takeover = none →
    ∃ u, exec (.mgmtAccess n) s = .next u ∧ (cellOf u m.dst).takeover = some f ∧ u.mem = s.mem) ∧
  (∀ s n m f a, CameFn s n m f a 41 → f.sub = 0 → (bayAt s (bayOf m.dst)).ready = true →
    vmin (spineMhz s (f.b.extractLsb' 0 3).toNat) ≤ (bayAt s (bayOf m.dst)).mv →
    ∃ u, exec (.mgmtAccess n) s = .next u ∧ (cellOf u m.dst).spine = (f.b.extractLsb' 0 3).toNat ∧ Replies u f 0 0 ∧ u.mem = s.mem) ∧
  (∀ s n m f a, let t := (f.addr.extractLsb' 23 8).toNat
    CameFn s n m f a 43 → f.b &&& 0xFF80FFF0 = f.b → (f.b.extractLsb' 23 3).toNat < 4 →
    ∃ u, exec (.mgmtAccess n) s = .next u ∧ bindingOf (coreOf u m.dst) t = f.b ∧
      (∀ k, k ≠ t → bindingOf (coreOf u m.dst) k = bindingOf (coreOf s m.dst) k) ∧ Replies u f 0 0 ∧ u.mem = s.mem) ∧
  (∀ s n m f a, arrived s n = some m → m.body = .mgmt f a → f.fn ≠ 36 → ¬ (f.fn = 35 ∧ f.sub = 0) → isDead s m.dst = true →
    ∃ u, exec (.mgmtAccess n) s = .next u ∧ Replies u f 20 0 ∧ u.mem = s.mem) ∧
  (∀ s n m f a, Reached s n m (.mgmt f a) → f.fn = 36 →
    (imageWord f.image 1).extractLsb' 16 16 = BitVec.ofNat 16 (bayAt s (bayOf m.dst)).vbundle → (bayAt s (bayOf m.dst)).vbundle < 2 ^ 16 →
    ∃ u, exec (.scribeStage n) s = .next u ∧ u.mem = s.mem ∧ (cellOf u m.dst).active = (cellOf s m.dst).active ∧
      (if imgCrcOk f.image ∧ imgFieldsOk f.image then
        Replies u f 0 0 ∧ (cellOf u m.dst).svalid = true ∧ (cellOf u m.dst).staged = (bayAt s (bayOf m.dst)).vbundle ∧
        (if (cellOf s m.dst).active then (cellOf u m.dst).bankA = f.image ∧ (cellOf u m.dst).bankB = (cellOf s m.dst).bankB
         else (cellOf u m.dst).bankB = f.image ∧ (cellOf u m.dst).bankA = (cellOf s m.dst).bankA)
       else Replies u f 18 0 ∧ (cellOf u m.dst).rejects = (if (cellOf s m.dst).rejects < 255 then (cellOf s m.dst).rejects + 1 else 255) ∧
        (cellOf u m.dst).bankA = (cellOf s m.dst).bankA ∧ (cellOf u m.dst).bankB = (cellOf s m.dst).bankB)) ∧
  (∀ s n f b, s.flips[n]? = some (f, b) → f.sub = 0 → b < 1024 → flipWaits s [b] = false →
    ∃ u, exec (.sflipTick n) s = .next u ∧ u.flips.length + 1 = s.flips.length ∧
      (if bayFlips s b then Replies u f 0 0 ∧ (∀ c, c / 1024 = b → (cellOf u c).active = !(cellOf s c).active ∧
          (cellOf u c).svalid = false ∧ (cellOf u c).altsel = false)
       else Replies u f 16 0 ∧ ∀ c, (cellOf u c).active = (cellOf s c).active)) ∧
  (∀ s n f b k, s.flips[n]? = some (f, b) → f.sub = 1 → k ∈ (bayAt s b).bundleBays → (bayAt s k).vbundle ≠ (bayAt s b).vbundle →
    flipWaits s (bayAt s b).bundleBays = false →
    ∃ u, exec (.sflipTick n) s = .next u ∧ Replies u f 16 0 ∧ (∀ c, (cellOf u c).active = (cellOf s c).active) ∧ u.mem = s.mem) ∧
  (∀ s (d : ScribeBundle), s.booted = true → (d.bays.map fun p => p.1).Nodup →
    ∃ u, exec (.bundleVerify d) s = .next u ∧ u.cells = s.cells ∧ u.mem = s.mem ∧
      (if Config.signatureOk (Config.bayKey d.signer) (bundleBytes d) d.signature ∧ d.bays.all (bayImagesOk s d) then
        (∀ p ∈ d.bays, (bayAt u p.1).vbundle = d.number ∧ (bayAt u p.1).vdigest = sha3 (p.2.flatMap Machine.wordBytes)) ∧
        u.outbox = s.outbox ++ [.bundleVerified d.number] ∧
        Tbl.get (List.replicate 48 0) u.ar 3 = sha3 (Tbl.get (List.replicate 48 0) s.ar 3 ++ sha3 (bundleBytes d))
       else u.bays = s.bays ∧ u.outbox = s.outbox ++ [.bundleRefused d.number])) ∧
  (∀ s d, s.booted = false → exec (.bundleVerify d) s = .next s) ∧
  (∀ s n m f c x i k, Reached s n m (.mgmt f (.entry c x i)) → cutAt s m.dst = some k →
    (f.fn = 34 ∨ (f.fn = 35 ∧ f.sub = 1) ∨ f.fn = 38 ∨ f.fn = 40) →
    ∃ u, exec (.mgmtAccess n) s = .next u ∧ u.net[n]? = some { m with body := .mgmt f .nobody } ∧
      Sends u m.dst (answerTo (.entry c x i) m.src) (.answer { asker := .entry c x i, recorded := m.recorded }) ∧ u.mem = s.mem)

/-- The fleet's events: telemetry (R448), the coolant and the envelope (R449), firmware and its rollback counter (R450), the self-test
period (R447), the defect report (R255, R443), loft rows (R446, R452). That a row is remapped while fewer than 8 of its bank are remapped or due,
and else the cell is marked, is the model's reading (notes/assumptions/47.md). -/
def Obligations.FleetEventsDoAsTold : Prop :=
  (∀ s b, s.booted = true → (bayAt s b).attachDown = false → (bayAt s b).samples.length ≤ 600 →
    ∃ u p, exec (.telemetrySample b) s = .next u ∧ (bayAt u b).samples.getLast? = some p ∧ (bayAt u b).samples.length ≤ 600 ∧
      p.mv = (bayAt s b).mv ∧ p.temp = (if (bayAt s b).trip then (bayAt s b).tripTemp else (bayAt s b).tempMax) ∧
      p.nhalf = (bayAt s b).nhalf ∧ p.nquart = (bayAt s b).nquart ∧ p.trip = (bayAt s b).trip ∧
      p.energy = ((bayAt s b).benergy - (bayAt s b).sampleMark).toNat ∧ (bayAt u b).sampleMark = (bayAt s b).benergy ∧
      (bayAt u b).absent = false ∧ u.cells = s.cells ∧ u.mem = s.mem) ∧
  (∀ s b, (s.booted = false ∨ (bayAt s b).attachDown = true) → exec (.telemetrySample b) s = .next s) ∧
  (∀ s b, s.booted = true → ∃ u, exec (.bayAbsent b) s = .next u ∧ bayAt u b = { bayAt s b with absent := true } ∧
    u.outbox = s.outbox ++ [.sampleAbsent b] ∧ u.cells = s.cells ∧ u.mem = s.mem) ∧
  (∀ s, s.booted = true → ∃ u, exec .flowAlarm s = .next u ∧ u.alarm = true ∧ u.lowFlow = true ∧ Report.alarm ∈ u.outbox ∧ u.mem = s.mem ∧
    ∀ c, isCellCore c = true → (cellOf s c).inReset = false → (cellOf u c).isduty = 0x1010) ∧
  (∀ s, s.booted = true → s.lowFlow = true → ∃ u, exec .flowRestore s = .next u ∧ u.lowFlow = false ∧ u.mem = s.mem ∧
    ∀ c, isCellCore c = true → (cellOf s c).inReset = false → (cellOf u c).isduty = 0x4040) ∧
  (∀ s, s.booted = true → exec .envelopeAlarm s = .next { s with alarm := true, outbox := s.outbox ++ [.alarm] }) ∧
  (∀ s h, s.booted = true → exec (.selftestPeriodSet h) s = .next { s with selfTestPeriod := if 1 ≤ h ∧ h ≤ 168 then h else s.selfTestPeriod }) ∧
  (∀ s d, s.booted = true →
    ∃ u, exec (.firmwareUpload d) s = .next u ∧ u.running = s.running ∧ u.flashActiveB = s.flashActiveB ∧ u.mem = s.mem ∧
      (if sha3 d.key = s.fusedKeyDigest ∧ Config.signatureOk d.key (fwBytes d) d.signature = true ∧ s.rollbackCounter ≤ d.version then
        u.flashNew = true ∧ u.outbox = s.outbox ++ [.firmwareStored] ∧
        (if s.flashActiveB then u.flashA = some d ∧ u.flashB = s.flashB else u.flashB = some d ∧ u.flashA = s.flashA)
       else u.flashA = s.flashA ∧ u.flashB = s.flashB ∧ u.outbox = s.outbox ++ [.firmwareRefused
         (if sha3 d.key = s.fusedKeyDigest ∧ Config.signatureOk d.key (fwBytes d) d.signature = true then 4 else 3)])) ∧
  (∀ s v d, s.booted = true → (if s.flashActiveB then s.flashB else s.flashA) = some d →
    ∃ u, exec (.rollbackCounterRaise v) s = .next u ∧
      u.rollbackCounter = (if v ≤ d.version ∧ s.rollbackCounter < v then v else s.rollbackCounter) ∧ u.mem = s.mem) ∧
  (∀ s, s.booted = true →
    ∃ u ws, exec .defectReport s = .next u ∧ u.outbox = s.outbox ++ [.defects ws] ∧ u.cells = s.cells ∧ u.mem = s.mem ∧
      ws.length = 4 * 1024 + 960 * 960 ∧
      ∀ b, b < 1024 → ws[4 * b]? = some (BitVec.ofNat 32 (b + (if (bayAt s b).retired then 2 else if 32 ≤ baySpares s b then 0 else 1) * 2 ^ 12 +
        (bayAt s b).depoch % 65536 * 2 ^ 16)) ∧ ws[4 * b + 3]? = some (bayAt s b).lastRep) ∧
  (∀ s c bank row, s.booted = true → isCellCore c = true → bank < 4 → row < 512 → (bank, row) ∉ (cellOf s c).remaps → RowFailing s c bank row →
    ((imgRemaps (activeBank (cellOf s c))).filter fun p => p.1 == bank).length + ((cellOf s c).remaps.filter fun p => p.1 == bank).length < 8 →
    ∃ u, exec (.loftRowRemap c bank row) s = .next u ∧ (cellOf u c).remaps = (cellOf s c).remaps ++ [(bank, row)] ∧
      coreOf u c = coreOf s c ∧ u.mem = s.mem) ∧
  (∀ s c bank row, ¬ RowFailing s c bank row → exec (.loftRowRemap c bank row) s = .next s) ∧
  (∀ s c bank row, s.booted = true → isCellCore c = true → bank < 4 → row < 512 → (bank, row) ∉ (cellOf s c).remaps → (cellOf s c).defect = false →
    RowFailing s c bank row →
    8 ≤ ((imgRemaps (activeBank (cellOf s c))).filter fun p => p.1 == bank).length + ((cellOf s c).remaps.filter fun p => p.1 == bank).length →
    ∃ u, exec (.loftRowRemap c bank row) s = .next u ∧ (cellOf u c).defect = true ∧
      (bayAt u (bayOf c)).depoch = ((bayAt s (bayOf c)).depoch + 1) % 65536 ∧ u.mem = s.mem) ∧
  (∀ s c bank, ∃ u, exec (.loftRefresh c bank) s = .next u ∧ coreOf u c = coreOf s c ∧ u.mem = s.mem ∧
    ∀ p, p ∈ (cellOf u c).rows ↔ p ∈ (cellOf s c).rows ∧ p.1 ≠ bank) ∧
  (∀ s c bank p, (cellOf s c).rows.find? (fun q => q.1 == bank) = some p →
    ∃ u, exec (.rowIdleClose c bank) s = .next u ∧ coreOf u c = coreOf s c ∧ u.mem = s.mem ∧
      (if p.2.keep then (cellOf u c).rows = (cellOf s c).rows
       else ∀ q, q ∈ (cellOf u c).rows ↔ q ∈ (cellOf s c).rows ∧ q.1 ≠ bank))
/-! ### Events of power, ports and paths -/

namespace Sys2Proof.Claim

open Sys2Proof Sys2Proof.Machine

/-- VMIN of the spine of number `n`, by the table of R370. -/
abbrev spineVmin (s : State) (n : Nat) : Nat := vmin (Tbl.get 0 s.spines n)

/-- The target that a write of BVSET leaves: clamped to 550 to 1,000 mV and to the bay's VMIN (R365, R370). -/
def clampedMv (s : State) (b : Nat) (w : Word) : Nat := max (bayVmin s b) (max 550 (min 1000 (w.extractLsb' 0 10).toNat))

/-- Mapping `m` of a region is the first staged one whose power in the catalogue is at or below `share` (R366). -/
def FitsShare (g : Region) (share m : Nat) : Prop :=
  let fits (k : Nat) : Prop := (∃ p ∈ g.staged, p.1 = k) ∧ ∃ p ∈ g.powers, p.1 = k ∧ p.2 ≤ share
  m < 3 ∧ fits m ∧ ∀ k, k < m → ¬ fits k

/-- Only bay `b` of the state has changed, to `v`. -/
def BayBecomes (i : Instr) (s : State) (b : Nat) (v : Bay) : Prop :=
  ∃ u, exec i s = .next u ∧ bayAt u b = v ∧ (∀ d, d ≠ b → bayAt u d = bayAt s d) ∧ u.cells = s.cells ∧ u.mem = s.mem ∧ u.net = s.net

/-- Only port `p` of the state has changed, to `v`; event `kind` goes to the port's sill processor when PEVT.EN is 1 (R431). -/
def PortBecomes (i : Instr) (s : State) (p : Nat) (v : Port) (ev : Option (Nat × Nat × Word)) : Prop :=
  ∃ u, exec i s = .next u ∧ portAt u p = v ∧ (∀ d, d ≠ p → portAt u d = portAt s d) ∧ u.mem = s.mem ∧
    ∀ kind status w, ev = some (kind, status, w) → v.pevt.getLsbD 31 = true →
      Sends u (1049600 + p / 80) (1049600 + p / 80) (.token ⟨(v.pevt.extractLsb' 0 8).toNat, 0, 0,
        fourLanes (BitVec.ofNat 32 status) w 0 (BitVec.ofNat 32 (p % 512 + kind * 2 ^ 12)), none, none, false⟩ .nobody)

/-- PSTAT (R430). -/
def pstat (p : Port) : Word :=
  BitVec.ofNat 32 (p.locked % 512 + p.trained % 256 * 2 ^ 16 + (if p.laserok then 2 ^ 30 else 0) + (if p.link then 2 ^ 31 else 0))

end Sys2Proof.Claim

/-- Energy and the bay's power (R138, R364, R365), ISDUTY and budgets (R366 to R368), voltages and clocks (R276, R278, R365, R370),
temperature and rates (R365, R371, R449). The mapping that a budget event changes to is the model's choice (notes/assumptions/26.md,
notes/assumptions/79.md), and ISDUTY of a cell that answers nothing stays as it is (notes/assumptions/41.md). -/
def Sys2Proof.Claim.PowerEventsActOnTheirBay : Prop :=
  (∀ s c, isCellCore c = true → (cellOf s c).inReset = false → (cellOf s c).energyMark + 1024 ≤ (cellOf s c).cyc →
    ∃ u e, exec (.energyUpdate c) s = .next u ∧ (cellOf s c).energyAcc ≤ e ∧
      (cellOf u c).energy = (cellOf s c).energy + BitVec.ofNat 32 (e / 16000) ∧ (cellOf u c).energyAcc = e % 16000 ∧
      (bayAt u (bayOf c)).benergy = (bayAt s (bayOf c)).benergy + BitVec.ofNat 32 (e / 16000) ∧
      (cellOf u c).energyMark = (cellOf s c).energyMark + 1024 ∧ coreOf u c = coreOf s c ∧ u.mem = s.mem) ∧
  (∀ s b, BayBecomes (.bayPowerSample b) s b { bayAt s b with
    power := ((bayAt s b).benergy - (bayAt s b).lastEnergy).toNat
    lastEnergy := (bayAt s b).benergy
    overdrawn := match (bayAt s b).budget with
      | some n => if n < ((bayAt s b).benergy - (bayAt s b).lastEnergy).toNat then (bayAt s b).overdrawn + 1 else 0
      | none => 0 }) ∧
  (∀ s c w, isDead s c = false → isCellCore c = true →
    ∃ u, exec (.isdutyWrite c w) s = .next u ∧ DutyWritten s u c w ∧ coreOf u c = coreOf s c ∧ u.mem = s.mem) ∧
  (∀ s b r w, ((bayAt s b).overdrawn < 4 ∨ ∀ c ∈ regionCells s r, c / 1024 ≠ b) → exec (.budgetExceeded b r w) s = .next s) ∧
  (∀ s b r w k, (regionAt s r).st = .resident → 4 ≤ (bayAt s b).overdrawn → k ∈ regionCells s r → k < 1048576 → k / 1024 = b →
    ∃ u, exec (.budgetExceeded b r w) s = .next u ∧ u.mem = s.mem ∧ (∀ q, q ≠ r → regionAt u q = regionAt s q) ∧
      (∀ c ∈ regionCells s r, isDead s c = false → (cellOf u c).isduty = dutyLeft s w) ∧
      (∀ m, FitsShare (regionAt s r) (regionAt s r).share m → m ≠ (regionAt s r).mapping → (regionAt s r).plan = none →
        (regionAt s r).cut = none → (regionAt s r).rolling = none →
        (regionAt u r).plan = some m ∧ (regionAt u r).cut = some ⟨0, none⟩ ∧
        Sends u (regionOrigin s r) (regionOrigin s r) (.peg r)) ∧
      ((∀ m, ¬ FitsShare (regionAt s r) (regionAt s r).share m) → regionAt u r = regionAt s r)) ∧
  (∀ s b w, BayBecomes (.bvsetWrite b w) s b { bayAt s b with
    mv := clampedMv s b w
    ready := decide ((bayAt s b).mv = clampedMv s b w) && (bayAt s b).ready }) ∧
  (∀ s b, (bayAt s b).releasing = false → BayBecomes (.regulatorSettled b) s b { bayAt s b with ready := true }) ∧
  (∀ s b, (bayAt s b).releasing = true →
    ∃ u, exec (.regulatorSettled b) s = .next u ∧ (bayAt u b).ready = true ∧ (bayAt u b).releasing = false ∧ u.mem = s.mem ∧
      ∀ c, c / 1024 = b → (cellOf u c).inReset = false ∧ coreOf u c = coreOf s c) ∧
  (∀ s b, (bayAt s b).temp < 760 → ∃ u, exec (.tripClear b) s = .next u ∧ bayAt u b = { bayAt s b with
    trip := false
    uncorr := (bayAt u b).uncorr } ∧ u.mem = s.mem) ∧
  (∀ s b, 760 ≤ (bayAt s b).temp → exec (.tripClear b) s = .next s) ∧
  (∀ s b t, t < 4096 → (bayAt s b).warn ≤ t →
    ∃ u, exec (.tempWarn b t) s = .next u ∧ (bayAt u b).temp = t ∧ (bayAt u b).tempMax = max (bayAt s b).tempMax t ∧
      u.outbox = s.outbox ++ [.tempWarn b] ∧ u.cells = s.cells ∧ u.mem = s.mem) ∧
  (∀ s b t, 840 ≤ t → t < 4096 →
    ∃ u, exec (.thermalTrip b t) s = .next u ∧ (bayAt u b).trip = true ∧ (bayAt u b).temp = t ∧
      u.outbox = s.outbox ++ .tripNotice b :: (if s.booted then [.alarm] else []) ∧ u.cells = s.cells ∧ u.mem = s.mem) ∧
  (∀ s b i, (i = .droop b ∨ i = .currentCap b) → BayBecomes i s b (if (bayAt s b).rate = .full then
    { bayAt s b with rate := .half, nhalf := min 65535 ((bayAt s b).nhalf + 1) } else bayAt s b)) ∧
  (∀ s b, BayBecomes (.quarterRate b) s b (if (bayAt s b).rate = .half then
    { bayAt s b with rate := .quarter, nquart := min 65535 ((bayAt s b).nquart + 1) } else bayAt s b)) ∧
  (∀ s b, BayBecomes (.rateRecovery b) s b { bayAt s b with rate := .full }) ∧
  (∀ s n f, s.spineNext = [(n, f)] →
    ∃ u, exec (.spineRelock n) s = .next u ∧ Tbl.get 0 u.spines n = f ∧ (∀ k, k ≠ n → Tbl.get 0 u.spines k = Tbl.get 0 s.spines k) ∧
      u.spineNext = [] ∧ u.cells = s.cells ∧ u.mem = s.mem)

/-- The controls and the events of optical ports (R430 to R434), and the states of a peer's paths (R226, R428, R439, R440). That LOCKED and
TRAINED stand over ABORT as the command had left them, and that a write
of UP is kept before training, is the model's reading (notes/assumptions/86.md). -/
def Sys2Proof.Claim.PortEventsActOnTheirPort : Prop :=
  (∀ s p, PortBecomes (.laser p true) s p { portAt s p with laser := true } none) ∧
  (∀ s p, PortBecomes (.laser p false) s p
    { portAt s p with laser := false, locked := 0, trained := 0, phtr := [], link := false }
    (if (portAt s p).link then some (4, 0, pstat { portAt s p with locked := 0, trained := 0, link := false }) else none)) ∧
  (∀ s p, PortBecomes (.up p true) s p { portAt s p with up := true } none) ∧
  (∀ s p, PortBecomes (.up p false) s p { portAt s p with up := false, link := false }
    (if (portAt s p).link then some (4, 0, pstat { portAt s p with link := false }) else none)) ∧
  (∀ s p on, PortBecomes (.llr p on) s p { portAt s p with llr := on } none) ∧
  (∀ s p, (portAt s p).cmd = none → (portAt s p).laserok = true → PortBecomes (.lock p) s p { portAt s p with cmd := some false } none) ∧
  (∀ s p, ((portAt s p).cmd ≠ none ∨ (portAt s p).laserok = false) → PortBecomes (.lock p) s p (portAt s p) (some (2, 16, 0))) ∧
  (∀ s p, (portAt s p).cmd = none → (portAt s p).up = false → mapLocked (portAt s p) = true →
    PortBecomes (.train p) s p { portAt s p with cmd := some true, announced := some (portAt s p).pmap } none) ∧
  (∀ s p, ((portAt s p).cmd ≠ none ∨ (portAt s p).up = true ∨ mapLocked (portAt s p) = false) →
    PortBecomes (.train p) s p (portAt s p) (some (3, 16, 0))) ∧
  (∀ s p train, (portAt s p).cmd = some train → PortBecomes (.abort p) s p { portAt s p with cmd := none }
    (some (if train then 3 else 2, 1, BitVec.ofNat 32 (if train then (portAt s p).trained else (portAt s p).locked)))) ∧
  (∀ s p, (portAt s p).laserok = false → (portAt s p).laser = true → PortBecomes (.laserokChange p true) s p
    { portAt s p with laserok := true } (some (1, 0, pstat { portAt s p with laserok := true }))) ∧
  (∀ s p, (portAt s p).laserok = true → PortBecomes (.laserokChange p false) s p
    { portAt s p with laserok := false } (some (1, 17, pstat { portAt s p with laserok := false }))) ∧
  (∀ s p k, (portAt s p).cmd = some false → (portAt s p).trained = 0 → k < 4096 →
    PortBecomes (.lockEnd p (List.replicate 9 (some k))) s p { portAt s p with
      cmd := none
      locked := 511
      phtr := (List.range 9).map fun n => (n, BitVec.ofNat 32 (2 ^ 31 + k)) } (some (2, 0, 511))) ∧
  (∀ s p, (portAt s p).cmd = some false → (portAt s p).trained = 0 → PortBecomes (.lockEnd p []) s p
    { portAt s p with cmd := none, locked := 0, phtr := [] } (some (2, 17, 0))) ∧
  (∀ s p h v k, (portAt s p).cmd = some true → (portAt s p).locked = 511 → (portAt s p).announced = some k → (portAt s p).farMap = k →
    16 ≤ h → h < 256 → 12 ≤ v → v < 256 →
    ∃ eyes, PortBecomes (.trainEnd p (List.replicate 8 (h, v))) s p { portAt s p with cmd := none, trained := 255, peye := eyes }
      (some (3, 0, 255)) ∧ eyes.length = 8 ∧ ∀ q ∈ eyes, q.2.getLsbD 31 = true) ∧
  (∀ s p margins a b, (portAt s p).cmd = some true → (portAt s p).announced = some a → (portAt s p).farMap = b → a ≠ b → a < 8 →
    ∃ u, exec (.trainEnd p margins) s = .next u ∧ (portAt u p).cmd = none ∧ (portAt u p).trained.testBit a = false ∧
      (Tbl.get 0 (portAt u p).peye a).getLsbD 31 = false ∧ u.mem = s.mem) ∧
  (∀ s p, (portAt s p).laser = true → (portAt s p).up = true → (portAt s p).trained = 255 → (portAt s p).link = false →
    PortBecomes (.linkChange p true) s p { portAt s p with link := true } (some (4, 0, pstat { portAt s p with link := true }))) ∧
  (∀ s p, (portAt s p).link = true → PortBecomes (.linkChange p false) s p { portAt s p with link := false }
    (some (4, 0, pstat { portAt s p with link := false }))) ∧
  (∀ s p n, n < 9 → (portAt s p).locked.testBit n = true → (portAt s p).trained = 0 →
    ∃ v, PortBecomes (.ringLockLoss p n) s p v none ∧ v.locked = (portAt s p).locked - 2 ^ n ∧ v.laser = (portAt s p).laser ∧
      v.link = (portAt s p).link ∧ ∀ q, q ∈ v.phtr ↔ q ∈ (portAt s p).phtr ∧ q.1 ≠ n) ∧
  (∀ s h i, let q : Path := Tbl.get {} (Tbl.get {} s.peers h : Peer).paths i
    q.timeouts < 2 → q.trims < 4 → exec (.pathUnusable h i) s = .next s) ∧
  (∀ s h i, let q : Path := Tbl.get {} (Tbl.get {} s.peers h : Peer).paths i
    (Tbl.get {} s.peers h : Peer).known = true → i < 16 → (2 ≤ q.timeouts ∨ 4 ≤ q.trims) →
    ∃ u, exec (.pathUnusable h i) s = .next u ∧ (Tbl.get {} (Tbl.get {} u.peers h : Peer).paths i : Path).usable = false ∧
      (∀ k, k ≠ i → (Tbl.get {} (Tbl.get {} u.peers h : Peer).paths k : Path) = Tbl.get {} (Tbl.get {} s.peers h : Peer).paths k) ∧
      (∀ g, g ≠ h → (Tbl.get {} u.peers g : Peer) = Tbl.get {} s.peers g) ∧ u.mem = s.mem ∧
      ((Tbl.get {} s.peers h : Peer).mode ≠ .rod → ∀ k, k < 16 → k ≠ i →
        (Tbl.get {} (Tbl.get {} s.peers h : Peer).paths k : Path).usable = true → ∀ m ∈ u.net, m.dst = peerDst h → m.at_ = m.dst →
        (∀ r, m.body = .mem r → r.pmask.testBit k = true) → m.path ≠ some i)) ∧
  (∀ s h i m, (Tbl.get {} s.peers h : Peer).known = true → i < 16 → m.acked = true → m.level < 256 →
    ∃ u, exec (.pathProbe h i m) s = .next u ∧ Tbl.get {} (Tbl.get {} u.peers h : Peer).paths i = (⟨m.level,
        (m.ecn :: (Tbl.get {} (Tbl.get {} s.peers h : Peer).paths i : Path).acks).take 256, s.tickNo, true, 0, 0⟩ : Path) ∧
      (∀ k, k ≠ i → (Tbl.get {} (Tbl.get {} u.peers h : Peer).paths k : Path) = Tbl.get {} (Tbl.get {} s.peers h : Peer).paths k) ∧
      u.mem = s.mem) ∧
  (∀ s h i m, m.acked = false → exec (.pathProbe h i m) s = .next s)
/-! ### Events of jobs, launches, boot and tenants -/

namespace Sys2Proof.Claim

open Sys2Proof Sys2Proof.Machine

/-- Attestation register `i` (R411). -/
abbrev arAt (s : State) (i : Nat) : List Byte := Tbl.get (List.replicate 48 0) s.ar i

/-- Attestation register `i` has been extended by the digest `m` (R411). -/
def Extends (s u : State) (i : Nat) (m : List Byte) : Prop := arAt u i = sha3 (arAt s i ++ m)

/-- A firmware bundle passes the checks of the boot ROM (R410). -/
abbrev BundlePasses (s : State) (d : FwBundle) : Prop :=
  sha3 d.key = s.fusedKeyDigest ∧ Config.signatureOk d.key (fwBytes d) d.signature = true ∧ s.rollbackCounter ≤ d.version

/-- A launch of `payload` by `tenant` for queue `q` of job `j` that no check of R353 refuses. -/
structure Launches (s : State) (tenant : Nat) (payload : List Word) (j : Job) (q : LQueue) : Prop where
  shape : payload.length = 16 ∧ (payload.getD 0 0).extractLsb' 18 14 = 0
  job : Tbl.get none s.jobs ((payload.getD 0 0).extractLsb' 0 16).toNat = some j
  tenant : j.tenant = tenant
  queue : j.queues.find? (fun p => p.queue == ((payload.getD 0 0).extractLsb' 16 2).toNat) = some q
  room : queueLoad (freshHead s q) < q.size
  held : (s.heldLaunches.filter fun h => h.job == ((payload.getD 0 0).extractLsb' 0 16).toNat).length < 16

/-- The bridge holds no launch for the root of a queue (R359). -/
def HoldsNone (s : State) (q : LQueue) : Prop := ∀ h ∈ s.heldLaunches, rootOfLaunch s h.payload ≠ some q.root

/-- The launch record of R356 at its place, TAIL advanced, and the launch token on its way to the root (R358). -/
def Enqueued (u : State) (payload : List Word) (q : LQueue) : Prop :=
  (∀ i, i < 15 → memWord u (q.key + 64 + 64 * (q.tail % q.size) + 4 * i) = payload.getD (i + 1) 0) ∧
  memWord u (q.key + 64 + 64 * (q.tail % q.size) + 60) = BitVec.ofNat 32 q.tail ∧
  memWord u (q.key + 4) = BitVec.ofNat 32 (q.tail + 1) ∧
  (∃ v : Val, Sends u hostDst q.root (.token { tag := 0xD0, lanes := v } .nobody) ∧ v.get 0 = some (BitVec.ofNat 32 q.queue) ∧
    v.get 1 = some (BitVec.ofNat 32 (q.tail + 1))) ∧
  (∃ n, Report.launchQueued n q.queue ∈ u.outbox)

/-- A queue's lines lie in its root's loft and are sound, and no cut is under way at the root. -/
abbrev QueueSound (s : State) (q : LQueue) : Prop :=
  (cellOf s q.root).savedPoint = false ∧ 0 < q.size ∧ q.key % 64 = 0 ∧ loftKey q.root 0 ≤ q.key ∧ q.key + 64 + 64 * q.size ≤ loftKey q.root 0x1C0000 ∧
  (∀ i, i ≤ q.size → isBad s (q.key + 64 * i) = false)

end Sys2Proof.Claim

/-- JOB_LOAD places and loads a job or leaves nothing of it (R348, R351, R363); LAUNCH and HELD_LAUNCH_RELEASE enqueue, hold or refuse
launches (R353, R356, R358, R359). That the whole of R358 is one step, and that a launch is held whenever its root does not take writes or the
bridge holds another for the same root, is the model's choice (notes/assumptions/59.md). -/
def Obligations.JobsAndLaunchesAreTaken : Prop :=
  (∀ s j k t regs v, jobOk s j = true → resolveJob j = some k → placeAll k s k.regions = some (t, regs) → loadJob t k regs = some v →
    ∃ u e, exec (.jobLoad j) s = .next u ∧ Tbl.get none u.jobs j.job = some e ∧ e.active = true ∧ e.regions = regs ∧ e.tenant = j.tenant ∧
      e.queues.length = j.queues.length ∧ (∀ r ∈ regs, (regionAt u r).st = .resident) ∧ Report.jobActive j.job ∈ u.outbox) ∧
  (∀ s j k, jobOk s j = true → resolveJob j = some k → placeAll k s k.regions = none →
    exec (.jobLoad j) s = .next { s with outbox := s.outbox ++ [.jobNoSpace j.job] }) ∧
  (∀ s j, (jobOk s j = false ∨ resolveJob j = none ∨
      ∃ k t regs, resolveJob j = some k ∧ placeAll k s k.regions = some (t, regs) ∧ loadJob t k regs = none) →
    exec (.jobLoad j) s = .next { s with outbox := s.outbox ++ [.jobFailed j.job] }) ∧
  (∀ s tenant payload j q, Launches s tenant payload j q → rootOpen s (freshHead s q) = true → HoldsNone s q → QueueSound s q →
    Memory.wf s.mem = true →
    ∃ u, exec (.launch tenant payload) s = .next u ∧ Enqueued u payload q) ∧
  (∀ s tenant payload j q, Launches s tenant payload j q → (rootOpen s (freshHead s q) = false ∨ ¬ HoldsNone s q) →
    exec (.launch tenant payload) s = .next { s with
      heldLaunches := s.heldLaunches ++ [⟨((payload.getD 0 0).extractLsb' 0 16).toNat, payload⟩] }) ∧
  (∀ s tenant payload code,
    ((payload.length ≠ 16 ∧ code = 3) ∨
      (payload.length = 16 ∧ (payload.getD 0 0).extractLsb' 18 14 = 0 ∧
        Tbl.get none s.jobs ((payload.getD 0 0).extractLsb' 0 16).toNat = none ∧ code = 1)) →
    exec (.launch tenant payload) s = .next { s with outbox := s.outbox ++ [.launchRefused code] }) ∧
  (∀ s tenant payload j q, s.heldLaunches = [⟨((payload.getD 0 0).extractLsb' 0 16).toNat, payload⟩] →
    Launches { s with heldLaunches := [] } tenant payload j q → rootOpen s (freshHead s q) = true → QueueSound s q → Memory.wf s.mem = true →
    ∃ u, exec (.heldLaunchRelease 0) s = .next u ∧ Enqueued u payload q ∧ u.heldLaunches = [])

/-- BOOT, BAY_RESET and MODULE_RESET (R6, R9, R276, R410 to R412, R450, R451); TENANT_SCRUB (R416); QUOTE, KEY_ENCAPSULATION and
ATTESTATION_EXTEND (R411 to R414); LIVE_FIRMWARE_LOAD (R450). That memory keeps its content over BAY_RESET and loses it over MODULE_RESET, with
the flash kept, is the model's choice (notes/assumptions/28.md, notes/assumptions/34.md), as are the quote's layout (notes/assumptions/7.md)
and one association at each port (notes/assumptions/96.md). -/
def Obligations.TheModuleBootsResetsAndAttests : Prop :=
  (∀ s d, (s.ar.any fun p => p.1 == 0) = false →
    ∃ u, exec (.boot d) s = .next u ∧ Extends s u 0 (sha3 Config.bootRom) ∧ u.mem = s.mem ∧
      (BundlePasses s d → u.booted = true ∧ u.running = some d ∧ Extends s u 1 (sha3 d.sill) ∧ Extends s u 2 (sha3 d.bay) ∧
        ∀ i, i < 4 → cellOf u (1049600 + i) = { inReset := false }) ∧
      (¬ BundlePasses s d → u.booted = s.booted ∧ u.cells = s.cells ∧ ∃ k, u.outbox = s.outbox ++ [.bootFailed k])) ∧
  (∀ s b, s.booted = true → b < 1024 → Tbl.get 0 s.spines 6 ≤ 1200 → s.lowFlow = false →
    ∃ u, exec (.bayReset b) s = .next u ∧ (∀ c, c / 1024 = b → cellOf u c = { inReset := false }) ∧
      cellOf u (1048576 + b) = { inReset := false } ∧ (bayAt u b).mv = 820 ∧ (bayAt u b).cap = 0x3C0 ∧ (bayAt u b).rate = .full ∧
      (bayAt u b).benergy = 0 ∧ (bayAt u b).trip = false ∧ (∀ d, d ≠ b → bayAt u d = bayAt s d) ∧ u.mem = s.mem) ∧
  (∀ s b, s.booted = true → b < 1024 → Tbl.get 0 s.spines 6 ≤ 1200 → s.lowFlow = true →
    ∃ u, exec (.bayReset b) s = .next u ∧ (∀ c, c / 1024 = b → cellOf u c = { inReset := false, isduty := 0x1010 }) ∧
      (bayAt u b).tenant = (bayAt s b).tenant ∧ (bayAt u b).temp = (bayAt s b).temp ∧ u.mem = s.mem) ∧
  (∀ s forced, (forced = true ∨ ∀ p ∈ s.jobs, ∀ j, p.2 = some j → j.active = false) →
    ∃ u, exec (.moduleReset forced) s = .next u ∧ u.mem = [] ∧ u.cells = [] ∧ u.booted = false ∧ u.net = [] ∧ u.regions = [] ∧ u.jobs = [] ∧
      u.ar = [] ∧ u.linkKeys = [] ∧ u.tss = [] ∧ u.flashA = s.flashA ∧ u.flashB = s.flashB ∧
      u.flashActiveB = (if s.flashNew then !s.flashActiveB else s.flashActiveB) ∧ u.rollbackCounter = s.rollbackCounter ∧
      ∀ b, (bayAt u b).mv = 820) ∧
  (∀ s p j, p ∈ s.jobs → p.2 = some j → j.active = true →
    exec (.moduleReset false) s = .next { s with outbox := s.outbox ++ [.resetRefused] }) ∧
  (∀ s b t, s.booted = true → (bayAt s b).tenant ≠ t →
    ∃ u, exec (.tenantScrub b t) s = .next u ∧ (bayAt u b).tenant = t ∧
      (∀ c a, c < 1048576 → c / 1024 = b → a < 2 ^ 23 → memGet u.mem (c * 2 ^ 23 + a) = 0 ∧ (c * 2 ^ 23 + a) ∉ u.full) ∧
      (∀ k, (1048576 ≤ k / 2 ^ 23 ∨ k / 2 ^ 23 / 1024 ≠ b) → memGet u.mem k = memGet s.mem k) ∧
      (∀ m ∈ u.net, ¬ (m.at_ < 1048576 ∧ m.at_ / 1024 = b)) ∧
      ((∀ p ∈ s.jobs, ∀ j, p.2 = some j → j.tenant ≠ (bayAt s b).tenant) → ∀ p, p < 320 →
        Tbl.get ([], []) u.linkKeys (320 * (bayAt s b).tenant + p) = ([], []) ∧ Tbl.get ([], []) u.tss (320 * (bayAt s b).tenant + p) = ([], [])) ∧
      (∀ c ∈ s.cells, c.1 < 1048576 → c.1 / 1024 = b → (cellOf u c.1).labels = [] ∧ (cellOf u c.1).mirror = [] ∧ (coreOf u c.1).tokens = [] ∧
        (∀ x, x < 4 → (ctxOf u c.1 x).wins = [] ∧ (ctxOf u c.1 x).chans = []) ∧
        ∀ g, g < 256 → (bindingOf (coreOf u c.1) g).getLsbD 31 = false)) ∧
  (∀ s t nonce, s.booted = true → nonce.length = 32 →
    ∃ u q key, exec (.quote t nonce) s = .next u ∧ Tbl.get [] u.encapKeys t = key ∧
      u.outbox = s.outbox ++ [.quote t q (Config.sign s.attestKey q) s.attestCert] ∧
      (∃ rest, q = (List.range 8).flatMap (arAt s) ++ nonce ++ rest ++ key) ∧ u.cells = s.cells ∧ u.mem = s.mem) ∧
  (∀ s t ct, (s.encapKeys.any fun p => p.1 == t) = true →
    ∃ u, exec (.keyEncapsulation t ct) s = .next u ∧ u.cells = s.cells ∧ u.mem = s.mem ∧
      (match Config.decapsulate (Tbl.get [] s.encapKeys t) ct with
       | some k => ∀ p, p < 320 → Tbl.get ([], []) u.linkKeys (320 * t + p) = (Config.linkKey k p false, Config.linkKey k p true) ∧
           Tbl.get ([], []) u.tss (320 * t + p) = (Config.linkKey k p false, Config.linkKey k p true)
       | none => u.linkKeys = s.linkKeys ∧ u.tss = s.tss ∧ u.outbox = s.outbox ++ [.kemFailed t])) ∧
  (∀ s i m, s.booted = true → 5 ≤ i → i ≤ 7 → m.length = 48 →
    ∃ u, exec (.attestationExtend i m) s = .next u ∧ Extends s u i m ∧ (∀ k, k ≠ i → arAt u k = arAt s k) ∧ u.cells = s.cells ∧ u.mem = s.mem) ∧
  (∀ s b d, s.booted = true → (if s.flashActiveB then s.flashB else s.flashA) = some d → (∀ c, (cellOf s c).region = none) →
    (∀ p ∈ s.cells, p.2.region = none) →
    ∃ u, exec (.liveFirmwareLoad b) s = .next u ∧ bayAt u b = { bayAt s b with firmware := d.bay } ∧ Extends s u 2 (sha3 d.bay) ∧
      u.cells = s.cells ∧ u.mem = s.mem)
/-! ### Events of the host and the peers -/

namespace Sys2Proof.Claim

open Sys2Proof Sys2Proof.Machine

/-- A request of one lane from a frame has arrived at the host (R306). -/
structure AtBridge (s : State) (n : Nat) (m : Msg) (r : MemReq) (l : LaneReq) : Prop where
  came : arrived s n = some m
  body : m.body = .mem r
  host : m.dst = hostDst
  asker : ∃ c x serial slot, r.asker = .frame c x serial slot
  fresh : staleFrame s r.asker = false
  lanes : r.lanes = [l]
  size : 0 < r.size ∧ r.size ≤ 4

/-- The bridge port of a message answers it with `a`. -/
def BridgeAnswers (u : State) (m : Msg) (r : MemReq) (p : Answer → Prop) : Prop :=
  ∃ a, Sends u hostDst (answerTo r.asker m.src) (.answer a) ∧ a.asker = r.asker ∧ p a

/-- The request of one word that the bridge sends to an owner for the host (R306, R307); its asker is the number that the model gives an
access (notes/assumptions/60.md). -/
def hostRequest (s : State) (op : MemOp) (mode : WinMode) (k : Nat) (b : Word) : Body :=
  .mem { op := op, lanes := [{ lane := 0, key := k, b := b, mode := mode }], asker := .outside (2 * s.tickNo) }

/-- The window of an export as its cell holds it (R417). -/
abbrev exportWindow (s : State) (e : Export) : Win := Tbl.get {} (ctxOf s e.cell e.ctx).wins e.window

end Sys2Proof.Claim

/-- HOST_PAGE_WALK translates and performs a host request or refuses it with HOSTPAGE (R306, R418, R419); INVALIDATION drops the
translations it names (R420). -/
def Sys2Proof.Claim.HostPagesTranslate : Prop :=
  (∀ s n m r l x, AtBridge s n m r l → r.op = .load → findXlat s (Config.bridgePort m.src) l.key = some x → x.leaf.testBit 1 = true →
    ∃ u, exec (.hostPageWalk n) s = .next u ∧ x ∈ u.tlb ∧ u.hostMem = s.hostMem ∧ u.mem = s.mem ∧
      BridgeAnswers u m r fun a => a.cause = none ∧ a.vals = [(l.lane, BitVec.ofNat 32 (littleEndian s.hostMem
        (x.leaf / 2 ^ 52 % 2 ^ 12 * 2 ^ 52 + x.leaf / 2 ^ 12 % 2 ^ 40 * 4096 + (l.key - x.base)) r.size))]) ∧
  (∀ s n m r l x, AtBridge s n m r l → r.op = .store → findXlat s (Config.bridgePort m.src) l.key = some x → x.leaf.testBit 2 = true →
    Memory.wf s.hostMem = true →
    let k := x.leaf / 2 ^ 52 % 2 ^ 12 * 2 ^ 52 + x.leaf / 2 ^ 12 % 2 ^ 40 * 4096 + (l.key - x.base)
    ∃ u, exec (.hostPageWalk n) s = .next u ∧ u.mem = s.mem ∧
      (∀ j, memGet u.hostMem j = if k ≤ j ∧ j < k + r.size then l.b.extractLsb' (8 * (j - k)) 8 else memGet s.hostMem j) ∧
      BridgeAnswers u m r fun a => a.cause = none ∧ a.vals = [(l.lane, 0)]) ∧
  (∀ s n m r l, AtBridge s n m r l → (r.op = .load ∨ r.op = .store) → findXlat s (Config.bridgePort m.src) l.key = none →
    ∃ u, exec (.hostPageWalk n) s = .next u ∧ u.hostMem = s.hostMem ∧ u.mem = s.mem ∧
      BridgeAnswers u m r fun a => a.cause = some .hostpage ∧ a.refused = 2 ^ l.lane ∧ a.vals = []) ∧
  (∀ s p a e1 e2, hostCanonical a = true → (∀ x ∈ s.tlb, x.port ≠ p) →
    e1 = littleEndian s.bridgeMem ((portAt s p).ptRoot + 8 * (a / 2 ^ 39 % 512)) 8 → e1 % 2 = 1 → e1 / 2 ^ 4 % 2 = 0 → e1 / 2 ^ 5 % 128 = 0 →
    e2 = littleEndian s.bridgeMem (e1 / 2 ^ 12 % 2 ^ 40 * 4096 + 8 * (a / 2 ^ 30 % 512)) 8 → e2 % 2 = 1 → e2 / 2 ^ 4 % 2 = 1 →
    e2 / 2 ^ 5 % 128 = 0 → e2 / 2 ^ 12 % 2 ^ 18 = 0 → findXlat s p a = some ⟨p, a / 2 ^ 30 * 2 ^ 30, 2 ^ 30, e2⟩) ∧
  (∀ s p lo hi, ∃ u, exec (.invalidation p lo hi) s = .next u ∧ u.outbox = s.outbox ++ [.invalidated p] ∧ u.mem = s.mem ∧
    u.hostMem = s.hostMem ∧ ∀ x, x ∈ u.tlb ↔ x ∈ s.tlb ∧ ¬ (x.port = p ∧ lo < x.base + x.size ∧ x.base < hi))

/-- HOST_ACCESS and HOST_ATOMIC send their words to the owners of an exported window, or are refused at the bridge (R306, R307, R417). -/
def Sys2Proof.Claim.HostReachesExports : Prop :=
  (∀ s h e k, openedExport s h.tenant h.port h.exportNo = some e → h.isWrite = false → h.count = 1 → exportKey s e .ldw h.offset = some k →
    ∃ u, exec (.hostAccess h) s = .next u ∧ u.mem = s.mem ∧
      Sends u hostDst (keyCore k) (hostRequest s .load (winMode (exportWindow s e)) k (h.words.getD 0 0))) ∧
  (∀ s h e k w, openedExport s h.tenant h.port h.exportNo = some e → h.isWrite = true → h.words = [w] → exportKey s e .stw h.offset = some k →
    ∃ u, exec (.hostAccess h) s = .next u ∧ u.mem = s.mem ∧ Sends u hostDst (keyCore k) (hostRequest s .store (winMode (exportWindow s e)) k w)) ∧
  (∀ s h, openedExport s h.tenant h.port h.exportNo = none →
    exec (.hostAccess h) s = .next { s with
      outbox := s.outbox ++ [.hostRefused (2 * s.tickNo)]
      bridgeLog := s.bridgeLog ++ [⟨h.tenant, h.exportNo, h.offset, false⟩] }) ∧
  (∀ s h e k, openedExport s h.tenant h.port h.exportNo = some e → h.cas = none → exportKey s e (.amo h.op) h.offset = some k →
    (exportWindow s e).w0.getLsbD 24 = true →
    ∃ u, exec (.hostAtomic h) s = .next u ∧ u.mem = s.mem ∧ Sends u hostDst (keyCore k) (hostRequest s (.amo h.op) .update k h.operand)) ∧
  (∀ s h e, openedExport s h.tenant h.port h.exportNo = some e → (exportWindow s e).w0.getLsbD 24 = false →
    exec (.hostAtomic h) s = .next { s with
      outbox := s.outbox ++ [.hostRefused (2 * s.tickNo)]
      bridgeLog := s.bridgeLog ++ [⟨h.tenant, h.exportNo, h.offset, true⟩] })

/-- RMA writes are placed and completed (R308, R437, R438), and sends become tokens or are refused (R437). -/
def Sys2Proof.Claim.PeersReachExports : Prop :=
  (∀ s d e w k, endpointOn s d.port = true → d.authentic = true → packetOk d = true → openedExport s d.tenant d.port d.exportNo = some e →
    d.words = [w] → d.spanOffset ≤ d.offset →
    d.offset < d.spanOffset + 4 * d.spanWords → winMode (exportWindow s e) = .random → exportKey s e .stw d.offset = some k → k % 4 = 0 →
    isDead s (keyCore k) = false → storeCheck s .random 4 k = .done → rodBlocks s d = false →
    rmaOf s d.message = none → Memory.wf s.mem = true →
    ∃ u r, exec (.rmaWritePlacement d) s = .next u ∧ memWord u k = w ∧ (∀ j, (j < k ∨ k + 4 ≤ j) → memGet u.mem j = memGet s.mem j) ∧
      r ∈ u.rmas ∧ r.message = d.message ∧ r.placed = [d.offset] ∧ r.refused = 0 ∧ u.full = s.full) ∧
  (∀ s d, endpointOn s d.port = true →
    (d.authentic = false ∨ d.mode = .uud ∨ 1024 < d.words.length ∨ openedExport s d.tenant d.port d.exportNo = none) →
    ∃ u, exec (.rmaWritePlacement d) s = .next u ∧ (portAt u d.port).pdrop = (portAt s d.port).pdrop + 1 ∧ u.mem = s.mem ∧ u.cells = s.cells) ∧
  (∀ s d e w r, endpointOn s d.port = true → d.authentic = true → packetOk d = true →
    openedExport s d.tenant d.port d.exportNo = some e → winMode (exportWindow s e) ≠ .presence → d.words = [w] →
    rmaOf s d.message = some r → r.placed.contains d.offset = true →
    ∃ u, exec (.rmaWritePlacement d) s = .next u ∧ (portAt u d.port).pdrop = (portAt s d.port).pdrop + 1 ∧ u.mem = s.mem ∧ u.cells = s.cells) ∧
  (∀ s d, endpointOn s d.port = false → exec (.rmaWritePlacement d) s = .next s) ∧
  (∀ s d, endpointOn s d.port = false → exec (.sendMessageReceive d) s = .next s) ∧
  (∀ s r c tag, s.rmas = [r] → r.spanWords ≤ r.placed.length → r.waiting = 0 →
    (Tbl.get {} s.exports r.exportNo : Export).completion = some (c, tag) →
    ∃ u, exec (.rmaCompletion r.message) s = .next u ∧ u.rmas = [] ∧ u.outbox = s.outbox ++ [.rmaDone r.message r.refused] ∧ u.mem = s.mem ∧
      Sends u hostDst c (.token ⟨tag, 0, 0, fourLanes (if r.refused = 0 then 0 else 4)
        (BitVec.ofNat 32 (if r.refused = 0 then 4 * r.spanWords else r.refused)) 0
        (BitVec.ofNat 32 (r.port % 512 + r.exportNo % 65536 * 2 ^ 16)), r.tuple, none, false⟩ .nobody)) ∧
  (∀ s d, endpointOn s d.port = true → (d.authentic = false ∨ d.mode = .uud ∨ openedExport s d.tenant d.port d.exportNo = none) →
    ∃ u, exec (.sendMessageReceive d) s = .next u ∧ (portAt u d.port).pdrop = (portAt s d.port).pdrop + 1 ∧ u.net = s.net ∧ u.mem = s.mem) ∧
  (∀ s d e tag, endpointOn s d.port = true → d.authentic = true → d.mode ≠ .uud →
    openedExport s d.tenant d.port d.exportNo = some e → e.receive = some tag → d.poison = none → d.bytes.length ≤ 512 →
    ∃ u, exec (.sendMessageReceive d) s = .next u ∧ u.mem = s.mem ∧
      ∀ k, k < (d.bytes.length + 31) / 32 → ∃ v : Val, Sends u hostDst e.cell (.token { tag := tag, lanes := v, tuple := tupleOf d.gt } .nobody) ∧
        ∀ i, i < 8 → ∃ w, v.get i = some w ∧
          ∀ j, j < 4 → 32 * k + 4 * i + j < d.bytes.length → d.bytes[32 * k + 4 * i + j]? = some (w.extractLsb' (8 * j) 8)) ∧
  (∀ s d e tag, endpointOn s d.port = true → d.authentic = true → d.mode ≠ .uud →
    openedExport s d.tenant d.port d.exportNo = some e → e.receive = some tag → d.poison = none → 512 < d.bytes.length →
    ∃ u, exec (.sendMessageReceive d) s = .next u ∧ (portAt u d.port).pdrop = (portAt s d.port).pdrop + 1 ∧
      u.outbox = s.outbox ++ [.sendRefused] ∧ u.net = s.net ∧ u.mem = s.mem) ∧
  (∀ s d e gt seq back, endpointOn s d.port = true → d.authentic = true → d.mode ≠ .uud →
    openedExport s d.tenant d.port d.exportNo = some e → d.poison = some (gt, seq, back) →
    ∃ u, exec (.sendMessageReceive d) s = .next u ∧ Sends u hostDst e.cell (.poison gt seq back) ∧ u.mem = s.mem)

/-- HOST_PAGE_WALK translates and performs a host request or refuses it with HOSTPAGE (R306, R418, R419); INVALIDATION (R420); HOST_ACCESS
and HOST_ATOMIC reach exported windows (R306, R307, R417); RMA writes and their completion (R308, R430, R437, R438, R440); sends (R437).
That an answer finds a host access by twice the number of its step is the model's choice (notes/assumptions/60.md), and so is host memory's
address, KEY times 2^52 and the host-side address (notes/assumptions/6.md). -/
def Obligations.HostAndPeersReachMemory : Prop := Claim.HostPagesTranslate ∧ Claim.HostReachesExports ∧ Claim.PeersReachExports

/-! ### Statements in two parts -/

/-- Arithmetic, roots and FAPX on finite operands (R47, R49, R143, R145, R153). -/
def Obligations.FiniteArithmeticRoundsOnce : Prop := Claim.SumsAndProductsRoundOnce ∧ Claim.QuotientsRootsAndBlendsRoundOnce

/-- Conversions, and the invalid and special cases (R48, R143, R144, R146, R148 to R152). -/
def Obligations.FloatSpecialCases : Prop := Claim.FloatInvalidCases ∧ Claim.FloatConversionsRound

/-- Float arithmetic by lanes, and the sign instructions (R49 to R54, R113). -/
def Obligations.FloatLanesAndSigns : Prop := Claim.FloatLanesCompleteWithFlags ∧ Claim.SignInstructionResults

/-- SPR delivers a special register, and SPW counts with the write its commit makes (R126 to R139). -/
def Obligations.SpecialRegistersReadAndCount : Prop := Claim.SpecialRegisterReads ∧ Claim.SpecialRegisterWritesCount

/-- Exits that end an activation, trap, or return from one (R22, R37, R45, R122 to R125). That END or YIELD of a trap handler drops the
chain that its own had interrupted is the model's reading (notes/assumptions/64.md). -/
def Obligations.CommitLeavesTheChain : Prop := Claim.CommitEndsTheActivation ∧ Claim.CommitEntersAndLeavesTraps

/-- The TAG and LINK groups at firing (R188, R197 to R205). -/
def Obligations.TagAndLinkFunctionsCount : Prop := Claim.TagFunctionsCount ∧ Claim.LinkFunctionsCount

/-- The MXE group at firing (R212 to R218). That MXSTAT counts a partly filled A row as present is the model's choice (notes/assumptions/71.md). -/
def Obligations.MatrixFunctionsCount : Prop := Claim.MatrixConfigurationCounts ∧ Claim.MatrixCommandsCount

/-- The SYNC and COLL groups at firing (R219 to R226, R320 to R323). -/
def Obligations.BarrierAndCollectiveFunctions : Prop := Claim.BarrierFunctionsComplete ∧ Claim.CollectiveFunctionsComplete

/-- The faults that a firing instruction takes (R32, R374). LSID and TADDR 0 where R374 names none is the model's reading
(notes/assumptions/58.md). -/
def Obligations.FiringFaults : Prop := Claim.FunctionsFaultAtFiring ∧ Claim.DeliveryAndCountingFaults

/-- What a commit does to its own core and what it sends (R13, R29, R31, R197 to R205, R379). -/
def Obligations.CommitDoesItsActs : Prop := Claim.CommitAppliesLocalActs ∧ Claim.CommitActsOnStreams ∧ Claim.CommitOpensPendingEntries

/-- How activations start, and the faults that wait for nothing (R20 to R46, R376). -/
def Obligations.ActivationsAndTheirFaults : Prop := Claim.ActivationsStart ∧ Claim.BlocksAndEntriesFaultInTime

/-- Remote requests at their owners, and their answers (R174 to R181, R288, R293, R376, R380). -/
def Obligations.RequestsAndAnswers : Prop := Claim.OwnersPerformRequests ∧ Claim.AnswersReachTheirAskers

/-- The steps of stream units and of the matrix engine (R64 to R73, R205 to R218). That a unit reads its elements ahead in one step and delivers
them in another is the model's choice (notes/assumptions/51.md). -/
def Obligations.EnginesAdvance : Prop := Claim.StreamUnitsAdvance ∧ Claim.MatrixEngineAdvances ∧ Claim.MatrixModesAccumulate

/-- Tokens, signals and barrier operations at the cell they reach (R15 to R18, R200 to R205, R219, R220, R310 to R314). -/
def Obligations.TokensAndBarriersArrive : Prop := Claim.TokensAndSignalsArrive ∧ Claim.BarriersCountAtTheirHome

/-- The collective engine and its slots (R324 to R331). -/
def Obligations.CollectivesAdvance : Prop := Claim.CollectivesRunInOrder ∧ Claim.CollectiveSlotsOpenAndEnd

/-- Power, clocks, temperature and optical ports (R364 to R373, R430 to R440). -/
def Obligations.PowerAndPortEvents : Prop := Claim.PowerEventsActOnTheirBay ∧ Claim.PortEventsActOnTheirPort
end

