-- ==== Sys2Proof/Laws/State.lean ====
section
/-! SUPPORT. One lemma per field per update of the state, and reading a table, a core, a context or a frame after writing one. -/

namespace Sys2Proof

/-! ### Tables -/

@[simp] theorem Tbl.get_put_same {α : Type} (d : α) (t : Tbl α) (k : Nat) (a : α) : Tbl.get d (Tbl.put t k a) k = a := by
  induction t with
  | nil => simp [Tbl.put, Tbl.get]
  | cons p t ih =>
    simp only [Tbl.put]
    split
    · simp [Tbl.get]
    · split
      · simp [Tbl.get]
      · rename_i h1 h2
        simp [Tbl.get, ih, Ne.symm h2]

theorem Tbl.get_put_other {α : Type} (d : α) (t : Tbl α) (k j : Nat) (a : α) (h : j ≠ k) :
    Tbl.get d (Tbl.put t k a) j = Tbl.get d t j := by
  induction t with
  | nil => simp [Tbl.put, Tbl.get, Ne.symm h]
  | cons p t ih =>
    simp only [Tbl.put]
    split
    · simp [Tbl.get, Ne.symm h]
    · split
      · rename_i h1 h2
        subst h2
        simp [Tbl.get, Ne.symm h]
      · simp [Tbl.get, ih]

end Sys2Proof

namespace Sys2Proof.Machine

open Sys2Proof

/-! ### Fields after an update -/

@[simp] theorem putCell_mem (s : State) (c : Nat) (x : Cell) : (putCell s c x).mem = s.mem := rfl
@[simp] theorem putCell_full (s : State) (c : Nat) (x : Cell) : (putCell s c x).full = s.full := rfl
@[simp] theorem putCell_bad (s : State) (c : Nat) (x : Cell) : (putCell s c x).bad = s.bad := rfl
@[simp] theorem putCell_bays (s : State) (c : Nat) (x : Cell) : (putCell s c x).bays = s.bays := rfl
@[simp] theorem putCell_ports (s : State) (c : Nat) (x : Cell) : (putCell s c x).ports = s.ports := rfl
@[simp] theorem putCell_regions (s : State) (c : Nat) (x : Cell) : (putCell s c x).regions = s.regions := rfl
@[simp] theorem putCell_jobs (s : State) (c : Nat) (x : Cell) : (putCell s c x).jobs = s.jobs := rfl
@[simp] theorem putCell_heldLaunches (s : State) (c : Nat) (x : Cell) : (putCell s c x).heldLaunches = s.heldLaunches := rfl
@[simp] theorem putCell_catalogue (s : State) (c : Nat) (x : Cell) : (putCell s c x).catalogue = s.catalogue := rfl
@[simp] theorem putCell_exports (s : State) (c : Nat) (x : Cell) : (putCell s c x).exports = s.exports := rfl
@[simp] theorem putCell_peers (s : State) (c : Nat) (x : Cell) : (putCell s c x).peers = s.peers := rfl
@[simp] theorem putCell_rmas (s : State) (c : Nat) (x : Cell) : (putCell s c x).rmas = s.rmas := rfl
@[simp] theorem putCell_rods (s : State) (c : Nat) (x : Cell) : (putCell s c x).rods = s.rods := rfl
@[simp] theorem putCell_bridgeLog (s : State) (c : Nat) (x : Cell) : (putCell s c x).bridgeLog = s.bridgeLog := rfl
@[simp] theorem putCell_embed (s : State) (c : Nat) (x : Cell) : (putCell s c x).embed = s.embed := rfl
@[simp] theorem putCell_spines (s : State) (c : Nat) (x : Cell) : (putCell s c x).spines = s.spines := rfl
@[simp] theorem putCell_spineNext (s : State) (c : Nat) (x : Cell) : (putCell s c x).spineNext = s.spineNext := rfl
@[simp] theorem putCell_ar (s : State) (c : Nat) (x : Cell) : (putCell s c x).ar = s.ar := rfl
@[simp] theorem putCell_encapKeys (s : State) (c : Nat) (x : Cell) : (putCell s c x).encapKeys = s.encapKeys := rfl
@[simp] theorem putCell_linkKeys (s : State) (c : Nat) (x : Cell) : (putCell s c x).linkKeys = s.linkKeys := rfl
@[simp] theorem putCell_tss (s : State) (c : Nat) (x : Cell) : (putCell s c x).tss = s.tss := rfl
@[simp] theorem putCell_certRoots (s : State) (c : Nat) (x : Cell) : (putCell s c x).certRoots = s.certRoots := rfl
@[simp] theorem putCell_flashA (s : State) (c : Nat) (x : Cell) : (putCell s c x).flashA = s.flashA := rfl
@[simp] theorem putCell_flashB (s : State) (c : Nat) (x : Cell) : (putCell s c x).flashB = s.flashB := rfl
@[simp] theorem putCell_flashActiveB (s : State) (c : Nat) (x : Cell) : (putCell s c x).flashActiveB = s.flashActiveB := rfl
@[simp] theorem putCell_flashNew (s : State) (c : Nat) (x : Cell) : (putCell s c x).flashNew = s.flashNew := rfl
@[simp] theorem putCell_running (s : State) (c : Nat) (x : Cell) : (putCell s c x).running = s.running := rfl
@[simp] theorem putCell_rollbackCounter (s : State) (c : Nat) (x : Cell) : (putCell s c x).rollbackCounter = s.rollbackCounter := rfl
@[simp] theorem putCell_fusedKeyDigest (s : State) (c : Nat) (x : Cell) : (putCell s c x).fusedKeyDigest = s.fusedKeyDigest := rfl
@[simp] theorem putCell_fusedSeed (s : State) (c : Nat) (x : Cell) : (putCell s c x).fusedSeed = s.fusedSeed := rfl
@[simp] theorem putCell_identityKey (s : State) (c : Nat) (x : Cell) : (putCell s c x).identityKey = s.identityKey := rfl
@[simp] theorem putCell_attestKey (s : State) (c : Nat) (x : Cell) : (putCell s c x).attestKey = s.attestKey := rfl
@[simp] theorem putCell_attestCert (s : State) (c : Nat) (x : Cell) : (putCell s c x).attestCert = s.attestCert := rfl
@[simp] theorem putCell_booted (s : State) (c : Nat) (x : Cell) : (putCell s c x).booted = s.booted := rfl
@[simp] theorem putCell_selfTestPeriod (s : State) (c : Nat) (x : Cell) : (putCell s c x).selfTestPeriod = s.selfTestPeriod := rfl
@[simp] theorem putCell_alarm (s : State) (c : Nat) (x : Cell) : (putCell s c x).alarm = s.alarm := rfl
@[simp] theorem putCell_lowFlow (s : State) (c : Nat) (x : Cell) : (putCell s c x).lowFlow = s.lowFlow := rfl
@[simp] theorem putCell_modBudget (s : State) (c : Nat) (x : Cell) : (putCell s c x).modBudget = s.modBudget := rfl
@[simp] theorem putCell_tlb (s : State) (c : Nat) (x : Cell) : (putCell s c x).tlb = s.tlb := rfl
@[simp] theorem putCell_bridgeMem (s : State) (c : Nat) (x : Cell) : (putCell s c x).bridgeMem = s.bridgeMem := rfl
@[simp] theorem putCell_hostMem (s : State) (c : Nat) (x : Cell) : (putCell s c x).hostMem = s.hostMem := rfl
@[simp] theorem putCell_net (s : State) (c : Nat) (x : Cell) : (putCell s c x).net = s.net := rfl
@[simp] theorem putCell_flips (s : State) (c : Nat) (x : Cell) : (putCell s c x).flips = s.flips := rfl
@[simp] theorem putCell_outbox (s : State) (c : Nat) (x : Cell) : (putCell s c x).outbox = s.outbox := rfl
@[simp] theorem putCell_inputs (s : State) (c : Nat) (x : Cell) : (putCell s c x).inputs = s.inputs := rfl
@[simp] theorem putCell_focus (s : State) (c : Nat) (x : Cell) : (putCell s c x).focus = s.focus := rfl
@[simp] theorem putCell_tickNo (s : State) (c : Nat) (x : Cell) : (putCell s c x).tickNo = s.tickNo := rfl

@[simp] theorem modCell_mem (s : State) (c : Nat) (f : Cell → Cell) : (modCell s c f).mem = s.mem := rfl
@[simp] theorem modCell_full (s : State) (c : Nat) (f : Cell → Cell) : (modCell s c f).full = s.full := rfl
@[simp] theorem modCell_bad (s : State) (c : Nat) (f : Cell → Cell) : (modCell s c f).bad = s.bad := rfl
@[simp] theorem modCell_bays (s : State) (c : Nat) (f : Cell → Cell) : (modCell s c f).bays = s.bays := rfl
@[simp] theorem modCell_ports (s : State) (c : Nat) (f : Cell → Cell) : (modCell s c f).ports = s.ports := rfl
@[simp] theorem modCell_regions (s : State) (c : Nat) (f : Cell → Cell) : (modCell s c f).regions = s.regions := rfl
@[simp] theorem modCell_jobs (s : State) (c : Nat) (f : Cell → Cell) : (modCell s c f).jobs = s.jobs := rfl
@[simp] theorem modCell_heldLaunches (s : State) (c : Nat) (f : Cell → Cell) : (modCell s c f).heldLaunches = s.heldLaunches := rfl
@[simp] theorem modCell_catalogue (s : State) (c : Nat) (f : Cell → Cell) : (modCell s c f).catalogue = s.catalogue := rfl
@[simp] theorem modCell_exports (s : State) (c : Nat) (f : Cell → Cell) : (modCell s c f).exports = s.exports := rfl
@[simp] theorem modCell_peers (s : State) (c : Nat) (f : Cell → Cell) : (modCell s c f).peers = s.peers := rfl
@[simp] theorem modCell_rmas (s : State) (c : Nat) (f : Cell → Cell) : (modCell s c f).rmas = s.rmas := rfl
@[simp] theorem modCell_rods (s : State) (c : Nat) (f : Cell → Cell) : (modCell s c f).rods = s.rods := rfl
@[simp] theorem modCell_bridgeLog (s : State) (c : Nat) (f : Cell → Cell) : (modCell s c f).bridgeLog = s.bridgeLog := rfl
@[simp] theorem modCell_embed (s : State) (c : Nat) (f : Cell → Cell) : (modCell s c f).embed = s.embed := rfl
@[simp] theorem modCell_spines (s : State) (c : Nat) (f : Cell → Cell) : (modCell s c f).spines = s.spines := rfl
@[simp] theorem modCell_spineNext (s : State) (c : Nat) (f : Cell → Cell) : (modCell s c f).spineNext = s.spineNext := rfl
@[simp] theorem modCell_ar (s : State) (c : Nat) (f : Cell → Cell) : (modCell s c f).ar = s.ar := rfl
@[simp] theorem modCell_encapKeys (s : State) (c : Nat) (f : Cell → Cell) : (modCell s c f).encapKeys = s.encapKeys := rfl
@[simp] theorem modCell_linkKeys (s : State) (c : Nat) (f : Cell → Cell) : (modCell s c f).linkKeys = s.linkKeys := rfl
@[simp] theorem modCell_tss (s : State) (c : Nat) (f : Cell → Cell) : (modCell s c f).tss = s.tss := rfl
@[simp] theorem modCell_certRoots (s : State) (c : Nat) (f : Cell → Cell) : (modCell s c f).certRoots = s.certRoots := rfl
@[simp] theorem modCell_flashA (s : State) (c : Nat) (f : Cell → Cell) : (modCell s c f).flashA = s.flashA := rfl
@[simp] theorem modCell_flashB (s : State) (c : Nat) (f : Cell → Cell) : (modCell s c f).flashB = s.flashB := rfl
@[simp] theorem modCell_flashActiveB (s : State) (c : Nat) (f : Cell → Cell) : (modCell s c f).flashActiveB = s.flashActiveB := rfl
@[simp] theorem modCell_flashNew (s : State) (c : Nat) (f : Cell → Cell) : (modCell s c f).flashNew = s.flashNew := rfl
@[simp] theorem modCell_running (s : State) (c : Nat) (f : Cell → Cell) : (modCell s c f).running = s.running := rfl
@[simp] theorem modCell_rollbackCounter (s : State) (c : Nat) (f : Cell → Cell) : (modCell s c f).rollbackCounter = s.rollbackCounter := rfl
@[simp] theorem modCell_fusedKeyDigest (s : State) (c : Nat) (f : Cell → Cell) : (modCell s c f).fusedKeyDigest = s.fusedKeyDigest := rfl
@[simp] theorem modCell_fusedSeed (s : State) (c : Nat) (f : Cell → Cell) : (modCell s c f).fusedSeed = s.fusedSeed := rfl
@[simp] theorem modCell_identityKey (s : State) (c : Nat) (f : Cell → Cell) : (modCell s c f).identityKey = s.identityKey := rfl
@[simp] theorem modCell_attestKey (s : State) (c : Nat) (f : Cell → Cell) : (modCell s c f).attestKey = s.attestKey := rfl
@[simp] theorem modCell_attestCert (s : State) (c : Nat) (f : Cell → Cell) : (modCell s c f).attestCert = s.attestCert := rfl
@[simp] theorem modCell_booted (s : State) (c : Nat) (f : Cell → Cell) : (modCell s c f).booted = s.booted := rfl
@[simp] theorem modCell_selfTestPeriod (s : State) (c : Nat) (f : Cell → Cell) : (modCell s c f).selfTestPeriod = s.selfTestPeriod := rfl
@[simp] theorem modCell_alarm (s : State) (c : Nat) (f : Cell → Cell) : (modCell s c f).alarm = s.alarm := rfl
@[simp] theorem modCell_lowFlow (s : State) (c : Nat) (f : Cell → Cell) : (modCell s c f).lowFlow = s.lowFlow := rfl
@[simp] theorem modCell_modBudget (s : State) (c : Nat) (f : Cell → Cell) : (modCell s c f).modBudget = s.modBudget := rfl
@[simp] theorem modCell_tlb (s : State) (c : Nat) (f : Cell → Cell) : (modCell s c f).tlb = s.tlb := rfl
@[simp] theorem modCell_bridgeMem (s : State) (c : Nat) (f : Cell → Cell) : (modCell s c f).bridgeMem = s.bridgeMem := rfl
@[simp] theorem modCell_hostMem (s : State) (c : Nat) (f : Cell → Cell) : (modCell s c f).hostMem = s.hostMem := rfl
@[simp] theorem modCell_net (s : State) (c : Nat) (f : Cell → Cell) : (modCell s c f).net = s.net := rfl
@[simp] theorem modCell_flips (s : State) (c : Nat) (f : Cell → Cell) : (modCell s c f).flips = s.flips := rfl
@[simp] theorem modCell_outbox (s : State) (c : Nat) (f : Cell → Cell) : (modCell s c f).outbox = s.outbox := rfl
@[simp] theorem modCell_inputs (s : State) (c : Nat) (f : Cell → Cell) : (modCell s c f).inputs = s.inputs := rfl
@[simp] theorem modCell_focus (s : State) (c : Nat) (f : Cell → Cell) : (modCell s c f).focus = s.focus := rfl
@[simp] theorem modCell_tickNo (s : State) (c : Nat) (f : Cell → Cell) : (modCell s c f).tickNo = s.tickNo := rfl

@[simp] theorem modCore_mem (s : State) (c : Nat) (f : Core → Core) : (modCore s c f).mem = s.mem := rfl
@[simp] theorem modCore_full (s : State) (c : Nat) (f : Core → Core) : (modCore s c f).full = s.full := rfl
@[simp] theorem modCore_bad (s : State) (c : Nat) (f : Core → Core) : (modCore s c f).bad = s.bad := rfl
@[simp] theorem modCore_bays (s : State) (c : Nat) (f : Core → Core) : (modCore s c f).bays = s.bays := rfl
@[simp] theorem modCore_ports (s : State) (c : Nat) (f : Core → Core) : (modCore s c f).ports = s.ports := rfl
@[simp] theorem modCore_regions (s : State) (c : Nat) (f : Core → Core) : (modCore s c f).regions = s.regions := rfl
@[simp] theorem modCore_jobs (s : State) (c : Nat) (f : Core → Core) : (modCore s c f).jobs = s.jobs := rfl
@[simp] theorem modCore_heldLaunches (s : State) (c : Nat) (f : Core → Core) : (modCore s c f).heldLaunches = s.heldLaunches := rfl
@[simp] theorem modCore_catalogue (s : State) (c : Nat) (f : Core → Core) : (modCore s c f).catalogue = s.catalogue := rfl
@[simp] theorem modCore_exports (s : State) (c : Nat) (f : Core → Core) : (modCore s c f).exports = s.exports := rfl
@[simp] theorem modCore_peers (s : State) (c : Nat) (f : Core → Core) : (modCore s c f).peers = s.peers := rfl
@[simp] theorem modCore_rmas (s : State) (c : Nat) (f : Core → Core) : (modCore s c f).rmas = s.rmas := rfl
@[simp] theorem modCore_rods (s : State) (c : Nat) (f : Core → Core) : (modCore s c f).rods = s.rods := rfl
@[simp] theorem modCore_bridgeLog (s : State) (c : Nat) (f : Core → Core) : (modCore s c f).bridgeLog = s.bridgeLog := rfl
@[simp] theorem modCore_embed (s : State) (c : Nat) (f : Core → Core) : (modCore s c f).embed = s.embed := rfl
@[simp] theorem modCore_spines (s : State) (c : Nat) (f : Core → Core) : (modCore s c f).spines = s.spines := rfl
@[simp] theorem modCore_spineNext (s : State) (c : Nat) (f : Core → Core) : (modCore s c f).spineNext = s.spineNext := rfl
@[simp] theorem modCore_ar (s : State) (c : Nat) (f : Core → Core) : (modCore s c f).ar = s.ar := rfl
@[simp] theorem modCore_encapKeys (s : State) (c : Nat) (f : Core → Core) : (modCore s c f).encapKeys = s.encapKeys := rfl
@[simp] theorem modCore_linkKeys (s : State) (c : Nat) (f : Core → Core) : (modCore s c f).linkKeys = s.linkKeys := rfl
@[simp] theorem modCore_tss (s : State) (c : Nat) (f : Core → Core) : (modCore s c f).tss = s.tss := rfl
@[simp] theorem modCore_certRoots (s : State) (c : Nat) (f : Core → Core) : (modCore s c f).certRoots = s.certRoots := rfl
@[simp] theorem modCore_flashA (s : State) (c : Nat) (f : Core → Core) : (modCore s c f).flashA = s.flashA := rfl
@[simp] theorem modCore_flashB (s : State) (c : Nat) (f : Core → Core) : (modCore s c f).flashB = s.flashB := rfl
@[simp] theorem modCore_flashActiveB (s : State) (c : Nat) (f : Core → Core) : (modCore s c f).flashActiveB = s.flashActiveB := rfl
@[simp] theorem modCore_flashNew (s : State) (c : Nat) (f : Core → Core) : (modCore s c f).flashNew = s.flashNew := rfl
@[simp] theorem modCore_running (s : State) (c : Nat) (f : Core → Core) : (modCore s c f).running = s.running := rfl
@[simp] theorem modCore_rollbackCounter (s : State) (c : Nat) (f : Core → Core) : (modCore s c f).rollbackCounter = s.rollbackCounter := rfl
@[simp] theorem modCore_fusedKeyDigest (s : State) (c : Nat) (f : Core → Core) : (modCore s c f).fusedKeyDigest = s.fusedKeyDigest := rfl
@[simp] theorem modCore_fusedSeed (s : State) (c : Nat) (f : Core → Core) : (modCore s c f).fusedSeed = s.fusedSeed := rfl
@[simp] theorem modCore_identityKey (s : State) (c : Nat) (f : Core → Core) : (modCore s c f).identityKey = s.identityKey := rfl
@[simp] theorem modCore_attestKey (s : State) (c : Nat) (f : Core → Core) : (modCore s c f).attestKey = s.attestKey := rfl
@[simp] theorem modCore_attestCert (s : State) (c : Nat) (f : Core → Core) : (modCore s c f).attestCert = s.attestCert := rfl
@[simp] theorem modCore_booted (s : State) (c : Nat) (f : Core → Core) : (modCore s c f).booted = s.booted := rfl
@[simp] theorem modCore_selfTestPeriod (s : State) (c : Nat) (f : Core → Core) : (modCore s c f).selfTestPeriod = s.selfTestPeriod := rfl
@[simp] theorem modCore_alarm (s : State) (c : Nat) (f : Core → Core) : (modCore s c f).alarm = s.alarm := rfl
@[simp] theorem modCore_lowFlow (s : State) (c : Nat) (f : Core → Core) : (modCore s c f).lowFlow = s.lowFlow := rfl
@[simp] theorem modCore_modBudget (s : State) (c : Nat) (f : Core → Core) : (modCore s c f).modBudget = s.modBudget := rfl
@[simp] theorem modCore_tlb (s : State) (c : Nat) (f : Core → Core) : (modCore s c f).tlb = s.tlb := rfl
@[simp] theorem modCore_bridgeMem (s : State) (c : Nat) (f : Core → Core) : (modCore s c f).bridgeMem = s.bridgeMem := rfl
@[simp] theorem modCore_hostMem (s : State) (c : Nat) (f : Core → Core) : (modCore s c f).hostMem = s.hostMem := rfl
@[simp] theorem modCore_net (s : State) (c : Nat) (f : Core → Core) : (modCore s c f).net = s.net := rfl
@[simp] theorem modCore_flips (s : State) (c : Nat) (f : Core → Core) : (modCore s c f).flips = s.flips := rfl
@[simp] theorem modCore_outbox (s : State) (c : Nat) (f : Core → Core) : (modCore s c f).outbox = s.outbox := rfl
@[simp] theorem modCore_inputs (s : State) (c : Nat) (f : Core → Core) : (modCore s c f).inputs = s.inputs := rfl
@[simp] theorem modCore_focus (s : State) (c : Nat) (f : Core → Core) : (modCore s c f).focus = s.focus := rfl
@[simp] theorem modCore_tickNo (s : State) (c : Nat) (f : Core → Core) : (modCore s c f).tickNo = s.tickNo := rfl

@[simp] theorem putCtx_mem (s : State) (c x : Nat) (v : Context) : (putCtx s c x v).mem = s.mem := rfl
@[simp] theorem putCtx_full (s : State) (c x : Nat) (v : Context) : (putCtx s c x v).full = s.full := rfl
@[simp] theorem putCtx_bad (s : State) (c x : Nat) (v : Context) : (putCtx s c x v).bad = s.bad := rfl
@[simp] theorem putCtx_bays (s : State) (c x : Nat) (v : Context) : (putCtx s c x v).bays = s.bays := rfl
@[simp] theorem putCtx_ports (s : State) (c x : Nat) (v : Context) : (putCtx s c x v).ports = s.ports := rfl
@[simp] theorem putCtx_regions (s : State) (c x : Nat) (v : Context) : (putCtx s c x v).regions = s.regions := rfl
@[simp] theorem putCtx_jobs (s : State) (c x : Nat) (v : Context) : (putCtx s c x v).jobs = s.jobs := rfl
@[simp] theorem putCtx_heldLaunches (s : State) (c x : Nat) (v : Context) : (putCtx s c x v).heldLaunches = s.heldLaunches := rfl
@[simp] theorem putCtx_catalogue (s : State) (c x : Nat) (v : Context) : (putCtx s c x v).catalogue = s.catalogue := rfl
@[simp] theorem putCtx_exports (s : State) (c x : Nat) (v : Context) : (putCtx s c x v).exports = s.exports := rfl
@[simp] theorem putCtx_peers (s : State) (c x : Nat) (v : Context) : (putCtx s c x v).peers = s.peers := rfl
@[simp] theorem putCtx_rmas (s : State) (c x : Nat) (v : Context) : (putCtx s c x v).rmas = s.rmas := rfl
@[simp] theorem putCtx_rods (s : State) (c x : Nat) (v : Context) : (putCtx s c x v).rods = s.rods := rfl
@[simp] theorem putCtx_bridgeLog (s : State) (c x : Nat) (v : Context) : (putCtx s c x v).bridgeLog = s.bridgeLog := rfl
@[simp] theorem putCtx_embed (s : State) (c x : Nat) (v : Context) : (putCtx s c x v).embed = s.embed := rfl
@[simp] theorem putCtx_spines (s : State) (c x : Nat) (v : Context) : (putCtx s c x v).spines = s.spines := rfl
@[simp] theorem putCtx_spineNext (s : State) (c x : Nat) (v : Context) : (putCtx s c x v).spineNext = s.spineNext := rfl
@[simp] theorem putCtx_ar (s : State) (c x : Nat) (v : Context) : (putCtx s c x v).ar = s.ar := rfl
@[simp] theorem putCtx_encapKeys (s : State) (c x : Nat) (v : Context) : (putCtx s c x v).encapKeys = s.encapKeys := rfl
@[simp] theorem putCtx_linkKeys (s : State) (c x : Nat) (v : Context) : (putCtx s c x v).linkKeys = s.linkKeys := rfl
@[simp] theorem putCtx_tss (s : State) (c x : Nat) (v : Context) : (putCtx s c x v).tss = s.tss := rfl
@[simp] theorem putCtx_certRoots (s : State) (c x : Nat) (v : Context) : (putCtx s c x v).certRoots = s.certRoots := rfl
@[simp] theorem putCtx_flashA (s : State) (c x : Nat) (v : Context) : (putCtx s c x v).flashA = s.flashA := rfl
@[simp] theorem putCtx_flashB (s : State) (c x : Nat) (v : Context) : (putCtx s c x v).flashB = s.flashB := rfl
@[simp] theorem putCtx_flashActiveB (s : State) (c x : Nat) (v : Context) : (putCtx s c x v).flashActiveB = s.flashActiveB := rfl
@[simp] theorem putCtx_flashNew (s : State) (c x : Nat) (v : Context) : (putCtx s c x v).flashNew = s.flashNew := rfl
@[simp] theorem putCtx_running (s : State) (c x : Nat) (v : Context) : (putCtx s c x v).running = s.running := rfl
@[simp] theorem putCtx_rollbackCounter (s : State) (c x : Nat) (v : Context) : (putCtx s c x v).rollbackCounter = s.rollbackCounter := rfl
@[simp] theorem putCtx_fusedKeyDigest (s : State) (c x : Nat) (v : Context) : (putCtx s c x v).fusedKeyDigest = s.fusedKeyDigest := rfl
@[simp] theorem putCtx_fusedSeed (s : State) (c x : Nat) (v : Context) : (putCtx s c x v).fusedSeed = s.fusedSeed := rfl
@[simp] theorem putCtx_identityKey (s : State) (c x : Nat) (v : Context) : (putCtx s c x v).identityKey = s.identityKey := rfl
@[simp] theorem putCtx_attestKey (s : State) (c x : Nat) (v : Context) : (putCtx s c x v).attestKey = s.attestKey := rfl
@[simp] theorem putCtx_attestCert (s : State) (c x : Nat) (v : Context) : (putCtx s c x v).attestCert = s.attestCert := rfl
@[simp] theorem putCtx_booted (s : State) (c x : Nat) (v : Context) : (putCtx s c x v).booted = s.booted := rfl
@[simp] theorem putCtx_selfTestPeriod (s : State) (c x : Nat) (v : Context) : (putCtx s c x v).selfTestPeriod = s.selfTestPeriod := rfl
@[simp] theorem putCtx_alarm (s : State) (c x : Nat) (v : Context) : (putCtx s c x v).alarm = s.alarm := rfl
@[simp] theorem putCtx_lowFlow (s : State) (c x : Nat) (v : Context) : (putCtx s c x v).lowFlow = s.lowFlow := rfl
@[simp] theorem putCtx_modBudget (s : State) (c x : Nat) (v : Context) : (putCtx s c x v).modBudget = s.modBudget := rfl
@[simp] theorem putCtx_tlb (s : State) (c x : Nat) (v : Context) : (putCtx s c x v).tlb = s.tlb := rfl
@[simp] theorem putCtx_bridgeMem (s : State) (c x : Nat) (v : Context) : (putCtx s c x v).bridgeMem = s.bridgeMem := rfl
@[simp] theorem putCtx_hostMem (s : State) (c x : Nat) (v : Context) : (putCtx s c x v).hostMem = s.hostMem := rfl
@[simp] theorem putCtx_net (s : State) (c x : Nat) (v : Context) : (putCtx s c x v).net = s.net := rfl
@[simp] theorem putCtx_flips (s : State) (c x : Nat) (v : Context) : (putCtx s c x v).flips = s.flips := rfl
@[simp] theorem putCtx_outbox (s : State) (c x : Nat) (v : Context) : (putCtx s c x v).outbox = s.outbox := rfl
@[simp] theorem putCtx_inputs (s : State) (c x : Nat) (v : Context) : (putCtx s c x v).inputs = s.inputs := rfl
@[simp] theorem putCtx_focus (s : State) (c x : Nat) (v : Context) : (putCtx s c x v).focus = s.focus := rfl
@[simp] theorem putCtx_tickNo (s : State) (c x : Nat) (v : Context) : (putCtx s c x v).tickNo = s.tickNo := rfl

@[simp] theorem modCtx_mem (s : State) (c x : Nat) (f : Context → Context) : (modCtx s c x f).mem = s.mem := rfl
@[simp] theorem modCtx_full (s : State) (c x : Nat) (f : Context → Context) : (modCtx s c x f).full = s.full := rfl
@[simp] theorem modCtx_bad (s : State) (c x : Nat) (f : Context → Context) : (modCtx s c x f).bad = s.bad := rfl
@[simp] theorem modCtx_bays (s : State) (c x : Nat) (f : Context → Context) : (modCtx s c x f).bays = s.bays := rfl
@[simp] theorem modCtx_ports (s : State) (c x : Nat) (f : Context → Context) : (modCtx s c x f).ports = s.ports := rfl
@[simp] theorem modCtx_regions (s : State) (c x : Nat) (f : Context → Context) : (modCtx s c x f).regions = s.regions := rfl
@[simp] theorem modCtx_jobs (s : State) (c x : Nat) (f : Context → Context) : (modCtx s c x f).jobs = s.jobs := rfl
@[simp] theorem modCtx_heldLaunches (s : State) (c x : Nat) (f : Context → Context) : (modCtx s c x f).heldLaunches = s.heldLaunches := rfl
@[simp] theorem modCtx_catalogue (s : State) (c x : Nat) (f : Context → Context) : (modCtx s c x f).catalogue = s.catalogue := rfl
@[simp] theorem modCtx_exports (s : State) (c x : Nat) (f : Context → Context) : (modCtx s c x f).exports = s.exports := rfl
@[simp] theorem modCtx_peers (s : State) (c x : Nat) (f : Context → Context) : (modCtx s c x f).peers = s.peers := rfl
@[simp] theorem modCtx_rmas (s : State) (c x : Nat) (f : Context → Context) : (modCtx s c x f).rmas = s.rmas := rfl
@[simp] theorem modCtx_rods (s : State) (c x : Nat) (f : Context → Context) : (modCtx s c x f).rods = s.rods := rfl
@[simp] theorem modCtx_bridgeLog (s : State) (c x : Nat) (f : Context → Context) : (modCtx s c x f).bridgeLog = s.bridgeLog := rfl
@[simp] theorem modCtx_embed (s : State) (c x : Nat) (f : Context → Context) : (modCtx s c x f).embed = s.embed := rfl
@[simp] theorem modCtx_spines (s : State) (c x : Nat) (f : Context → Context) : (modCtx s c x f).spines = s.spines := rfl
@[simp] theorem modCtx_spineNext (s : State) (c x : Nat) (f : Context → Context) : (modCtx s c x f).spineNext = s.spineNext := rfl
@[simp] theorem modCtx_ar (s : State) (c x : Nat) (f : Context → Context) : (modCtx s c x f).ar = s.ar := rfl
@[simp] theorem modCtx_encapKeys (s : State) (c x : Nat) (f : Context → Context) : (modCtx s c x f).encapKeys = s.encapKeys := rfl
@[simp] theorem modCtx_linkKeys (s : State) (c x : Nat) (f : Context → Context) : (modCtx s c x f).linkKeys = s.linkKeys := rfl
@[simp] theorem modCtx_tss (s : State) (c x : Nat) (f : Context → Context) : (modCtx s c x f).tss = s.tss := rfl
@[simp] theorem modCtx_certRoots (s : State) (c x : Nat) (f : Context → Context) : (modCtx s c x f).certRoots = s.certRoots := rfl
@[simp] theorem modCtx_flashA (s : State) (c x : Nat) (f : Context → Context) : (modCtx s c x f).flashA = s.flashA := rfl
@[simp] theorem modCtx_flashB (s : State) (c x : Nat) (f : Context → Context) : (modCtx s c x f).flashB = s.flashB := rfl
@[simp] theorem modCtx_flashActiveB (s : State) (c x : Nat) (f : Context → Context) : (modCtx s c x f).flashActiveB = s.flashActiveB := rfl
@[simp] theorem modCtx_flashNew (s : State) (c x : Nat) (f : Context → Context) : (modCtx s c x f).flashNew = s.flashNew := rfl
@[simp] theorem modCtx_running (s : State) (c x : Nat) (f : Context → Context) : (modCtx s c x f).running = s.running := rfl
@[simp] theorem modCtx_rollbackCounter (s : State) (c x : Nat) (f : Context → Context) : (modCtx s c x f).rollbackCounter = s.rollbackCounter := rfl
@[simp] theorem modCtx_fusedKeyDigest (s : State) (c x : Nat) (f : Context → Context) : (modCtx s c x f).fusedKeyDigest = s.fusedKeyDigest := rfl
@[simp] theorem modCtx_fusedSeed (s : State) (c x : Nat) (f : Context → Context) : (modCtx s c x f).fusedSeed = s.fusedSeed := rfl
@[simp] theorem modCtx_identityKey (s : State) (c x : Nat) (f : Context → Context) : (modCtx s c x f).identityKey = s.identityKey := rfl
@[simp] theorem modCtx_attestKey (s : State) (c x : Nat) (f : Context → Context) : (modCtx s c x f).attestKey = s.attestKey := rfl
@[simp] theorem modCtx_attestCert (s : State) (c x : Nat) (f : Context → Context) : (modCtx s c x f).attestCert = s.attestCert := rfl
@[simp] theorem modCtx_booted (s : State) (c x : Nat) (f : Context → Context) : (modCtx s c x f).booted = s.booted := rfl
@[simp] theorem modCtx_selfTestPeriod (s : State) (c x : Nat) (f : Context → Context) : (modCtx s c x f).selfTestPeriod = s.selfTestPeriod := rfl
@[simp] theorem modCtx_alarm (s : State) (c x : Nat) (f : Context → Context) : (modCtx s c x f).alarm = s.alarm := rfl
@[simp] theorem modCtx_lowFlow (s : State) (c x : Nat) (f : Context → Context) : (modCtx s c x f).lowFlow = s.lowFlow := rfl
@[simp] theorem modCtx_modBudget (s : State) (c x : Nat) (f : Context → Context) : (modCtx s c x f).modBudget = s.modBudget := rfl
@[simp] theorem modCtx_tlb (s : State) (c x : Nat) (f : Context → Context) : (modCtx s c x f).tlb = s.tlb := rfl
@[simp] theorem modCtx_bridgeMem (s : State) (c x : Nat) (f : Context → Context) : (modCtx s c x f).bridgeMem = s.bridgeMem := rfl
@[simp] theorem modCtx_hostMem (s : State) (c x : Nat) (f : Context → Context) : (modCtx s c x f).hostMem = s.hostMem := rfl
@[simp] theorem modCtx_net (s : State) (c x : Nat) (f : Context → Context) : (modCtx s c x f).net = s.net := rfl
@[simp] theorem modCtx_flips (s : State) (c x : Nat) (f : Context → Context) : (modCtx s c x f).flips = s.flips := rfl
@[simp] theorem modCtx_outbox (s : State) (c x : Nat) (f : Context → Context) : (modCtx s c x f).outbox = s.outbox := rfl
@[simp] theorem modCtx_inputs (s : State) (c x : Nat) (f : Context → Context) : (modCtx s c x f).inputs = s.inputs := rfl
@[simp] theorem modCtx_focus (s : State) (c x : Nat) (f : Context → Context) : (modCtx s c x f).focus = s.focus := rfl
@[simp] theorem modCtx_tickNo (s : State) (c x : Nat) (f : Context → Context) : (modCtx s c x f).tickNo = s.tickNo := rfl

@[simp] theorem putFrame_mem (s : State) (c x : Nat) (f : Frame) : (putFrame s c x f).mem = s.mem := rfl
@[simp] theorem putFrame_full (s : State) (c x : Nat) (f : Frame) : (putFrame s c x f).full = s.full := rfl
@[simp] theorem putFrame_bad (s : State) (c x : Nat) (f : Frame) : (putFrame s c x f).bad = s.bad := rfl
@[simp] theorem putFrame_bays (s : State) (c x : Nat) (f : Frame) : (putFrame s c x f).bays = s.bays := rfl
@[simp] theorem putFrame_ports (s : State) (c x : Nat) (f : Frame) : (putFrame s c x f).ports = s.ports := rfl
@[simp] theorem putFrame_regions (s : State) (c x : Nat) (f : Frame) : (putFrame s c x f).regions = s.regions := rfl
@[simp] theorem putFrame_jobs (s : State) (c x : Nat) (f : Frame) : (putFrame s c x f).jobs = s.jobs := rfl
@[simp] theorem putFrame_heldLaunches (s : State) (c x : Nat) (f : Frame) : (putFrame s c x f).heldLaunches = s.heldLaunches := rfl
@[simp] theorem putFrame_catalogue (s : State) (c x : Nat) (f : Frame) : (putFrame s c x f).catalogue = s.catalogue := rfl
@[simp] theorem putFrame_exports (s : State) (c x : Nat) (f : Frame) : (putFrame s c x f).exports = s.exports := rfl
@[simp] theorem putFrame_peers (s : State) (c x : Nat) (f : Frame) : (putFrame s c x f).peers = s.peers := rfl
@[simp] theorem putFrame_rmas (s : State) (c x : Nat) (f : Frame) : (putFrame s c x f).rmas = s.rmas := rfl
@[simp] theorem putFrame_rods (s : State) (c x : Nat) (f : Frame) : (putFrame s c x f).rods = s.rods := rfl
@[simp] theorem putFrame_bridgeLog (s : State) (c x : Nat) (f : Frame) : (putFrame s c x f).bridgeLog = s.bridgeLog := rfl
@[simp] theorem putFrame_embed (s : State) (c x : Nat) (f : Frame) : (putFrame s c x f).embed = s.embed := rfl
@[simp] theorem putFrame_spines (s : State) (c x : Nat) (f : Frame) : (putFrame s c x f).spines = s.spines := rfl
@[simp] theorem putFrame_spineNext (s : State) (c x : Nat) (f : Frame) : (putFrame s c x f).spineNext = s.spineNext := rfl
@[simp] theorem putFrame_ar (s : State) (c x : Nat) (f : Frame) : (putFrame s c x f).ar = s.ar := rfl
@[simp] theorem putFrame_encapKeys (s : State) (c x : Nat) (f : Frame) : (putFrame s c x f).encapKeys = s.encapKeys := rfl
@[simp] theorem putFrame_linkKeys (s : State) (c x : Nat) (f : Frame) : (putFrame s c x f).linkKeys = s.linkKeys := rfl
@[simp] theorem putFrame_tss (s : State) (c x : Nat) (f : Frame) : (putFrame s c x f).tss = s.tss := rfl
@[simp] theorem putFrame_certRoots (s : State) (c x : Nat) (f : Frame) : (putFrame s c x f).certRoots = s.certRoots := rfl
@[simp] theorem putFrame_flashA (s : State) (c x : Nat) (f : Frame) : (putFrame s c x f).flashA = s.flashA := rfl
@[simp] theorem putFrame_flashB (s : State) (c x : Nat) (f : Frame) : (putFrame s c x f).flashB = s.flashB := rfl
@[simp] theorem putFrame_flashActiveB (s : State) (c x : Nat) (f : Frame) : (putFrame s c x f).flashActiveB = s.flashActiveB := rfl
@[simp] theorem putFrame_flashNew (s : State) (c x : Nat) (f : Frame) : (putFrame s c x f).flashNew = s.flashNew := rfl
@[simp] theorem putFrame_running (s : State) (c x : Nat) (f : Frame) : (putFrame s c x f).running = s.running := rfl
@[simp] theorem putFrame_rollbackCounter (s : State) (c x : Nat) (f : Frame) : (putFrame s c x f).rollbackCounter = s.rollbackCounter := rfl
@[simp] theorem putFrame_fusedKeyDigest (s : State) (c x : Nat) (f : Frame) : (putFrame s c x f).fusedKeyDigest = s.fusedKeyDigest := rfl
@[simp] theorem putFrame_fusedSeed (s : State) (c x : Nat) (f : Frame) : (putFrame s c x f).fusedSeed = s.fusedSeed := rfl
@[simp] theorem putFrame_identityKey (s : State) (c x : Nat) (f : Frame) : (putFrame s c x f).identityKey = s.identityKey := rfl
@[simp] theorem putFrame_attestKey (s : State) (c x : Nat) (f : Frame) : (putFrame s c x f).attestKey = s.attestKey := rfl
@[simp] theorem putFrame_attestCert (s : State) (c x : Nat) (f : Frame) : (putFrame s c x f).attestCert = s.attestCert := rfl
@[simp] theorem putFrame_booted (s : State) (c x : Nat) (f : Frame) : (putFrame s c x f).booted = s.booted := rfl
@[simp] theorem putFrame_selfTestPeriod (s : State) (c x : Nat) (f : Frame) : (putFrame s c x f).selfTestPeriod = s.selfTestPeriod := rfl
@[simp] theorem putFrame_alarm (s : State) (c x : Nat) (f : Frame) : (putFrame s c x f).alarm = s.alarm := rfl
@[simp] theorem putFrame_lowFlow (s : State) (c x : Nat) (f : Frame) : (putFrame s c x f).lowFlow = s.lowFlow := rfl
@[simp] theorem putFrame_modBudget (s : State) (c x : Nat) (f : Frame) : (putFrame s c x f).modBudget = s.modBudget := rfl
@[simp] theorem putFrame_tlb (s : State) (c x : Nat) (f : Frame) : (putFrame s c x f).tlb = s.tlb := rfl
@[simp] theorem putFrame_bridgeMem (s : State) (c x : Nat) (f : Frame) : (putFrame s c x f).bridgeMem = s.bridgeMem := rfl
@[simp] theorem putFrame_hostMem (s : State) (c x : Nat) (f : Frame) : (putFrame s c x f).hostMem = s.hostMem := rfl
@[simp] theorem putFrame_net (s : State) (c x : Nat) (f : Frame) : (putFrame s c x f).net = s.net := rfl
@[simp] theorem putFrame_flips (s : State) (c x : Nat) (f : Frame) : (putFrame s c x f).flips = s.flips := rfl
@[simp] theorem putFrame_outbox (s : State) (c x : Nat) (f : Frame) : (putFrame s c x f).outbox = s.outbox := rfl
@[simp] theorem putFrame_inputs (s : State) (c x : Nat) (f : Frame) : (putFrame s c x f).inputs = s.inputs := rfl
@[simp] theorem putFrame_focus (s : State) (c x : Nat) (f : Frame) : (putFrame s c x f).focus = s.focus := rfl
@[simp] theorem putFrame_tickNo (s : State) (c x : Nat) (f : Frame) : (putFrame s c x f).tickNo = s.tickNo := rfl

@[simp] theorem modBay_mem (s : State) (b : Nat) (f : Bay → Bay) : (modBay s b f).mem = s.mem := rfl
@[simp] theorem modBay_full (s : State) (b : Nat) (f : Bay → Bay) : (modBay s b f).full = s.full := rfl
@[simp] theorem modBay_bad (s : State) (b : Nat) (f : Bay → Bay) : (modBay s b f).bad = s.bad := rfl
@[simp] theorem modBay_cells (s : State) (b : Nat) (f : Bay → Bay) : (modBay s b f).cells = s.cells := rfl
@[simp] theorem modBay_ports (s : State) (b : Nat) (f : Bay → Bay) : (modBay s b f).ports = s.ports := rfl
@[simp] theorem modBay_regions (s : State) (b : Nat) (f : Bay → Bay) : (modBay s b f).regions = s.regions := rfl
@[simp] theorem modBay_jobs (s : State) (b : Nat) (f : Bay → Bay) : (modBay s b f).jobs = s.jobs := rfl
@[simp] theorem modBay_heldLaunches (s : State) (b : Nat) (f : Bay → Bay) : (modBay s b f).heldLaunches = s.heldLaunches := rfl
@[simp] theorem modBay_catalogue (s : State) (b : Nat) (f : Bay → Bay) : (modBay s b f).catalogue = s.catalogue := rfl
@[simp] theorem modBay_exports (s : State) (b : Nat) (f : Bay → Bay) : (modBay s b f).exports = s.exports := rfl
@[simp] theorem modBay_peers (s : State) (b : Nat) (f : Bay → Bay) : (modBay s b f).peers = s.peers := rfl
@[simp] theorem modBay_rmas (s : State) (b : Nat) (f : Bay → Bay) : (modBay s b f).rmas = s.rmas := rfl
@[simp] theorem modBay_rods (s : State) (b : Nat) (f : Bay → Bay) : (modBay s b f).rods = s.rods := rfl
@[simp] theorem modBay_bridgeLog (s : State) (b : Nat) (f : Bay → Bay) : (modBay s b f).bridgeLog = s.bridgeLog := rfl
@[simp] theorem modBay_embed (s : State) (b : Nat) (f : Bay → Bay) : (modBay s b f).embed = s.embed := rfl
@[simp] theorem modBay_spines (s : State) (b : Nat) (f : Bay → Bay) : (modBay s b f).spines = s.spines := rfl
@[simp] theorem modBay_spineNext (s : State) (b : Nat) (f : Bay → Bay) : (modBay s b f).spineNext = s.spineNext := rfl
@[simp] theorem modBay_ar (s : State) (b : Nat) (f : Bay → Bay) : (modBay s b f).ar = s.ar := rfl
@[simp] theorem modBay_encapKeys (s : State) (b : Nat) (f : Bay → Bay) : (modBay s b f).encapKeys = s.encapKeys := rfl
@[simp] theorem modBay_linkKeys (s : State) (b : Nat) (f : Bay → Bay) : (modBay s b f).linkKeys = s.linkKeys := rfl
@[simp] theorem modBay_tss (s : State) (b : Nat) (f : Bay → Bay) : (modBay s b f).tss = s.tss := rfl
@[simp] theorem modBay_certRoots (s : State) (b : Nat) (f : Bay → Bay) : (modBay s b f).certRoots = s.certRoots := rfl
@[simp] theorem modBay_flashA (s : State) (b : Nat) (f : Bay → Bay) : (modBay s b f).flashA = s.flashA := rfl
@[simp] theorem modBay_flashB (s : State) (b : Nat) (f : Bay → Bay) : (modBay s b f).flashB = s.flashB := rfl
@[simp] theorem modBay_flashActiveB (s : State) (b : Nat) (f : Bay → Bay) : (modBay s b f).flashActiveB = s.flashActiveB := rfl
@[simp] theorem modBay_flashNew (s : State) (b : Nat) (f : Bay → Bay) : (modBay s b f).flashNew = s.flashNew := rfl
@[simp] theorem modBay_running (s : State) (b : Nat) (f : Bay → Bay) : (modBay s b f).running = s.running := rfl
@[simp] theorem modBay_rollbackCounter (s : State) (b : Nat) (f : Bay → Bay) : (modBay s b f).rollbackCounter = s.rollbackCounter := rfl
@[simp] theorem modBay_fusedKeyDigest (s : State) (b : Nat) (f : Bay → Bay) : (modBay s b f).fusedKeyDigest = s.fusedKeyDigest := rfl
@[simp] theorem modBay_fusedSeed (s : State) (b : Nat) (f : Bay → Bay) : (modBay s b f).fusedSeed = s.fusedSeed := rfl
@[simp] theorem modBay_identityKey (s : State) (b : Nat) (f : Bay → Bay) : (modBay s b f).identityKey = s.identityKey := rfl
@[simp] theorem modBay_attestKey (s : State) (b : Nat) (f : Bay → Bay) : (modBay s b f).attestKey = s.attestKey := rfl
@[simp] theorem modBay_attestCert (s : State) (b : Nat) (f : Bay → Bay) : (modBay s b f).attestCert = s.attestCert := rfl
@[simp] theorem modBay_booted (s : State) (b : Nat) (f : Bay → Bay) : (modBay s b f).booted = s.booted := rfl
@[simp] theorem modBay_selfTestPeriod (s : State) (b : Nat) (f : Bay → Bay) : (modBay s b f).selfTestPeriod = s.selfTestPeriod := rfl
@[simp] theorem modBay_alarm (s : State) (b : Nat) (f : Bay → Bay) : (modBay s b f).alarm = s.alarm := rfl
@[simp] theorem modBay_lowFlow (s : State) (b : Nat) (f : Bay → Bay) : (modBay s b f).lowFlow = s.lowFlow := rfl
@[simp] theorem modBay_modBudget (s : State) (b : Nat) (f : Bay → Bay) : (modBay s b f).modBudget = s.modBudget := rfl
@[simp] theorem modBay_tlb (s : State) (b : Nat) (f : Bay → Bay) : (modBay s b f).tlb = s.tlb := rfl
@[simp] theorem modBay_bridgeMem (s : State) (b : Nat) (f : Bay → Bay) : (modBay s b f).bridgeMem = s.bridgeMem := rfl
@[simp] theorem modBay_hostMem (s : State) (b : Nat) (f : Bay → Bay) : (modBay s b f).hostMem = s.hostMem := rfl
@[simp] theorem modBay_net (s : State) (b : Nat) (f : Bay → Bay) : (modBay s b f).net = s.net := rfl
@[simp] theorem modBay_flips (s : State) (b : Nat) (f : Bay → Bay) : (modBay s b f).flips = s.flips := rfl
@[simp] theorem modBay_outbox (s : State) (b : Nat) (f : Bay → Bay) : (modBay s b f).outbox = s.outbox := rfl
@[simp] theorem modBay_inputs (s : State) (b : Nat) (f : Bay → Bay) : (modBay s b f).inputs = s.inputs := rfl
@[simp] theorem modBay_focus (s : State) (b : Nat) (f : Bay → Bay) : (modBay s b f).focus = s.focus := rfl
@[simp] theorem modBay_tickNo (s : State) (b : Nat) (f : Bay → Bay) : (modBay s b f).tickNo = s.tickNo := rfl

@[simp] theorem modPort_mem (s : State) (p : Nat) (f : Port → Port) : (modPort s p f).mem = s.mem := rfl
@[simp] theorem modPort_full (s : State) (p : Nat) (f : Port → Port) : (modPort s p f).full = s.full := rfl
@[simp] theorem modPort_bad (s : State) (p : Nat) (f : Port → Port) : (modPort s p f).bad = s.bad := rfl
@[simp] theorem modPort_cells (s : State) (p : Nat) (f : Port → Port) : (modPort s p f).cells = s.cells := rfl
@[simp] theorem modPort_bays (s : State) (p : Nat) (f : Port → Port) : (modPort s p f).bays = s.bays := rfl
@[simp] theorem modPort_regions (s : State) (p : Nat) (f : Port → Port) : (modPort s p f).regions = s.regions := rfl
@[simp] theorem modPort_jobs (s : State) (p : Nat) (f : Port → Port) : (modPort s p f).jobs = s.jobs := rfl
@[simp] theorem modPort_heldLaunches (s : State) (p : Nat) (f : Port → Port) : (modPort s p f).heldLaunches = s.heldLaunches := rfl
@[simp] theorem modPort_catalogue (s : State) (p : Nat) (f : Port → Port) : (modPort s p f).catalogue = s.catalogue := rfl
@[simp] theorem modPort_exports (s : State) (p : Nat) (f : Port → Port) : (modPort s p f).exports = s.exports := rfl
@[simp] theorem modPort_peers (s : State) (p : Nat) (f : Port → Port) : (modPort s p f).peers = s.peers := rfl
@[simp] theorem modPort_rmas (s : State) (p : Nat) (f : Port → Port) : (modPort s p f).rmas = s.rmas := rfl
@[simp] theorem modPort_rods (s : State) (p : Nat) (f : Port → Port) : (modPort s p f).rods = s.rods := rfl
@[simp] theorem modPort_bridgeLog (s : State) (p : Nat) (f : Port → Port) : (modPort s p f).bridgeLog = s.bridgeLog := rfl
@[simp] theorem modPort_embed (s : State) (p : Nat) (f : Port → Port) : (modPort s p f).embed = s.embed := rfl
@[simp] theorem modPort_spines (s : State) (p : Nat) (f : Port → Port) : (modPort s p f).spines = s.spines := rfl
@[simp] theorem modPort_spineNext (s : State) (p : Nat) (f : Port → Port) : (modPort s p f).spineNext = s.spineNext := rfl
@[simp] theorem modPort_ar (s : State) (p : Nat) (f : Port → Port) : (modPort s p f).ar = s.ar := rfl
@[simp] theorem modPort_encapKeys (s : State) (p : Nat) (f : Port → Port) : (modPort s p f).encapKeys = s.encapKeys := rfl
@[simp] theorem modPort_linkKeys (s : State) (p : Nat) (f : Port → Port) : (modPort s p f).linkKeys = s.linkKeys := rfl
@[simp] theorem modPort_tss (s : State) (p : Nat) (f : Port → Port) : (modPort s p f).tss = s.tss := rfl
@[simp] theorem modPort_certRoots (s : State) (p : Nat) (f : Port → Port) : (modPort s p f).certRoots = s.certRoots := rfl
@[simp] theorem modPort_flashA (s : State) (p : Nat) (f : Port → Port) : (modPort s p f).flashA = s.flashA := rfl
@[simp] theorem modPort_flashB (s : State) (p : Nat) (f : Port → Port) : (modPort s p f).flashB = s.flashB := rfl
@[simp] theorem modPort_flashActiveB (s : State) (p : Nat) (f : Port → Port) : (modPort s p f).flashActiveB = s.flashActiveB := rfl
@[simp] theorem modPort_flashNew (s : State) (p : Nat) (f : Port → Port) : (modPort s p f).flashNew = s.flashNew := rfl
@[simp] theorem modPort_running (s : State) (p : Nat) (f : Port → Port) : (modPort s p f).running = s.running := rfl
@[simp] theorem modPort_rollbackCounter (s : State) (p : Nat) (f : Port → Port) : (modPort s p f).rollbackCounter = s.rollbackCounter := rfl
@[simp] theorem modPort_fusedKeyDigest (s : State) (p : Nat) (f : Port → Port) : (modPort s p f).fusedKeyDigest = s.fusedKeyDigest := rfl
@[simp] theorem modPort_fusedSeed (s : State) (p : Nat) (f : Port → Port) : (modPort s p f).fusedSeed = s.fusedSeed := rfl
@[simp] theorem modPort_identityKey (s : State) (p : Nat) (f : Port → Port) : (modPort s p f).identityKey = s.identityKey := rfl
@[simp] theorem modPort_attestKey (s : State) (p : Nat) (f : Port → Port) : (modPort s p f).attestKey = s.attestKey := rfl
@[simp] theorem modPort_attestCert (s : State) (p : Nat) (f : Port → Port) : (modPort s p f).attestCert = s.attestCert := rfl
@[simp] theorem modPort_booted (s : State) (p : Nat) (f : Port → Port) : (modPort s p f).booted = s.booted := rfl
@[simp] theorem modPort_selfTestPeriod (s : State) (p : Nat) (f : Port → Port) : (modPort s p f).selfTestPeriod = s.selfTestPeriod := rfl
@[simp] theorem modPort_alarm (s : State) (p : Nat) (f : Port → Port) : (modPort s p f).alarm = s.alarm := rfl
@[simp] theorem modPort_lowFlow (s : State) (p : Nat) (f : Port → Port) : (modPort s p f).lowFlow = s.lowFlow := rfl
@[simp] theorem modPort_modBudget (s : State) (p : Nat) (f : Port → Port) : (modPort s p f).modBudget = s.modBudget := rfl
@[simp] theorem modPort_tlb (s : State) (p : Nat) (f : Port → Port) : (modPort s p f).tlb = s.tlb := rfl
@[simp] theorem modPort_bridgeMem (s : State) (p : Nat) (f : Port → Port) : (modPort s p f).bridgeMem = s.bridgeMem := rfl
@[simp] theorem modPort_hostMem (s : State) (p : Nat) (f : Port → Port) : (modPort s p f).hostMem = s.hostMem := rfl
@[simp] theorem modPort_net (s : State) (p : Nat) (f : Port → Port) : (modPort s p f).net = s.net := rfl
@[simp] theorem modPort_flips (s : State) (p : Nat) (f : Port → Port) : (modPort s p f).flips = s.flips := rfl
@[simp] theorem modPort_outbox (s : State) (p : Nat) (f : Port → Port) : (modPort s p f).outbox = s.outbox := rfl
@[simp] theorem modPort_inputs (s : State) (p : Nat) (f : Port → Port) : (modPort s p f).inputs = s.inputs := rfl
@[simp] theorem modPort_focus (s : State) (p : Nat) (f : Port → Port) : (modPort s p f).focus = s.focus := rfl
@[simp] theorem modPort_tickNo (s : State) (p : Nat) (f : Port → Port) : (modPort s p f).tickNo = s.tickNo := rfl

@[simp] theorem modRegion_mem (s : State) (r : Nat) (f : Region → Region) : (modRegion s r f).mem = s.mem := rfl
@[simp] theorem modRegion_full (s : State) (r : Nat) (f : Region → Region) : (modRegion s r f).full = s.full := rfl
@[simp] theorem modRegion_bad (s : State) (r : Nat) (f : Region → Region) : (modRegion s r f).bad = s.bad := rfl
@[simp] theorem modRegion_cells (s : State) (r : Nat) (f : Region → Region) : (modRegion s r f).cells = s.cells := rfl
@[simp] theorem modRegion_bays (s : State) (r : Nat) (f : Region → Region) : (modRegion s r f).bays = s.bays := rfl
@[simp] theorem modRegion_ports (s : State) (r : Nat) (f : Region → Region) : (modRegion s r f).ports = s.ports := rfl
@[simp] theorem modRegion_jobs (s : State) (r : Nat) (f : Region → Region) : (modRegion s r f).jobs = s.jobs := rfl
@[simp] theorem modRegion_heldLaunches (s : State) (r : Nat) (f : Region → Region) : (modRegion s r f).heldLaunches = s.heldLaunches := rfl
@[simp] theorem modRegion_catalogue (s : State) (r : Nat) (f : Region → Region) : (modRegion s r f).catalogue = s.catalogue := rfl
@[simp] theorem modRegion_exports (s : State) (r : Nat) (f : Region → Region) : (modRegion s r f).exports = s.exports := rfl
@[simp] theorem modRegion_peers (s : State) (r : Nat) (f : Region → Region) : (modRegion s r f).peers = s.peers := rfl
@[simp] theorem modRegion_rmas (s : State) (r : Nat) (f : Region → Region) : (modRegion s r f).rmas = s.rmas := rfl
@[simp] theorem modRegion_rods (s : State) (r : Nat) (f : Region → Region) : (modRegion s r f).rods = s.rods := rfl
@[simp] theorem modRegion_bridgeLog (s : State) (r : Nat) (f : Region → Region) : (modRegion s r f).bridgeLog = s.bridgeLog := rfl
@[simp] theorem modRegion_embed (s : State) (r : Nat) (f : Region → Region) : (modRegion s r f).embed = s.embed := rfl
@[simp] theorem modRegion_spines (s : State) (r : Nat) (f : Region → Region) : (modRegion s r f).spines = s.spines := rfl
@[simp] theorem modRegion_spineNext (s : State) (r : Nat) (f : Region → Region) : (modRegion s r f).spineNext = s.spineNext := rfl
@[simp] theorem modRegion_ar (s : State) (r : Nat) (f : Region → Region) : (modRegion s r f).ar = s.ar := rfl
@[simp] theorem modRegion_encapKeys (s : State) (r : Nat) (f : Region → Region) : (modRegion s r f).encapKeys = s.encapKeys := rfl
@[simp] theorem modRegion_linkKeys (s : State) (r : Nat) (f : Region → Region) : (modRegion s r f).linkKeys = s.linkKeys := rfl
@[simp] theorem modRegion_tss (s : State) (r : Nat) (f : Region → Region) : (modRegion s r f).tss = s.tss := rfl
@[simp] theorem modRegion_certRoots (s : State) (r : Nat) (f : Region → Region) : (modRegion s r f).certRoots = s.certRoots := rfl
@[simp] theorem modRegion_flashA (s : State) (r : Nat) (f : Region → Region) : (modRegion s r f).flashA = s.flashA := rfl
@[simp] theorem modRegion_flashB (s : State) (r : Nat) (f : Region → Region) : (modRegion s r f).flashB = s.flashB := rfl
@[simp] theorem modRegion_flashActiveB (s : State) (r : Nat) (f : Region → Region) : (modRegion s r f).flashActiveB = s.flashActiveB := rfl
@[simp] theorem modRegion_flashNew (s : State) (r : Nat) (f : Region → Region) : (modRegion s r f).flashNew = s.flashNew := rfl
@[simp] theorem modRegion_running (s : State) (r : Nat) (f : Region → Region) : (modRegion s r f).running = s.running := rfl
@[simp] theorem modRegion_rollbackCounter (s : State) (r : Nat) (f : Region → Region) : (modRegion s r f).rollbackCounter = s.rollbackCounter := rfl
@[simp] theorem modRegion_fusedKeyDigest (s : State) (r : Nat) (f : Region → Region) : (modRegion s r f).fusedKeyDigest = s.fusedKeyDigest := rfl
@[simp] theorem modRegion_fusedSeed (s : State) (r : Nat) (f : Region → Region) : (modRegion s r f).fusedSeed = s.fusedSeed := rfl
@[simp] theorem modRegion_identityKey (s : State) (r : Nat) (f : Region → Region) : (modRegion s r f).identityKey = s.identityKey := rfl
@[simp] theorem modRegion_attestKey (s : State) (r : Nat) (f : Region → Region) : (modRegion s r f).attestKey = s.attestKey := rfl
@[simp] theorem modRegion_attestCert (s : State) (r : Nat) (f : Region → Region) : (modRegion s r f).attestCert = s.attestCert := rfl
@[simp] theorem modRegion_booted (s : State) (r : Nat) (f : Region → Region) : (modRegion s r f).booted = s.booted := rfl
@[simp] theorem modRegion_selfTestPeriod (s : State) (r : Nat) (f : Region → Region) : (modRegion s r f).selfTestPeriod = s.selfTestPeriod := rfl
@[simp] theorem modRegion_alarm (s : State) (r : Nat) (f : Region → Region) : (modRegion s r f).alarm = s.alarm := rfl
@[simp] theorem modRegion_lowFlow (s : State) (r : Nat) (f : Region → Region) : (modRegion s r f).lowFlow = s.lowFlow := rfl
@[simp] theorem modRegion_modBudget (s : State) (r : Nat) (f : Region → Region) : (modRegion s r f).modBudget = s.modBudget := rfl
@[simp] theorem modRegion_tlb (s : State) (r : Nat) (f : Region → Region) : (modRegion s r f).tlb = s.tlb := rfl
@[simp] theorem modRegion_bridgeMem (s : State) (r : Nat) (f : Region → Region) : (modRegion s r f).bridgeMem = s.bridgeMem := rfl
@[simp] theorem modRegion_hostMem (s : State) (r : Nat) (f : Region → Region) : (modRegion s r f).hostMem = s.hostMem := rfl
@[simp] theorem modRegion_net (s : State) (r : Nat) (f : Region → Region) : (modRegion s r f).net = s.net := rfl
@[simp] theorem modRegion_flips (s : State) (r : Nat) (f : Region → Region) : (modRegion s r f).flips = s.flips := rfl
@[simp] theorem modRegion_outbox (s : State) (r : Nat) (f : Region → Region) : (modRegion s r f).outbox = s.outbox := rfl
@[simp] theorem modRegion_inputs (s : State) (r : Nat) (f : Region → Region) : (modRegion s r f).inputs = s.inputs := rfl
@[simp] theorem modRegion_focus (s : State) (r : Nat) (f : Region → Region) : (modRegion s r f).focus = s.focus := rfl
@[simp] theorem modRegion_tickNo (s : State) (r : Nat) (f : Region → Region) : (modRegion s r f).tickNo = s.tickNo := rfl

@[simp] theorem report_mem (s : State) (r : Report) : (report s r).mem = s.mem := rfl
@[simp] theorem report_full (s : State) (r : Report) : (report s r).full = s.full := rfl
@[simp] theorem report_bad (s : State) (r : Report) : (report s r).bad = s.bad := rfl
@[simp] theorem report_cells (s : State) (r : Report) : (report s r).cells = s.cells := rfl
@[simp] theorem report_bays (s : State) (r : Report) : (report s r).bays = s.bays := rfl
@[simp] theorem report_ports (s : State) (r : Report) : (report s r).ports = s.ports := rfl
@[simp] theorem report_regions (s : State) (r : Report) : (report s r).regions = s.regions := rfl
@[simp] theorem report_jobs (s : State) (r : Report) : (report s r).jobs = s.jobs := rfl
@[simp] theorem report_heldLaunches (s : State) (r : Report) : (report s r).heldLaunches = s.heldLaunches := rfl
@[simp] theorem report_catalogue (s : State) (r : Report) : (report s r).catalogue = s.catalogue := rfl
@[simp] theorem report_exports (s : State) (r : Report) : (report s r).exports = s.exports := rfl
@[simp] theorem report_peers (s : State) (r : Report) : (report s r).peers = s.peers := rfl
@[simp] theorem report_rmas (s : State) (r : Report) : (report s r).rmas = s.rmas := rfl
@[simp] theorem report_rods (s : State) (r : Report) : (report s r).rods = s.rods := rfl
@[simp] theorem report_bridgeLog (s : State) (r : Report) : (report s r).bridgeLog = s.bridgeLog := rfl
@[simp] theorem report_embed (s : State) (r : Report) : (report s r).embed = s.embed := rfl
@[simp] theorem report_spines (s : State) (r : Report) : (report s r).spines = s.spines := rfl
@[simp] theorem report_spineNext (s : State) (r : Report) : (report s r).spineNext = s.spineNext := rfl
@[simp] theorem report_ar (s : State) (r : Report) : (report s r).ar = s.ar := rfl
@[simp] theorem report_encapKeys (s : State) (r : Report) : (report s r).encapKeys = s.encapKeys := rfl
@[simp] theorem report_linkKeys (s : State) (r : Report) : (report s r).linkKeys = s.linkKeys := rfl
@[simp] theorem report_tss (s : State) (r : Report) : (report s r).tss = s.tss := rfl
@[simp] theorem report_certRoots (s : State) (r : Report) : (report s r).certRoots = s.certRoots := rfl
@[simp] theorem report_flashA (s : State) (r : Report) : (report s r).flashA = s.flashA := rfl
@[simp] theorem report_flashB (s : State) (r : Report) : (report s r).flashB = s.flashB := rfl
@[simp] theorem report_flashActiveB (s : State) (r : Report) : (report s r).flashActiveB = s.flashActiveB := rfl
@[simp] theorem report_flashNew (s : State) (r : Report) : (report s r).flashNew = s.flashNew := rfl
@[simp] theorem report_running (s : State) (r : Report) : (report s r).running = s.running := rfl
@[simp] theorem report_rollbackCounter (s : State) (r : Report) : (report s r).rollbackCounter = s.rollbackCounter := rfl
@[simp] theorem report_fusedKeyDigest (s : State) (r : Report) : (report s r).fusedKeyDigest = s.fusedKeyDigest := rfl
@[simp] theorem report_fusedSeed (s : State) (r : Report) : (report s r).fusedSeed = s.fusedSeed := rfl
@[simp] theorem report_identityKey (s : State) (r : Report) : (report s r).identityKey = s.identityKey := rfl
@[simp] theorem report_attestKey (s : State) (r : Report) : (report s r).attestKey = s.attestKey := rfl
@[simp] theorem report_attestCert (s : State) (r : Report) : (report s r).attestCert = s.attestCert := rfl
@[simp] theorem report_booted (s : State) (r : Report) : (report s r).booted = s.booted := rfl
@[simp] theorem report_selfTestPeriod (s : State) (r : Report) : (report s r).selfTestPeriod = s.selfTestPeriod := rfl
@[simp] theorem report_alarm (s : State) (r : Report) : (report s r).alarm = s.alarm := rfl
@[simp] theorem report_lowFlow (s : State) (r : Report) : (report s r).lowFlow = s.lowFlow := rfl
@[simp] theorem report_modBudget (s : State) (r : Report) : (report s r).modBudget = s.modBudget := rfl
@[simp] theorem report_tlb (s : State) (r : Report) : (report s r).tlb = s.tlb := rfl
@[simp] theorem report_bridgeMem (s : State) (r : Report) : (report s r).bridgeMem = s.bridgeMem := rfl
@[simp] theorem report_hostMem (s : State) (r : Report) : (report s r).hostMem = s.hostMem := rfl
@[simp] theorem report_net (s : State) (r : Report) : (report s r).net = s.net := rfl
@[simp] theorem report_flips (s : State) (r : Report) : (report s r).flips = s.flips := rfl
@[simp] theorem report_inputs (s : State) (r : Report) : (report s r).inputs = s.inputs := rfl
@[simp] theorem report_focus (s : State) (r : Report) : (report s r).focus = s.focus := rfl
@[simp] theorem report_tickNo (s : State) (r : Report) : (report s r).tickNo = s.tickNo := rfl

@[simp] theorem rawWrite_full (s : State) (k n v : Nat) : (rawWrite s k n v).full = s.full := rfl
@[simp] theorem rawWrite_bad (s : State) (k n v : Nat) : (rawWrite s k n v).bad = s.bad := rfl
@[simp] theorem rawWrite_cells (s : State) (k n v : Nat) : (rawWrite s k n v).cells = s.cells := rfl
@[simp] theorem rawWrite_bays (s : State) (k n v : Nat) : (rawWrite s k n v).bays = s.bays := rfl
@[simp] theorem rawWrite_ports (s : State) (k n v : Nat) : (rawWrite s k n v).ports = s.ports := rfl
@[simp] theorem rawWrite_regions (s : State) (k n v : Nat) : (rawWrite s k n v).regions = s.regions := rfl
@[simp] theorem rawWrite_jobs (s : State) (k n v : Nat) : (rawWrite s k n v).jobs = s.jobs := rfl
@[simp] theorem rawWrite_heldLaunches (s : State) (k n v : Nat) : (rawWrite s k n v).heldLaunches = s.heldLaunches := rfl
@[simp] theorem rawWrite_catalogue (s : State) (k n v : Nat) : (rawWrite s k n v).catalogue = s.catalogue := rfl
@[simp] theorem rawWrite_exports (s : State) (k n v : Nat) : (rawWrite s k n v).exports = s.exports := rfl
@[simp] theorem rawWrite_peers (s : State) (k n v : Nat) : (rawWrite s k n v).peers = s.peers := rfl
@[simp] theorem rawWrite_rmas (s : State) (k n v : Nat) : (rawWrite s k n v).rmas = s.rmas := rfl
@[simp] theorem rawWrite_rods (s : State) (k n v : Nat) : (rawWrite s k n v).rods = s.rods := rfl
@[simp] theorem rawWrite_bridgeLog (s : State) (k n v : Nat) : (rawWrite s k n v).bridgeLog = s.bridgeLog := rfl
@[simp] theorem rawWrite_embed (s : State) (k n v : Nat) : (rawWrite s k n v).embed = s.embed := rfl
@[simp] theorem rawWrite_spines (s : State) (k n v : Nat) : (rawWrite s k n v).spines = s.spines := rfl
@[simp] theorem rawWrite_spineNext (s : State) (k n v : Nat) : (rawWrite s k n v).spineNext = s.spineNext := rfl
@[simp] theorem rawWrite_ar (s : State) (k n v : Nat) : (rawWrite s k n v).ar = s.ar := rfl
@[simp] theorem rawWrite_encapKeys (s : State) (k n v : Nat) : (rawWrite s k n v).encapKeys = s.encapKeys := rfl
@[simp] theorem rawWrite_linkKeys (s : State) (k n v : Nat) : (rawWrite s k n v).linkKeys = s.linkKeys := rfl
@[simp] theorem rawWrite_tss (s : State) (k n v : Nat) : (rawWrite s k n v).tss = s.tss := rfl
@[simp] theorem rawWrite_certRoots (s : State) (k n v : Nat) : (rawWrite s k n v).certRoots = s.certRoots := rfl
@[simp] theorem rawWrite_flashA (s : State) (k n v : Nat) : (rawWrite s k n v).flashA = s.flashA := rfl
@[simp] theorem rawWrite_flashB (s : State) (k n v : Nat) : (rawWrite s k n v).flashB = s.flashB := rfl
@[simp] theorem rawWrite_flashActiveB (s : State) (k n v : Nat) : (rawWrite s k n v).flashActiveB = s.flashActiveB := rfl
@[simp] theorem rawWrite_flashNew (s : State) (k n v : Nat) : (rawWrite s k n v).flashNew = s.flashNew := rfl
@[simp] theorem rawWrite_running (s : State) (k n v : Nat) : (rawWrite s k n v).running = s.running := rfl
@[simp] theorem rawWrite_rollbackCounter (s : State) (k n v : Nat) : (rawWrite s k n v).rollbackCounter = s.rollbackCounter := rfl
@[simp] theorem rawWrite_fusedKeyDigest (s : State) (k n v : Nat) : (rawWrite s k n v).fusedKeyDigest = s.fusedKeyDigest := rfl
@[simp] theorem rawWrite_fusedSeed (s : State) (k n v : Nat) : (rawWrite s k n v).fusedSeed = s.fusedSeed := rfl
@[simp] theorem rawWrite_identityKey (s : State) (k n v : Nat) : (rawWrite s k n v).identityKey = s.identityKey := rfl
@[simp] theorem rawWrite_attestKey (s : State) (k n v : Nat) : (rawWrite s k n v).attestKey = s.attestKey := rfl
@[simp] theorem rawWrite_attestCert (s : State) (k n v : Nat) : (rawWrite s k n v).attestCert = s.attestCert := rfl
@[simp] theorem rawWrite_booted (s : State) (k n v : Nat) : (rawWrite s k n v).booted = s.booted := rfl
@[simp] theorem rawWrite_selfTestPeriod (s : State) (k n v : Nat) : (rawWrite s k n v).selfTestPeriod = s.selfTestPeriod := rfl
@[simp] theorem rawWrite_alarm (s : State) (k n v : Nat) : (rawWrite s k n v).alarm = s.alarm := rfl
@[simp] theorem rawWrite_lowFlow (s : State) (k n v : Nat) : (rawWrite s k n v).lowFlow = s.lowFlow := rfl
@[simp] theorem rawWrite_modBudget (s : State) (k n v : Nat) : (rawWrite s k n v).modBudget = s.modBudget := rfl
@[simp] theorem rawWrite_tlb (s : State) (k n v : Nat) : (rawWrite s k n v).tlb = s.tlb := rfl
@[simp] theorem rawWrite_bridgeMem (s : State) (k n v : Nat) : (rawWrite s k n v).bridgeMem = s.bridgeMem := rfl
@[simp] theorem rawWrite_hostMem (s : State) (k n v : Nat) : (rawWrite s k n v).hostMem = s.hostMem := rfl
@[simp] theorem rawWrite_net (s : State) (k n v : Nat) : (rawWrite s k n v).net = s.net := rfl
@[simp] theorem rawWrite_flips (s : State) (k n v : Nat) : (rawWrite s k n v).flips = s.flips := rfl
@[simp] theorem rawWrite_outbox (s : State) (k n v : Nat) : (rawWrite s k n v).outbox = s.outbox := rfl
@[simp] theorem rawWrite_inputs (s : State) (k n v : Nat) : (rawWrite s k n v).inputs = s.inputs := rfl
@[simp] theorem rawWrite_focus (s : State) (k n v : Nat) : (rawWrite s k n v).focus = s.focus := rfl
@[simp] theorem rawWrite_tickNo (s : State) (k n v : Nat) : (rawWrite s k n v).tickNo = s.tickNo := rfl

@[simp] theorem setFull_mem (s : State) (k : Nat) : (setFull s k).mem = s.mem := rfl
@[simp] theorem setFull_bad (s : State) (k : Nat) : (setFull s k).bad = s.bad := rfl
@[simp] theorem setFull_cells (s : State) (k : Nat) : (setFull s k).cells = s.cells := rfl
@[simp] theorem setFull_bays (s : State) (k : Nat) : (setFull s k).bays = s.bays := rfl
@[simp] theorem setFull_ports (s : State) (k : Nat) : (setFull s k).ports = s.ports := rfl
@[simp] theorem setFull_regions (s : State) (k : Nat) : (setFull s k).regions = s.regions := rfl
@[simp] theorem setFull_jobs (s : State) (k : Nat) : (setFull s k).jobs = s.jobs := rfl
@[simp] theorem setFull_heldLaunches (s : State) (k : Nat) : (setFull s k).heldLaunches = s.heldLaunches := rfl
@[simp] theorem setFull_catalogue (s : State) (k : Nat) : (setFull s k).catalogue = s.catalogue := rfl
@[simp] theorem setFull_exports (s : State) (k : Nat) : (setFull s k).exports = s.exports := rfl
@[simp] theorem setFull_peers (s : State) (k : Nat) : (setFull s k).peers = s.peers := rfl
@[simp] theorem setFull_rmas (s : State) (k : Nat) : (setFull s k).rmas = s.rmas := rfl
@[simp] theorem setFull_rods (s : State) (k : Nat) : (setFull s k).rods = s.rods := rfl
@[simp] theorem setFull_bridgeLog (s : State) (k : Nat) : (setFull s k).bridgeLog = s.bridgeLog := rfl
@[simp] theorem setFull_embed (s : State) (k : Nat) : (setFull s k).embed = s.embed := rfl
@[simp] theorem setFull_spines (s : State) (k : Nat) : (setFull s k).spines = s.spines := rfl
@[simp] theorem setFull_spineNext (s : State) (k : Nat) : (setFull s k).spineNext = s.spineNext := rfl
@[simp] theorem setFull_ar (s : State) (k : Nat) : (setFull s k).ar = s.ar := rfl
@[simp] theorem setFull_encapKeys (s : State) (k : Nat) : (setFull s k).encapKeys = s.encapKeys := rfl
@[simp] theorem setFull_linkKeys (s : State) (k : Nat) : (setFull s k).linkKeys = s.linkKeys := rfl
@[simp] theorem setFull_tss (s : State) (k : Nat) : (setFull s k).tss = s.tss := rfl
@[simp] theorem setFull_certRoots (s : State) (k : Nat) : (setFull s k).certRoots = s.certRoots := rfl
@[simp] theorem setFull_flashA (s : State) (k : Nat) : (setFull s k).flashA = s.flashA := rfl
@[simp] theorem setFull_flashB (s : State) (k : Nat) : (setFull s k).flashB = s.flashB := rfl
@[simp] theorem setFull_flashActiveB (s : State) (k : Nat) : (setFull s k).flashActiveB = s.flashActiveB := rfl
@[simp] theorem setFull_flashNew (s : State) (k : Nat) : (setFull s k).flashNew = s.flashNew := rfl
@[simp] theorem setFull_running (s : State) (k : Nat) : (setFull s k).running = s.running := rfl
@[simp] theorem setFull_rollbackCounter (s : State) (k : Nat) : (setFull s k).rollbackCounter = s.rollbackCounter := rfl
@[simp] theorem setFull_fusedKeyDigest (s : State) (k : Nat) : (setFull s k).fusedKeyDigest = s.fusedKeyDigest := rfl
@[simp] theorem setFull_fusedSeed (s : State) (k : Nat) : (setFull s k).fusedSeed = s.fusedSeed := rfl
@[simp] theorem setFull_identityKey (s : State) (k : Nat) : (setFull s k).identityKey = s.identityKey := rfl
@[simp] theorem setFull_attestKey (s : State) (k : Nat) : (setFull s k).attestKey = s.attestKey := rfl
@[simp] theorem setFull_attestCert (s : State) (k : Nat) : (setFull s k).attestCert = s.attestCert := rfl
@[simp] theorem setFull_booted (s : State) (k : Nat) : (setFull s k).booted = s.booted := rfl
@[simp] theorem setFull_selfTestPeriod (s : State) (k : Nat) : (setFull s k).selfTestPeriod = s.selfTestPeriod := rfl
@[simp] theorem setFull_alarm (s : State) (k : Nat) : (setFull s k).alarm = s.alarm := rfl
@[simp] theorem setFull_lowFlow (s : State) (k : Nat) : (setFull s k).lowFlow = s.lowFlow := rfl
@[simp] theorem setFull_modBudget (s : State) (k : Nat) : (setFull s k).modBudget = s.modBudget := rfl
@[simp] theorem setFull_tlb (s : State) (k : Nat) : (setFull s k).tlb = s.tlb := rfl
@[simp] theorem setFull_bridgeMem (s : State) (k : Nat) : (setFull s k).bridgeMem = s.bridgeMem := rfl
@[simp] theorem setFull_hostMem (s : State) (k : Nat) : (setFull s k).hostMem = s.hostMem := rfl
@[simp] theorem setFull_net (s : State) (k : Nat) : (setFull s k).net = s.net := rfl
@[simp] theorem setFull_flips (s : State) (k : Nat) : (setFull s k).flips = s.flips := rfl
@[simp] theorem setFull_outbox (s : State) (k : Nat) : (setFull s k).outbox = s.outbox := rfl
@[simp] theorem setFull_inputs (s : State) (k : Nat) : (setFull s k).inputs = s.inputs := rfl
@[simp] theorem setFull_focus (s : State) (k : Nat) : (setFull s k).focus = s.focus := rfl
@[simp] theorem setFull_tickNo (s : State) (k : Nat) : (setFull s k).tickNo = s.tickNo := rfl

@[simp] theorem setEmpty_mem (s : State) (k : Nat) : (setEmpty s k).mem = s.mem := rfl
@[simp] theorem setEmpty_bad (s : State) (k : Nat) : (setEmpty s k).bad = s.bad := rfl
@[simp] theorem setEmpty_cells (s : State) (k : Nat) : (setEmpty s k).cells = s.cells := rfl
@[simp] theorem setEmpty_bays (s : State) (k : Nat) : (setEmpty s k).bays = s.bays := rfl
@[simp] theorem setEmpty_ports (s : State) (k : Nat) : (setEmpty s k).ports = s.ports := rfl
@[simp] theorem setEmpty_regions (s : State) (k : Nat) : (setEmpty s k).regions = s.regions := rfl
@[simp] theorem setEmpty_jobs (s : State) (k : Nat) : (setEmpty s k).jobs = s.jobs := rfl
@[simp] theorem setEmpty_heldLaunches (s : State) (k : Nat) : (setEmpty s k).heldLaunches = s.heldLaunches := rfl
@[simp] theorem setEmpty_catalogue (s : State) (k : Nat) : (setEmpty s k).catalogue = s.catalogue := rfl
@[simp] theorem setEmpty_exports (s : State) (k : Nat) : (setEmpty s k).exports = s.exports := rfl
@[simp] theorem setEmpty_peers (s : State) (k : Nat) : (setEmpty s k).peers = s.peers := rfl
@[simp] theorem setEmpty_rmas (s : State) (k : Nat) : (setEmpty s k).rmas = s.rmas := rfl
@[simp] theorem setEmpty_rods (s : State) (k : Nat) : (setEmpty s k).rods = s.rods := rfl
@[simp] theorem setEmpty_bridgeLog (s : State) (k : Nat) : (setEmpty s k).bridgeLog = s.bridgeLog := rfl
@[simp] theorem setEmpty_embed (s : State) (k : Nat) : (setEmpty s k).embed = s.embed := rfl
@[simp] theorem setEmpty_spines (s : State) (k : Nat) : (setEmpty s k).spines = s.spines := rfl
@[simp] theorem setEmpty_spineNext (s : State) (k : Nat) : (setEmpty s k).spineNext = s.spineNext := rfl
@[simp] theorem setEmpty_ar (s : State) (k : Nat) : (setEmpty s k).ar = s.ar := rfl
@[simp] theorem setEmpty_encapKeys (s : State) (k : Nat) : (setEmpty s k).encapKeys = s.encapKeys := rfl
@[simp] theorem setEmpty_linkKeys (s : State) (k : Nat) : (setEmpty s k).linkKeys = s.linkKeys := rfl
@[simp] theorem setEmpty_tss (s : State) (k : Nat) : (setEmpty s k).tss = s.tss := rfl
@[simp] theorem setEmpty_certRoots (s : State) (k : Nat) : (setEmpty s k).certRoots = s.certRoots := rfl
@[simp] theorem setEmpty_flashA (s : State) (k : Nat) : (setEmpty s k).flashA = s.flashA := rfl
@[simp] theorem setEmpty_flashB (s : State) (k : Nat) : (setEmpty s k).flashB = s.flashB := rfl
@[simp] theorem setEmpty_flashActiveB (s : State) (k : Nat) : (setEmpty s k).flashActiveB = s.flashActiveB := rfl
@[simp] theorem setEmpty_flashNew (s : State) (k : Nat) : (setEmpty s k).flashNew = s.flashNew := rfl
@[simp] theorem setEmpty_running (s : State) (k : Nat) : (setEmpty s k).running = s.running := rfl
@[simp] theorem setEmpty_rollbackCounter (s : State) (k : Nat) : (setEmpty s k).rollbackCounter = s.rollbackCounter := rfl
@[simp] theorem setEmpty_fusedKeyDigest (s : State) (k : Nat) : (setEmpty s k).fusedKeyDigest = s.fusedKeyDigest := rfl
@[simp] theorem setEmpty_fusedSeed (s : State) (k : Nat) : (setEmpty s k).fusedSeed = s.fusedSeed := rfl
@[simp] theorem setEmpty_identityKey (s : State) (k : Nat) : (setEmpty s k).identityKey = s.identityKey := rfl
@[simp] theorem setEmpty_attestKey (s : State) (k : Nat) : (setEmpty s k).attestKey = s.attestKey := rfl
@[simp] theorem setEmpty_attestCert (s : State) (k : Nat) : (setEmpty s k).attestCert = s.attestCert := rfl
@[simp] theorem setEmpty_booted (s : State) (k : Nat) : (setEmpty s k).booted = s.booted := rfl
@[simp] theorem setEmpty_selfTestPeriod (s : State) (k : Nat) : (setEmpty s k).selfTestPeriod = s.selfTestPeriod := rfl
@[simp] theorem setEmpty_alarm (s : State) (k : Nat) : (setEmpty s k).alarm = s.alarm := rfl
@[simp] theorem setEmpty_lowFlow (s : State) (k : Nat) : (setEmpty s k).lowFlow = s.lowFlow := rfl
@[simp] theorem setEmpty_modBudget (s : State) (k : Nat) : (setEmpty s k).modBudget = s.modBudget := rfl
@[simp] theorem setEmpty_tlb (s : State) (k : Nat) : (setEmpty s k).tlb = s.tlb := rfl
@[simp] theorem setEmpty_bridgeMem (s : State) (k : Nat) : (setEmpty s k).bridgeMem = s.bridgeMem := rfl
@[simp] theorem setEmpty_hostMem (s : State) (k : Nat) : (setEmpty s k).hostMem = s.hostMem := rfl
@[simp] theorem setEmpty_net (s : State) (k : Nat) : (setEmpty s k).net = s.net := rfl
@[simp] theorem setEmpty_flips (s : State) (k : Nat) : (setEmpty s k).flips = s.flips := rfl
@[simp] theorem setEmpty_outbox (s : State) (k : Nat) : (setEmpty s k).outbox = s.outbox := rfl
@[simp] theorem setEmpty_inputs (s : State) (k : Nat) : (setEmpty s k).inputs = s.inputs := rfl
@[simp] theorem setEmpty_focus (s : State) (k : Nat) : (setEmpty s k).focus = s.focus := rfl
@[simp] theorem setEmpty_tickNo (s : State) (k : Nat) : (setEmpty s k).tickNo = s.tickNo := rfl

@[simp] theorem takeMsg_mem (s : State) (n : Nat) : (takeMsg s n).mem = s.mem := rfl
@[simp] theorem takeMsg_full (s : State) (n : Nat) : (takeMsg s n).full = s.full := rfl
@[simp] theorem takeMsg_bad (s : State) (n : Nat) : (takeMsg s n).bad = s.bad := rfl
@[simp] theorem takeMsg_cells (s : State) (n : Nat) : (takeMsg s n).cells = s.cells := rfl
@[simp] theorem takeMsg_bays (s : State) (n : Nat) : (takeMsg s n).bays = s.bays := rfl
@[simp] theorem takeMsg_ports (s : State) (n : Nat) : (takeMsg s n).ports = s.ports := rfl
@[simp] theorem takeMsg_regions (s : State) (n : Nat) : (takeMsg s n).regions = s.regions := rfl
@[simp] theorem takeMsg_jobs (s : State) (n : Nat) : (takeMsg s n).jobs = s.jobs := rfl
@[simp] theorem takeMsg_heldLaunches (s : State) (n : Nat) : (takeMsg s n).heldLaunches = s.heldLaunches := rfl
@[simp] theorem takeMsg_catalogue (s : State) (n : Nat) : (takeMsg s n).catalogue = s.catalogue := rfl
@[simp] theorem takeMsg_exports (s : State) (n : Nat) : (takeMsg s n).exports = s.exports := rfl
@[simp] theorem takeMsg_peers (s : State) (n : Nat) : (takeMsg s n).peers = s.peers := rfl
@[simp] theorem takeMsg_rmas (s : State) (n : Nat) : (takeMsg s n).rmas = s.rmas := rfl
@[simp] theorem takeMsg_rods (s : State) (n : Nat) : (takeMsg s n).rods = s.rods := rfl
@[simp] theorem takeMsg_bridgeLog (s : State) (n : Nat) : (takeMsg s n).bridgeLog = s.bridgeLog := rfl
@[simp] theorem takeMsg_embed (s : State) (n : Nat) : (takeMsg s n).embed = s.embed := rfl
@[simp] theorem takeMsg_spines (s : State) (n : Nat) : (takeMsg s n).spines = s.spines := rfl
@[simp] theorem takeMsg_spineNext (s : State) (n : Nat) : (takeMsg s n).spineNext = s.spineNext := rfl
@[simp] theorem takeMsg_ar (s : State) (n : Nat) : (takeMsg s n).ar = s.ar := rfl
@[simp] theorem takeMsg_encapKeys (s : State) (n : Nat) : (takeMsg s n).encapKeys = s.encapKeys := rfl
@[simp] theorem takeMsg_linkKeys (s : State) (n : Nat) : (takeMsg s n).linkKeys = s.linkKeys := rfl
@[simp] theorem takeMsg_tss (s : State) (n : Nat) : (takeMsg s n).tss = s.tss := rfl
@[simp] theorem takeMsg_certRoots (s : State) (n : Nat) : (takeMsg s n).certRoots = s.certRoots := rfl
@[simp] theorem takeMsg_flashA (s : State) (n : Nat) : (takeMsg s n).flashA = s.flashA := rfl
@[simp] theorem takeMsg_flashB (s : State) (n : Nat) : (takeMsg s n).flashB = s.flashB := rfl
@[simp] theorem takeMsg_flashActiveB (s : State) (n : Nat) : (takeMsg s n).flashActiveB = s.flashActiveB := rfl
@[simp] theorem takeMsg_flashNew (s : State) (n : Nat) : (takeMsg s n).flashNew = s.flashNew := rfl
@[simp] theorem takeMsg_running (s : State) (n : Nat) : (takeMsg s n).running = s.running := rfl
@[simp] theorem takeMsg_rollbackCounter (s : State) (n : Nat) : (takeMsg s n).rollbackCounter = s.rollbackCounter := rfl
@[simp] theorem takeMsg_fusedKeyDigest (s : State) (n : Nat) : (takeMsg s n).fusedKeyDigest = s.fusedKeyDigest := rfl
@[simp] theorem takeMsg_fusedSeed (s : State) (n : Nat) : (takeMsg s n).fusedSeed = s.fusedSeed := rfl
@[simp] theorem takeMsg_identityKey (s : State) (n : Nat) : (takeMsg s n).identityKey = s.identityKey := rfl
@[simp] theorem takeMsg_attestKey (s : State) (n : Nat) : (takeMsg s n).attestKey = s.attestKey := rfl
@[simp] theorem takeMsg_attestCert (s : State) (n : Nat) : (takeMsg s n).attestCert = s.attestCert := rfl
@[simp] theorem takeMsg_booted (s : State) (n : Nat) : (takeMsg s n).booted = s.booted := rfl
@[simp] theorem takeMsg_selfTestPeriod (s : State) (n : Nat) : (takeMsg s n).selfTestPeriod = s.selfTestPeriod := rfl
@[simp] theorem takeMsg_alarm (s : State) (n : Nat) : (takeMsg s n).alarm = s.alarm := rfl
@[simp] theorem takeMsg_lowFlow (s : State) (n : Nat) : (takeMsg s n).lowFlow = s.lowFlow := rfl
@[simp] theorem takeMsg_modBudget (s : State) (n : Nat) : (takeMsg s n).modBudget = s.modBudget := rfl
@[simp] theorem takeMsg_tlb (s : State) (n : Nat) : (takeMsg s n).tlb = s.tlb := rfl
@[simp] theorem takeMsg_bridgeMem (s : State) (n : Nat) : (takeMsg s n).bridgeMem = s.bridgeMem := rfl
@[simp] theorem takeMsg_hostMem (s : State) (n : Nat) : (takeMsg s n).hostMem = s.hostMem := rfl
@[simp] theorem takeMsg_flips (s : State) (n : Nat) : (takeMsg s n).flips = s.flips := rfl
@[simp] theorem takeMsg_outbox (s : State) (n : Nat) : (takeMsg s n).outbox = s.outbox := rfl
@[simp] theorem takeMsg_inputs (s : State) (n : Nat) : (takeMsg s n).inputs = s.inputs := rfl
@[simp] theorem takeMsg_focus (s : State) (n : Nat) : (takeMsg s n).focus = s.focus := rfl
@[simp] theorem takeMsg_tickNo (s : State) (n : Nat) : (takeMsg s n).tickNo = s.tickNo := rfl

@[simp] theorem parkMsg_mem (s : State) (m : Msg) : (parkMsg s m).mem = s.mem := rfl
@[simp] theorem parkMsg_full (s : State) (m : Msg) : (parkMsg s m).full = s.full := rfl
@[simp] theorem parkMsg_bad (s : State) (m : Msg) : (parkMsg s m).bad = s.bad := rfl
@[simp] theorem parkMsg_cells (s : State) (m : Msg) : (parkMsg s m).cells = s.cells := rfl
@[simp] theorem parkMsg_bays (s : State) (m : Msg) : (parkMsg s m).bays = s.bays := rfl
@[simp] theorem parkMsg_ports (s : State) (m : Msg) : (parkMsg s m).ports = s.ports := rfl
@[simp] theorem parkMsg_regions (s : State) (m : Msg) : (parkMsg s m).regions = s.regions := rfl
@[simp] theorem parkMsg_jobs (s : State) (m : Msg) : (parkMsg s m).jobs = s.jobs := rfl
@[simp] theorem parkMsg_heldLaunches (s : State) (m : Msg) : (parkMsg s m).heldLaunches = s.heldLaunches := rfl
@[simp] theorem parkMsg_catalogue (s : State) (m : Msg) : (parkMsg s m).catalogue = s.catalogue := rfl
@[simp] theorem parkMsg_exports (s : State) (m : Msg) : (parkMsg s m).exports = s.exports := rfl
@[simp] theorem parkMsg_peers (s : State) (m : Msg) : (parkMsg s m).peers = s.peers := rfl
@[simp] theorem parkMsg_rmas (s : State) (m : Msg) : (parkMsg s m).rmas = s.rmas := rfl
@[simp] theorem parkMsg_rods (s : State) (m : Msg) : (parkMsg s m).rods = s.rods := rfl
@[simp] theorem parkMsg_bridgeLog (s : State) (m : Msg) : (parkMsg s m).bridgeLog = s.bridgeLog := rfl
@[simp] theorem parkMsg_embed (s : State) (m : Msg) : (parkMsg s m).embed = s.embed := rfl
@[simp] theorem parkMsg_spines (s : State) (m : Msg) : (parkMsg s m).spines = s.spines := rfl
@[simp] theorem parkMsg_spineNext (s : State) (m : Msg) : (parkMsg s m).spineNext = s.spineNext := rfl
@[simp] theorem parkMsg_ar (s : State) (m : Msg) : (parkMsg s m).ar = s.ar := rfl
@[simp] theorem parkMsg_encapKeys (s : State) (m : Msg) : (parkMsg s m).encapKeys = s.encapKeys := rfl
@[simp] theorem parkMsg_linkKeys (s : State) (m : Msg) : (parkMsg s m).linkKeys = s.linkKeys := rfl
@[simp] theorem parkMsg_tss (s : State) (m : Msg) : (parkMsg s m).tss = s.tss := rfl
@[simp] theorem parkMsg_certRoots (s : State) (m : Msg) : (parkMsg s m).certRoots = s.certRoots := rfl
@[simp] theorem parkMsg_flashA (s : State) (m : Msg) : (parkMsg s m).flashA = s.flashA := rfl
@[simp] theorem parkMsg_flashB (s : State) (m : Msg) : (parkMsg s m).flashB = s.flashB := rfl
@[simp] theorem parkMsg_flashActiveB (s : State) (m : Msg) : (parkMsg s m).flashActiveB = s.flashActiveB := rfl
@[simp] theorem parkMsg_flashNew (s : State) (m : Msg) : (parkMsg s m).flashNew = s.flashNew := rfl
@[simp] theorem parkMsg_running (s : State) (m : Msg) : (parkMsg s m).running = s.running := rfl
@[simp] theorem parkMsg_rollbackCounter (s : State) (m : Msg) : (parkMsg s m).rollbackCounter = s.rollbackCounter := rfl
@[simp] theorem parkMsg_fusedKeyDigest (s : State) (m : Msg) : (parkMsg s m).fusedKeyDigest = s.fusedKeyDigest := rfl
@[simp] theorem parkMsg_fusedSeed (s : State) (m : Msg) : (parkMsg s m).fusedSeed = s.fusedSeed := rfl
@[simp] theorem parkMsg_identityKey (s : State) (m : Msg) : (parkMsg s m).identityKey = s.identityKey := rfl
@[simp] theorem parkMsg_attestKey (s : State) (m : Msg) : (parkMsg s m).attestKey = s.attestKey := rfl
@[simp] theorem parkMsg_attestCert (s : State) (m : Msg) : (parkMsg s m).attestCert = s.attestCert := rfl
@[simp] theorem parkMsg_booted (s : State) (m : Msg) : (parkMsg s m).booted = s.booted := rfl
@[simp] theorem parkMsg_selfTestPeriod (s : State) (m : Msg) : (parkMsg s m).selfTestPeriod = s.selfTestPeriod := rfl
@[simp] theorem parkMsg_alarm (s : State) (m : Msg) : (parkMsg s m).alarm = s.alarm := rfl
@[simp] theorem parkMsg_lowFlow (s : State) (m : Msg) : (parkMsg s m).lowFlow = s.lowFlow := rfl
@[simp] theorem parkMsg_modBudget (s : State) (m : Msg) : (parkMsg s m).modBudget = s.modBudget := rfl
@[simp] theorem parkMsg_tlb (s : State) (m : Msg) : (parkMsg s m).tlb = s.tlb := rfl
@[simp] theorem parkMsg_bridgeMem (s : State) (m : Msg) : (parkMsg s m).bridgeMem = s.bridgeMem := rfl
@[simp] theorem parkMsg_hostMem (s : State) (m : Msg) : (parkMsg s m).hostMem = s.hostMem := rfl
@[simp] theorem parkMsg_flips (s : State) (m : Msg) : (parkMsg s m).flips = s.flips := rfl
@[simp] theorem parkMsg_outbox (s : State) (m : Msg) : (parkMsg s m).outbox = s.outbox := rfl
@[simp] theorem parkMsg_inputs (s : State) (m : Msg) : (parkMsg s m).inputs = s.inputs := rfl
@[simp] theorem parkMsg_focus (s : State) (m : Msg) : (parkMsg s m).focus = s.focus := rfl
@[simp] theorem parkMsg_tickNo (s : State) (m : Msg) : (parkMsg s m).tickNo = s.tickNo := rfl

@[simp] theorem putMsg_mem (s : State) (n : Nat) (m : Msg) : (putMsg s n m).mem = s.mem := rfl
@[simp] theorem putMsg_full (s : State) (n : Nat) (m : Msg) : (putMsg s n m).full = s.full := rfl
@[simp] theorem putMsg_bad (s : State) (n : Nat) (m : Msg) : (putMsg s n m).bad = s.bad := rfl
@[simp] theorem putMsg_cells (s : State) (n : Nat) (m : Msg) : (putMsg s n m).cells = s.cells := rfl
@[simp] theorem putMsg_bays (s : State) (n : Nat) (m : Msg) : (putMsg s n m).bays = s.bays := rfl
@[simp] theorem putMsg_ports (s : State) (n : Nat) (m : Msg) : (putMsg s n m).ports = s.ports := rfl
@[simp] theorem putMsg_regions (s : State) (n : Nat) (m : Msg) : (putMsg s n m).regions = s.regions := rfl
@[simp] theorem putMsg_jobs (s : State) (n : Nat) (m : Msg) : (putMsg s n m).jobs = s.jobs := rfl
@[simp] theorem putMsg_heldLaunches (s : State) (n : Nat) (m : Msg) : (putMsg s n m).heldLaunches = s.heldLaunches := rfl
@[simp] theorem putMsg_catalogue (s : State) (n : Nat) (m : Msg) : (putMsg s n m).catalogue = s.catalogue := rfl
@[simp] theorem putMsg_exports (s : State) (n : Nat) (m : Msg) : (putMsg s n m).exports = s.exports := rfl
@[simp] theorem putMsg_peers (s : State) (n : Nat) (m : Msg) : (putMsg s n m).peers = s.peers := rfl
@[simp] theorem putMsg_rmas (s : State) (n : Nat) (m : Msg) : (putMsg s n m).rmas = s.rmas := rfl
@[simp] theorem putMsg_rods (s : State) (n : Nat) (m : Msg) : (putMsg s n m).rods = s.rods := rfl
@[simp] theorem putMsg_bridgeLog (s : State) (n : Nat) (m : Msg) : (putMsg s n m).bridgeLog = s.bridgeLog := rfl
@[simp] theorem putMsg_embed (s : State) (n : Nat) (m : Msg) : (putMsg s n m).embed = s.embed := rfl
@[simp] theorem putMsg_spines (s : State) (n : Nat) (m : Msg) : (putMsg s n m).spines = s.spines := rfl
@[simp] theorem putMsg_spineNext (s : State) (n : Nat) (m : Msg) : (putMsg s n m).spineNext = s.spineNext := rfl
@[simp] theorem putMsg_ar (s : State) (n : Nat) (m : Msg) : (putMsg s n m).ar = s.ar := rfl
@[simp] theorem putMsg_encapKeys (s : State) (n : Nat) (m : Msg) : (putMsg s n m).encapKeys = s.encapKeys := rfl
@[simp] theorem putMsg_linkKeys (s : State) (n : Nat) (m : Msg) : (putMsg s n m).linkKeys = s.linkKeys := rfl
@[simp] theorem putMsg_tss (s : State) (n : Nat) (m : Msg) : (putMsg s n m).tss = s.tss := rfl
@[simp] theorem putMsg_certRoots (s : State) (n : Nat) (m : Msg) : (putMsg s n m).certRoots = s.certRoots := rfl
@[simp] theorem putMsg_flashA (s : State) (n : Nat) (m : Msg) : (putMsg s n m).flashA = s.flashA := rfl
@[simp] theorem putMsg_flashB (s : State) (n : Nat) (m : Msg) : (putMsg s n m).flashB = s.flashB := rfl
@[simp] theorem putMsg_flashActiveB (s : State) (n : Nat) (m : Msg) : (putMsg s n m).flashActiveB = s.flashActiveB := rfl
@[simp] theorem putMsg_flashNew (s : State) (n : Nat) (m : Msg) : (putMsg s n m).flashNew = s.flashNew := rfl
@[simp] theorem putMsg_running (s : State) (n : Nat) (m : Msg) : (putMsg s n m).running = s.running := rfl
@[simp] theorem putMsg_rollbackCounter (s : State) (n : Nat) (m : Msg) : (putMsg s n m).rollbackCounter = s.rollbackCounter := rfl
@[simp] theorem putMsg_fusedKeyDigest (s : State) (n : Nat) (m : Msg) : (putMsg s n m).fusedKeyDigest = s.fusedKeyDigest := rfl
@[simp] theorem putMsg_fusedSeed (s : State) (n : Nat) (m : Msg) : (putMsg s n m).fusedSeed = s.fusedSeed := rfl
@[simp] theorem putMsg_identityKey (s : State) (n : Nat) (m : Msg) : (putMsg s n m).identityKey = s.identityKey := rfl
@[simp] theorem putMsg_attestKey (s : State) (n : Nat) (m : Msg) : (putMsg s n m).attestKey = s.attestKey := rfl
@[simp] theorem putMsg_attestCert (s : State) (n : Nat) (m : Msg) : (putMsg s n m).attestCert = s.attestCert := rfl
@[simp] theorem putMsg_booted (s : State) (n : Nat) (m : Msg) : (putMsg s n m).booted = s.booted := rfl
@[simp] theorem putMsg_selfTestPeriod (s : State) (n : Nat) (m : Msg) : (putMsg s n m).selfTestPeriod = s.selfTestPeriod := rfl
@[simp] theorem putMsg_alarm (s : State) (n : Nat) (m : Msg) : (putMsg s n m).alarm = s.alarm := rfl
@[simp] theorem putMsg_lowFlow (s : State) (n : Nat) (m : Msg) : (putMsg s n m).lowFlow = s.lowFlow := rfl
@[simp] theorem putMsg_modBudget (s : State) (n : Nat) (m : Msg) : (putMsg s n m).modBudget = s.modBudget := rfl
@[simp] theorem putMsg_tlb (s : State) (n : Nat) (m : Msg) : (putMsg s n m).tlb = s.tlb := rfl
@[simp] theorem putMsg_bridgeMem (s : State) (n : Nat) (m : Msg) : (putMsg s n m).bridgeMem = s.bridgeMem := rfl
@[simp] theorem putMsg_hostMem (s : State) (n : Nat) (m : Msg) : (putMsg s n m).hostMem = s.hostMem := rfl
@[simp] theorem putMsg_flips (s : State) (n : Nat) (m : Msg) : (putMsg s n m).flips = s.flips := rfl
@[simp] theorem putMsg_outbox (s : State) (n : Nat) (m : Msg) : (putMsg s n m).outbox = s.outbox := rfl
@[simp] theorem putMsg_inputs (s : State) (n : Nat) (m : Msg) : (putMsg s n m).inputs = s.inputs := rfl
@[simp] theorem putMsg_focus (s : State) (n : Nat) (m : Msg) : (putMsg s n m).focus = s.focus := rfl
@[simp] theorem putMsg_tickNo (s : State) (n : Nat) (m : Msg) : (putMsg s n m).tickNo = s.tickNo := rfl

@[simp] theorem spend_mem (s : State) (c femto : Nat) : (spend s c femto).mem = s.mem := rfl
@[simp] theorem spend_full (s : State) (c femto : Nat) : (spend s c femto).full = s.full := rfl
@[simp] theorem spend_bad (s : State) (c femto : Nat) : (spend s c femto).bad = s.bad := rfl
@[simp] theorem spend_bays (s : State) (c femto : Nat) : (spend s c femto).bays = s.bays := rfl
@[simp] theorem spend_ports (s : State) (c femto : Nat) : (spend s c femto).ports = s.ports := rfl
@[simp] theorem spend_regions (s : State) (c femto : Nat) : (spend s c femto).regions = s.regions := rfl
@[simp] theorem spend_jobs (s : State) (c femto : Nat) : (spend s c femto).jobs = s.jobs := rfl
@[simp] theorem spend_heldLaunches (s : State) (c femto : Nat) : (spend s c femto).heldLaunches = s.heldLaunches := rfl
@[simp] theorem spend_catalogue (s : State) (c femto : Nat) : (spend s c femto).catalogue = s.catalogue := rfl
@[simp] theorem spend_exports (s : State) (c femto : Nat) : (spend s c femto).exports = s.exports := rfl
@[simp] theorem spend_peers (s : State) (c femto : Nat) : (spend s c femto).peers = s.peers := rfl
@[simp] theorem spend_rmas (s : State) (c femto : Nat) : (spend s c femto).rmas = s.rmas := rfl
@[simp] theorem spend_rods (s : State) (c femto : Nat) : (spend s c femto).rods = s.rods := rfl
@[simp] theorem spend_bridgeLog (s : State) (c femto : Nat) : (spend s c femto).bridgeLog = s.bridgeLog := rfl
@[simp] theorem spend_embed (s : State) (c femto : Nat) : (spend s c femto).embed = s.embed := rfl
@[simp] theorem spend_spines (s : State) (c femto : Nat) : (spend s c femto).spines = s.spines := rfl
@[simp] theorem spend_spineNext (s : State) (c femto : Nat) : (spend s c femto).spineNext = s.spineNext := rfl
@[simp] theorem spend_ar (s : State) (c femto : Nat) : (spend s c femto).ar = s.ar := rfl
@[simp] theorem spend_encapKeys (s : State) (c femto : Nat) : (spend s c femto).encapKeys = s.encapKeys := rfl
@[simp] theorem spend_linkKeys (s : State) (c femto : Nat) : (spend s c femto).linkKeys = s.linkKeys := rfl
@[simp] theorem spend_tss (s : State) (c femto : Nat) : (spend s c femto).tss = s.tss := rfl
@[simp] theorem spend_certRoots (s : State) (c femto : Nat) : (spend s c femto).certRoots = s.certRoots := rfl
@[simp] theorem spend_flashA (s : State) (c femto : Nat) : (spend s c femto).flashA = s.flashA := rfl
@[simp] theorem spend_flashB (s : State) (c femto : Nat) : (spend s c femto).flashB = s.flashB := rfl
@[simp] theorem spend_flashActiveB (s : State) (c femto : Nat) : (spend s c femto).flashActiveB = s.flashActiveB := rfl
@[simp] theorem spend_flashNew (s : State) (c femto : Nat) : (spend s c femto).flashNew = s.flashNew := rfl
@[simp] theorem spend_running (s : State) (c femto : Nat) : (spend s c femto).running = s.running := rfl
@[simp] theorem spend_rollbackCounter (s : State) (c femto : Nat) : (spend s c femto).rollbackCounter = s.rollbackCounter := rfl
@[simp] theorem spend_fusedKeyDigest (s : State) (c femto : Nat) : (spend s c femto).fusedKeyDigest = s.fusedKeyDigest := rfl
@[simp] theorem spend_fusedSeed (s : State) (c femto : Nat) : (spend s c femto).fusedSeed = s.fusedSeed := rfl
@[simp] theorem spend_identityKey (s : State) (c femto : Nat) : (spend s c femto).identityKey = s.identityKey := rfl
@[simp] theorem spend_attestKey (s : State) (c femto : Nat) : (spend s c femto).attestKey = s.attestKey := rfl
@[simp] theorem spend_attestCert (s : State) (c femto : Nat) : (spend s c femto).attestCert = s.attestCert := rfl
@[simp] theorem spend_booted (s : State) (c femto : Nat) : (spend s c femto).booted = s.booted := rfl
@[simp] theorem spend_selfTestPeriod (s : State) (c femto : Nat) : (spend s c femto).selfTestPeriod = s.selfTestPeriod := rfl
@[simp] theorem spend_alarm (s : State) (c femto : Nat) : (spend s c femto).alarm = s.alarm := rfl
@[simp] theorem spend_lowFlow (s : State) (c femto : Nat) : (spend s c femto).lowFlow = s.lowFlow := rfl
@[simp] theorem spend_modBudget (s : State) (c femto : Nat) : (spend s c femto).modBudget = s.modBudget := rfl
@[simp] theorem spend_tlb (s : State) (c femto : Nat) : (spend s c femto).tlb = s.tlb := rfl
@[simp] theorem spend_bridgeMem (s : State) (c femto : Nat) : (spend s c femto).bridgeMem = s.bridgeMem := rfl
@[simp] theorem spend_hostMem (s : State) (c femto : Nat) : (spend s c femto).hostMem = s.hostMem := rfl
@[simp] theorem spend_net (s : State) (c femto : Nat) : (spend s c femto).net = s.net := rfl
@[simp] theorem spend_flips (s : State) (c femto : Nat) : (spend s c femto).flips = s.flips := rfl
@[simp] theorem spend_outbox (s : State) (c femto : Nat) : (spend s c femto).outbox = s.outbox := rfl
@[simp] theorem spend_inputs (s : State) (c femto : Nat) : (spend s c femto).inputs = s.inputs := rfl
@[simp] theorem spend_focus (s : State) (c femto : Nat) : (spend s c femto).focus = s.focus := rfl
@[simp] theorem spend_tickNo (s : State) (c femto : Nat) : (spend s c femto).tickNo = s.tickNo := rfl

@[simp] theorem spendIssue_mem (s : State) (c femto : Nat) : (spendIssue s c femto).mem = s.mem := rfl
@[simp] theorem spendIssue_full (s : State) (c femto : Nat) : (spendIssue s c femto).full = s.full := rfl
@[simp] theorem spendIssue_bad (s : State) (c femto : Nat) : (spendIssue s c femto).bad = s.bad := rfl
@[simp] theorem spendIssue_bays (s : State) (c femto : Nat) : (spendIssue s c femto).bays = s.bays := rfl
@[simp] theorem spendIssue_ports (s : State) (c femto : Nat) : (spendIssue s c femto).ports = s.ports := rfl
@[simp] theorem spendIssue_regions (s : State) (c femto : Nat) : (spendIssue s c femto).regions = s.regions := rfl
@[simp] theorem spendIssue_jobs (s : State) (c femto : Nat) : (spendIssue s c femto).jobs = s.jobs := rfl
@[simp] theorem spendIssue_heldLaunches (s : State) (c femto : Nat) : (spendIssue s c femto).heldLaunches = s.heldLaunches := rfl
@[simp] theorem spendIssue_catalogue (s : State) (c femto : Nat) : (spendIssue s c femto).catalogue = s.catalogue := rfl
@[simp] theorem spendIssue_exports (s : State) (c femto : Nat) : (spendIssue s c femto).exports = s.exports := rfl
@[simp] theorem spendIssue_peers (s : State) (c femto : Nat) : (spendIssue s c femto).peers = s.peers := rfl
@[simp] theorem spendIssue_rmas (s : State) (c femto : Nat) : (spendIssue s c femto).rmas = s.rmas := rfl
@[simp] theorem spendIssue_rods (s : State) (c femto : Nat) : (spendIssue s c femto).rods = s.rods := rfl
@[simp] theorem spendIssue_bridgeLog (s : State) (c femto : Nat) : (spendIssue s c femto).bridgeLog = s.bridgeLog := rfl
@[simp] theorem spendIssue_embed (s : State) (c femto : Nat) : (spendIssue s c femto).embed = s.embed := rfl
@[simp] theorem spendIssue_spines (s : State) (c femto : Nat) : (spendIssue s c femto).spines = s.spines := rfl
@[simp] theorem spendIssue_spineNext (s : State) (c femto : Nat) : (spendIssue s c femto).spineNext = s.spineNext := rfl
@[simp] theorem spendIssue_ar (s : State) (c femto : Nat) : (spendIssue s c femto).ar = s.ar := rfl
@[simp] theorem spendIssue_encapKeys (s : State) (c femto : Nat) : (spendIssue s c femto).encapKeys = s.encapKeys := rfl
@[simp] theorem spendIssue_linkKeys (s : State) (c femto : Nat) : (spendIssue s c femto).linkKeys = s.linkKeys := rfl
@[simp] theorem spendIssue_tss (s : State) (c femto : Nat) : (spendIssue s c femto).tss = s.tss := rfl
@[simp] theorem spendIssue_certRoots (s : State) (c femto : Nat) : (spendIssue s c femto).certRoots = s.certRoots := rfl
@[simp] theorem spendIssue_flashA (s : State) (c femto : Nat) : (spendIssue s c femto).flashA = s.flashA := rfl
@[simp] theorem spendIssue_flashB (s : State) (c femto : Nat) : (spendIssue s c femto).flashB = s.flashB := rfl
@[simp] theorem spendIssue_flashActiveB (s : State) (c femto : Nat) : (spendIssue s c femto).flashActiveB = s.flashActiveB := rfl
@[simp] theorem spendIssue_flashNew (s : State) (c femto : Nat) : (spendIssue s c femto).flashNew = s.flashNew := rfl
@[simp] theorem spendIssue_running (s : State) (c femto : Nat) : (spendIssue s c femto).running = s.running := rfl
@[simp] theorem spendIssue_rollbackCounter (s : State) (c femto : Nat) : (spendIssue s c femto).rollbackCounter = s.rollbackCounter := rfl
@[simp] theorem spendIssue_fusedKeyDigest (s : State) (c femto : Nat) : (spendIssue s c femto).fusedKeyDigest = s.fusedKeyDigest := rfl
@[simp] theorem spendIssue_fusedSeed (s : State) (c femto : Nat) : (spendIssue s c femto).fusedSeed = s.fusedSeed := rfl
@[simp] theorem spendIssue_identityKey (s : State) (c femto : Nat) : (spendIssue s c femto).identityKey = s.identityKey := rfl
@[simp] theorem spendIssue_attestKey (s : State) (c femto : Nat) : (spendIssue s c femto).attestKey = s.attestKey := rfl
@[simp] theorem spendIssue_attestCert (s : State) (c femto : Nat) : (spendIssue s c femto).attestCert = s.attestCert := rfl
@[simp] theorem spendIssue_booted (s : State) (c femto : Nat) : (spendIssue s c femto).booted = s.booted := rfl
@[simp] theorem spendIssue_selfTestPeriod (s : State) (c femto : Nat) : (spendIssue s c femto).selfTestPeriod = s.selfTestPeriod := rfl
@[simp] theorem spendIssue_alarm (s : State) (c femto : Nat) : (spendIssue s c femto).alarm = s.alarm := rfl
@[simp] theorem spendIssue_lowFlow (s : State) (c femto : Nat) : (spendIssue s c femto).lowFlow = s.lowFlow := rfl
@[simp] theorem spendIssue_modBudget (s : State) (c femto : Nat) : (spendIssue s c femto).modBudget = s.modBudget := rfl
@[simp] theorem spendIssue_tlb (s : State) (c femto : Nat) : (spendIssue s c femto).tlb = s.tlb := rfl
@[simp] theorem spendIssue_bridgeMem (s : State) (c femto : Nat) : (spendIssue s c femto).bridgeMem = s.bridgeMem := rfl
@[simp] theorem spendIssue_hostMem (s : State) (c femto : Nat) : (spendIssue s c femto).hostMem = s.hostMem := rfl
@[simp] theorem spendIssue_net (s : State) (c femto : Nat) : (spendIssue s c femto).net = s.net := rfl
@[simp] theorem spendIssue_flips (s : State) (c femto : Nat) : (spendIssue s c femto).flips = s.flips := rfl
@[simp] theorem spendIssue_outbox (s : State) (c femto : Nat) : (spendIssue s c femto).outbox = s.outbox := rfl
@[simp] theorem spendIssue_inputs (s : State) (c femto : Nat) : (spendIssue s c femto).inputs = s.inputs := rfl
@[simp] theorem spendIssue_focus (s : State) (c femto : Nat) : (spendIssue s c femto).focus = s.focus := rfl
@[simp] theorem spendIssue_tickNo (s : State) (c femto : Nat) : (spendIssue s c femto).tickNo = s.tickNo := rfl

/-! ### Cores, contexts and frames after an update -/

@[simp] theorem cellOf_putCell (s : State) (c : Nat) (x : Cell) : cellOf (putCell s c x) c = x :=
  Tbl.get_put_same _ _ _ _

theorem cellOf_putCell_other (s : State) (c d : Nat) (x : Cell) (h : d ≠ c) : cellOf (putCell s c x) d = cellOf s d :=
  Tbl.get_put_other _ _ _ _ _ h

@[simp] theorem cellOf_modCell (s : State) (c : Nat) (f : Cell → Cell) : cellOf (modCell s c f) c = f (cellOf s c) :=
  cellOf_putCell _ _ _

theorem cellOf_modCell_other (s : State) (c d : Nat) (f : Cell → Cell) (h : d ≠ c) : cellOf (modCell s c f) d = cellOf s d :=
  cellOf_putCell_other _ _ _ _ h

@[simp] theorem cellOf_modCore (s : State) (c : Nat) (f : Core → Core) :
    cellOf (modCore s c f) c = { cellOf s c with core := f (cellOf s c).core } := cellOf_modCell _ _ _

theorem cellOf_modCore_other (s : State) (c d : Nat) (f : Core → Core) (h : d ≠ c) : cellOf (modCore s c f) d = cellOf s d :=
  cellOf_modCell_other _ _ _ _ h

@[simp] theorem coreOf_modCore (s : State) (c : Nat) (f : Core → Core) : coreOf (modCore s c f) c = f (coreOf s c) := by
  simp [coreOf]

theorem coreOf_modCore_other (s : State) (c d : Nat) (f : Core → Core) (h : d ≠ c) : coreOf (modCore s c f) d = coreOf s d := by
  simp [coreOf, cellOf_modCore_other _ _ _ _ h]

@[simp] theorem ctxOf_putCtx (s : State) (c x : Nat) (v : Context) : ctxOf (putCtx s c x v) c x = v := by
  simp [ctxOf, putCtx]

theorem ctxOf_putCtx_other (s : State) (c x d y : Nat) (v : Context) (h : ¬(d = c ∧ y = x)) :
    ctxOf (putCtx s c x v) d y = ctxOf s d y := by
  by_cases hd : d = c
  · subst hd
    have hy : y ≠ x := fun e => h ⟨rfl, e⟩
    simp [ctxOf, putCtx, Tbl.get_put_other _ _ _ _ _ hy]
  · simp [ctxOf, putCtx, coreOf_modCore_other _ _ _ _ hd]

@[simp] theorem ctxOf_modCtx (s : State) (c x : Nat) (f : Context → Context) : ctxOf (modCtx s c x f) c x = f (ctxOf s c x) :=
  ctxOf_putCtx _ _ _ _

theorem ctxOf_modCtx_other (s : State) (c x d y : Nat) (f : Context → Context) (h : ¬(d = c ∧ y = x)) :
    ctxOf (modCtx s c x f) d y = ctxOf s d y := ctxOf_putCtx_other _ _ _ _ _ _ h

@[simp] theorem ctxOf_putFrame (s : State) (c x : Nat) (f : Frame) :
    ctxOf (putFrame s c x f) c x = { ctxOf s c x with frame := some f } := ctxOf_modCtx _ _ _ _

theorem ctxOf_putFrame_other (s : State) (c x d y : Nat) (f : Frame) (h : ¬(d = c ∧ y = x)) :
    ctxOf (putFrame s c x f) d y = ctxOf s d y := ctxOf_modCtx_other _ _ _ _ _ _ h

theorem cellOf_putCtx_other (s : State) (c x d : Nat) (v : Context) (h : d ≠ c) : cellOf (putCtx s c x v) d = cellOf s d :=
  cellOf_modCore_other _ _ _ _ h

/-- A change to a core that leaves its contexts leaves every context of the machine. -/
theorem ctxOf_modCore (s : State) (c d y : Nat) (f : Core → Core) (h : ∀ k, (f k).ctxs = k.ctxs) :
    ctxOf (modCore s c f) d y = ctxOf s d y := by
  by_cases hd : d = c
  · subst hd; simp [ctxOf, h]
  · simp [ctxOf, coreOf_modCore_other _ _ _ _ hd]

/-- A change to a cell that leaves its saved part leaves every context of the machine. -/
theorem ctxOf_modCell (s : State) (c d y : Nat) (f : Cell → Cell) (h : ∀ k, (f k).core = k.core) :
    ctxOf (modCell s c f) d y = ctxOf s d y := by
  by_cases hd : d = c
  · subst hd; simp [ctxOf, coreOf, h]
  · simp [ctxOf, coreOf, cellOf_modCell_other _ _ _ _ hd]

@[simp] theorem bayAt_modBay (s : State) (b : Nat) (f : Bay → Bay) : bayAt (modBay s b f) b = f (bayAt s b) :=
  Tbl.get_put_same _ _ _ _

theorem bayAt_modBay_other (s : State) (b d : Nat) (f : Bay → Bay) (h : d ≠ b) : bayAt (modBay s b f) d = bayAt s d :=
  Tbl.get_put_other _ _ _ _ _ h

@[simp] theorem portAt_modPort (s : State) (p : Nat) (f : Port → Port) : portAt (modPort s p f) p = f (portAt s p) :=
  Tbl.get_put_same _ _ _ _

theorem portAt_modPort_other (s : State) (p d : Nat) (f : Port → Port) (h : d ≠ p) : portAt (modPort s p f) d = portAt s d :=
  Tbl.get_put_other _ _ _ _ _ h

@[simp] theorem regionAt_modRegion (s : State) (r : Nat) (f : Region → Region) :
    regionAt (modRegion s r f) r = f (regionAt s r) := Tbl.get_put_same _ _ _ _

theorem regionAt_modRegion_other (s : State) (r d : Nat) (f : Region → Region) (h : d ≠ r) :
    regionAt (modRegion s r f) d = regionAt s d := Tbl.get_put_other _ _ _ _ _ h

end Sys2Proof.Machine
end

