-- ==== Sys2Proof/Laws/Settle.lean ====
section
/-! SUPPORT. What the start of waiting blocks after a step can do (`settleCore`): nothing outside the contexts, the ready times and the
arrival counter of one core, the reports, the core's energy accumulator and count of uncorrectable SRAM events, and the bays' counts of
uncorrectable words, and nothing to a context that holds a frame or does not run. -/

namespace Sys2Proof.Machine

open Sys2Proof

/-- A context that a settling step does not touch: it holds a frame, or it neither runs nor handles a trap, or has no next block. -/
def Context.still (v : Context) : Bool :=
  v.frame.isSome || !(v.st == .running || v.st == .trapped) || v.pc.isNone

/-- `t` follows from `s` by starting blocks on core `c`. -/
structure Settles (s t : State) (c : Nat) : Prop where
  fields : t = { s with cells := t.cells, outbox := t.outbox, bays := t.bays }
  bays : ∀ b, bayAt t b = { bayAt s b with uncorr := (bayAt t b).uncorr }
  cells : ∀ d, d ≠ c → cellOf t d = cellOf s d
  cell : cellOf t c = { cellOf s c with
    energyAcc := (cellOf t c).energyAcc
    sramErrs := (cellOf t c).sramErrs
    core := { coreOf s c with ctxs := (coreOf t c).ctxs, readyAt := (coreOf t c).readyAt, stamp := (coreOf t c).stamp } }
  still : ∀ x, (ctxOf s c x).still = true → ctxOf t c x = ctxOf s c x
  high : ∀ x, 4 ≤ x → ctxOf t c x = ctxOf s c x
  lasting : ∀ x, (ctxOf t c x).lasting = (ctxOf s c x).lasting
  outbox : ∃ l, t.outbox = s.outbox ++ l

theorem Settles.refl (s : State) (c : Nat) : Settles s s c :=
  ⟨rfl, fun _ => rfl, fun _ _ => rfl, rfl, fun _ _ => rfl, fun _ _ => rfl, fun _ => rfl, [], by simp⟩

theorem Settles.trans {s t u : State} {c : Nat} (h : Settles s t c) (k : Settles t u c) : Settles s u c where
  fields := by rw [k.fields, h.fields]
  bays b := by rw [k.bays b, h.bays b]
  cells d hd := by rw [k.cells d hd, h.cells d hd]
  cell := by
    have hk := k.cell
    simp only [coreOf] at hk ⊢
    rw [hk, h.cell]
    simp [coreOf]
  still x hx := by
    have h1 := h.still x hx
    rw [k.still x (by rw [h1]; exact hx), h1]
  high x hx := by rw [k.high x hx, h.high x hx]
  lasting x := by rw [k.lasting x, h.lasting x]
  outbox := by
    obtain ⟨l, hl⟩ := h.outbox
    obtain ⟨l', hl'⟩ := k.outbox
    exact ⟨l ++ l', by rw [hl', hl, List.append_assoc]⟩

theorem ctxOf_core (s : State) (c x : Nat) : ctxOf s c x = Tbl.get {} (cellOf s c).core.ctxs x := rfl

/-- Replacing a user context that wants a frame settles, when its lasting part stays. -/
theorem settles_putCtx (s : State) (c x : Nat) (v : Context) (hx : x < 4) (hs : (ctxOf s c x).still = false)
    (hv : v.lasting = (ctxOf s c x).lasting) : Settles s (putCtx s c x v) c where
  fields := rfl
  bays _ := rfl
  cells d hd := cellOf_putCtx_other _ _ _ _ _ hd
  cell := by simp [putCtx, coreOf]
  still y hy := by
    by_cases e : y = x
    · subst e; rw [hs] at hy; exact absurd hy (by decide)
    · exact ctxOf_putCtx_other _ _ _ _ _ _ (fun h => e h.2)
  high y hy := ctxOf_putCtx_other _ _ _ _ _ _ (fun h => by omega)
  lasting y := by
    by_cases e : y = x
    · subst e; rw [ctxOf_putCtx, hv]
    · rw [ctxOf_putCtx_other _ _ _ _ _ _ (fun h => e h.2)]
  outbox := ⟨[], by simp⟩

theorem settles_report (s : State) (c : Nat) (r : Report) : Settles s (report s r) c :=
  ⟨rfl, fun _ => rfl, fun _ _ => rfl, rfl, fun _ _ => rfl, fun _ _ => rfl, fun _ => rfl, [r], rfl⟩

/-- A count of the core's uncorrectable SRAM events settles. -/
theorem settles_sramErrs (s : State) (c : Nat) : Settles s (modCell s c fun x => { x with sramErrs := x.sramErrs + 1 }) c := by
  refine ⟨rfl, fun _ => rfl, fun d hd => cellOf_modCell_other _ _ _ _ hd, ?_, fun _ _ => ?_, fun _ _ => ?_, fun _ => ?_, [], by simp⟩ <;>
    simp [coreOf, ctxOf]

/-- A count of a bay's uncorrectable events settles on every core. -/
theorem settles_uncorr (s : State) (b c : Nat) : Settles s (modBay s b fun b => { b with uncorr := b.uncorr + 1 }) c := by
  refine ⟨rfl, fun d => ?_, fun _ _ => rfl, rfl, fun _ _ => rfl, fun _ _ => rfl, fun _ => rfl, [], by simp [modBay]⟩
  by_cases e : d = b
  · subst e; rw [bayAt_modBay]
  · rw [bayAt_modBay_other _ _ _ _ e]

/-- A count of an uncorrectable word of a core settles there. -/
theorem settles_noteEcc (s : State) (c : Nat) (k : Cause) : Settles s (noteEcc s c k) c := by
  unfold noteEcc noteUncorr
  split
  · split
    · exact (settles_sramErrs s c).trans (settles_uncorr _ _ _)
    · exact Settles.refl _ _
  · exact Settles.refl _ _

theorem ctxOf_noteEcc (s : State) (d : Nat) (k : Cause) (c x : Nat) : ctxOf (noteEcc s d k) c x = ctxOf s c x := by
  unfold noteEcc noteUncorr
  split
  · split
    · exact ctxOf_modCell s d c x (fun k => { k with sramErrs := k.sramErrs + 1 }) fun _ => rfl
    · rfl
  · rfl

/-- A change to the ready times and the arrival counter alone settles. -/
theorem settles_modCore (s : State) (c : Nat) (f : Core → Core)
    (h : ∀ k, f k = { k with readyAt := (f k).readyAt, stamp := (f k).stamp }) : Settles s (modCore s c f) c where
  fields := rfl
  bays _ := rfl
  cells d hd := cellOf_modCore_other _ _ _ _ hd
  cell := by
    rw [cellOf_modCore, coreOf_modCore, coreOf]
    have := h (cellOf s c).core
    rw [this]
  still y _ := ctxOf_modCore _ _ _ _ _ fun k => by rw [h k]
  high y _ := ctxOf_modCore _ _ _ _ _ fun k => by rw [h k]
  lasting y := by rw [ctxOf_modCore _ _ _ _ _ fun k => by rw [h k]]
  outbox := ⟨[], by simp⟩

theorem settles_refreshReady (s : State) (c : Nat) : Settles s (refreshReady s c) c := by
  unfold refreshReady
  exact settles_modCore _ _ _ fun _ => rfl

theorem settles_nextStamp (s : State) (c : Nat) : Settles s (nextStamp s c).1 c := by
  unfold nextStamp
  exact settles_modCore s c (fun k => { k with stamp := k.stamp + 1 }) fun _ => rfl

/-- Counting an event changes the event counter of one context and nothing else. -/
theorem countEvent_eq (s : State) (c x ev n : Nat) : ∃ w u, countEvent s c x ev n = s ∨
    countEvent s c x ev n = putCtx s c x { ctxOf s c x with evcnt := w, evNow := u } := by
  unfold countEvent
  simp only
  split
  · exact ⟨_, _, Or.inr rfl⟩
  · exact ⟨0, 0, Or.inl rfl⟩

theorem settles_countEvent (s : State) (c x ev n : Nat) (hx : x < 4) (hs : (ctxOf s c x).still = false) :
    Settles s (countEvent s c x ev n) c := by
  obtain ⟨w, u, h | h⟩ := countEvent_eq s c x ev n
  · rw [h]; exact Settles.refl _ _
  · rw [h]; exact settles_putCtx _ _ _ _ hx hs rfl

theorem still_countEvent (s : State) (c x ev n : Nat) : (ctxOf (countEvent s c x ev n) c x).still = (ctxOf s c x).still := by
  obtain ⟨w, u, h | h⟩ := countEvent_eq s c x ev n
  · rw [h]
  · rw [h, ctxOf_putCtx]; rfl

theorem settles_trapEntry (s : State) (c x : Nat) (cause : Cause) (tb ta ti : Word) (r k : Option Nat) (hx : x < 4)
    (hs : (ctxOf s c x).still = false) : Settles s (trapEntry s c x cause tb ta ti r k) c := by
  unfold trapEntry
  simp only
  split
  · refine Settles.trans ?_ (settles_report _ _ _)
    exact settles_putCtx s c x _ hx hs rfl
  · exact settles_putCtx s c x _ hx hs rfl

/-- The energy of a fetch settles. -/
theorem settles_spendFetch (s : State) (c : Nat) (g : Except BFault Frame) : Settles s (spendFetch s c g) c := by
  unfold spendFetch spend
  split
  · refine ⟨rfl, fun _ => rfl, fun d hd => cellOf_modCell_other _ _ _ _ hd, ?_, fun _ _ => ?_, fun _ _ => ?_, fun _ => ?_, [], by simp⟩ <;>
      simp [coreOf, ctxOf]
  · exact Settles.refl _ _

theorem ctxOf_spendFetch (s : State) (c : Nat) (g : Except BFault Frame) (x : Nat) : ctxOf (spendFetch s c g) c x = ctxOf s c x := by
  unfold spendFetch spend
  split
  · simp [coreOf, ctxOf]
  · rfl

theorem still_wants (s : State) (c x : Nat) (h : wantsFrame s c x = true) : (ctxOf s c x).still = false := by
  simp only [wantsFrame, Bool.and_eq_true] at h
  obtain ⟨⟨⟨h1, h2⟩, h3⟩, -⟩ := h
  have hp : (ctxOf s c x).pc.isNone = false := by cases hq : (ctxOf s c x).pc <;> simp_all
  have hf : (ctxOf s c x).frame.isSome = false := by cases hq : (ctxOf s c x).frame <;> simp_all
  simp [Context.still, h1, hp, hf]

/-- The beginning of a fetched block settles (R32, R139). -/
theorem settles_beginBlock (s : State) (c x hdr : Nat) (keep : List Frame) (g : Except BFault Frame) (hx : x < 4)
    (hs : (ctxOf s c x).still = false) : Settles s (beginBlock s c x hdr keep g) c := by
  unfold beginBlock
  split
  · exact settles_putCtx s c x _ hx hs rfl
  · rename_i e
    have es : (ctxOf (noteEcc s c e.cause) c x).still = false := by rw [ctxOf_noteEcc]; exact hs
    have fs : (ctxOf (countEvent (noteEcc s c e.cause) c x 4 1) c x).still = false := by rw [still_countEvent]; exact es
    refine (settles_noteEcc s c e.cause).trans ((settles_countEvent _ c x 4 1 hx es).trans ((settles_countEvent _ c x 5 _ hx fs).trans
      (settles_trapEntry _ _ _ _ _ _ _ _ _ hx ?_)))
    rw [still_countEvent]; exact fs

theorem settles_startBlock (s : State) (c x : Nat) (hx : x < 4) (hs : (ctxOf s c x).still = false) :
    Settles s (startBlock s c x) c := by
  unfold startBlock
  simp only
  split
  · exact Settles.refl _ _
  · rename_i hdr hpc
    have h1 := settles_nextStamp s c
    have e1 : ctxOf (nextStamp s c).1 c x = ctxOf s c x := ctxOf_modCore _ _ _ _ _ fun _ => rfl
    have s1 : (ctxOf (nextStamp s c).1 c x).still = false := by rw [e1, hs]
    have lost : ∀ n u, Settles s u c → (ctxOf u c x).still = false →
        Settles s (if 0 < n then countEvent u c x 5 n else u) c ∧
          (ctxOf (if 0 < n then countEvent u c x 5 n else u) c x).still = false := by
      intro n u hu us
      by_cases hn : 0 < n
      · rw [if_pos hn]
        exact ⟨hu.trans (settles_countEvent _ _ _ _ _ hx us), by rw [still_countEvent]; exact us⟩
      · rw [if_neg hn]; exact ⟨hu, us⟩
    have fed : ∀ (b : Bool) g u, Settles s u c → (ctxOf u c x).still = false →
        Settles s (if b then u else spendFetch u c g) c ∧ (ctxOf (if b then u else spendFetch u c g) c x).still = false := by
      intro b g u hu us
      cases b with
      | true => exact ⟨hu, us⟩
      | false => exact ⟨hu.trans (settles_spendFetch _ _ _), by rw [if_neg (by decide), ctxOf_spendFetch]; exact us⟩
    have both := fun n b g => fed b g _ (lost n _ h1 s1).1 (lost n _ h1 s1).2
    exact (both _ _ _).1.trans (settles_beginBlock _ c x hdr _ _ hx (both _ _ _).2)

theorem firstClaim_some (s : State) (c x : Nat) (h : firstClaim s c = some x) : x < 4 ∧ wantsFrame s c x = true := by
  have key : ∀ (l : List Nat) (b : Option Nat), (∀ y ∈ l, y < 4) → (∀ y, b = some y → y < 4 ∧ wantsFrame s c y = true) →
      ∀ x, l.foldl (fun best x => if wantsFrame s c x then
          match best with
          | none => some x
          | some y => if (ctxOf s c x).waitSince < (ctxOf s c y).waitSince then some x else some y
        else best) b = some x → x < 4 ∧ wantsFrame s c x = true := by
    intro l
    induction l with
    | nil => intro b _ hb x hx; exact hb x hx
    | cons a l ih =>
      intro b hl hb x hx
      refine ih _ (fun y hy => hl y (List.mem_cons_of_mem _ hy)) ?_ x hx
      intro y hy
      have ha := hl a List.mem_cons_self
      simp only at hy
      split at hy
      · rename_i hw
        split at hy
        · cases hy; exact ⟨ha, hw⟩
        · split at hy
          · cases hy; exact ⟨ha, hw⟩
          · cases hy; exact hb _ rfl
      · exact hb y hy
  exact key userCtxs none (by decide) (by intro y hy; cases hy) x h

theorem settles_claimFrames (n : Nat) (s : State) (c : Nat) : Settles s (claimFrames n s c) c := by
  induction n generalizing s with
  | zero => exact Settles.refl _ _
  | succ n ih =>
    unfold claimFrames
    split
    · exact Settles.refl _ _
    · rename_i x hx
      obtain ⟨h4, hw⟩ := firstClaim_some s c x hx
      have room : ∀ b : Bool, Settles s (if b then claimFrames n (startBlock s c x) c else s) c := by
        intro b
        cases b with
        | false => exact Settles.refl _ _
        | true => exact (settles_startBlock s c x h4 (still_wants s c x hw)).trans (ih _)
      exact room _

theorem decodesOn_iff (s : State) (c : Nat) : decodesOn s c = true ↔
    ∀ x f n e, x < 5 → (ctxOf s c x).frame = some f → f.badWord = some (n, e) → f.fetched ≤ 32 * n := by
  have mem : ∀ x, x ∈ allCtxs ↔ x < 5 := by intro x; simp [allCtxs]; omega
  unfold decodesOn
  simp only [List.all_eq_true, mem]
  constructor
  · intro h x f n e hx hf hb
    have := h x hx
    rw [hf] at this
    simp only [hb] at this
    simpa using this
  · intro h x hx
    split
    · rename_i f hf
      split
      · rename_i n e hb
        simpa using h x f n e hx hf hb
      · rfl
    · rfl

/-- No block faults for a word when none that its fetch has brought does. -/
theorem lateDecodes_none (s : State) (c : Nat) (hd : decodesOn s c = true) : lateDecodes s c = s := by
  have h := (decodesOn_iff s c).1 hd
  have due : ∀ x, x < 5 → dueWord s c x = none := by
    intro x hx
    unfold dueWord
    split
    · rename_i f hf
      split
      · rename_i n e hb
        have := h x f n e hx hf hb
        rw [if_neg (by omega)]
      · rfl
    · rfl
  simp [lateDecodes, allCtxs, due]

/-- Everything that the start of waiting blocks can do where no block faults for a word that its fetch has brought. -/
theorem settles_settleCore (s : State) (c : Nat) (h : decodesOn s c = true) : Settles s (settleCore s c) c := by
  unfold settleCore
  rw [lateDecodes_none s c h]
  exact (settles_refreshReady s c).trans (settles_claimFrames 12 _ c)

end Sys2Proof.Machine
end

