-- ==== Sys2Proof/Laws/Fire.lean ====
section
/-! SUPPORT. What the firing of an instruction can do: its own change to the frame, the departure of a complete block's reply
operation, and the start of waiting blocks. -/

namespace Sys2Proof.Machine

open Sys2Proof

/-- `t` follows from `s` by sending messages from core `c` and marking a waiting operation of context `x` as sent. -/
structure Departs (s t : State) (c x : Nat) : Prop where
  fields : t = { s with cells := t.cells, net := t.net }
  cells : ∀ d, d ≠ c → cellOf t d = cellOf s d
  cyc : (cellOf t c).cyc = (cellOf s c).cyc
  core : coreOf t c = { coreOf s c with ctxs := (coreOf t c).ctxs }
  other : ∀ y, y ≠ x → ctxOf t c y = ctxOf s c y
  frame : ∃ g : List Waiting → List Waiting,
    ctxOf t c x = { ctxOf s c x with frame := (ctxOf s c x).frame.map fun f => { f with waits := g f.waits } }
  net : ∃ l, t.net = s.net ++ l

theorem Departs.refl (s : State) (c x : Nat) : Departs s s c x :=
  ⟨rfl, fun _ _ => rfl, rfl, rfl, fun _ _ => rfl, ⟨id, by cases h : (ctxOf s c x).frame <;> simp [← h]⟩, [], by simp⟩

theorem postMsg_fields (s : State) (m : Msg) : postMsg s m = { s with cells := (postMsg s m).cells, net := (postMsg s m).net } := by
  simp only [postMsg]
  split <;> rfl

theorem postMsg_net (s : State) (m : Msg) : ∃ l, (postMsg s m).net = s.net ++ l := by
  simp only [postMsg]
  split <;> exact ⟨_, rfl⟩

theorem postMsg_cells (s : State) (m : Msg) (d : Nat) (h : d ≠ m.src) : cellOf (postMsg s m) d = cellOf s d := by
  simp only [postMsg]
  split
  · rw [cellOf_modCell_other _ _ _ _ h]; rfl
  · rfl

theorem countSent_core (m : Msg) (x : Cell) : (countSent m x).core = x.core ∧ (countSent m x).cyc = x.cyc := by
  unfold countSent
  dsimp only
  split <;> split <;> (try split) <;> exact ⟨rfl, rfl⟩

theorem postMsg_core (s : State) (m : Msg) (d : Nat) : coreOf (postMsg s m) d = coreOf s d := by
  by_cases hd : d = m.src
  · subst hd
    simp only [postMsg]
    split
    · simp only [coreOf, cellOf_modCell, countSent_core]
      rfl
    · rfl
  · simp only [coreOf, postMsg_cells s m d hd]

theorem postMsg_cyc (s : State) (m : Msg) (d : Nat) : (cellOf (postMsg s m) d).cyc = (cellOf s d).cyc := by
  by_cases hd : d = m.src
  · subst hd
    simp only [postMsg]
    split
    · simp only [cellOf_modCell, countSent_core]
      rfl
    · rfl
  · rw [postMsg_cells s m d hd]

theorem ctxOf_postMsg (s : State) (m : Msg) (d y : Nat) : ctxOf (postMsg s m) d y = ctxOf s d y := by
  simp only [ctxOf, postMsg_core]

/-- Sending messages from one core leaves every context, and every other core. -/
theorem posts_facts (c : Nat) (l : List (Nat × Body)) (s : State) :
    let t := l.foldl (fun s m => post s c m.1 0 m.2) s
    t = { s with cells := t.cells, net := t.net } ∧ (∀ d, d ≠ c → cellOf t d = cellOf s d) ∧ (∀ d, coreOf t d = coreOf s d) ∧
      (∀ d, (cellOf t d).cyc = (cellOf s d).cyc) ∧ ∃ n, t.net = s.net ++ n := by
  induction l generalizing s with
  | nil => exact ⟨rfl, fun _ _ => rfl, fun _ => rfl, fun _ => rfl, [], by simp⟩
  | cons m l ih =>
    obtain ⟨h1, h2, h3, h5, n, h4⟩ := ih (post s c m.1 0 m.2)
    obtain ⟨k, hk⟩ := postMsg_net s { src := c, dst := m.1, at_ := c, vc := 0, body := m.2 }
    simp only [List.foldl_cons]
    refine ⟨?_, ?_, ?_, ?_, k ++ n, ?_⟩
    · rw [h1, post, postMsg_fields]
    · intro d hd
      rw [h2 d hd, post, postMsg_cells _ _ _ hd]
    · intro d
      rw [h3 d, post, postMsg_core]
    · intro d
      rw [h5 d, post, postMsg_cyc]
    · rw [h4, post, hk, List.append_assoc]

/-- Everything that the departure of a block's reply operation can do. -/
theorem departs_departReply (s : State) (c x : Nat) : Departs s (departReply s c x) c x := by
  unfold departReply
  split
  · exact Departs.refl _ _ _
  · rename_i f hf
    split
    · exact Departs.refl _ _ _
    · rename_i w hw
      obtain ⟨h1, h2, h3, h5, h4⟩ := posts_facts c w.unsent
        (putFrame s c x { f with waits := f.waits.map fun u => if u.slot = w.slot then { u with unsent := [] } else u })
      refine ⟨?_, ?_, ?_, ?_, ?_, ?_, ?_⟩
      · rw [h1]; rfl
      · intro d hd
        rw [h2 d hd, putFrame, modCtx, cellOf_putCtx_other _ _ _ _ _ hd]
      · rw [h5 c]; simp [putFrame, modCtx, putCtx, modCore]
      · rw [h3, putFrame, modCtx, putCtx, coreOf_modCore]
      · intro y hy
        simp only [ctxOf, h3]
        exact ctxOf_putFrame_other _ _ _ _ _ _ fun h => hy h.2
      · refine ⟨fun l => l.map fun u => if u.slot = w.slot then { u with unsent := [] } else u, ?_⟩
        simp only [ctxOf, h3]
        have := ctxOf_putFrame s c x { f with waits := f.waits.map fun u => if u.slot = w.slot then { u with unsent := [] } else u }
        simp only [ctxOf] at this hf
        rw [this, hf]
        rfl
      · obtain ⟨n, hn⟩ := h4
        exact ⟨n, by rw [hn]; rfl⟩

/-- A frame whose operations have all departed departs nothing. -/
theorem departReply_idle (s : State) (c x : Nat) (f : Frame) (hf : (ctxOf s c x).frame = some f)
    (h : ∀ w ∈ f.waits, w.unsent = []) : departReply s c x = s := by
  unfold departReply
  rw [hf]
  simp only
  have : (f.waits.find? fun w => !w.unsent.isEmpty) = none := by
    rw [List.find?_eq_none]
    intro w hw
    simp [h w hw]
  have none_ : departing f = none := by simp [departing, this]
  rw [none_]

/-- An armed instruction whose gate is open fires. -/
theorem fireGate_next (s : State) (i : Instr) (ev : Nat) (gate : State → Env → Bool) (k : State → Env → State) (f : Frame)
    (hf : (ctxOf s s.focus.cell s.focus.ctx).frame = some f) (ha : armed f s.focus.slot i = true)
    (hg : gate s (envOf s (ctxOf s s.focus.cell s.focus.ctx) f i) = true) :
    fireGate s i ev gate k =
      .next (settleCore (departReply (k (spendIssue (countEvent s s.focus.cell s.focus.ctx ev 1) s.focus.cell (issueCost ev))
        (envOf s (ctxOf s s.focus.cell s.focus.ctx) f i)) s.focus.cell s.focus.ctx) s.focus.cell) := by
  simp only [fireGate, hf, ha, hg, Bool.and_self, if_true]
  rfl

/-- An instruction that is not armed, or whose gate is shut, waits: nothing changes. -/
theorem fireGate_waits (s : State) (i : Instr) (ev : Nat) (gate : State → Env → Bool) (k : State → Env → State) (f : Frame)
    (hf : (ctxOf s s.focus.cell s.focus.ctx).frame = some f)
    (h : (armed f s.focus.slot i && gate s (envOf s (ctxOf s s.focus.cell s.focus.ctx) f i)) = false) :
    fireGate s i ev gate k = .next s := by
  simp only [fireGate, hf]
  rw [if_neg (by simp [h])]

theorem ctxOf_spendIssue (s : State) (c n d y : Nat) : ctxOf (spendIssue s c n) d y = ctxOf s d y :=
  (ctxOf_modCell (spend s c n) c d y (fun x => { x with issues := x.issues + 1 }) fun _ => rfl).trans
    (ctxOf_modCell _ _ _ _ _ fun _ => rfl)

/-- The context as it stands when a firing changes it: as before, but for its event counter. -/
theorem ctxOf_issue (s : State) (c x ev n k : Nat) :
    ∃ w u, ctxOf (spendIssue (countEvent s c x ev n) c k) c x = { ctxOf s c x with evcnt := w, evNow := u } := by
  obtain ⟨w, u, h | h⟩ := countEvent_eq s c x ev n
  · exact ⟨(ctxOf s c x).evcnt, (ctxOf s c x).evNow, by rw [ctxOf_spendIssue, h]⟩
  · exact ⟨w, u, by rw [ctxOf_spendIssue, h, ctxOf_putCtx]⟩

/-- What a firing leaves when it ends with frame `F`: everything outside its core but messages, reports and the counts of uncorrectable
words, and of its context all but the frame and the event counter. -/
structure Fired (s t : State) (c x : Nat) (F : Frame) : Prop where
  fields : t = { s with cells := t.cells, net := t.net, outbox := t.outbox, bays := t.bays }
  bays : ∀ b, bayAt t b = { bayAt s b with uncorr := (bayAt t b).uncorr }
  cells : ∀ d, d ≠ c → cellOf t d = cellOf s d
  core : coreOf t c = { coreOf s c with ctxs := (coreOf t c).ctxs, readyAt := (coreOf t c).readyAt, stamp := (coreOf t c).stamp }
  ctx : ∃ (g : List Waiting → List Waiting) (w u : Word),
    ctxOf t c x = { ctxOf s c x with frame := some { F with waits := g F.waits }, evcnt := w, evNow := u }
  still : ∀ y, y ≠ x → (ctxOf s c y).still = true → ctxOf t c y = ctxOf s c y
  lasting : ∀ y, (ctxOf t c y).lasting = (ctxOf s c y).lasting

/-- A firing that ends by putting the frame `F`, where no block faults for a word that the next cycle decodes. -/
theorem fired_putFrame (s : State) (c x ev n k : Nat) (f F : Frame) (hs : decodesOn s c = true) (hf : (ctxOf s c x).frame = some f)
    (hb : F.badWord = f.badWord) (hn : F.fetched = f.fetched) :
    Fired s (settleCore (departReply (putFrame (spendIssue (countEvent s c x ev n) c k) c x F) c x) c) c x F := by
  obtain ⟨w, u', hw⟩ := ctxOf_issue s c x ev n k
  have other : ∀ y, y ≠ x → ctxOf (spendIssue (countEvent s c x ev n) c k) c y = ctxOf s c y := by
    intro y hy
    rw [ctxOf_spendIssue]
    obtain ⟨w', v', h | h⟩ := countEvent_eq s c x ev n
    · rw [h]
    · rw [h, ctxOf_putCtx_other _ _ _ _ _ _ fun e => hy e.2]
  have ufields : spendIssue (countEvent s c x ev n) c k = { s with cells := (spendIssue (countEvent s c x ev n) c k).cells } := by
    obtain ⟨w', v', h | h⟩ := countEvent_eq s c x ev n <;> rw [h] <;> rfl
  have ucells : ∀ d, d ≠ c → cellOf (spendIssue (countEvent s c x ev n) c k) d = cellOf s d := by
    intro d hd
    rw [spendIssue, cellOf_modCell_other _ _ _ _ hd, spend, cellOf_modCell_other _ _ _ _ hd]
    obtain ⟨w', v', h | h⟩ := countEvent_eq s c x ev n
    · rw [h]
    · rw [h, cellOf_putCtx_other _ _ _ _ _ hd]
  have ucore : coreOf (spendIssue (countEvent s c x ev n) c k) c =
      { coreOf s c with ctxs := (coreOf (spendIssue (countEvent s c x ev n) c k) c).ctxs } := by
    have e : ∀ u, coreOf (spendIssue u c k) c = coreOf u c := fun u => by simp [coreOf, spendIssue, spend]
    rw [e]
    obtain ⟨w', v', h | h⟩ := countEvent_eq s c x ev n
    · rw [h]
    · rw [h, putCtx, coreOf_modCore]
  have ucyc : (cellOf (spendIssue (countEvent s c x ev n) c k) c).cyc = (cellOf s c).cyc := by
    have e : ∀ u, (cellOf (spendIssue u c k) c).cyc = (cellOf u c).cyc := fun u => by simp [spendIssue, spend]
    rw [e]
    obtain ⟨w', v', h | h⟩ := countEvent_eq s c x ev n
    · rw [h]
    · rw [h]; simp [putCtx, modCore]
  generalize hu : spendIssue (countEvent s c x ev n) c k = u at hw other ufields ucells ucore ucyc
  have dep := departs_departReply (putFrame u c x F) c x
  generalize hd : departReply (putFrame u c x F) c x = d at dep
  obtain ⟨g, hg⟩ := dep.frame
  have dctx : ctxOf d c x = { ctxOf s c x with frame := some { F with waits := g F.waits }, evcnt := w, evNow := u' } := by
    rw [hg, ctxOf_putFrame, hw]; rfl
  have dec : decodesOn d c = true := by
    rw [decodesOn_iff]
    intro y h m e hy hh hm
    by_cases hyx : y = x
    · subst hyx
      rw [dctx] at hh
      cases hh
      show F.fetched ≤ _
      rw [hn]
      exact (decodesOn_iff s c).1 hs y f m e hy hf (hb ▸ hm)
    · rw [dep.other y hyx, ctxOf_putFrame_other _ _ _ _ _ _ fun h => hyx h.2, other y hyx] at hh
      exact (decodesOn_iff s c).1 hs y h m e hy hh hm
  have st := settles_settleCore d c dec
  generalize settleCore d c = t at st
  have dbays : ∀ b, bayAt d b = bayAt s b := by
    intro b
    have e : d.bays = s.bays := by rw [dep.fields]; simp only [putFrame_bays]; rw [ufields]
    simp only [bayAt, e]
  refine ⟨?_, fun b => ?_, ?_, ?_, ⟨g, w, u', ?_⟩, ?_, ?_⟩
  · rw [st.fields, dep.fields]
    show _ = _
    rw [ufields]
    rfl
  · rw [st.bays b, dbays b]
  · intro e he
    rw [st.cells e he, dep.cells e he, putFrame, modCtx, cellOf_putCtx_other _ _ _ _ _ he, ucells e he]
  · have h1 := congrArg Cell.core st.cell
    have h2 := dep.core
    have h3 : coreOf (putFrame u c x F) c = { coreOf u c with ctxs := (coreOf (putFrame u c x F) c).ctxs } := by
      rw [putFrame, modCtx, putCtx, coreOf_modCore]
    rw [ucore] at h3
    rw [h3] at h2
    show coreOf t c = _
    refine Eq.trans h1 ?_
    show ({ coreOf d c with ctxs := _, readyAt := _, stamp := _ } : Core) = _
    rw [h2]
  · rw [st.still x (by rw [dctx]; rfl), dctx]
  · intro y hy hs
    have e : ctxOf d c y = ctxOf s c y := by
      rw [dep.other y hy, ctxOf_putFrame_other _ _ _ _ _ _ fun h => hy h.2, other y hy]
    rw [st.still y (by rw [e]; exact hs), e]
  · intro y
    rw [st.lasting y]
    by_cases hy : y = x
    · subst hy; rw [dctx]; rfl
    · rw [dep.other y hy, ctxOf_putFrame_other _ _ _ _ _ _ fun h => hy h.2, other y hy]

theorem putOperand_decodes (f F : Frame) (addr who n : Nat) (used : Instr → Bool) (get : Slot → Option Val) (put : Slot → Slot)
    (h : putOperand f addr who n used get put = .ok F) : F.badWord = f.badWord ∧ F.fetched = f.fetched := by
  unfold putOperand at h
  split at h
  · split at h
    · cases h; exact ⟨rfl, rfl⟩
    · cases h
  · split at h
    · cases h; exact ⟨rfl, rfl⟩
    · cases h

/-- Delivering values leaves what the frame still decodes. -/
theorem deliverAll_decodes (ts : List Target) (f F : Frame) (addr who : Nat) (v : Val) (h : deliverAll f addr who v ts = .ok F) :
    F.badWord = f.badWord ∧ F.fetched = f.fetched := by
  induction ts generalizing f with
  | nil => cases h; exact ⟨rfl, rfl⟩
  | cons t ts ih =>
    unfold deliverAll at h
    split at h
    · rename_i f' hd
      have k : f'.badWord = f.badWord ∧ f'.fetched = f.fetched := by
        unfold deliver at hd
        split at hd
        · cases hd; exact ⟨rfl, rfl⟩
        · unfold countReg at hd
          split at hd
          · cases hd; exact ⟨rfl, rfl⟩
          · cases hd
        all_goals exact putOperand_decodes _ _ _ _ _ _ _ _ hd
      obtain ⟨h1, h2⟩ := ih f' h
      exact ⟨h1.trans k.1, h2.trans k.2⟩
    · cases h

/-- An armed instruction that produces a value whose targets take it: the step goes on, with the value delivered. -/
theorem produce_fires (s : State) (i : Instr) (ev : Nat) (ts : List Target) (r : Env → Val × Word) (f F : Frame)
    (hs : decodesOn s s.focus.cell = true) (hf : (ctxOf s s.focus.cell s.focus.ctx).frame = some f) (ha : armed f s.focus.slot i = true)
    (hd : deliverAll { markFired f s.focus.slot with flags := f.flags ||| (r (envOf s (ctxOf s s.focus.cell s.focus.ctx) f i)).2 }
      (slotAddr f s.focus.slot) s.focus.slot (r (envOf s (ctxOf s s.focus.cell s.focus.ctx) f i)).1 ts = .ok F) :
    ∃ t, fire s i ev (fun s e => produce s e ts (r e)) = .next t ∧ Fired s t s.focus.cell s.focus.ctx F := by
  refine ⟨_, fireGate_next s i ev (fun _ _ => true) _ f hf ha rfl, ?_⟩
  have : ∀ u, produce u (envOf s (ctxOf s s.focus.cell s.focus.ctx) f i) ts (r (envOf s (ctxOf s s.focus.cell s.focus.ctx) f i)) =
      putFrame u s.focus.cell s.focus.ctx F := by
    intro u
    unfold produce finish
    have hd' := hd
    simp only [envOf] at hd' ⊢
    rw [show slotAddr (markFired f s.focus.slot) s.focus.slot = slotAddr f s.focus.slot from rfl,
      show (markFired f s.focus.slot).flags = f.flags from rfl, hd']
  rw [this]
  obtain ⟨h1, h2⟩ := deliverAll_decodes _ _ _ _ _ _ hd
  exact fired_putFrame _ _ _ _ _ _ f _ hs hf h1 h2

/-- An armed side effect whose act is found and whose LSID is declared and not counted: the step goes on, with the effect counted. -/
theorem fireQ_counts (s : State) (i : Instr) (lsid : BitVec 5) (g : State → Env → Except BFault Act) (f : Frame) (a : Act)
    (hs : decodesOn s s.focus.cell = true) (hf : (ctxOf s s.focus.cell s.focus.ctx).frame = some f) (ha : armed f s.focus.slot i = true)
    (hb : bit f.h1 lsid.toNat = true) (hc : bit f.counted lsid.toNat = false)
    (hg : g (spendIssue (countEvent s s.focus.cell s.focus.ctx 2 1) s.focus.cell 2400) (envOf s (ctxOf s s.focus.cell s.focus.ctx) f i) = .ok a) :
    ∃ t, fireQ s i lsid g = .next t ∧ Fired s t s.focus.cell s.focus.ctx
      { markFired f s.focus.slot with
        counted := f.counted ||| wordOf (2 ^ lsid.toNat)
        effs := f.effs ++ [{ lsid := lsid.toNat, slot := s.focus.slot, act := a }] } := by
  have fires := fireGate_next s i 2 (fun _ _ => true)
    (fun s e => match g s e with
      | .ok a => finish s e (countEffect e.f e.slot lsid.toNat a)
      | .error b => finish (noteEcc s e.c b.cause) e (.error b)) f hf ha rfl
  refine ⟨_, fires, ?_⟩
  have h24 : issueCost 2 = 2400 := rfl
  simp only [h24]
  rw [hg]
  have : countEffect (envOf s (ctxOf s s.focus.cell s.focus.ctx) f i).f (envOf s (ctxOf s s.focus.cell s.focus.ctx) f i).slot lsid.toNat a
      = .ok { markFired f s.focus.slot with
        counted := f.counted ||| wordOf (2 ^ lsid.toNat)
        effs := f.effs ++ [{ lsid := lsid.toNat, slot := s.focus.slot, act := a }] } := by
    unfold countEffect
    rw [if_pos]
    · rfl
    · show (bit f.h1 lsid.toNat && !bit f.counted lsid.toNat) = true
      simp [hb, hc]
  simp only [this, finish]
  exact fired_putFrame _ _ _ _ _ _ f _ hs hf rfl rfl

end Sys2Proof.Machine
end

