-- ==== Sys2Proof/Laws/Memory.lean ====
section
/-! SUPPORT. Memory and presence lists: reading after writing, and that every operation keeps the canonical form. -/

namespace Sys2Proof.Machine

open Sys2Proof

/-! ### One byte -/

theorem memGet_below (m : List Host.Cell) (lo k : Nat) (h : memWfFrom lo m = true) (hk : k < lo) : memGet m k = 0 := by
  induction m generalizing lo with
  | nil => rfl
  | cons p t ih =>
    obtain ⟨a, b⟩ := p
    simp only [memWfFrom, Bool.and_eq_true, decide_eq_true_eq] at h
    obtain ⟨⟨ha, -⟩, ht⟩ := h
    rw [memGet, if_neg (by omega), ih (a + 1) ht (by omega)]

/-- The byte written reads back. -/
theorem memGet_memPut_same (m : List Host.Cell) (lo k : Nat) (b : Byte) (h : memWfFrom lo m = true) :
    memGet (memPut m k b) k = b := by
  induction m generalizing lo with
  | nil => by_cases hb : b = 0#8 <;> simp [memPut, memGet, hb]
  | cons p t ih =>
    obtain ⟨a, x⟩ := p
    simp only [memWfFrom, Bool.and_eq_true, decide_eq_true_eq] at h
    obtain ⟨⟨ha, hx⟩, ht⟩ := h
    simp only [memPut]
    by_cases h1 : k < a
    · by_cases hb : b = 0#8
      · have hak : a ≠ k := by omega
        simp [h1, hb, memGet, hak, memGet_below t (a + 1) k ht (by omega)]
      · simp [h1, hb, memGet]
    · by_cases h2 : k = a
      · by_cases hb : b = 0#8
        · simp only [h2, hb, if_true]
          rw [if_neg (by omega)]
          exact memGet_below t (a + 1) a ht (by omega)
        · simp [h2, hb, memGet]
      · simp [h1, h2, memGet, ih (a + 1) ht, Ne.symm h2]

/-- Every other byte reads as before. -/
theorem memGet_memPut_other (m : List Host.Cell) (k j : Nat) (b : Byte) (h : j ≠ k) : memGet (memPut m k b) j = memGet m j := by
  induction m with
  | nil => by_cases hb : b = 0#8 <;> simp [memPut, memGet, hb, Ne.symm h]
  | cons p t ih =>
    obtain ⟨a, x⟩ := p
    simp only [memPut]
    by_cases h1 : k < a
    · by_cases hb : b = 0#8 <;> simp [h1, hb, memGet, Ne.symm h]
    · by_cases h2 : k = a
      · subst h2
        by_cases hb : b = 0#8 <;> simp [hb, memGet, Ne.symm h]
      · simp [h1, h2, memGet, ih]

theorem memWfFrom_mono (m : List Host.Cell) (lo lo' : Nat) (hl : lo' ≤ lo) (h : memWfFrom lo m = true) :
    memWfFrom lo' m = true := by
  cases m with
  | nil => rfl
  | cons p t =>
    simp only [memWfFrom, Bool.and_eq_true, decide_eq_true_eq] at h ⊢
    exact ⟨⟨by omega, h.1.2⟩, h.2⟩

theorem memWfFrom_memPut (m : List Host.Cell) (lo k : Nat) (b : Byte) (hk : lo ≤ k) (h : memWfFrom lo m = true) :
    memWfFrom lo (memPut m k b) = true := by
  induction m generalizing lo with
  | nil => by_cases hb : b = 0#8 <;> simp [memPut, memWfFrom, hb, hk]
  | cons p t ih =>
    obtain ⟨a, x⟩ := p
    simp only [memWfFrom, Bool.and_eq_true, decide_eq_true_eq] at h
    obtain ⟨⟨ha, hx⟩, ht⟩ := h
    have hx' : x ≠ 0#8 := by simpa using hx
    simp only [memPut]
    by_cases h1 : k < a
    · by_cases hb : b = 0#8
      · simp [h1, hb, memWfFrom, ha, hx', ht]
      · simp [h1, hb, memWfFrom, hk, hx', ht, Nat.succ_le_of_lt h1]
    · by_cases h2 : k = a
      · subst h2
        by_cases hb : b = 0#8
        · simp only [hb, if_true]
          rw [if_neg (by omega)]
          exact memWfFrom_mono t (k + 1) lo (by omega) ht
        · simp [hb, memWfFrom, hk, ht]
      · simp [h1, h2, memWfFrom, ha, hx', ih (a + 1) (by omega) ht]

theorem memWf_memPut (m : List Host.Cell) (k : Nat) (b : Byte) (h : Memory.wf m = true) : Memory.wf (memPut m k b) = true :=
  memWfFrom_memPut m 0 k b (Nat.zero_le _) h

theorem memWf_memPutBytes (m : List Host.Cell) (k : Nat) (bs : List Byte) (h : Memory.wf m = true) :
    Memory.wf (memPutBytes m k bs) = true := by
  induction bs generalizing m k with
  | nil => exact h
  | cons b bs ih => exact ih _ _ (memWf_memPut m k b h)

theorem memWfFrom_filter (m : List Host.Cell) (lo : Nat) (p : Host.Cell → Bool) (h : memWfFrom lo m = true) :
    memWfFrom lo (m.filter p) = true := by
  induction m generalizing lo with
  | nil => rfl
  | cons q t ih =>
    obtain ⟨a, x⟩ := q
    simp only [memWfFrom, Bool.and_eq_true, decide_eq_true_eq] at h
    obtain ⟨⟨ha, hx⟩, ht⟩ := h
    rw [List.filter_cons]
    split
    · simp only [memWfFrom, Bool.and_eq_true, decide_eq_true_eq]
      exact ⟨⟨ha, hx⟩, ih (a + 1) ht⟩
    · exact memWfFrom_mono _ (a + 1) lo (by omega) (ih (a + 1) ht)

theorem memWf_filter (m : List Host.Cell) (p : Host.Cell → Bool) (h : Memory.wf m = true) : Memory.wf (m.filter p) = true :=
  memWfFrom_filter m 0 p h

/-! ### A run of bytes -/

/-- A byte outside the bytes written reads as before. -/
theorem memGet_memPutBytes_other (m : List Host.Cell) (k j : Nat) (bs : List Byte) (h : j < k ∨ k + bs.length ≤ j) :
    memGet (memPutBytes m k bs) j = memGet m j := by
  induction bs generalizing m k with
  | nil => rfl
  | cons b bs ih =>
    simp only [List.length_cons] at h
    rw [memPutBytes, ih _ _ (by omega), memGet_memPut_other _ _ _ _ (by omega)]

/-- A byte that was written reads back. -/
theorem memGet_memPutBytes_in (m : List Host.Cell) (k j : Nat) (bs : List Byte) (h : Memory.wf m = true) (hj : j < bs.length) :
    memGet (memPutBytes m k bs) (k + j) = bs[j] := by
  induction bs generalizing m k j with
  | nil => simp at hj
  | cons b bs ih =>
    cases j with
    | zero =>
      rw [memPutBytes, memGet_memPutBytes_other _ _ _ _ (by omega)]
      exact memGet_memPut_same m 0 k b h
    | succ j =>
      have := ih (memPut m k b) (k + 1) j (memWf_memPut m k b h) (by simpa using hj)
      rw [memPutBytes]
      rw [show k + (j + 1) = k + 1 + j by omega, this]
      rfl

theorem leBytes_length (n v : Nat) : (leBytes n v).length = n := by
  induction n generalizing v with
  | zero => rfl
  | succ n ih => simp [leBytes, ih]

theorem memGet_rawWrite_other (s : State) (k n v j : Nat) (h : j < k ∨ k + n ≤ j) :
    memGet (rawWrite s k n v).mem j = memGet s.mem j :=
  memGet_memPutBytes_other _ _ _ _ (by rwa [leBytes_length])

theorem memWf_rawWrite (s : State) (k n v : Nat) (h : Memory.wf s.mem = true) : Memory.wf (rawWrite s k n v).mem = true :=
  memWf_memPutBytes _ _ _ h

/-! ### Presence bits -/

theorem keysRise_mono (l : List Nat) (lo lo' : Nat) (hl : lo' ≤ lo) (h : keysRise lo l = true) : keysRise lo' l = true := by
  cases l with
  | nil => rfl
  | cons a t =>
    simp only [keysRise, Bool.and_eq_true, decide_eq_true_eq] at h ⊢
    exact ⟨by omega, h.2⟩

theorem keysRise_insert (l : List Nat) (lo k : Nat) (hk : lo ≤ k) (h : keysRise lo l = true) :
    keysRise lo (keyInsert l k) = true := by
  induction l generalizing lo with
  | nil => simp [keyInsert, keysRise, hk]
  | cons a t ih =>
    simp only [keysRise, Bool.and_eq_true, decide_eq_true_eq] at h
    simp only [keyInsert]
    by_cases h1 : k < a
    · simp [h1, keysRise, hk, h.2, Nat.succ_le_of_lt h1]
    · by_cases h2 : k = a
      · simp [h2, keysRise, h]
      · simp [h1, h2, keysRise, h.1, ih (a + 1) (by omega) h.2]

theorem keysRise_filter (l : List Nat) (lo : Nat) (p : Nat → Bool) (h : keysRise lo l = true) :
    keysRise lo (l.filter p) = true := by
  induction l generalizing lo with
  | nil => rfl
  | cons a t ih =>
    simp only [keysRise, Bool.and_eq_true, decide_eq_true_eq] at h
    rw [List.filter_cons]
    split
    · simp only [keysRise, Bool.and_eq_true, decide_eq_true_eq]
      exact ⟨h.1, ih (a + 1) h.2⟩
    · exact keysRise_mono _ (a + 1) lo (by omega) (ih (a + 1) h.2)

theorem keysRise_erase (l : List Nat) (lo k : Nat) (h : keysRise lo l = true) : keysRise lo (keyErase l k) = true :=
  keysRise_filter l lo _ h

theorem mem_keyInsert (l : List Nat) (k j : Nat) : j ∈ keyInsert l k ↔ j = k ∨ j ∈ l := by
  induction l with
  | nil => simp [keyInsert]
  | cons a t ih =>
    simp only [keyInsert]
    by_cases h1 : k < a
    · simp [h1]
    · by_cases h2 : k = a
      · subst h2; simp
      · simp only [h1, h2, if_false, List.mem_cons, ih]; constructor <;> (intro h; rcases h with h | h | h <;> simp [h])

/-- Setting a presence bit sets that bit alone. -/
theorem isFull_setFull (s : State) (k j : Nat) : isFull (setFull s k) j = (isFull s j || wordKey j == wordKey k) := by
  simp only [isFull, setFull, List.contains_eq_mem, mem_keyInsert, Bool.decide_or]
  by_cases h : wordKey j = wordKey k <;> simp [h]

/-- Clearing a presence bit clears that bit alone. -/
theorem isFull_setEmpty (s : State) (k j : Nat) : isFull (setEmpty s k) j = (isFull s j && wordKey j != wordKey k) := by
  simp only [isFull, setEmpty, keyErase, List.contains_eq_mem, List.mem_filter]
  by_cases h : wordKey j = wordKey k <;> simp [h]

end Sys2Proof.Machine
end

