-- ==== Sys2Proof/Laws/PerInstr.lean ====
section
/-! SUPPORT. What is stated of every instruction as syntax: its word, where it has one, is a word of 32 bits (R83). -/

namespace Sys2Proof.Laws

open Sys2Proof

/-! ### The codes of the fields stay in their fields -/

theorem nulF_code_lt (x : NulF) : x.code < 2 := by cases x <;> decide
theorem laneF_code_lt (x : LaneF) : x.code < 2 := by cases x <;> decide
theorem sgn_code_lt (x : Sgn) : x.code < 2 := by cases x <;> decide
theorem shrF_code_lt (x : ShrF) : x.code < 2 := by cases x <;> decide
theorem bitcF_code_lt (x : BitcF) : x.code < 3 := by cases x <;> decide
theorem extF_code_lt (x : ExtF) : x.code < 4 := by cases x <;> decide
theorem leaF_code_lt (x : LeaF) : x.code < 5 := by cases x <;> decide
theorem addsF_code_lt (x : AddsF) : x.code < 4 := by cases x <;> decide
theorem uniF_code_lt (x : UniF) : x.code < 3 := by cases x <;> decide
theorem plogF_code_lt (x : PlogF) : x.code < 8 := by cases x <;> decide
theorem predF_code_lt (x : PredF) : x.code < 3 := by cases x <;> decide
theorem nanF_code_lt (x : NanF) : x.code < 2 := by cases x <;> decide
theorem fapxF_code_lt (x : FapxF) : x.code < 6 := by cases x <;> decide
theorem fcmpF_code_lt (x : FcmpF) : x.code < 6 := by cases x <;> decide
theorem fsgnF_code_lt (x : FsgnF) : x.code < 5 := by cases x <;> decide
theorem cvtfiF_code_lt (x : CvtfiF) : x.code < 4 := by cases x <;> decide
theorem frndF_code_lt (x : FrndF) : x.code < 5 := by cases x <;> decide
theorem fxtrF_code_lt (x : FxtrF) : x.code < 2 := by cases x <;> decide
theorem narrF_code_lt (x : NarrF) : x.code < 4 := by cases x <;> decide
theorem spl3F_code_lt (x : Spl3F) : x.code < 3 := by cases x <;> decide
theorem fredF_code_lt (x : FredF) : x.code < 3 := by cases x <;> decide
theorem foldF_code_lt (x : FoldF) : x.code < 8 := by cases x <;> decide
theorem hint_code_lt (x : Hint) : x.code < 3 := by cases x <;> decide
theorem fenceScope_code_lt (x : FenceScope) : x.code < 5 := by cases x <;> decide
theorem scope_code_lt (x : Scope) : x.code < 4 := by cases x <;> decide
theorem amoOp_code_lt (x : AmoOp) : x.code < 14 := by cases x <;> decide
theorem tagAct_code_lt (x : TagAct) : x.code < 6 := by cases x <;> decide
theorem retKind_code_lt (x : RetKind) : x.code < 3 := by cases x <;> decide
theorem verdict_code_lt (x : Verdict) : x.code < 3 := by cases x <;> decide
theorem pr_code_lt (x : Pr) : x.code < 3 := by cases x <;> decide

theorem target_code_lt (t : Target) : t.code < 1024 := by
  cases t <;> simp only [Target.code] <;> omega

theorem encBit_lt (b : Bool) : encBit b < 2 := by cases b <;> decide

/-! ### The words of the formats -/

theorem encHead_lt {opc : Nat} (h : opc < 127) (p : Pr) : encHead opc p + 8388608 ≤ 4294967296 := by
  have := pr_code_lt p
  simp only [encHead]; omega

theorem encG_lt {opc x : Nat} (h : opc < 127) (hx : x < 8) (g : GF) : encG opc x g < 2 ^ 32 := by
  have := encHead_lt h g.pr
  have := target_code_lt g.t1
  have := target_code_lt g.t0
  simp only [encG]; omega

theorem encI_lt {opc : Nat} (h : opc < 127) (i : IF) : encI opc i < 2 ^ 32 := by
  have := encHead_lt h i.pr
  have := target_code_lt i.t0
  simp only [encI]; omega

theorem encH_lt {opc : Nat} (h : opc < 127) (i : HF) : encH opc i < 2 ^ 32 := by
  have := encHead_lt h i.pr
  have := target_code_lt i.t0
  simp only [encH]; omega

theorem encR_lt {opc : Nat} (h : opc < 127) (r : RF) : encR opc r < 2 ^ 32 := by
  have := encHead_lt h r.pr
  have := target_code_lt r.t0
  simp only [encR]; omega

theorem encX_lt {opc off : Nat} (h : opc < 127) (ho : off < 1048576) (x : XF) : encX opc off x < 2 ^ 32 := by
  have := encHead_lt h x.pr
  simp only [encX]; omega

theorem encM_lt {opc : Nat} (h : opc < 127) (m : MF) : encM opc m < 2 ^ 32 := by
  have := encHead_lt h m.pr
  have := target_code_lt m.t0
  simp only [encM]; omega

theorem encS_lt {opc : Nat} (h : opc < 127) (f : SF) : encS opc f < 2 ^ 32 := by
  have := encHead_lt h f.pr
  have := hint_code_lt f.hint
  simp only [encS]; omega

theorem encL_lt {opc rest : Nat} (h : opc < 127) (hr : rest < 262144) (q : LF) : encL opc rest q < 2 ^ 32 := by
  have := encHead_lt h q.pr
  simp only [encL]; omega

theorem encA_lt {opc op : Nat} (h : opc < 127) (ho : op < 16) (f : AF) : encA opc op f < 2 ^ 32 := by
  have := encHead_lt h f.pr
  have := scope_code_lt f.scope
  have := target_code_lt f.t0
  simp only [encA]; split <;> omega

theorem encQ_lt {opc fn imm : Nat} (h : opc < 127) (hf : fn < 64) (hi : imm < 4096) (q : LF) : encQ opc fn imm q < 2 ^ 32 := by
  have := encHead_lt h q.pr
  simp only [encQ]; omega

theorem encE_lt {opc fn imm : Nat} (h : opc < 127) (hf : fn < 64) (hi : imm < 128) (e : EF) : encE opc fn imm e < 2 ^ 32 := by
  have := encHead_lt h e.pr
  have := target_code_lt e.t0
  simp only [encE]; omega

end Sys2Proof.Laws

namespace Sys2Proof.Laws.Encoding

open Sys2Proof Sys2Proof.Laws

/-- The word of the instruction, if it has one, is a word of 32 bits. -/
def Statement (i : Instr) : Prop := ∀ n, encodeNat i = some n → n < 2 ^ 32

theorem of_some {i : Instr} {m : Nat} (h : encodeNat i = some m) (hm : m < 2 ^ 32) : Statement i :=
  fun _ hn => Option.some.inj (h.symm.trans hn) ▸ hm

theorem of_none {i : Instr} (h : encodeNat i = Option.none) : Statement i :=
  fun _ hn => nomatch h.symm.trans hn

theorem mov (g : GF) : Statement (.mov g) :=
  of_some rfl (encG_lt (by decide) (by decide) g)
theorem nult (x : NulF) (g : GF) : Statement (.nult x g) :=
  of_some rfl (encG_lt (by decide) (by have := nulF_code_lt x; omega) g)
theorem sel (g : GF) : Statement (.sel g) :=
  of_some rfl (encG_lt (by decide) (by decide) g)
theorem lit (i : HF) : Statement (.lit i) :=
  of_some rfl (encH_lt (by decide) i)
theorem imm (i : IF) : Statement (.imm i) :=
  of_some rfl (encI_lt (by decide) i)
theorem lane (x : LaneF) (g : GF) : Statement (.lane x g) :=
  of_some rfl (encG_lt (by decide) (by have := laneF_code_lt x; omega) g)
theorem arg (x : BitVec 2) (g : GF) : Statement (.arg x g) :=
  of_some rfl (encG_lt (by decide) (by omega) g)
theorem bro (x : XF) (off : BitVec 20) : Statement (.bro x off) :=
  of_some rfl (encX_lt (by decide) (by omega) x)
theorem callo (x : XF) (off : BitVec 20) : Statement (.callo x off) :=
  of_some rfl (encX_lt (by decide) (by omega) x)
theorem br (x : XF) : Statement (.br x) :=
  of_some rfl (encX_lt (by decide) (by decide) x)
theorem call (x : XF) : Statement (.call x) :=
  of_some rfl (encX_lt (by decide) (by decide) x)
theorem ret (x : XF) (kind : RetKind) : Statement (.ret x kind) :=
  of_some rfl (encX_lt (by decide) (by have := retKind_code_lt kind; omega) x)
theorem endBlk (x : XF) : Statement (.endBlk x) :=
  of_some rfl (encX_lt (by decide) (by decide) x)
theorem yieldBlk (x : XF) : Statement (.yieldBlk x) :=
  of_some rfl (encX_lt (by decide) (by decide) x)
theorem scall (x : XF) (service : BitVec 12) : Statement (.scall x service) :=
  of_some rfl (encX_lt (by decide) (by omega) x)
theorem add (g : GF) : Statement (.add g) :=
  of_some rfl (encG_lt (by decide) (by decide) g)
theorem sub (g : GF) : Statement (.sub g) :=
  of_some rfl (encG_lt (by decide) (by decide) g)
theorem mul (g : GF) : Statement (.mul g) :=
  of_some rfl (encG_lt (by decide) (by decide) g)
theorem mulh (x : Sgn) (g : GF) : Statement (.mulh x g) :=
  of_some rfl (encG_lt (by decide) (by have := sgn_code_lt x; omega) g)
theorem div (x : Sgn) (g : GF) : Statement (.div x g) :=
  of_some rfl (encG_lt (by decide) (by have := sgn_code_lt x; omega) g)
theorem rem (x : Sgn) (g : GF) : Statement (.rem x g) :=
  of_some rfl (encG_lt (by decide) (by have := sgn_code_lt x; omega) g)
theorem and (g : GF) : Statement (.and g) :=
  of_some rfl (encG_lt (by decide) (by decide) g)
theorem or (g : GF) : Statement (.or g) :=
  of_some rfl (encG_lt (by decide) (by decide) g)
theorem xor (g : GF) : Statement (.xor g) :=
  of_some rfl (encG_lt (by decide) (by decide) g)
theorem andn (g : GF) : Statement (.andn g) :=
  of_some rfl (encG_lt (by decide) (by decide) g)
theorem shl (g : GF) : Statement (.shl g) :=
  of_some rfl (encG_lt (by decide) (by decide) g)
theorem shr (x : ShrF) (g : GF) : Statement (.shr x g) :=
  of_some rfl (encG_lt (by decide) (by have := shrF_code_lt x; omega) g)
theorem rot (g : GF) : Statement (.rot g) :=
  of_some rfl (encG_lt (by decide) (by decide) g)
theorem min (x : Sgn) (g : GF) : Statement (.min x g) :=
  of_some rfl (encG_lt (by decide) (by have := sgn_code_lt x; omega) g)
theorem max (x : Sgn) (g : GF) : Statement (.max x g) :=
  of_some rfl (encG_lt (by decide) (by have := sgn_code_lt x; omega) g)
theorem bitc (x : BitcF) (g : GF) : Statement (.bitc x g) :=
  of_some rfl (encG_lt (by decide) (by have := bitcF_code_lt x; omega) g)
theorem ext (x : ExtF) (g : GF) : Statement (.ext x g) :=
  of_some rfl (encG_lt (by decide) (by have := extF_code_lt x; omega) g)
theorem bfx (x : ShrF) (g : GF) : Statement (.bfx x g) :=
  of_some rfl (encG_lt (by decide) (by have := shrF_code_lt x; omega) g)
theorem bfi (g : GF) : Statement (.bfi g) :=
  of_some rfl (encG_lt (by decide) (by decide) g)
theorem lea (x : LeaF) (g : GF) : Statement (.lea x g) :=
  of_some rfl (encG_lt (by decide) (by have := leaF_code_lt x; omega) g)
theorem add3 (g : GF) : Statement (.add3 g) :=
  of_some rfl (encG_lt (by decide) (by decide) g)
theorem mad (g : GF) : Statement (.mad g) :=
  of_some rfl (encG_lt (by decide) (by decide) g)
theorem adds (x : AddsF) (g : GF) : Statement (.adds x g) :=
  of_some rfl (encG_lt (by decide) (by have := addsF_code_lt x; omega) g)
theorem absd (x : Sgn) (g : GF) : Statement (.absd x g) :=
  of_some rfl (encG_lt (by decide) (by have := sgn_code_lt x; omega) g)
theorem uni (x : UniF) (g : GF) : Statement (.uni x g) :=
  of_some rfl (encG_lt (by decide) (by have := uniF_code_lt x; omega) g)
theorem teq (g : GF) : Statement (.teq g) :=
  of_some rfl (encG_lt (by decide) (by decide) g)
theorem tne (g : GF) : Statement (.tne g) :=
  of_some rfl (encG_lt (by decide) (by decide) g)
theorem tlt (x : Sgn) (g : GF) : Statement (.tlt x g) :=
  of_some rfl (encG_lt (by decide) (by have := sgn_code_lt x; omega) g)
theorem tle (x : Sgn) (g : GF) : Statement (.tle x g) :=
  of_some rfl (encG_lt (by decide) (by have := sgn_code_lt x; omega) g)
theorem plog (x : PlogF) (g : GF) : Statement (.plog x g) :=
  of_some rfl (encG_lt (by decide) (by have := plogF_code_lt x; omega) g)
theorem pred (x : PredF) (g : GF) : Statement (.pred x g) :=
  of_some rfl (encG_lt (by decide) (by have := predF_code_lt x; omega) g)
theorem addi (i : IF) : Statement (.addi i) :=
  of_some rfl (encI_lt (by decide) i)
theorem muli (i : IF) : Statement (.muli i) :=
  of_some rfl (encI_lt (by decide) i)
theorem andi (i : IF) : Statement (.andi i) :=
  of_some rfl (encI_lt (by decide) i)
theorem ori (i : IF) : Statement (.ori i) :=
  of_some rfl (encI_lt (by decide) i)
theorem xori (i : IF) : Statement (.xori i) :=
  of_some rfl (encI_lt (by decide) i)
theorem shli (i : HF) : Statement (.shli i) :=
  of_some rfl (encH_lt (by decide) i)
theorem shri (i : HF) : Statement (.shri i) :=
  of_some rfl (encH_lt (by decide) i)
theorem sari (i : HF) : Statement (.sari i) :=
  of_some rfl (encH_lt (by decide) i)
theorem teqi (i : IF) : Statement (.teqi i) :=
  of_some rfl (encI_lt (by decide) i)
theorem tnei (i : IF) : Statement (.tnei i) :=
  of_some rfl (encI_lt (by decide) i)
theorem tlti (i : IF) : Statement (.tlti i) :=
  of_some rfl (encI_lt (by decide) i)
theorem tltui (i : IF) : Statement (.tltui i) :=
  of_some rfl (encI_lt (by decide) i)
theorem tgei (i : IF) : Statement (.tgei i) :=
  of_some rfl (encI_lt (by decide) i)
theorem tgeui (i : IF) : Statement (.tgeui i) :=
  of_some rfl (encI_lt (by decide) i)
theorem addln (i : IF) : Statement (.addln i) :=
  of_some rfl (encI_lt (by decide) i)
theorem fadd (g : GF) : Statement (.fadd g) :=
  of_some rfl (encG_lt (by decide) (by decide) g)
theorem fsub (g : GF) : Statement (.fsub g) :=
  of_some rfl (encG_lt (by decide) (by decide) g)
theorem fmul (g : GF) : Statement (.fmul g) :=
  of_some rfl (encG_lt (by decide) (by decide) g)
theorem fma (g : GF) : Statement (.fma g) :=
  of_some rfl (encG_lt (by decide) (by decide) g)
theorem fms (g : GF) : Statement (.fms g) :=
  of_some rfl (encG_lt (by decide) (by decide) g)
theorem fnma (g : GF) : Statement (.fnma g) :=
  of_some rfl (encG_lt (by decide) (by decide) g)
theorem fmin (x : NanF) (g : GF) : Statement (.fmin x g) :=
  of_some rfl (encG_lt (by decide) (by have := nanF_code_lt x; omega) g)
theorem fmax (x : NanF) (g : GF) : Statement (.fmax x g) :=
  of_some rfl (encG_lt (by decide) (by have := nanF_code_lt x; omega) g)
theorem fdiv (g : GF) : Statement (.fdiv g) :=
  of_some rfl (encG_lt (by decide) (by decide) g)
theorem fsqrt (g : GF) : Statement (.fsqrt g) :=
  of_some rfl (encG_lt (by decide) (by decide) g)
theorem fapx (x : FapxF) (g : GF) : Statement (.fapx x g) :=
  of_some rfl (encG_lt (by decide) (by have := fapxF_code_lt x; omega) g)
theorem fcmp (x : FcmpF) (g : GF) : Statement (.fcmp x g) :=
  of_some rfl (encG_lt (by decide) (by have := fcmpF_code_lt x; omega) g)
theorem fsgn (x : FsgnF) (g : GF) : Statement (.fsgn x g) :=
  of_some rfl (encG_lt (by decide) (by have := fsgnF_code_lt x; omega) g)
theorem cvtfi (x : CvtfiF) (g : GF) : Statement (.cvtfi x g) :=
  of_some rfl (encG_lt (by decide) (by have := cvtfiF_code_lt x; omega) g)
theorem cvtif (x : Sgn) (g : GF) : Statement (.cvtif x g) :=
  of_some rfl (encG_lt (by decide) (by have := sgn_code_lt x; omega) g)
theorem frnd (x : FrndF) (g : GF) : Statement (.frnd x g) :=
  of_some rfl (encG_lt (by decide) (by have := frndF_code_lt x; omega) g)
theorem fscl (g : GF) : Statement (.fscl g) :=
  of_some rfl (encG_lt (by decide) (by decide) g)
theorem fxtr (x : FxtrF) (g : GF) : Statement (.fxtr x g) :=
  of_some rfl (encG_lt (by decide) (by have := fxtrF_code_lt x; omega) g)
theorem narr (x : NarrF) (g : GF) : Statement (.narr x g) :=
  of_some rfl (encG_lt (by decide) (by have := narrF_code_lt x; omega) g)
theorem spl3 (x : Spl3F) (g : GF) : Statement (.spl3 x g) :=
  of_some rfl (encG_lt (by decide) (by have := spl3F_code_lt x; omega) g)
theorem fred (x : FredF) (g : GF) : Statement (.fred x g) :=
  of_some rfl (encG_lt (by decide) (by have := fredF_code_lt x; omega) g)
theorem fdot (g : GF) : Statement (.fdot g) :=
  of_some rfl (encG_lt (by decide) (by decide) g)
theorem flrp (g : GF) : Statement (.flrp g) :=
  of_some rfl (encG_lt (by decide) (by decide) g)
theorem lperm (g : GF) : Statement (.lperm g) :=
  of_some rfl (encG_lt (by decide) (by decide) g)
theorem lbc (x : BitVec 3) (g : GF) : Statement (.lbc x g) :=
  of_some rfl (encG_lt (by decide) (by omega) g)
theorem lshf (x : BitVec 3) (g : GF) : Statement (.lshf x g) :=
  of_some rfl (encG_lt (by decide) (by omega) g)
theorem lrot (x : BitVec 3) (g : GF) : Statement (.lrot x g) :=
  of_some rfl (encG_lt (by decide) (by omega) g)
theorem lscan (x : FoldF) (g : GF) : Statement (.lscan x g) :=
  of_some rfl (encG_lt (by decide) (by have := foldF_code_lt x; omega) g)
theorem lred (x : FoldF) (g : GF) : Statement (.lred x g) :=
  of_some rfl (encG_lt (by decide) (by have := foldF_code_lt x; omega) g)
theorem lcmp (g : GF) : Statement (.lcmp g) :=
  of_some rfl (encG_lt (by decide) (by decide) g)
theorem lxpd (g : GF) : Statement (.lxpd g) :=
  of_some rfl (encG_lt (by decide) (by decide) g)
theorem ldw (m : MF) : Statement (.ldw m) :=
  of_some rfl (encM_lt (by decide) m)
theorem ldh (m : MF) : Statement (.ldh m) :=
  of_some rfl (encM_lt (by decide) m)
theorem ldhu (m : MF) : Statement (.ldhu m) :=
  of_some rfl (encM_lt (by decide) m)
theorem ldb (m : MF) : Statement (.ldb m) :=
  of_some rfl (encM_lt (by decide) m)
theorem ldbu (m : MF) : Statement (.ldbu m) :=
  of_some rfl (encM_lt (by decide) m)
theorem ldv (m : MF) : Statement (.ldv m) :=
  of_some rfl (encM_lt (by decide) m)
theorem ldc (m : MF) : Statement (.ldc m) :=
  of_some rfl (encM_lt (by decide) m)
theorem ldvs (m : MF) : Statement (.ldvs m) :=
  of_some rfl (encM_lt (by decide) m)
theorem stw (st : SF) : Statement (.stw st) :=
  of_some rfl (encS_lt (by decide) st)
theorem sth (st : SF) : Statement (.sth st) :=
  of_some rfl (encS_lt (by decide) st)
theorem stb (st : SF) : Statement (.stb st) :=
  of_some rfl (encS_lt (by decide) st)
theorem stv (st : SF) : Statement (.stv st) :=
  of_some rfl (encS_lt (by decide) st)
theorem stvs (st : SF) : Statement (.stvs st) :=
  of_some rfl (encS_lt (by decide) st)
theorem clrp (q : LF) (imm : BitVec 8) : Statement (.clrp q imm) :=
  of_some rfl (encL_lt (by decide) (by omega) q)
theorem fence (q : LF) (scope : FenceScope) : Statement (.fence q scope) :=
  of_some rfl (encL_lt (by decide) (by have := fenceScope_code_lt scope; omega) q)
theorem spw (q : LF) (reg : BitVec 6) : Statement (.spw q reg) :=
  of_some rfl (encL_lt (by decide) (by omega) q)
theorem amo (op : AmoOp) (f : AF) : Statement (.amo op f) :=
  of_some rfl (encA_lt (by decide) (by have := amoOp_code_lt op; omega) f)
theorem cas (f : AF) : Statement (.cas f) :=
  of_some rfl (encA_lt (by decide) (by decide) f)
theorem upd (op : BitVec 4) (f : AF) : Statement (.upd op f) :=
  of_some rfl (encA_lt (by decide) (by omega) f)
theorem spr (r : RF) : Statement (.spr r) :=
  of_some rfl (encR_lt (by decide) r)
theorem send (q : LF) (act : TagAct) (ch : BitVec 6) : Statement (.send q act ch) :=
  of_some rfl (encL_lt (by decide) (by have := tagAct_code_lt act; omega) q)
theorem sendm (q : LF) (act : TagAct) (tag : BitVec 8) : Statement (.sendm q act tag) :=
  of_some rfl (encL_lt (by decide) (by have := tagAct_code_lt act; omega) q)
theorem tblock (q : LF) (tag : BitVec 8) : Statement (.tblock q tag) :=
  of_some rfl (encQ_lt (by decide) (by decide) (by omega) q)
theorem tunblk (q : LF) (tag : BitVec 8) : Statement (.tunblk q tag) :=
  of_some rfl (encQ_lt (by decide) (by decide) (by omega) q)
theorem tsalloc (q : LF) (level : BitVec 2) : Statement (.tsalloc q level) :=
  of_some rfl (encQ_lt (by decide) (by decide) (by omega) q)
theorem tsfree (q : LF) (level : BitVec 2) : Statement (.tsfree q level) :=
  of_some rfl (encQ_lt (by decide) (by decide) (by omega) q)
theorem tkill (q : LF) (level : BitVec 2) (depth : BitVec 4) : Statement (.tkill q level depth) :=
  of_some rfl (encQ_lt (by decide) (by decide) (by omega) q)
theorem tbind (q : LF) (tag : BitVec 8) : Statement (.tbind q tag) :=
  of_some rfl (encQ_lt (by decide) (by decide) (by omega) q)
theorem lpeek (e : EF) (link : BitVec 1) (cnt : Bool) : Statement (.lpeek e link cnt) :=
  of_some rfl (encE_lt (by decide) (by decide) (by have := encBit_lt cnt; omega) e)
theorem lpop (q : LF) (link : BitVec 1) (fwd : Bool) (t0 : Target) : Statement (.lpop q link fwd t0) :=
  of_some rfl (encQ_lt (by decide) (by decide) (by have := target_code_lt t0; have := encBit_lt fwd; omega) q)
theorem lpush (q : LF) (out : BitVec 1) : Statement (.lpush q out) :=
  of_some rfl (encQ_lt (by decide) (by decide) (by omega) q)
theorem csig (q : LF) (chan : BitVec 6) (reg : Bool) : Statement (.csig q chan reg) :=
  of_some rfl (encQ_lt (by decide) (by decide) (by have := encBit_lt reg; omega) q)
theorem sdef (q : LF) (unit : BitVec 2) : Statement (.sdef q unit) :=
  of_some rfl (encQ_lt (by decide) (by decide) (by omega) q)
theorem sgo (q : LF) (unit : BitVec 2) (resume : Bool) : Statement (.sgo q unit resume) :=
  of_some rfl (encQ_lt (by decide) (by decide) (by have := encBit_lt resume; omega) q)
theorem sstop (q : LF) (unit : BitVec 2) (rel : Bool) : Statement (.sstop q unit rel) :=
  of_some rfl (encQ_lt (by decide) (by decide) (by have := encBit_lt rel; omega) q)
theorem sbar (q : LF) (mask : BitVec 4) (mx : Bool) : Statement (.sbar q mask mx) :=
  of_some rfl (encQ_lt (by decide) (by decide) (by have := encBit_lt mx; omega) q)
theorem scond (q : LF) (unit : BitVec 2) (alt : BitVec 6) : Statement (.scond q unit alt) :=
  of_some rfl (encQ_lt (by decide) (by decide) (by omega) q)
theorem sfmt (q : LF) (unit : BitVec 2) : Statement (.sfmt q unit) :=
  of_some rfl (encQ_lt (by decide) (by decide) (by omega) q)
theorem mxstat (e : EF) : Statement (.mxstat e) :=
  of_some rfl (encE_lt (by decide) (by decide) (by decide) e)
theorem mxcfg (q : LF) (rel : Bool) : Statement (.mxcfg q rel) :=
  of_some rfl (encQ_lt (by decide) (by decide) (by have := encBit_lt rel; omega) q)
theorem mxldb (q : LF) (bank : BitVec 1) (strm : Bool) : Statement (.mxldb q bank strm) :=
  of_some rfl (encQ_lt (by decide) (by decide) (by have := encBit_lt strm; omega) q)
theorem mxrun (q : LF) : Statement (.mxrun q) :=
  of_some rfl (encQ_lt (by decide) (by decide) (by decide) q)
theorem mxout (q : LF) : Statement (.mxout q) :=
  of_some rfl (encQ_lt (by decide) (by decide) (by decide) q)
theorem mxclr (q : LF) (first : BitVec 6) (countM1 : BitVec 6) : Statement (.mxclr q first countM1) :=
  of_some rfl (encQ_lt (by decide) (by decide) (by omega) q)
theorem bstat (e : EF) (bn : BitVec 7) : Statement (.bstat e bn) :=
  of_some rfl (encE_lt (by decide) (by decide) (by omega) e)
theorem binit (q : LF) (bn : BitVec 7) : Statement (.binit q bn) :=
  of_some rfl (encQ_lt (by decide) (by decide) (by omega) q)
theorem arv (q : LF) (bn : BitVec 7) : Statement (.arv q bn) :=
  of_some rfl (encQ_lt (by decide) (by decide) (by omega) q)
theorem arvd (q : LF) (bn : BitVec 7) : Statement (.arvd q bn) :=
  of_some rfl (encQ_lt (by decide) (by decide) (by omega) q)
theorem joinb (q : LF) (bn : BitVec 7) : Statement (.joinb q bn) :=
  of_some rfl (encQ_lt (by decide) (by decide) (by omega) q)
theorem leaveb (q : LF) (bn : BitVec 7) : Statement (.leaveb q bn) :=
  of_some rfl (encQ_lt (by decide) (by decide) (by omega) q)
theorem joinc (q : LF) (gt : BitVec 8) : Statement (.joinc q gt) :=
  of_some rfl (encQ_lt (by decide) (by decide) (by omega) q)
theorem leavec (q : LF) (gt : BitVec 8) : Statement (.leavec q gt) :=
  of_some rfl (encQ_lt (by decide) (by decide) (by omega) q)
theorem cstat (e : EF) : Statement (.cstat e) :=
  of_some rfl (encE_lt (by decide) (by decide) (by decide) e)
theorem cpath (e : EF) (path : BitVec 4) : Statement (.cpath e path) :=
  of_some rfl (encE_lt (by decide) (by decide) (by omega) e)
theorem cstart (q : LF) (gt : BitVec 8) : Statement (.cstart q gt) :=
  of_some rfl (encQ_lt (by decide) (by decide) (by omega) q)
theorem cabort (q : LF) (gt : BitVec 8) : Statement (.cabort q gt) :=
  of_some rfl (encQ_lt (by decide) (by decide) (by omega) q)
theorem settle (q : LF) (entry : BitVec 5) (verdict : Verdict) : Statement (.settle q entry verdict) :=
  of_some rfl (encQ_lt (by decide) (by decide) (by have := verdict_code_lt verdict; omega) q)
theorem cut (q : LF) (reply : BitVec 8) (sub : BitVec 1) : Statement (.cut q reply sub) :=
  of_some rfl (encQ_lt (by decide) (by decide) (by omega) q)
theorem save (q : LF) (reply : BitVec 8) : Statement (.save q reply) :=
  of_some rfl (encQ_lt (by decide) (by decide) (by omega) q)
theorem restore (q : LF) (reply : BitVec 8) (sub : BitVec 1) : Statement (.restore q reply sub) :=
  of_some rfl (encQ_lt (by decide) (by decide) (by omega) q)
theorem scribe (q : LF) (reply : BitVec 8) : Statement (.scribe q reply) :=
  of_some rfl (encQ_lt (by decide) (by decide) (by omega) q)
theorem sflip (q : LF) (reply : BitVec 8) (sub : BitVec 1) : Statement (.sflip q reply sub) :=
  of_some rfl (encQ_lt (by decide) (by decide) (by omega) q)
theorem selftest (q : LF) (reply : BitVec 8) : Statement (.selftest q reply) :=
  of_some rfl (encQ_lt (by decide) (by decide) (by omega) q)
theorem sister (q : LF) (reply : BitVec 8) (sub : BitVec 1) : Statement (.sister q reply sub) :=
  of_some rfl (encQ_lt (by decide) (by decide) (by omega) q)
theorem takeover (q : LF) (reply : BitVec 8) : Statement (.takeover q reply) :=
  of_some rfl (encQ_lt (by decide) (by decide) (by omega) q)
theorem clksel (q : LF) (reply : BitVec 8) (sub : BitVec 1) : Statement (.clksel q reply sub) :=
  of_some rfl (encQ_lt (by decide) (by decide) (by omega) q)
theorem winset (q : LF) (reply : BitVec 8) : Statement (.winset q reply) :=
  of_some rfl (encQ_lt (by decide) (by decide) (by omega) q)
theorem bindset (q : LF) (reply : BitVec 8) : Statement (.bindset q reply) :=
  of_some rfl (encQ_lt (by decide) (by decide) (by omega) q)
theorem cfgstat (e : EF) : Statement (.cfgstat e) :=
  of_some rfl (encE_lt (by decide) (by decide) (by decide) e)
theorem cfgreq (q : LF) (grant : BitVec 8) : Statement (.cfgreq q grant) :=
  of_some rfl (encQ_lt (by decide) (by decide) (by omega) q)
theorem cfgrel (q : LF) (reply : BitVec 8) : Statement (.cfgrel q reply) :=
  of_some rfl (encQ_lt (by decide) (by decide) (by omega) q)
theorem spawn (q : LF) (ctx : BitVec 3) (cls : BitVec 2) : Statement (.spawn q ctx cls) :=
  of_some rfl (encQ_lt (by decide) (by decide) (by omega) q)
theorem mapsel (q : LF) (map : BitVec 2) (reply : BitVec 8) : Statement (.mapsel q map reply) :=
  of_some rfl (encQ_lt (by decide) (by decide) (by omega) q)
theorem trap (x : XF) (code : BitVec 20) : Statement (.trap x code) :=
  of_some rfl (encX_lt (by decide) (by omega) x)
theorem tokenArrival (n : Nat) : Statement (.tokenArrival n) := of_none rfl
theorem activationStart (cell : Nat) (ctx : Nat) : Statement (.activationStart cell ctx) := of_none rfl
theorem blockCommit (cell : Nat) (ctx : Nat) : Statement (.blockCommit cell ctx) := of_none rfl
theorem quiescenceFault (cell : Nat) (ctx : Nat) : Statement (.quiescenceFault cell ctx) := of_none rfl
theorem lateFaultDelivery (cell : Nat) (ctx : Nat) : Statement (.lateFaultDelivery cell ctx) := of_none rfl
theorem idleLateTrap (cell : Nat) (ctx : Nat) : Statement (.idleLateTrap cell ctx) := of_none rfl
theorem class0Interjection (cell : Nat) (ctx : Nat) : Statement (.class0Interjection cell ctx) := of_none rfl
theorem nopreExpiry (cell : Nat) (ctx : Nat) : Statement (.nopreExpiry cell ctx) := of_none rfl
theorem updateActivationStart (cell : Nat) : Statement (.updateActivationStart cell) := of_none rfl
theorem atomicHandler (cell : Nat) : Statement (.atomicHandler cell) := of_none rfl
theorem remoteRequestPerform (n : Nat) : Statement (.remoteRequestPerform n) := of_none rfl
theorem presenceRetry (n : Nat) : Statement (.presenceRetry n) := of_none rfl
theorem replyArrival (n : Nat) (far : Option FarAnswer) : Statement (.replyArrival n far) := of_none rfl
theorem entryAck (n : Nat) (far : Option FarAnswer) : Statement (.entryAck n far) := of_none rfl
theorem entryRefused (n : Nat) (far : Option FarAnswer) : Statement (.entryRefused n far) := of_none rfl
theorem winsetApply (cell : Nat) (ctx : Nat) : Statement (.winsetApply cell ctx) := of_none rfl
theorem streamStartPulse (cell : Nat) (unit : Nat) : Statement (.streamStartPulse cell unit) := of_none rfl
theorem streamAltPulse (cell : Nat) (unit : Nat) : Statement (.streamAltPulse cell unit) := of_none rfl
theorem streamElement (cell : Nat) (unit : Nat) : Statement (.streamElement cell unit) := of_none rfl
theorem streamFinish (cell : Nat) (unit : Nat) : Statement (.streamFinish cell unit) := of_none rfl
theorem engineCommandStart (cell : Nat) (engine : Nat) : Statement (.engineCommandStart cell engine) := of_none rfl
theorem mxldbBankReady (cell : Nat) : Statement (.mxldbBankReady cell) := of_none rfl
theorem mxrunRowFire (cell : Nat) : Statement (.mxrunRowFire cell) := of_none rfl
theorem mxoutReadoutDone (cell : Nat) : Statement (.mxoutReadoutDone cell) := of_none rfl
theorem barrierArrival (n : Nat) : Statement (.barrierArrival n) := of_none rfl
theorem arrivalResend (n : Nat) : Statement (.arrivalResend n) := of_none rfl
theorem homeBarrierUpdate (n : Nat) : Statement (.homeBarrierUpdate n) := of_none rfl
theorem killFilterSet (n : Nat) : Statement (.killFilterSet n) := of_none rfl
theorem killFilterClear (n : Nat) : Statement (.killFilterClear n) := of_none rfl
theorem controlPulse (n : Nat) : Statement (.controlPulse n) := of_none rfl
theorem linkValueArrival (n : Nat) : Statement (.linkValueArrival n) := of_none rfl
theorem collectiveStart (cell : Nat) (ctx : Nat) : Statement (.collectiveStart cell ctx) := of_none rfl
theorem collectivePacketCheck (n : Nat) : Statement (.collectivePacketCheck n) := of_none rfl
theorem poisonNotice (n : Nat) : Statement (.poisonNotice n) := of_none rfl
theorem collectiveFinish (cell : Nat) (ctx : Nat) : Statement (.collectiveFinish cell ctx) := of_none rfl
theorem slotOpen (cell : Nat) : Statement (.slotOpen cell) := of_none rfl
theorem slotEnd (cell : Nat) : Statement (.slotEnd cell) := of_none rfl
theorem slotExpiry (cell : Nat) : Statement (.slotExpiry cell) := of_none rfl
theorem spawnAccept (n : Nat) : Statement (.spawnAccept n) := of_none rfl
theorem spawnAck (n : Nat) : Statement (.spawnAck n) := of_none rfl
theorem spawnHoldRelease (cell : Nat) (ctx : Nat) : Statement (.spawnHoldRelease cell ctx) := of_none rfl
theorem cfgreqService (n : Nat) : Statement (.cfgreqService n) := of_none rfl
theorem configurationSelect (n : Nat) : Statement (.configurationSelect n) := of_none rfl
theorem drainSweep (region : Nat) : Statement (.drainSweep region) := of_none rfl
theorem labelHop (n : Nat) : Statement (.labelHop n) := of_none rfl
theorem dynamicHop (n : Nat) : Statement (.dynamicHop n) := of_none rfl
theorem heldLaunchRelease (k : Nat) : Statement (.heldLaunchRelease k) := of_none rfl
theorem energyUpdate (cell : Nat) : Statement (.energyUpdate cell) := of_none rfl
theorem cutStartPeg (n : Nat) : Statement (.cutStartPeg n) := of_none rfl
theorem savePoint (cell : Nat) : Statement (.savePoint cell) := of_none rfl
theorem fixedPartWritten (cell : Nat) : Statement (.fixedPartWritten cell) := of_none rfl
theorem recordedMessage (n : Nat) : Statement (.recordedMessage n) := of_none rfl
theorem cutSweep (region : Nat) : Statement (.cutSweep region) := of_none rfl
theorem earlyCut (cell : Nat) : Statement (.earlyCut cell) := of_none rfl
theorem contextSave (cell : Nat) (ctx : Nat) : Statement (.contextSave cell ctx) := of_none rfl
theorem savedContextUpdate (n : Nat) : Statement (.savedContextUpdate n) := of_none rfl
theorem rollback (region : Nat) : Statement (.rollback region) := of_none rfl
theorem sisterSync (cell : Nat) : Statement (.sisterSync cell) := of_none rfl
theorem commitMirror (cell : Nat) : Statement (.commitMirror cell) := of_none rfl
theorem takeoverSwap (cell : Nat) : Statement (.takeoverSwap cell) := of_none rfl
theorem mgmtAccess (n : Nat) : Statement (.mgmtAccess n) := of_none rfl
theorem scribeStage (n : Nat) : Statement (.scribeStage n) := of_none rfl
theorem sflipTick (n : Nat) : Statement (.sflipTick n) := of_none rfl
theorem hostPageWalk (n : Nat) : Statement (.hostPageWalk n) := of_none rfl
theorem rmaCompletion (message : Nat) : Statement (.rmaCompletion message) := of_none rfl
theorem contextRestore (n : Nat) : Statement (.contextRestore n) := of_none rfl
theorem nextBlockPrediction (cell : Nat) (ctx : Nat) (hdr : Nat) : Statement (.nextBlockPrediction cell ctx hdr) := of_none rfl
theorem jobLoad (job : JobDesc) : Statement (.jobLoad job) := of_none rfl
theorem launch (tenant : Nat) (payload : List Word) : Statement (.launch tenant payload) := of_none rfl
theorem bayPowerSample (bay : Nat) : Statement (.bayPowerSample bay) := of_none rfl
theorem budgetExceeded (bay : Nat) (region : Nat) (allow : Word) : Statement (.budgetExceeded bay region allow) := of_none rfl
theorem isdutyWrite (cell : Nat) (value : Word) : Statement (.isdutyWrite cell value) := of_none rfl
theorem bvsetWrite (bay : Nat) (value : Word) : Statement (.bvsetWrite bay value) := of_none rfl
theorem regulatorSettled (bay : Nat) : Statement (.regulatorSettled bay) := of_none rfl
theorem tripClear (bay : Nat) : Statement (.tripClear bay) := of_none rfl
theorem tempWarn (bay : Nat) (temp : Nat) : Statement (.tempWarn bay temp) := of_none rfl
theorem droop (bay : Nat) : Statement (.droop bay) := of_none rfl
theorem currentCap (bay : Nat) : Statement (.currentCap bay) := of_none rfl
theorem quarterRate (bay : Nat) : Statement (.quarterRate bay) := of_none rfl
theorem rateRecovery (bay : Nat) : Statement (.rateRecovery bay) := of_none rfl
theorem thermalTrip (bay : Nat) (temp : Nat) : Statement (.thermalTrip bay temp) := of_none rfl
theorem spineRelock (spine : Nat) : Statement (.spineRelock spine) := of_none rfl
theorem cutAbort (region : Nat) (cell : Nat) : Statement (.cutAbort region cell) := of_none rfl
theorem spareCopyDone (dead : Nat) (spare : Nat) : Statement (.spareCopyDone dead spare) := of_none rfl
theorem automaticTakeover (cell : Nat) : Statement (.automaticTakeover cell) := of_none rfl
theorem selfTestDue (cell : Nat) (spare : Nat) : Statement (.selfTestDue cell spare) := of_none rfl
theorem deadlockSweep (region : Nat) : Statement (.deadlockSweep region) := of_none rfl
theorem markCell (cell : Nat) : Statement (.markCell cell) := of_none rfl
theorem registerWrite (reg : RegName) (value : Word) : Statement (.registerWrite reg value) := of_none rfl
theorem bundleVerify (bundle : ScribeBundle) : Statement (.bundleVerify bundle) := of_none rfl
theorem boot (bundle : FwBundle) : Statement (.boot bundle) := of_none rfl
theorem bayReset (bay : Nat) : Statement (.bayReset bay) := of_none rfl
theorem moduleReset (forced : Bool) : Statement (.moduleReset forced) := of_none rfl
theorem tenantScrub (bay : Nat) (tenant : Nat) : Statement (.tenantScrub bay tenant) := of_none rfl
theorem quote (tenant : Nat) (nonce : List Byte) : Statement (.quote tenant nonce) := of_none rfl
theorem keyEncapsulation (tenant : Nat) (ciphertext : List Byte) : Statement (.keyEncapsulation tenant ciphertext) := of_none rfl
theorem hostAccess (access : HostOp) : Statement (.hostAccess access) := of_none rfl
theorem hostAtomic (access : HostRmw) : Statement (.hostAtomic access) := of_none rfl
theorem invalidation (port : Nat) (lo : Nat) (hi : Nat) : Statement (.invalidation port lo hi) := of_none rfl
theorem laser (port : Nat) (on : Bool) : Statement (.laser port on) := of_none rfl
theorem up (port : Nat) (on : Bool) : Statement (.up port on) := of_none rfl
theorem llr (port : Nat) (on : Bool) : Statement (.llr port on) := of_none rfl
theorem lock (port : Nat) : Statement (.lock port) := of_none rfl
theorem train (port : Nat) : Statement (.train port) := of_none rfl
theorem abort (port : Nat) : Statement (.abort port) := of_none rfl
theorem laserokChange (port : Nat) (ok : Bool) : Statement (.laserokChange port ok) := of_none rfl
theorem lockEnd (port : Nat) (codes : List (Option Nat)) : Statement (.lockEnd port codes) := of_none rfl
theorem trainEnd (port : Nat) (margins : List (Nat × Nat)) : Statement (.trainEnd port margins) := of_none rfl
theorem linkChange (port : Nat) (up : Bool) : Statement (.linkChange port up) := of_none rfl
theorem ringLockLoss (port : Nat) (ring : Nat) : Statement (.ringLockLoss port ring) := of_none rfl
theorem rmaWritePlacement (packet : RmaPacket) : Statement (.rmaWritePlacement packet) := of_none rfl
theorem sendMessageReceive (message : UecSend) : Statement (.sendMessageReceive message) := of_none rfl
theorem pathUnusable (peer : Nat) (path : Nat) : Statement (.pathUnusable peer path) := of_none rfl
theorem pathProbe (peer : Nat) (path : Nat) (sample : PathSample) : Statement (.pathProbe peer path sample) := of_none rfl
theorem telemetrySample (bay : Nat) : Statement (.telemetrySample bay) := of_none rfl
theorem bayAbsent (bay : Nat) : Statement (.bayAbsent bay) := of_none rfl
theorem flowAlarm : Statement .flowAlarm := of_none rfl
theorem flowRestore : Statement .flowRestore := of_none rfl
theorem firmwareUpload (bundle : FwBundle) : Statement (.firmwareUpload bundle) := of_none rfl
theorem rollbackCounterRaise (version : Nat) : Statement (.rollbackCounterRaise version) := of_none rfl
theorem selftestPeriodSet (hours : Nat) : Statement (.selftestPeriodSet hours) := of_none rfl
theorem defectReport : Statement .defectReport := of_none rfl
theorem loftRowRemap (cell : Nat) (bank : Nat) (row : Nat) : Statement (.loftRowRemap cell bank row) := of_none rfl
theorem loftRefresh (cell : Nat) (bank : Nat) : Statement (.loftRefresh cell bank) := of_none rfl
theorem rowIdleClose (cell : Nat) (bank : Nat) : Statement (.rowIdleClose cell bank) := of_none rfl
theorem selftestEnd (cell : Nat) (failing : Option Nat) : Statement (.selftestEnd cell failing) := of_none rfl
theorem envelopeAlarm : Statement .envelopeAlarm := of_none rfl
theorem attestationExtend (index : Nat) (digest : List Byte) : Statement (.attestationExtend index digest) := of_none rfl
theorem liveFirmwareLoad (bay : Nat) : Statement (.liveFirmwareLoad bay) := of_none rfl

end Sys2Proof.Laws.Encoding
end

