-- ==== Sys2Proof/Tests/Slice0.lean ====
section
/-! SUPPORT. Tests of the model: ill-formed terms, words written out from the spec's encodings, single steps whose results come from
the spec, and for every statement of the obligations a state and operands that meet its hypotheses. -/


namespace Sys2Proof.Tests

/-! The tests are checked one after another: kernel evaluations side by side would take a thread and its stack each. -/

set_option Elab.async false

open Sys2Proof Sys2Proof.Machine Sys2Proof.Claim

/-- Operands for the operand slots that an instruction uses. -/
def fill (i : Instr) (a b c : Val) : Slot where
  a := if usesA i then some a else none
  b := if usesB i then some b else none
  c := if usesC i then some c else none
  p := if prOf i == .always then none else some (Lanes.all (some 1))

/-- A block that declares every side effect and holds one instruction in slot 1. -/
def blockOf (i : Instr) (o : Slot) : Frame where
  serial := 3
  hdr := 0x100
  h1 := 0xFFFFFFFF
  h2 := 0xFFFFFFFF
  h3 := 0xFFFFFFFF
  nread := 0
  nopre := false
  descs := []
  words := [0x87000000, wordOf ((encodeNat i).getD 0)]
  lits := [7]
  slots := [(1, o)]

/-- A state whose cell `c` runs context `x` with block `f`, focused on slot 1. -/
def bench (c x : Nat) (v : Context) (k : Core) (f : Frame) : State :=
  { State.reset with
    cells := [(c, { inReset := false, core := { k with ctxs := [(x, { v with st := .running, frame := some f })] } })]
    focus := ⟨c, x, 1⟩ }

/-- The block of one instruction with its operands. -/
abbrev blk (i : Instr) (a b c : Val := Val.allNull) : Frame := blockOf i (fill i a b c)

/-- An instruction with its operands, ready in context 0 of cell 0. -/
abbrev stage (i : Instr) (a b c : Val := Val.allNull) : State := bench 0 0 {} {} (blk i a b c)

/-- One word in every lane. -/
def all (w : Word) : Val := Lanes.all (some w)

/-- One word in one lane. -/
def only (l : Nat) (w : Word) : Val := Lanes.ofFn fun k => if k = l then some w else none

/-- Format G fields whose result goes to a register and nowhere else. -/
def gf : GF := ⟨.always, .none, .w 63⟩

/-- Side effect 31. -/
def lf : LF := ⟨.always, 31⟩

/-- A context whose window 0 is 256 bytes of its cell's SRAM in a mode: 0 RANDOM, 1 STREAM, 2 PRESENCE, 3 UPDATE. -/
def near (mode : Nat) : Context := { wins := [(0, { w0 := wordOf (0x80000000 + mode * 0x4000000), w2 := 256 })] }

/-- A condition on the acting lanes of an access holds if it holds of the eight lanes one by one. -/
theorem lanes_meet {m : Nat → Bool} {g : Nat → Option Word} {P : Nat → Word → Prop} [∀ l a, Decidable (P l a)]
    (h : ∀ l, l < 8 → (m l && (match g l with | none => false | some a => !decide (P l a))) = false) :
    ∀ l a, l < 8 → m l = true → g l = some a → P l a := by
  intro l a hl hm hg
  simpa [hm, hg] using h l hl

/-- The same for accesses that use B. -/
theorem lanes_meet₂ {m : Nat → Bool} {g k : Nat → Option Word} {P : Nat → Word → Word → Prop} [∀ l a b, Decidable (P l a b)]
    (h : ∀ l, l < 8 → (m l && (match g l, k l with | some a, some b => !decide (P l a b) | _, _ => false)) = false) :
    ∀ l a b, l < 8 → m l = true → g l = some a → k l = some b → P l a b := by
  intro l a b hl hm hg hk
  simpa [hm, hg, hk] using h l hl

/-- A block that has counted what it declares and its exit, with the acts and register values it leaves to its commit. -/
def over_ (k : ExitKind) (effs : List Eff) (regs : Tbl Val) : Frame :=
  { blockOf (.endBlk ⟨.always, 0⟩) {} with
    h2 := 0, h3 := 0, counted := 0xFFFFFFFF, exit := some (k, 2), effs := effs, regs := regs }

/-- The conditions of `Finished`, as one decidable condition. -/
theorem finished {s : State} {c x : Nat} {f : Frame} {k : ExitKind}
    (h : x < 4 ∧ (ctxOf s c x).frame = some f ∧ f.exit = some (k, 2) ∧ f.counted &&& f.h1 = f.h1 ∧ f.wroteLo &&& f.h2 = f.h2 ∧
      f.wroteHi &&& f.h3 = f.h3 ∧ coreActs s c = true ∧ (cellOf s c).sister = none ∧ (ctxOf s c 4).frame = none ∧
      (∀ y, y < 4 → (ctxOf s c y).spec = []) ∧ (∀ e ∈ (ctxOf s c x).pend, e.2.st = .free) ∧ f.eats = [] ∧ f.takes = [] ∧
      (ctxOf s c x).tuple = none ∧ allDecoded f = true ∧ ((ctxOf s c x).nopre = true → (ctxOf s c x).nopreb ≠ 0) ∧
      (∀ y, y < 4 → y ≠ x → (ctxOf s c y).frame = none) ∧ (coreOf s c).updQ = []) : Finished s c x f k :=
  let ⟨a, b, d, e, g, i, j, l, m, n, o, p, q, r, t, u, v, w⟩ := h
  ⟨a, b, ⟨2, d⟩, e, g, i, j, l, m, n, o, p, q, r, t, u, (fun y _ hy hx hz => nomatch (v y hy hx).symm.trans hz), w⟩

/-- The state with cell `c` at the origin of region 0, `w` by `h` cells, itself the collective home of context `x`. -/
def place (c x w h : Nat) (s : State) : State :=
  let b : Word := wordOf (0xB0000000 + x * 0x800000)
  let g : Region := { st := .resident, w := w, h := h, ox := c % 32, oy := c / 32 }
  { modCell s c fun y => { y with
      region := some 0, regdim := wordOf (h * 65536 + w), shadow := some { bindings := [(0xE0, b)] } }
    with regions := [(0, g)] }

/-- A block whose instruction has a predicate of nulls, so that no lane matches. -/
abbrev unmatched (i : Instr) : Frame := { blk i Val.allNull Val.allNull Val.allNull with slots := [(1, { fill i Val.allNull Val.allNull Val.allNull with p := some Val.allNull })] }

/-- Side effect 31 under a predicate. -/
def lp : LF := ⟨.onTrue, 31⟩

/-- No lane of A is present. -/
theorem no_lane {i : Instr} {o : Slot} (h : ∀ l, l < 8 → laneA o l = none) : ¬ AnyA i o :=
  fun ⟨l, _, hl, _, ha⟩ => nomatch (h l hl).symm.trans ha

/-- The frame of a delivery that succeeds. -/
def got (e : Except BFault Frame) : Frame := match e with | .ok f => f | .error _ => blockOf (.endBlk ⟨.always, 0⟩) {}

theorem got_eq {e : Except BFault Frame} (h : e.isOk = true) : e = .ok (got e) := by
  cases e with
  | ok f => rfl
  | error x => cases h

/-- A running core `c` and nothing else. -/
def solo (c : Nat) (k : Core) : State := { State.reset with cells := [(c, { inReset := false, core := k })] }

/-- A running core `c` with one context. -/
abbrev soloCtx (c x : Nat) (v : Context) (k : Core := {}) : State := solo c { k with ctxs := [(x, v)] }

/-- The state with one message in flight, at core `c` in a state `s`. -/
def mail (src c vc : Nat) (b : Body) (s : State) : State :=
  { s with net := [{ src := src, dst := c, at_ := c, vc := vc, body := b }] }

/-- Cell 0 as the collective home of context 0, with its shadow tags 0xE0 and 0xEF bound. -/
def home (v : Context) (k : Core := {}) : State :=
  modCell (place 0 0 1 1 (soloCtx 0 0 v k)) 0 fun x =>
    { x with shadow := some { bindings := [(0xE0, 0xB0000100), (0xEF, 0xB0000100)] } }

/-- The conditions of `oneWord`, as one decidable condition. -/
theorem one_word {u : SUnit} {base : Word} {k : Nat}
    (h : u.desc[0]? = some base ∧ (∀ j, j < 5 → 1 ≤ j → u.desc[j]? = some 1) ∧ u.desc[5]? = some 17 ∧
      (u.desc[6]?.map fun w => (w.extractLsb' 0 2).toNat) = some k ∧ u.next = 0 ∧ u.st = .running ∧ u.queued = false ∧ u.asked = [] ∧
      u.got = []) : oneWord u base k :=
  let ⟨a, b, c, d, e⟩ := h
  ⟨a, fun j h1 h4 => b j (Nat.lt_succ_of_le h4) h1, c, Option.map_eq_some_iff.mp d, e⟩


/-- Where no place is free, there is no nearest one. -/
theorem nearest_none {s : State} {t w h : Nat} (hf : ∀ ox oy, placeFree s t w h ox oy = false) (cx cy : Nat) :
    nearestPlace s t w h cx cy = none := by
  simp [nearestPlace, hf]

/-- A place at distance 1 is the nearest when the requester's own is taken. -/
theorem nearest_at_one {s : State} {t w h : Nat} {o : Nat × Nat} (h0 : placeFree s t w h 0 0 = false)
    (h1 : ((List.range 1024).findSome? fun b => (List.range 30).findSome? fun y => (List.range 30).findSome? fun x =>
      if hopsBetween 0 0 (30 * (b % 32) + x) (30 * (b / 32) + y) = 1 ∧
          placeFree s t w h (30 * (b % 32) + x) (30 * (b / 32) + y) = true then
        some (30 * (b % 32) + x, 30 * (b / 32) + y) else none) = some o) : nearestPlace s t w h 0 0 = some o := by
  have hz : ∀ x y, x < 960 → y < 960 → ¬(hopsBetween 0 0 x y = 0 ∧ placeFree s t w h x y = true) := by
    rintro x y hx hy ⟨hd, hp⟩
    have : x = 0 ∧ y = 0 := by
      simp only [hopsBetween, torusDelta] at hd
      split at hd <;> split at hd <;> omega
    rw [this.1, this.2, h0] at hp
    cases hp
  have e : List.range 961 = 0 :: 1 :: ((List.range 959).map (· + 2)) := by decide +kernel
  unfold nearestPlace
  rw [e, List.findSome?_cons, List.findSome?_cons, h1]
  have h2 : ((List.range 1024).findSome? fun b => (List.range 30).findSome? fun y => (List.range 30).findSome? fun x =>
      if hopsBetween 0 0 (30 * (b % 32) + x) (30 * (b / 32) + y) = 0 ∧
          placeFree s t w h (30 * (b % 32) + x) (30 * (b / 32) + y) = true then
        some (30 * (b % 32) + x, 30 * (b / 32) + y) else none) = none := by
    simp only [List.findSome?_eq_none_iff, List.mem_range]
    intro b hb y hy x hx
    exact if_neg (hz _ _ (by omega) (by omega))
  rw [h2]

/-- No place is free where the one cell out of reset is in a region. -/
theorem no_place {s : State} {k : Cell} (hc : s.cells = [(0, k)]) (hr : k.region ≠ none) (t ox oy : Nat) :
    placeFree s t 1 1 ox oy = false := by
  have h : ∀ c, ((regionOf s c).isNone && !(cellOf s c).inReset) = false := by
    intro c
    by_cases e : 0 = c
    · simp [regionOf, cellOf, hc, Tbl.get, ← e, hr]
    · simp [regionOf, cellOf, hc, Tbl.get, e]
  simp [placeFree, h]

/-- A request that finds no place is not served. -/
theorem serve_none {s : State} {k : Cell} (hc : s.cells = [(0, k)]) (hr : k.region ≠ none) (c x : Nat) (d : RegionDesc)
    (hd : d.w = 1 ∧ d.h = 1) (l : Word) : serveRequest s c x ⟨d, [], []⟩ l = none := by
  unfold serveRequest
  dsimp only
  split
  · rw [hd.1, hd.2, nearest_none fun ox oy => no_place hc hr _ ox oy]
  · rfl

/-- The region of a request of region `q` at its place. -/
abbrev servedAt (s : State) (q r : Nat) (d : RegionDesc) (o : Nat × Nat) : Option State :=
  loadRegion (claimRegion s r d o.1 o.2 (regionAt s q).tenant (regionAt s q).job (regionAt s q).notices false
    (regionAt s q).runtime) r

/-- A request of core 0 that finds its place, and whose region loads there, is served. -/
theorem serve_some {s : State} {c x q r : Nat} {d : RegionDesc} {l : Word} {o : Nat × Nat} (hr : regionOf s c = some q)
    (hl : logicalOf s c = some (0, 0)) (hf : freeRegion s = some r)
    (hn : nearestPlace s (regionAt s q).tenant d.w d.h 0 0 = some o) (hu : (servedAt s q r d o).isSome = true) :
    serveRequest s c x ⟨d, [], []⟩ l = some (unblockTags (modRegion ((servedAt s q r d o).getD {}) r fun g => { g with links := [] })
      c (bits l 12 8) (bits l 20 4), r) := by
  obtain ⟨u, hu⟩ := Option.isSome_iff_exists.mp hu
  rw [hu]
  simp only [servedAt] at hu
  simp [serveRequest, hl, hf, hr, hn, hu, linkInputs, linkOutputs]

/-- What an operation that succeeds answers. -/
theorem some_getD {α : Type} {o : Option α} (d : α) (h : o.isSome = true) : o = some (o.getD d) := by
  cases o with
  | some a => rfl
  | none => cases h

/-- The same for an operation that answers a pair. -/
theorem some_pair {α β : Type} {o : Option (α × β)} {p : α × β} (d : α × β) (hp : p = o.getD d) (h : o.isSome = true) :
    o = some (p.1, p.2) := by
  subst hp
  cases o with
  | some a => rfl
  | none => cases h

/-- A region of one cell that holds nothing, with its image: a header and a region record, then the CRC-32 of those words (R244). -/
def aRegion : RegionDesc :=
  { w := 1, h := 1, pool := 128, origin := some (0, 0), core := none, mappings := [(0, [])],
    image := [0x01000004, 0x414D4931, 1, 0, 1, 0x02000003, 0, 0x00010001, 128, 0x0B000001, 0x0E48732D] }

/-- What holds of an optional value. -/
theorem of_some {α : Type} {o : Option α} {P : α → Prop} (h : match o with | some q => P q | none => True) : ∀ q, o = some q → P q := by
  rintro q rfl
  exact h

/-- The same for a Boolean condition. -/
theorem of_all {α : Type} {o : Option α} {p : α → Bool} (h : o.all p = true) : ∀ q, o = some q → p q = true := by
  rintro q rfl
  exact h

/-- What holds of the one value that an optional value holds. -/
theorem of_only {α : Type} {o : Option α} {P : α → Prop} (a : α) (h : o = some a) (hp : P a) : ∀ d, o = some d → P d := by
  rintro d hd
  obtain rfl := Option.some_inj.mp (h.symm.trans hd)
  exact hp

/-- What holds of the frames of the other contexts of a bench, which hold none. -/
theorem no_other {c x : Nat} {v : Context} {k : Core} {f : Frame} {P : Frame → Prop} :
    ∀ y g, y ≠ x → (ctxOf (bench c x v k f) c y).frame = some g → P g := by
  intro y g hy h
  simp [bench, ctxOf, coreOf, cellOf, Tbl.get, Ne.symm hy] at h

/-- What holds of an element holds of every member of its repetition. -/
theorem all_same {α : Type} {n : Nat} {x : α} {P : α → Prop} (h : P x) : ∀ y ∈ List.replicate n x, P y :=
  fun _ hy => List.eq_of_mem_replicate hy ▸ h

/-- The engine holds the number 1 in every mode. -/
theorem holds_one {mode : BitVec 3} : Holds mode (intEl 1) :=
  ⟨⟨false, 1, 0, rfl, by decide, by decide, by decide +kernel⟩, fun _ => ⟨1, rfl⟩⟩

/-- An accumulator that holds zero is within reach. -/
theorem bounded_zero {mode : BitVec 3} : Bounded mode elZero := by
  refine ⟨rfl, ?_⟩
  unfold total
  split <;> decide +kernel

/-- The failure of a save, as the model's condition. -/
theorem save_fails {s : State} {c : Nat} (h : saveFails s c = true) : SaveFailsAt s c := by
  unfold saveFails at h
  unfold SaveFailsAt
  by_cases hp : (cellOf s c).savedPoint = true <;> simp_all

/-- A save that goes on. -/
theorem saves {s : State} {c : Nat} (h : saveFails s c = false) : ¬ SaveFailsAt s c := by
  unfold saveFails at h
  unfold SaveFailsAt
  by_cases hp : (cellOf s c).savedPoint = true <;> simp_all

/-- The same for every cell of a list. -/
theorem all_save {s : State} {l : List Nat} (h : l.all (fun c => !saveFails s c) = true) : ∀ c ∈ l, ¬ SaveFailsAt s c :=
  fun c hc => saves (by simpa using List.all_eq_true.mp h c hc)

/-- A loft row in which 16 lines have just been corrected. -/
theorem row_failing {s : State} {c b r : Nat} (h : (cellOf s c).rowErrs = List.replicate 16 (b, r, s.tickNo)) : RowFailing s c b r := by
  unfold RowFailing
  rw [h]
  simp

/-- A cell with fewer corrected lines. -/
theorem row_sound {s : State} {c b r : Nat} (h : (cellOf s c).rowErrs.length < 16) : ¬ RowFailing s c b r :=
  fun hf => absurd (Nat.lt_of_le_of_lt (Nat.le_trans hf (List.length_filter_le _ _)) h) (Nat.lt_irrefl _)

/-- A job of one cell. -/
def aJob : JobDesc :=
  { job := 65535, tenant := 7, firmware := false, regions := [aRegion], queues := [], notices := [], stub := 0,
    subgraphs := [], exports := [], peers := [] }

/-- A booted module whose core 0 is out of reset, in a region or not. -/
def booted1 (r : Option Nat) : State :=
  { State.reset with booted := true, cells := [(0, { inReset := false, region := r })], bays := [(0, { tenant := 7 })] }

/-- What placing a job answers. -/
def placed1 : State × List Nat := (placeAll aJob (booted1 none) aJob.regions).getD ({}, [])

theorem placed1_eq : placeAll aJob (booted1 none) aJob.regions = some (placed1.1, placed1.2) := by
  have h : (placeAll aJob (booted1 none) aJob.regions).isSome = true := by decide +kernel
  exact some_pair ({}, []) (by unfold placed1; exact Eq.refl _) h

/-- A job whose first region finds no place is not placed. -/
theorem placeAll_none {j : JobDesc} {s : State} {d : RegionDesc} {ds : List RegionDesc} (h : placeOf s j.tenant d = none) :
    placeAll j s (d :: ds) = none := by
  unfold placeAll
  rw [h]

theorem not_placed : placeAll aJob (booted1 (some 0)) aJob.regions = none := by
  have hp : ∀ t ox oy, placeFree (booted1 (some 0)) t 1 1 ox oy = false := fun t ox oy =>
    no_place (k := { inReset := false, region := some 0 }) rfl (by decide +kernel) t ox oy
  refine placeAll_none (d := aRegion) ?_
  simp [placeOf, aRegion, firstPlace, hp]

/-! ### Ill-formed terms, which `Instr.wf` refuses -/

theorem test_wf_amo_refuses_a_target_with_noret : Instr.wf (.amo .add ⟨.always, 0, .wafer, true, .w 5⟩) = false := by decide
theorem test_wf_cas_refuses_an_operand_target : Instr.wf (.cas ⟨.always, 0, .wafer, false, .a 5⟩) = false := by decide
theorem test_wf_upd_refuses_a_predicate_target : Instr.wf (.upd 0 ⟨.always, 0, .wafer, false, .p 5⟩) = false := by decide
theorem test_wf_spr_refuses_the_first_absent_register : Instr.wf (.spr ⟨.always, 0x1A, .none⟩) = false := by decide
theorem test_wf_spw_refuses_a_read_only_register : Instr.wf (.spw ⟨.always, 0⟩ 0x0D) = false := by decide
theorem test_wf_tsalloc_refuses_level_0 : Instr.wf (.tsalloc lf 0) = false := by decide
theorem test_wf_tsfree_refuses_level_0 : Instr.wf (.tsfree lf 0) = false := by decide
theorem test_wf_tkill_refuses_level_0_and_depth_0 :
    Instr.wf (.tkill lf 0 1) = false ∧ Instr.wf (.tkill lf 1 0) = false := by decide
theorem test_wf_sbar_refuses_an_empty_mask : Instr.wf (.sbar lf 0 false) = false := by decide
theorem test_wf_barriers_end_at_95 :
    Instr.wf (.bstat ⟨.always, .none⟩ 96) = false ∧ Instr.wf (.binit lf 96) = false ∧ Instr.wf (.arv lf 96) = false ∧
    Instr.wf (.arvd lf 96) = false ∧ Instr.wf (.joinb lf 96) = false ∧ Instr.wf (.leaveb lf 96) = false := by decide
theorem test_wf_spawn_refuses_context_4_and_class_0 :
    Instr.wf (.spawn lf 4 1) = false ∧ Instr.wf (.spawn lf 3 0) = false := by decide
theorem test_wf_mapsel_refuses_mapping_3 : Instr.wf (.mapsel lf 3 0) = false := by decide

/-! ### Words that R98 rejects (03: the table of sample words after R98) -/

theorem test_reject_opcode_0 : decodeTableWord 32 0x00000000 = none := by decide +kernel
theorem test_reject_predicate_3 : decodeTableWord 32 0x218FFFFF = none := by decide +kernel
theorem test_reject_target_kind_5 : decodeTableWord 32 0x200FFE80 = none := by decide +kernel
theorem test_reject_mulh_xop_2 : decodeTableWord 32 0x262FFFFF = none := by decide +kernel
theorem test_reject_amo_14 : decodeTableWord 32 0xE00783FF = none := by decide +kernel
theorem test_reject_send_tagact_6 : decodeTableWord 32 0xE8018300 = none := by decide +kernel
theorem test_decode_target_of_slot_9 : decodeTableWord 32 0x200FFC09 = some (.add ⟨.always, .none, .a 9⟩) := by decide +kernel
theorem test_decode_amo_example : decodeTableWord 32 0xE0002205 = some (.amo .add ⟨.always, 0, .wafer, false, .w 5⟩) := by
  decide +kernel
theorem test_decode_div_example : decodeTableWord 32 0x280FFE06 = some (.div .sw ⟨.always, .none, .w 6⟩) := by decide +kernel

/-! ### One step: an instruction fires and delivers its result to register 63 -/

/-- The state a step answers. -/
def after (o : Host.Outcome State Fault Refusal) : State := match o with | .next u => u | _ => State.reset

/-- The value that reaches register 63 in a step of an instruction with these operands. -/
def result (i : Instr) (a b c : Val := Val.allNull) : Val :=
  match (ctxOf (after (step (stage i a b c))) 0 0).frame with
  | some f => Tbl.get Val.allNull f.regs 63
  | none => Val.allNull

/-- The flags that the same step raises. -/
def flagsOf (i : Instr) (a b c : Val := Val.allNull) : Word :=
  match (ctxOf (after (step (stage i a b c))) 0 0).frame with
  | some f => f.flags
  | none => 0

/-- R109: the sum wraps. -/
theorem test_add_wraps : result (.add gf) (all 0xFFFFFFFF) (all 1) = all 0 := by decide +kernel
/-- R102: a lane that is null in an operand is null in the result. -/
theorem test_add_keeps_nulls : result (.add gf) (only 7 5) (all 1) = only 7 6 := by decide +kernel
/-- R109: A − B, in this order. -/
theorem test_sub_order : result (.sub gf) (all 3) (all 5) = all 0xFFFFFFFE := by decide +kernel
/-- R109: the upper half of 0xFFFF_FFFF squared. -/
theorem test_mulh_unsigned : result (.mulh .uw gf) (all 0xFFFFFFFF) (all 0xFFFFFFFF) = all 0xFFFFFFFE := by decide +kernel
/-- R109: the same words read as −1. -/
theorem test_mulh_signed : result (.mulh .sw gf) (all 0xFFFFFFFF) (all 0xFFFFFFFF) = all 0 := by decide +kernel
/-- R109: "ABSD.sw of 0x8000_0000 and 0x7FFF_FFFF gives 0xFFFF_FFFF". -/
theorem test_absd_extremes : result (.absd .sw gf) (all 0x80000000) (all 0x7FFFFFFF) = all 0xFFFFFFFF := by decide +kernel
/-- R111: a count of 32 leaves zero. -/
theorem test_shl_by_32 : result (.shl gf) (all 0xFFFFFFFF) (all 32) = all 0 := by decide +kernel
/-- R111: rotation takes the count modulo 32. -/
theorem test_rot_by_33 : result (.rot gf) (all 0x80000001) (all 33) = all 3 := by decide +kernel
/-- R112: 32 zero bits above the highest 1 bit of zero. -/
theorem test_bitc_clz_of_zero : result (.bitc .clz gf) (all 0) = all 32 := by decide +kernel
/-- R114: the unsigned reading. -/
theorem test_tlt_unsigned : result (.tlt .uw gf) (all 1) (all 0xFFFFFFFF) = all 1 := by decide +kernel
/-- R114: the signed reading. -/
theorem test_tlt_signed : result (.tlt .sw gf) (all 1) (all 0xFFFFFFFF) = all 0 := by decide +kernel
/-- 1.5 + 2.25 = 3.75, exact. -/
theorem test_fadd_exact : result (.fadd gf) (all 0x3FC00000) (all 0x40100000) = all 0x40700000 ∧
    flagsOf (.fadd gf) (all 0x3FC00000) (all 0x40100000) = 0 := by decide +kernel
/-- R145: "a product of exactly −0 added to +0 gives +0". -/
theorem test_fma_zero_sign : result (.fma gf) (all 0x80000000) (all 0x3F800000) (all 0) = all 0 := by decide +kernel
/-- 05, the example of SPL3: SPL3.h gives 0x3F81_0000 with NX. -/
theorem test_spl3_high : result (.spl3 .h gf) (all 0x3F808041) = all 0x3F810000 ∧ flagsOf (.spl3 .h gf) (all 0x3F808041) = 1 := by
  decide +kernel
/-- 05, the example of SPL3: SPL3.m gives 0xBB7F_0000 with NX. -/
theorem test_spl3_middle : result (.spl3 .m gf) (all 0x3F808041) = all 0xBB7F0000 ∧ flagsOf (.spl3 .m gf) (all 0x3F808041) = 1 := by
  decide +kernel
/-- 05, the example of SPL3: SPL3.l gives 0xB6FC_0000 and raises no flag. -/
theorem test_spl3_low : result (.spl3 .l gf) (all 0x3F808041) = all 0xB6FC0000 ∧ flagsOf (.spl3 .l gf) (all 0x3F808041) = 0 := by
  decide +kernel
/-- R153: the reciprocal of a power of two is exact. -/
theorem test_fapx_rcp_of_4 : result (.fapx .rcp gf) (all 0x40800000) = all 0x3E800000 ∧ flagsOf (.fapx .rcp gf) (all 0x40800000) = 0 := by
  decide +kernel
/-- R153: the reciprocal of −0 is −∞ with DZ, bit 3 of FLAGS. -/
theorem test_fapx_rcp_of_zero : result (.fapx .rcp gf) (all 0x80000000) = all 0xFF800000 ∧
    flagsOf (.fapx .rcp gf) (all 0x80000000) = 8 := by decide +kernel

/-! ### The word placed where the next step fetches -/

/-- 04: DIV.sw of the block `qd`; the step runs it and leaves the memory alone. -/
theorem test_step_runs_the_placed_word : (after (step (State.reset.withFetchWord 32 0x280FFE06))).mem = [] ∧
    (after (step (State.reset.withFetchWord 32 0x280FFE06)) != State.reset.withFetchWord 32 0x280FFE06) = true := by decide +kernel

/-! ### Words by family, each built from the fields of its row of the opcode table -/

/-- Integer and move: words put together from the fields of R80 to R98. -/
theorem test_decode_integer_and_move :
  decodeTableWord 32 0x02860E05 = some (.mov ⟨.onTrue, .p 3, .w 5⟩) ∧
  decodeTableWord 32 0x06860E05 = some (.sel ⟨.onTrue, .p 3, .w 5⟩) ∧
  decodeTableWord 32 0x20860E05 = some (.add ⟨.onTrue, .p 3, .w 5⟩) ∧
  decodeTableWord 32 0x22860E05 = some (.sub ⟨.onTrue, .p 3, .w 5⟩) ∧
  decodeTableWord 32 0x24860E05 = some (.mul ⟨.onTrue, .p 3, .w 5⟩) ∧
  decodeTableWord 32 0x2C860E05 = some (.and ⟨.onTrue, .p 3, .w 5⟩) ∧
  decodeTableWord 32 0x2E860E05 = some (.or ⟨.onTrue, .p 3, .w 5⟩) ∧
  decodeTableWord 32 0x30860E05 = some (.xor ⟨.onTrue, .p 3, .w 5⟩) ∧
  decodeTableWord 32 0x32860E05 = some (.andn ⟨.onTrue, .p 3, .w 5⟩) ∧
  decodeTableWord 32 0x34860E05 = some (.shl ⟨.onTrue, .p 3, .w 5⟩) ∧
  decodeTableWord 32 0x38860E05 = some (.rot ⟨.onTrue, .p 3, .w 5⟩) ∧
  decodeTableWord 32 0x44860E05 = some (.bfi ⟨.onTrue, .p 3, .w 5⟩) ∧
  decodeTableWord 32 0x48860E05 = some (.add3 ⟨.onTrue, .p 3, .w 5⟩) ∧
  decodeTableWord 32 0x4A860E05 = some (.mad ⟨.onTrue, .p 3, .w 5⟩) ∧
  decodeTableWord 32 0x52860E05 = some (.teq ⟨.onTrue, .p 3, .w 5⟩) ∧
  decodeTableWord 32 0x54860E05 = some (.tne ⟨.onTrue, .p 3, .w 5⟩) ∧
  decodeTableWord 32 0x04960E05 = some (.nult .null ⟨.onTrue, .p 3, .w 5⟩) ∧
  decodeTableWord 32 0x0C960E05 = some (.lane .bit ⟨.onTrue, .p 3, .w 5⟩) ∧
  decodeTableWord 32 0x0EA60E05 = some (.arg 2 ⟨.onTrue, .p 3, .w 5⟩) ∧
  decodeTableWord 32 0x26960E05 = some (.mulh .uw ⟨.onTrue, .p 3, .w 5⟩) ∧
  decodeTableWord 32 0x28860E05 = some (.div .sw ⟨.onTrue, .p 3, .w 5⟩) ∧
  decodeTableWord 32 0x2A960E05 = some (.rem .uw ⟨.onTrue, .p 3, .w 5⟩) ∧
  decodeTableWord 32 0x36960E05 = some (.shr .sw ⟨.onTrue, .p 3, .w 5⟩) ∧
  decodeTableWord 32 0x3A860E05 = some (.min .sw ⟨.onTrue, .p 3, .w 5⟩) ∧
  decodeTableWord 32 0x3C960E05 = some (.max .uw ⟨.onTrue, .p 3, .w 5⟩) ∧
  decodeTableWord 32 0x3EA60E05 = some (.bitc .ctz ⟨.onTrue, .p 3, .w 5⟩) ∧
  decodeTableWord 32 0x40B60E05 = some (.ext .uh ⟨.onTrue, .p 3, .w 5⟩) ∧
  decodeTableWord 32 0x42860E05 = some (.bfx .uw ⟨.onTrue, .p 3, .w 5⟩) ∧
  decodeTableWord 32 0x46C60E05 = some (.lea .s4 ⟨.onTrue, .p 3, .w 5⟩) ∧
  decodeTableWord 32 0x4CA60E05 = some (.adds .dsw ⟨.onTrue, .p 3, .w 5⟩) ∧
  decodeTableWord 32 0x4E860E05 = some (.absd .sw ⟨.onTrue, .p 3, .w 5⟩) ∧
  decodeTableWord 32 0x50A60E05 = some (.uni .eq ⟨.onTrue, .p 3, .w 5⟩) ∧
  decodeTableWord 32 0x56960E05 = some (.tlt .uw ⟨.onTrue, .p 3, .w 5⟩) ∧
  decodeTableWord 32 0x58860E05 = some (.tle .sw ⟨.onTrue, .p 3, .w 5⟩) ∧
  decodeTableWord 32 0x5AB60E05 = some (.plog .andn ⟨.onTrue, .p 3, .w 5⟩) ∧
  decodeTableWord 32 0x5CA60E05 = some (.pred .neg ⟨.onTrue, .p 3, .w 5⟩) := by
  decide +kernel

/-- Float and lane: words put together from the fields of R80 to R98. -/
theorem test_decode_float_and_lane :
  decodeTableWord 32 0x80860E05 = some (.fadd ⟨.onTrue, .p 3, .w 5⟩) ∧
  decodeTableWord 32 0x82860E05 = some (.fsub ⟨.onTrue, .p 3, .w 5⟩) ∧
  decodeTableWord 32 0x84860E05 = some (.fmul ⟨.onTrue, .p 3, .w 5⟩) ∧
  decodeTableWord 32 0x86860E05 = some (.fma ⟨.onTrue, .p 3, .w 5⟩) ∧
  decodeTableWord 32 0x88860E05 = some (.fms ⟨.onTrue, .p 3, .w 5⟩) ∧
  decodeTableWord 32 0x8A860E05 = some (.fnma ⟨.onTrue, .p 3, .w 5⟩) ∧
  decodeTableWord 32 0x90860E05 = some (.fdiv ⟨.onTrue, .p 3, .w 5⟩) ∧
  decodeTableWord 32 0x92860E05 = some (.fsqrt ⟨.onTrue, .p 3, .w 5⟩) ∧
  decodeTableWord 32 0xA0860E05 = some (.fscl ⟨.onTrue, .p 3, .w 5⟩) ∧
  decodeTableWord 32 0xAA860E05 = some (.fdot ⟨.onTrue, .p 3, .w 5⟩) ∧
  decodeTableWord 32 0xAC860E05 = some (.flrp ⟨.onTrue, .p 3, .w 5⟩) ∧
  decodeTableWord 32 0xB0860E05 = some (.lperm ⟨.onTrue, .p 3, .w 5⟩) ∧
  decodeTableWord 32 0xBC860E05 = some (.lcmp ⟨.onTrue, .p 3, .w 5⟩) ∧
  decodeTableWord 32 0xBE860E05 = some (.lxpd ⟨.onTrue, .p 3, .w 5⟩) ∧
  decodeTableWord 32 0x8C960E05 = some (.fmin .nan ⟨.onTrue, .p 3, .w 5⟩) ∧
  decodeTableWord 32 0x8E860E05 = some (.fmax .num ⟨.onTrue, .p 3, .w 5⟩) ∧
  decodeTableWord 32 0x94B60E05 = some (.fapx .log2 ⟨.onTrue, .p 3, .w 5⟩) ∧
  decodeTableWord 32 0x96C60E05 = some (.fcmp .un ⟨.onTrue, .p 3, .w 5⟩) ∧
  decodeTableWord 32 0x98A60E05 = some (.fsgn .xor ⟨.onTrue, .p 3, .w 5⟩) ∧
  decodeTableWord 32 0x9AA60E05 = some (.cvtfi .swz ⟨.onTrue, .p 3, .w 5⟩) ∧
  decodeTableWord 32 0x9C960E05 = some (.cvtif .uw ⟨.onTrue, .p 3, .w 5⟩) ∧
  decodeTableWord 32 0x9EB60E05 = some (.frnd .ru ⟨.onTrue, .p 3, .w 5⟩) ∧
  decodeTableWord 32 0xA2960E05 = some (.fxtr .sig ⟨.onTrue, .p 3, .w 5⟩) ∧
  decodeTableWord 32 0xA4960E05 = some (.narr .bf16 ⟨.onTrue, .p 3, .w 5⟩) ∧
  decodeTableWord 32 0xA6960E05 = some (.spl3 .m ⟨.onTrue, .p 3, .w 5⟩) ∧
  decodeTableWord 32 0xA8A60E05 = some (.fred .min ⟨.onTrue, .p 3, .w 5⟩) ∧
  decodeTableWord 32 0xB2D60E05 = some (.lbc 5 ⟨.onTrue, .p 3, .w 5⟩) ∧
  decodeTableWord 32 0xB4B60E05 = some (.lshf 3 ⟨.onTrue, .p 3, .w 5⟩) ∧
  decodeTableWord 32 0xB6F60E05 = some (.lrot 7 ⟨.onTrue, .p 3, .w 5⟩) ∧
  decodeTableWord 32 0xB8C60E05 = some (.lscan .fmax ⟨.onTrue, .p 3, .w 5⟩) ∧
  decodeTableWord 32 0xBAA60E05 = some (.lred .max ⟨.onTrue, .p 3, .w 5⟩) := by
  decide +kernel

/-- Immediate: words put together from the fields of R80 to R98. -/
theorem test_decode_immediate :
  decodeTableWord 32 0x08804C86 = some (.lit ⟨.onTrue, 19, .b 6⟩) ∧
  decodeTableWord 32 0x6A804C86 = some (.shli ⟨.onTrue, 19, .b 6⟩) ∧
  decodeTableWord 32 0x6C804C86 = some (.shri ⟨.onTrue, 19, .b 6⟩) ∧
  decodeTableWord 32 0x6E804C86 = some (.sari ⟨.onTrue, 19, .b 6⟩) ∧
  decodeTableWord 32 0x0B400907 = some (.imm ⟨.onFalse, 0x1002, .c 7⟩) ∧
  decodeTableWord 32 0x61400907 = some (.addi ⟨.onFalse, 0x1002, .c 7⟩) ∧
  decodeTableWord 32 0x63400907 = some (.muli ⟨.onFalse, 0x1002, .c 7⟩) ∧
  decodeTableWord 32 0x65400907 = some (.andi ⟨.onFalse, 0x1002, .c 7⟩) ∧
  decodeTableWord 32 0x67400907 = some (.ori ⟨.onFalse, 0x1002, .c 7⟩) ∧
  decodeTableWord 32 0x69400907 = some (.xori ⟨.onFalse, 0x1002, .c 7⟩) ∧
  decodeTableWord 32 0x71400907 = some (.teqi ⟨.onFalse, 0x1002, .c 7⟩) ∧
  decodeTableWord 32 0x73400907 = some (.tnei ⟨.onFalse, 0x1002, .c 7⟩) ∧
  decodeTableWord 32 0x75400907 = some (.tlti ⟨.onFalse, 0x1002, .c 7⟩) ∧
  decodeTableWord 32 0x77400907 = some (.tltui ⟨.onFalse, 0x1002, .c 7⟩) ∧
  decodeTableWord 32 0x79400907 = some (.tgei ⟨.onFalse, 0x1002, .c 7⟩) ∧
  decodeTableWord 32 0x7B400907 = some (.tgeui ⟨.onFalse, 0x1002, .c 7⟩) ∧
  decodeTableWord 32 0x7D400907 = some (.addln ⟨.onFalse, 0x1002, .c 7⟩) := by
  decide +kernel

/-- Exit: words put together from the fields of R80 to R98. -/
theorem test_decode_exit :
  decodeTableWord 32 0x115FFFFD = some (.bro ⟨.onFalse, 5⟩ 0xFFFFD) ∧
  decodeTableWord 32 0x135FFFFD = some (.callo ⟨.onFalse, 5⟩ 0xFFFFD) ∧
  decodeTableWord 32 0x14E00000 = some (.br ⟨.onTrue, 6⟩) ∧
  decodeTableWord 32 0x16E00000 = some (.call ⟨.onTrue, 6⟩) ∧
  decodeTableWord 32 0x1AE00000 = some (.endBlk ⟨.onTrue, 6⟩) ∧
  decodeTableWord 32 0x1CE00000 = some (.yieldBlk ⟨.onTrue, 6⟩) ∧
  decodeTableWord 32 0x18900002 = some (.ret ⟨.onTrue, 1⟩ .succ) ∧
  decodeTableWord 32 0x1E900ABC = some (.scall ⟨.onTrue, 1⟩ 0xABC) ∧
  decodeTableWord 32 0xFCF80001 = some (.trap ⟨.onTrue, 7⟩ 0x80001) := by
  decide +kernel

/-- Memory: words put together from the fields of R80 to R98. -/
theorem test_decode_memory :
  decodeTableWord 32 0xC0C7C064 = some (.ldw ⟨.onTrue, 17, 0xF0, .a 100⟩) ∧
  decodeTableWord 32 0xC2C7C064 = some (.ldh ⟨.onTrue, 17, 0xF0, .a 100⟩) ∧
  decodeTableWord 32 0xC4C7C064 = some (.ldhu ⟨.onTrue, 17, 0xF0, .a 100⟩) ∧
  decodeTableWord 32 0xC6C7C064 = some (.ldb ⟨.onTrue, 17, 0xF0, .a 100⟩) ∧
  decodeTableWord 32 0xC8C7C064 = some (.ldbu ⟨.onTrue, 17, 0xF0, .a 100⟩) ∧
  decodeTableWord 32 0xCAC7C064 = some (.ldv ⟨.onTrue, 17, 0xF0, .a 100⟩) ∧
  decodeTableWord 32 0xCCC7C064 = some (.ldc ⟨.onTrue, 17, 0xF0, .a 100⟩) ∧
  decodeTableWord 32 0xCEC7C064 = some (.ldvs ⟨.onTrue, 17, 0xF0, .a 100⟩) ∧
  decodeTableWord 32 0xD1443C02 = some (.stw ⟨.onFalse, 17, 0x0F, .keepOpen⟩) ∧
  decodeTableWord 32 0xD3443C02 = some (.sth ⟨.onFalse, 17, 0x0F, .keepOpen⟩) ∧
  decodeTableWord 32 0xD5443C02 = some (.stb ⟨.onFalse, 17, 0x0F, .keepOpen⟩) ∧
  decodeTableWord 32 0xD7443C02 = some (.stv ⟨.onFalse, 17, 0x0F, .keepOpen⟩) ∧
  decodeTableWord 32 0xD9443C02 = some (.stvs ⟨.onFalse, 17, 0x0F, .keepOpen⟩) ∧
  decodeTableWord 32 0xDAA60400 = some (.clrp ⟨.onTrue, 9⟩ 0x81) ∧
  decodeTableWord 32 0xDCA40004 = some (.fence ⟨.onTrue, 9⟩ .engine) ∧
  decodeTableWord 32 0xDEA45C00 = some (.spw ⟨.onTrue, 9⟩ 0x17) ∧
  decodeTableWord 32 0xE6806605 = some (.spr ⟨.onTrue, 0x19, .w 5⟩) ∧
  decodeTableWord 32 0xE08DE23F = some (.amo .umax ⟨.onTrue, 3, .wafer, false, .w 63⟩) ∧
  decodeTableWord 32 0xE28C3BFF = some (.cas ⟨.onTrue, 3, .system, true, .none⟩) ∧
  decodeTableWord 32 0xE48ED201 = some (.upd 11 ⟨.onTrue, 3, .region, false, .w 1⟩) := by
  decide +kernel

/-- Send and tag: words put together from the fields of R80 to R98. -/
theorem test_decode_send_and_tag :
  decodeTableWord 32 0xE8F8E100 = some (.send ⟨.onTrue, 30⟩ .leave 33) ∧
  decodeTableWord 32 0xEAF900E1 = some (.sendm ⟨.onTrue, 30⟩ .set 0xE1) ∧
  decodeTableWord 32 0xECC0C0C3 = some (.tblock ⟨.onTrue, 12⟩ 0xC3) ∧
  decodeTableWord 32 0xECC2C0C3 = some (.tunblk ⟨.onTrue, 12⟩ 0xC3) ∧
  decodeTableWord 32 0xECCAC0C3 = some (.tbind ⟨.onTrue, 12⟩ 0xC3) ∧
  decodeTableWord 32 0xECC4C002 = some (.tsalloc ⟨.onTrue, 12⟩ 2) ∧
  decodeTableWord 32 0xECC6C002 = some (.tsfree ⟨.onTrue, 12⟩ 2) ∧
  decodeTableWord 32 0xECC8C026 = some (.tkill ⟨.onTrue, 12⟩ 2 9) ∧
  decodeTableWord 32 0xEE800605 = some (.lpeek ⟨.onTrue, .w 5⟩ 1 false) ∧
  decodeTableWord 32 0xEEC0C404 = some (.lpop ⟨.onTrue, 12⟩ 1 false (.a 4)) ∧
  decodeTableWord 32 0xEEC2C001 = some (.lpush ⟨.onTrue, 12⟩ 1) ∧
  decodeTableWord 32 0xEEC4C061 = some (.csig ⟨.onTrue, 12⟩ 33 true) := by
  decide +kernel

/-- Engine: words put together from the fields of R80 to R98. -/
theorem test_decode_engine :
  decodeTableWord 32 0xF0C0C002 = some (.sdef ⟨.onTrue, 12⟩ 2) ∧
  decodeTableWord 32 0xF0CAC002 = some (.sfmt ⟨.onTrue, 12⟩ 2) ∧
  decodeTableWord 32 0xF0C2C005 = some (.sgo ⟨.onTrue, 12⟩ 1 true) ∧
  decodeTableWord 32 0xF0C4C005 = some (.sstop ⟨.onTrue, 12⟩ 1 true) ∧
  decodeTableWord 32 0xF0C6C006 = some (.sbar ⟨.onTrue, 12⟩ 6 false) ∧
  decodeTableWord 32 0xF0C8C0B1 = some (.scond ⟨.onTrue, 12⟩ 1 44) ∧
  decodeTableWord 32 0xF2800205 = some (.mxstat ⟨.onTrue, .w 5⟩) ∧
  decodeTableWord 32 0xF6800205 = some (.cstat ⟨.onTrue, .w 5⟩) ∧
  decodeTableWord 32 0xFA800205 = some (.cfgstat ⟨.onTrue, .w 5⟩) ∧
  decodeTableWord 32 0xF2C0C001 = some (.mxcfg ⟨.onTrue, 12⟩ true) ∧
  decodeTableWord 32 0xF2C2C002 = some (.mxldb ⟨.onTrue, 12⟩ 0 true) ∧
  decodeTableWord 32 0xF2C4C000 = some (.mxrun ⟨.onTrue, 12⟩) ∧
  decodeTableWord 32 0xF2C6C000 = some (.mxout ⟨.onTrue, 12⟩) ∧
  decodeTableWord 32 0xF2C8CF03 = some (.mxclr ⟨.onTrue, 12⟩ 3 60) := by
  decide +kernel

/-- Sync and system: words put together from the fields of R80 to R98. -/
theorem test_decode_sync_and_system :
  decodeTableWord 32 0xF4817E05 = some (.bstat ⟨.onTrue, .w 5⟩ 95) ∧
  decodeTableWord 32 0xF4C0C040 = some (.binit ⟨.onTrue, 12⟩ 64) ∧
  decodeTableWord 32 0xF4C2C040 = some (.arv ⟨.onTrue, 12⟩ 64) ∧
  decodeTableWord 32 0xF4C4C040 = some (.arvd ⟨.onTrue, 12⟩ 64) ∧
  decodeTableWord 32 0xF4C6C040 = some (.joinb ⟨.onTrue, 12⟩ 64) ∧
  decodeTableWord 32 0xF4C8C040 = some (.leaveb ⟨.onTrue, 12⟩ 64) ∧
  decodeTableWord 32 0xF4CAC093 = some (.joinc ⟨.onTrue, 12⟩ 0x93) ∧
  decodeTableWord 32 0xF4CCC093 = some (.leavec ⟨.onTrue, 12⟩ 0x93) ∧
  decodeTableWord 32 0xF6C0C093 = some (.cstart ⟨.onTrue, 12⟩ 0x93) ∧
  decodeTableWord 32 0xF6C2C093 = some (.cabort ⟨.onTrue, 12⟩ 0x93) ∧
  decodeTableWord 32 0xFAC0C093 = some (.cfgreq ⟨.onTrue, 12⟩ 0x93) ∧
  decodeTableWord 32 0xF6822605 = some (.cpath ⟨.onTrue, .w 5⟩ 9) ∧
  decodeTableWord 32 0xF8C0C052 = some (.settle ⟨.onTrue, 12⟩ 18 .done) ∧
  decodeTableWord 32 0xF8C2C193 = some (.cut ⟨.onTrue, 12⟩ 0x93 1) ∧
  decodeTableWord 32 0xF8C6C193 = some (.restore ⟨.onTrue, 12⟩ 0x93 1) ∧
  decodeTableWord 32 0xF8CAC193 = some (.sflip ⟨.onTrue, 12⟩ 0x93 1) ∧
  decodeTableWord 32 0xF8CEC193 = some (.sister ⟨.onTrue, 12⟩ 0x93 1) ∧
  decodeTableWord 32 0xF8D2C193 = some (.clksel ⟨.onTrue, 12⟩ 0x93 1) ∧
  decodeTableWord 32 0xF8C4C093 = some (.save ⟨.onTrue, 12⟩ 0x93) ∧
  decodeTableWord 32 0xF8C8C093 = some (.scribe ⟨.onTrue, 12⟩ 0x93) ∧
  decodeTableWord 32 0xF8CCC093 = some (.selftest ⟨.onTrue, 12⟩ 0x93) ∧
  decodeTableWord 32 0xF8D0C093 = some (.takeover ⟨.onTrue, 12⟩ 0x93) ∧
  decodeTableWord 32 0xF8D4C093 = some (.winset ⟨.onTrue, 12⟩ 0x93) ∧
  decodeTableWord 32 0xF8D6C093 = some (.bindset ⟨.onTrue, 12⟩ 0x93) ∧
  decodeTableWord 32 0xFAC2C093 = some (.cfgrel ⟨.onTrue, 12⟩ 0x93) ∧
  decodeTableWord 32 0xFAC4C013 = some (.spawn ⟨.onTrue, 12⟩ 3 2) ∧
  decodeTableWord 32 0xFAC6C24D = some (.mapsel ⟨.onTrue, 12⟩ 1 0x93) := by
  decide +kernel

/-! ### Hypotheses that are met, statement by statement -/

theorem witness_encoded_instruction_decodes_back :
  (∃ i, i.wf = true ∧ isEvent i = false) := by
  refine ⟨.lpop lf 1 true (.w 63), ?_, ?_⟩
  all_goals first | decide +kernel | rfl | (constructor <;> first | decide +kernel | rfl)

theorem witness_decoded_word_encodes_back :
  (∃ (w : Word) (i : Instr), decodeWord w = .ok i) := by
  refine ⟨0xEE4023FF, .lpop ⟨.always, 2⟩ 0 false .none, ?_⟩
  all_goals rfl

theorem witness_reserved_encodings_are_rejected :
  (∃ w, reservedOpcode (bits w 25 7) = true) ∧
  (∃ w, bits w 23 2 = 3) ∧
  (∃ w, 1 ≤ bits w 25 7 ∧ bits w 25 7 < 0x08 ∧ 576 ≤ bits w 0 10 ∧ bits w 0 10 < 1023) ∧
  (∃ w, 0x40 ≤ bits w 25 7 ∧ bits w 25 7 < 0x60 ∧ 576 ≤ bits w 10 10 ∧ bits w 10 10 < 1023) ∧
  (∃ w, 0x68 ≤ bits w 25 7 ∧ bits w 25 7 ≤ 0x6C ∧ bits w 0 2 = 3) ∧
  (∃ w, bits w 25 7 = 0x6E ∧ 5 ≤ bits w 0 3) ∧
  (∃ w, bits w 25 7 = 0x70 ∧ 14 ≤ bits w 14 4) ∧
  (∃ w, bits w 25 7 = 0x73 ∧ 0x1A ≤ bits w 10 6) ∧
  (∃ w, bits w 25 7 = 0x0C ∧ 3 ≤ bits w 0 20) := by
  refine ⟨?_, ?_, ?_, ?_, ?_, ?_, ?_, ?_, ?_⟩
  · refine ⟨0xFE000000, ?_⟩
    all_goals first | decide +kernel | rfl | (constructor <;> first | decide +kernel | rfl)
  · refine ⟨0x21800000, ?_⟩
    all_goals first | decide +kernel | rfl | (constructor <;> first | decide +kernel | rfl)
  · refine ⟨0x0A000240, ?_, ?_, ?_, ?_⟩
    all_goals first | decide +kernel | rfl | (constructor <;> first | decide +kernel | rfl)
  · refine ⟨0x800FFBFF, ?_, ?_, ?_, ?_⟩
    all_goals first | decide +kernel | rfl | (constructor <;> first | decide +kernel | rfl)
  · refine ⟨0xD8000003, ?_, ?_, ?_⟩
    all_goals first | decide +kernel | rfl | (constructor <;> first | decide +kernel | rfl)
  · refine ⟨0xDC000005, ?_, ?_⟩
    all_goals first | decide +kernel | rfl | (constructor <;> first | decide +kernel | rfl)
  · refine ⟨0xE003C000, ?_, ?_⟩
    all_goals first | decide +kernel | rfl | (constructor <;> first | decide +kernel | rfl)
  · refine ⟨0xE6006800, ?_, ?_⟩
    all_goals first | decide +kernel | rfl | (constructor <;> first | decide +kernel | rfl)
  · refine ⟨0x18000003, ?_, ?_⟩
    all_goals first | decide +kernel | rfl | (constructor <;> first | decide +kernel | rfl)

theorem witness_step_runs_the_decoded_word :
  (∃ (s : State) (at_ : Focus) (i : Instr), s.inputs = [] ∧ markDue s = none ∧ choose s = some (at_, i) ∧ isEvent i = false) := by
  refine ⟨(stage (.sub gf) (all 5) (all 3)), ⟨0, 0, 1⟩, .sub gf, ?_, ?_, ?_, ?_⟩
  all_goals first | decide +kernel | rfl | (constructor <;> first | decide +kernel | rfl)

theorem witness_arithmetic_and_logic_results :
  (∃ (i : Instr) (g : GF) (fn : Word → Word → Word), arith2 i = some (g, fn) ∧ ∃ (s : State), ∃ f, Ready s f i ∧ (delivered s f
    [g.t0, g.t1] (lanes2 i (opnd s f) fn) 0).isOk = true) ∧
  (∃ (i : Instr) (g : GF) (fn : Word → Word → Word → Word), arith3 i = some (g, fn) ∧ ∃ (s : State), ∃ f, Ready s f i ∧ (delivered
    s f [g.t0, g.t1] (lanes3 i (opnd s f) fn) 0).isOk = true) := by
  refine ⟨?_, ?_⟩
  · refine ⟨.sub gf, gf, _, rfl, (stage (.sub gf) (all 5) (all 3)), (blk (.sub gf) (all 5) (all 3)), ?_, ?_⟩
    all_goals first | decide +kernel | rfl | (constructor <;> first | decide +kernel | rfl)
  · refine ⟨.mad gf, gf, _, rfl, (stage (.mad gf) (all 5) (all 3) (all 5)), (blk (.mad gf) (all 5) (all 3) (all 5)), ?_, ?_⟩
    all_goals first | decide +kernel | rfl | (constructor <;> first | decide +kernel | rfl)

theorem witness_divide_shift_and_field_results :
  (∃ (i : Instr) (g : GF) (fn : Word → Word → Word), divShift2 i = some (g, fn) ∧ ∃ (s : State), ∃ f, Ready s f i ∧ (delivered s f
    [g.t0, g.t1] (lanes2 i (opnd s f) fn) 0).isOk = true) ∧
  (∃ (i : Instr) (g : GF) (fn : Word → Word), bits1 i = some (g, fn) ∧ ∃ (s : State), ∃ f, Ready s f i ∧ (delivered s f [g.t0,
    g.t1] (lanes1 i (opnd s f) fn) 0).isOk = true) ∧
  (∃ g, ∃ (s : State), ∃ f, Ready s f (.bfi g) ∧ (delivered s f [g.t0, g.t1] (lanes3 (.bfi g) (opnd s f) inserted) 0).isOk = true) := by
  refine ⟨?_, ?_, ?_⟩
  · refine ⟨.div .sw gf, gf, _, rfl, (stage (.div .sw gf) (all 0x80000000) (all 0xFFFFFFFF)), (blk (.div .sw gf) (all 0x80000000)
        (all 0xFFFFFFFF)), ?_, ?_⟩
    all_goals first | decide +kernel | rfl | (constructor <;> first | decide +kernel | rfl)
  · refine ⟨.bitc .clz gf, gf, _, rfl, (stage (.bitc .clz gf) (all 0)), (blk (.bitc .clz gf) (all 0)), ?_, ?_⟩
    all_goals first | decide +kernel | rfl | (constructor <;> first | decide +kernel | rfl)
  · refine ⟨gf, (stage (.bfi gf) (all 5) (all 3) (all 0x1F1F)), (blk (.bfi gf) (all 5) (all 3) (all 0x1F1F)), ?_, ?_⟩
    all_goals first | decide +kernel | rfl | (constructor <;> first | decide +kernel | rfl)

theorem witness_test_and_predicate_results :
  (∃ (i : Instr) (g : GF) (fn : Word → Word → Word), tests2 i = some (g, fn) ∧ ∃ (s : State), ∃ f, Ready s f i ∧ (delivered s f
    [g.t0, g.t1] (lanes2 i (opnd s f) fn) 0).isOk = true) ∧
  (∃ (i : Instr) (g : GF) (fn : Word → Word), tests1 i = some (g, fn) ∧ ∃ (s : State), ∃ f, Ready s f i ∧ (delivered s f [g.t0,
    g.t1] (lanes1 i (opnd s f) fn) 0).isOk = true) ∧
  (∃ x g, ∃ (s : State), ∃ f, Ready s f (.uni x g) ∧ (delivered s f [g.t0, g.t1] (lanesOf (.uni x g) (opnd s f) fun _ => unified x
    (liveWords (.uni x g) (opnd s f))) 0).isOk = true) := by
  refine ⟨?_, ?_, ?_⟩
  · refine ⟨.tlt .sw gf, gf, _, rfl, (stage (.tlt .sw gf) (all 0x80000000) (all 3)), (blk (.tlt .sw gf) (all 0x80000000) (all
        3)), ?_, ?_⟩
    all_goals first | decide +kernel | rfl | (constructor <;> first | decide +kernel | rfl)
  · refine ⟨.pred .neg gf, gf, _, rfl, (stage (.pred .neg gf) (all 0x80000000)), (blk (.pred .neg gf) (all 0x80000000)), ?_, ?_⟩
    all_goals first | decide +kernel | rfl | (constructor <;> first | decide +kernel | rfl)
  · refine ⟨.eq, gf, (stage (.uni .eq gf) (only 7 4)), (blk (.uni .eq gf) (only 7 4)), ?_, ?_⟩
    all_goals first | decide +kernel | rfl | (constructor <;> first | decide +kernel | rfl)

theorem witness_immediate_results :
  (∃ (i : Instr) (t : Target) (fn : Word → Nat → Word), immed i = some (t, fn) ∧ ∃ (s : State), ∃ f, Ready s f i ∧ (delivered s f
    [t] (lanesOf i (opnd s f) fun l => match laneA (opnd s f) l with | some a => some (fn a l) | none => none) 0).isOk = true) := by
  refine ⟨.sari ⟨.always, 31, .w 63⟩, .w 63, _, rfl, (stage (.sari ⟨.always, 31, .w 63⟩) (all 0x80000000)), (blk (.sari
        ⟨.always, 31, .w 63⟩) (all 0x80000000)), ?_, ?_⟩
  all_goals first | decide +kernel | rfl | (constructor <;> first | decide +kernel | rfl)

theorem witness_dataflow_results :
  (∃ (i : Instr) (s : State), ∃ f, ∃ (ts : List Target) (r : Nat → Option Word), Ready s f i ∧ dataflow (here s) f (opnd s f) i =
    some (ts, r) ∧ (delivered s f ts (lanesOf i (opnd s f) r) 0).isOk = true) := by
  refine ⟨.arg 3 gf, (stage (.arg 3 gf)), (blk (.arg 3 gf)), [.w 63, .none], _, ?_, rfl, ?_⟩
  all_goals first | decide +kernel | rfl | (constructor <;> first | decide +kernel | rfl)

theorem witness_lane_instruction_results :
  (∃ (i : Instr) (s : State), ∃ f, ∃ (g : GF) (r : Nat → Option Word), Ready s f i ∧ laneMove i (opnd s f) = some (g, r) ∧
    (delivered s f [g.t0, g.t1] (lanesOf i (opnd s f) r) 0).isOk = true) ∧
  (∃ g, ∃ (s : State), ∃ f, Ready s f (.lcmp g) ∧ (delivered s f [g.t0, g.t1] (compacted (.lcmp g) (opnd s f)) 0).isOk = true) ∧
  (∃ g, ∃ (s : State), ∃ f, Ready s f (.lxpd g) ∧ (delivered s f [g.t0, g.t1] (expanded (.lxpd g) (opnd s f)) 0).isOk = true) ∧
  (∃ x g op, ∃ (s : State), ∃ f, foldWord x = some op ∧ Ready s f (.lscan x g) ∧ (delivered s f [g.t0, g.t1] (Lanes.ofFn fun l =>
    if live (.lscan x g) (opnd s f) l then foldWords op (liveUpTo (.lscan x g) (opnd s f) l) else none) 0).isOk = true) ∧
  (∃ x g op, ∃ (s : State), ∃ f, foldWord x = some op ∧ Ready s f (.lred x g) ∧ (delivered s f [g.t0, g.t1] (lanesOf (.lred x g)
    (opnd s f) fun _ => foldWords op (liveWords (.lred x g) (opnd s f))) 0).isOk = true) := by
  refine ⟨?_, ?_, ?_, ?_, ?_⟩
  · refine ⟨.lrot 7 gf, (stage (.lrot 7 gf) (all 5)), (blk (.lrot 7 gf) (all 5)), gf, _, ?_, rfl, ?_⟩
    all_goals first | decide +kernel | rfl | (constructor <;> first | decide +kernel | rfl)
  · refine ⟨gf, (stage (.lcmp gf) (only 7 4)), (blk (.lcmp gf) (only 7 4)), ?_, ?_⟩
    all_goals first | decide +kernel | rfl | (constructor <;> first | decide +kernel | rfl)
  · refine ⟨gf, (stage (.lxpd gf) (all 5) (only 7 4)), (blk (.lxpd gf) (all 5) (only 7 4)), ?_, ?_⟩
    all_goals first | decide +kernel | rfl | (constructor <;> first | decide +kernel | rfl)
  · refine ⟨.add, gf, _, (stage (.lscan .add gf) (all 5)), (blk (.lscan .add gf) (all 5)), rfl, ?_, ?_⟩
    all_goals first | decide +kernel | rfl | (constructor <;> first | decide +kernel | rfl)
  · refine ⟨.min, gf, _, (stage (.lred .min gf) (all 5)), (blk (.lred .min gf) (all 5)), rfl, ?_, ?_⟩
    all_goals first | decide +kernel | rfl | (constructor <;> first | decide +kernel | rfl)

theorem witness_float_lanes_complete_with_flags :
  (∃ (i : Instr) (s : State), ∃ f g fn, fp1 (dirOf f) i = some (g, fn) ∧ Ready s f i ∧ let r := (fun l => match laneA (opnd s f) l
    with | some a => some (fn a) | none => none); (delivered s f [g.t0, g.t1] (fpVal i (opnd s f) r) (fpFlags i (opnd s f) r)).isOk
    = true) ∧
  (∃ (i : Instr) (s : State), ∃ f g fn, fp2 (dirOf f) i = some (g, fn) ∧ Ready s f i ∧ let r := (fun l => match laneA (opnd s f) l,
    laneB (opnd s f) l with | some a, some b => some (fn a b) | _, _ => none); (delivered s f [g.t0, g.t1] (fpVal i (opnd s f) r)
    (fpFlags i (opnd s f) r)).isOk = true) ∧
  (∃ (i : Instr) (s : State), ∃ f g fn, fp3 (dirOf f) i = some (g, fn) ∧ Ready s f i ∧ let r := (fun l => match laneA (opnd s f) l,
    laneB (opnd s f) l, laneC (opnd s f) l with | some a, some b, some c => some (fn a b c) | _, _, _ => none); (delivered s f
    [g.t0, g.t1] (fpVal i (opnd s f) r) (fpFlags i (opnd s f) r)).isOk = true) := by
  refine ⟨?_, ?_, ?_⟩
  · refine ⟨.fsqrt gf, (stage (.fsqrt gf) (all 0x40000000)), (blk (.fsqrt gf) (all 0x40000000)), gf, _, rfl, ?_, ?_⟩
    all_goals first | decide +kernel | rfl | (constructor <;> first | decide +kernel | rfl)
  · refine ⟨.fdiv gf, (stage (.fdiv gf) (all 0x3F800000) (all 0x40400000)), (blk (.fdiv gf) (all 0x3F800000) (all 0x40400000)),
        gf, _, rfl, ?_, ?_⟩
    all_goals first | decide +kernel | rfl | (constructor <;> first | decide +kernel | rfl)
  · refine ⟨.fma gf, (stage (.fma gf) (all 0x3F800000) (all 0x3F800000) (all 0x3F800000)), (blk (.fma gf) (all 0x3F800000) (all
        0x3F800000) (all 0x3F800000)), gf, _, rfl, ?_, ?_⟩
    all_goals first | decide +kernel | rfl | (constructor <;> first | decide +kernel | rfl)

theorem witness_sign_instruction_results :
  (∃ x g fn, ∃ (s : State), ∃ f, signed2 x = some fn ∧ Ready s f (.fsgn x g) ∧ (delivered s f [g.t0, g.t1] (lanes2 (.fsgn x g)
    (opnd s f) fn) 0).isOk = true) ∧
  (∃ x g fn, ∃ (s : State), ∃ f, signed1 x = some fn ∧ Ready s f (.fsgn x g) ∧ (delivered s f [g.t0, g.t1] (lanes1 (.fsgn x g)
    (opnd s f) fn) 0).isOk = true) := by
  refine ⟨?_, ?_⟩
  · refine ⟨.xor, gf, _, (stage (.fsgn .xor gf) (all 0x3F800000) (all 0xFFC00001)), (blk (.fsgn .xor gf) (all 0x3F800000) (all
        0xFFC00001)), rfl, ?_, ?_⟩
    all_goals first | decide +kernel | rfl | (constructor <;> first | decide +kernel | rfl)
  · refine ⟨.neg, gf, _, (stage (.fsgn .neg gf) (all 0xFFC00001)), (blk (.fsgn .neg gf) (all 0xFFC00001)), rfl, ?_, ?_⟩
    all_goals first | decide +kernel | rfl | (constructor <;> first | decide +kernel | rfl)

theorem witness_reductions_complete :
  (∃ x g, ∃ (s : State), ∃ f, Ready s f (.fred x g) ∧ let r := (treeOf (fredOp (dirOf f) x) (fredLeaf (.fred x g) (opnd s f)));
    (delivered s f [g.t0, g.t1] (lanesOf (.fred x g) (opnd s f) fun _ => r.1.map canonical) r.2).isOk = true) ∧
  (∃ g, ∃ (s : State), ∃ f, Ready s f (.fdot g) ∧ let r := (treeOf (fdotOp (dirOf f)) (fdotLeaf (.fdot g) (opnd s f))); let w :=
    (r.1.map (roundB32 (dirOf f))); (delivered s f [g.t0, g.t1] (lanesOf (.fdot g) (opnd s f) fun _ => w.map fun p => p.1) (r.2 |||
    (match w with | some p => p.2 | none => 0))).isOk = true) ∧
  (∃ g, ∃ (s : State), ∃ f a0 b0 a1 b1, Ready s f (.fdot g) ∧ (∀ l, l < 8 → live (.fdot g) (opnd s f) l = decide (l < 2)) ∧ laneA
    (opnd s f) 0 = some a0 ∧ laneB (opnd s f) 0 = some b0 ∧ laneA (opnd s f) 1 = some a1 ∧ laneB (opnd s f) 1 = some b1 ∧ isNumber
    a0 = true ∧ isNumber b0 = true ∧ isNumber a1 = true ∧ isNumber b1 = true ∧ number a0 * number b0 + number a1 * number b1 ≠ 0) ∧
  (∃ x g, ∃ (s : State), ∃ f, Ready s f (.fred x g) ∧ (∀ l, l < 8 → live (.fred x g) (opnd s f) l = false) ∧ (delivered s f [g.t0,
    g.t1] Val.allNull 0).isOk = true) ∧
  (∃ x g, ∃ (s : State), ∃ f l a, Ready s f (.fred x g) ∧ l < 8 ∧ matched (.fred x g) (opnd s f) l = true ∧ laneA (opnd s f) l =
    some a ∧ isNumber a = true ∧ (∀ k, k < 8 → k ≠ l → live (.fred x g) (opnd s f) k = false) ∧ (delivered s f [g.t0, g.t1]
    (lanesOf (.fred x g) (opnd s f) fun _ => some a) 0).isOk = true) ∧
  (∃ g, ∃ (s : State), ∃ f a0 a1 a4, Ready s f (.fred .add g) ∧ (∀ l, l < 8 → live (.fred .add g) (opnd s f) l = (l == 0 || l == 1
    || l == 4)) ∧ laneA (opnd s f) 0 = some a0 ∧ laneA (opnd s f) 1 = some a1 ∧ laneA (opnd s f) 4 = some a4 ∧ isNumber a0 = true ∧
    isNumber a1 = true ∧ isNumber a4 = true ∧ let p := (fpAdd (dirOf f) a0 a1); let q := (fpAdd (dirOf f) p.1 a4); (delivered s f
    [g.t0, g.t1] (lanesOf (.fred .add g) (opnd s f) fun _ => some q.1) (p.2 ||| q.2)).isOk = true) ∧
  (∃ g, ∃ (s : State), ∃ f, Ready s f (.fdot g) ∧ (∀ l, l < 8 → live (.fdot g) (opnd s f) l = false ∨ laneB (opnd s f) l = none) ∧
    (delivered s f [g.t0, g.t1] Val.allNull 0).isOk = true) ∧
  (∃ g, ∃ (s : State), ∃ f l a b, Ready s f (.fdot g) ∧ l < 8 ∧ matched (.fdot g) (opnd s f) l = true ∧ laneA (opnd s f) l = some a
    ∧ laneB (opnd s f) l = some b ∧ isNumber a = true ∧ isNumber b = true ∧ (∀ k, k < 8 → k ≠ l → live (.fdot g) (opnd s f) k =
    false ∨ laneB (opnd s f) k = none) ∧ (delivered s f [g.t0, g.t1] (lanesOf (.fdot g) (opnd s f) fun _ => some (fpMul (dirOf f) a
    b).1) (fpMul (dirOf f) a b).2).isOk = true) ∧
  (∃ x g op, ∃ (s : State), ∃ f, foldFp (dirOf f) x = some op ∧ Ready s f (.lscan x g) ∧ (delivered s f [g.t0, g.t1] (Lanes.ofFn
    fun l => if live (.lscan x g) (opnd s f) l then (foldFlags op (liveUpTo (.lscan x g) (opnd s f) l)).1 else none) (foldFlags op
    (liveWords (.lscan x g) (opnd s f))).2).isOk = true) ∧
  (∃ x g op, ∃ (s : State), ∃ f, foldFp (dirOf f) x = some op ∧ Ready s f (.lred x g) ∧ (delivered s f [g.t0, g.t1] (lanesOf (.lred
    x g) (opnd s f) fun _ => (foldFlags op (liveWords (.lred x g) (opnd s f))).1) (foldFlags op (liveWords (.lred x g) (opnd s
    f))).2).isOk = true) := by
  refine ⟨?_, ?_, ?_, ?_, ?_, ?_, ?_, ?_, ?_, ?_⟩
  · refine ⟨.add, gf, (stage (.fred .add gf) (all 0x3F800000)), (blk (.fred .add gf) (all 0x3F800000)), ?_, ?_⟩
    all_goals first | decide +kernel | rfl | (constructor <;> first | decide +kernel | rfl)
  · refine ⟨gf, (stage (.fdot gf) (all 0x3F800000) (all 0x3F800000)), (blk (.fdot gf) (all 0x3F800000) (all 0x3F800000)), ?_, ?_⟩
    all_goals first | decide +kernel | rfl | (constructor <;> first | decide +kernel | rfl)
  · refine ⟨gf, (stage (.fdot gf) ((Lanes.ofFn fun k => if k < 2 then some 0x3F800000 else none)) ((Lanes.ofFn fun k => if k < 2
        then some 0x3F800000 else none))), (blk (.fdot gf) ((Lanes.ofFn fun k => if k < 2 then some 0x3F800000 else none))
        ((Lanes.ofFn fun k => if k < 2 then some 0x3F800000 else none))), 0x3F800000, 0x3F800000, 0x3F800000, 0x3F800000, ?_, ?_,
        ?_, ?_, ?_, ?_, ?_, ?_, ?_, ?_, ?_⟩
    all_goals decide +kernel
  · refine ⟨.max, gf, (stage (.fred .max gf)), (blk (.fred .max gf)), ?_, ?_, ?_⟩
    all_goals first | decide +kernel | rfl | (constructor <;> first | decide +kernel | rfl)
  · refine ⟨.max, gf, (stage (.fred .max gf) (only 7 0x3F800000)), (blk (.fred .max gf) (only 7 0x3F800000)), 7, 0x3F800000, ?_,
        ?_, ?_, ?_, ?_, ?_, ?_⟩
    all_goals first | decide +kernel | rfl | (constructor <;> first | decide +kernel | rfl)
  · refine ⟨gf, (stage (.fred .add gf) ((Lanes.ofFn fun k => if k = 0 || k = 1 || k = 4 then some 0x3F800000 else none))), (blk
        (.fred .add gf) ((Lanes.ofFn fun k => if k = 0 || k = 1 || k = 4 then some 0x3F800000 else none))), 0x3F800000, 0x3F800000,
        0x3F800000, ?_, ?_, ?_, ?_, ?_, ?_, ?_, ?_, ?_⟩
    all_goals first | decide +kernel | rfl | (constructor <;> first | decide +kernel | rfl)
  · refine ⟨gf, (stage (.fdot gf) (all 0x3F800000)), (blk (.fdot gf) (all 0x3F800000)), ?_, ?_, ?_⟩
    all_goals first | decide +kernel | rfl | (constructor <;> first | decide +kernel | rfl)
  · refine ⟨gf, (stage (.fdot gf) (all 0x3F800000) (only 0 0x40000000)), (blk (.fdot gf) (all 0x3F800000) (only 0 0x40000000)),
        0, 0x3F800000, 0x40000000, ?_, ?_, ?_, ?_, ?_, ?_, ?_, ?_, ?_⟩
    all_goals first | decide +kernel | rfl | (constructor <;> first | decide +kernel | rfl)
  · refine ⟨.fmax, gf, _, (stage (.lscan .fmax gf) (all 0x3F800000)), (blk (.lscan .fmax gf) (all 0x3F800000)), rfl, ?_, ?_⟩
    all_goals first | decide +kernel | rfl | (constructor <;> first | decide +kernel | rfl)
  · refine ⟨.fadd, gf, _, (stage (.lred .fadd gf) (all 0x3F800000)), (blk (.lred .fadd gf) (all 0x3F800000)), rfl, ?_, ?_⟩
    all_goals first | decide +kernel | rfl | (constructor <;> first | decide +kernel | rfl)

theorem witness_sums_and_products_round_once :
  (∃ (a b c : Word), isNumber a = true ∧ isNumber b = true ∧ isNumber c = true) := by
  refine ⟨0x3F800000, 0x7F7FFFFF, 0x80000001, ?_, ?_, ?_⟩
  all_goals first | decide +kernel | rfl | (constructor <;> first | decide +kernel | rfl)

theorem witness_quotients_roots_and_blends_round_once :
  (∃ (a b : Word), isNumber a = true ∧ isNumber b = true ∧ number b ≠ 0) ∧
  (∃ (a : Word), isNumber a = true ∧ 0 < number a) ∧
  (∃ (a b c : Word), isNumber a = true ∧ isNumber b = true ∧ isNumber c = true ∧ number b - number a ≠ 0) ∧
  (∃ (a b c : Word), isNumber a = true ∧ isNumber b = true ∧ isNumber c = true ∧ number b = number a ∧ number a ≠ 0) ∧
  (∃ a, isNumber a = true ∧ number a ≠ 0) ∧
  (∃ a, isNumber a = true ∧ 0 < number a) ∧
  (∃ a, ∃ (n : Int), isNumber a = true ∧ number a = (n : Rat)) ∧
  (∃ a, isNumber a = true ∧ 128 ≤ number a) ∧
  (∃ a, isNumber a = true ∧ number a ≤ -150) ∧
  (∃ a, ∃ (n : Int), isNumber a = true ∧ number a = power n) ∧
  (∃ a, ∃ (n : Int), isNumber a = true ∧ number a = (n : Rat) + 1 / 2) ∧
  (∃ a, isNumber a = true ∧ number a < 0) ∧
  (∃ (z : Word), (z = 0 ∨ z = 0x80000000)) ∧
  (∃ (a : Word), nanWord a = true) := by
  refine ⟨?_, ?_, ?_, ?_, ?_, ?_, ?_, ?_, ?_, ?_, ?_, ?_, ?_, ?_⟩
  · refine ⟨0, 0x80000001, ?_, ?_, ?_⟩
    all_goals first | decide +kernel | rfl | (constructor <;> first | decide +kernel | rfl)
  · refine ⟨1, ?_, ?_⟩
    all_goals first | decide +kernel | rfl | (constructor <;> first | decide +kernel | rfl)
  · refine ⟨0x3F800000, 0, 0x7F7FFFFF, ?_, ?_, ?_, ?_⟩
    all_goals first | decide +kernel | rfl | (constructor <;> first | decide +kernel | rfl)
  · refine ⟨1, 1, 0x80000000, ?_, ?_, ?_, ?_, ?_⟩
    all_goals first | decide +kernel | rfl | (constructor <;> first | decide +kernel | rfl)
  · refine ⟨0x80000001, ?_, ?_⟩
    all_goals first | decide +kernel | rfl | (constructor <;> first | decide +kernel | rfl)
  · refine ⟨0x7F7FFFFF, ?_, ?_⟩
    all_goals first | decide +kernel | rfl | (constructor <;> first | decide +kernel | rfl)
  · refine ⟨0xC2C80000, -100, ?_, ?_⟩
    all_goals first | decide +kernel | rfl | (constructor <;> first | decide +kernel | rfl)
  · refine ⟨0x43000000, ?_, ?_⟩
    all_goals first | decide +kernel | rfl | (constructor <;> first | decide +kernel | rfl)
  · refine ⟨0xC3160000, ?_, ?_⟩
    all_goals first | decide +kernel | rfl | (constructor <;> first | decide +kernel | rfl)
  · refine ⟨1, -149, ?_, ?_⟩
    all_goals first | decide +kernel | rfl | (constructor <;> first | decide +kernel | rfl)
  · refine ⟨0xBF000000, -1, ?_, ?_⟩
    all_goals first | decide +kernel | rfl | (constructor <;> first | decide +kernel | rfl)
  · refine ⟨0x80000001, ?_, ?_⟩
    all_goals first | decide +kernel | rfl | (constructor <;> first | decide +kernel | rfl)
  · refine ⟨0x80000000, ?_⟩
    all_goals first | decide +kernel | rfl | (constructor <;> first | decide +kernel | rfl)
  · refine ⟨0xFF800001, ?_⟩
    all_goals first | decide +kernel | rfl | (constructor <;> first | decide +kernel | rfl)

theorem witness_float_conversions_round :
  (∃ a, isNumber a = true) ∧
  (∃ (a : Word), a ≠ 0) ∧
  (∃ a, isNumber a = true) ∧
  (∃ a, isInfinity a = true) ∧
  (∃ a, nanWord a = true) ∧
  (∃ a, isNumber a = true ∧ number a ≠ 0) ∧
  (∃ a, isNumber a = true ∧ number a ≠ 0) ∧
  (∃ a, isNumber a = true ∧ number a = 0) ∧
  (∃ a, isInfinity a = true) ∧
  (∃ a, nanWord a = true) ∧
  (∃ a, isNumber a = true ∧ number a ≠ 0) ∧
  (∃ rm a, isNumber a = true ∧ isNumber (spl3 rm .h a).1 = true) ∧
  (∃ a, isNumber a = true ∧ number a = 0) ∧
  (∃ rm a, isNumber a = true ∧ isInfinity (spl3 rm .h a).1 = true) ∧
  (∃ a, isInfinity a = true) ∧
  (∃ a, nanWord a = true) := by
  refine ⟨?_, ?_, ?_, ?_, ?_, ?_, ?_, ?_, ?_, ?_, ?_, ?_, ?_, ?_, ?_, ?_⟩
  · refine ⟨0x7F7FFFFF, ?_⟩
    all_goals first | decide +kernel | rfl | (constructor <;> first | decide +kernel | rfl)
  · refine ⟨0x80000000, ?_⟩
    all_goals first | decide +kernel | rfl | (constructor <;> first | decide +kernel | rfl)
  · refine ⟨1, ?_⟩
    all_goals first | decide +kernel | rfl | (constructor <;> first | decide +kernel | rfl)
  · refine ⟨0xFF800000, ?_⟩
    all_goals first | decide +kernel | rfl | (constructor <;> first | decide +kernel | rfl)
  · refine ⟨0x7F800001, ?_⟩
    all_goals first | decide +kernel | rfl | (constructor <;> first | decide +kernel | rfl)
  · refine ⟨0x80000001, ?_, ?_⟩
    all_goals first | decide +kernel | rfl | (constructor <;> first | decide +kernel | rfl)
  · refine ⟨0x7F7FFFFF, ?_, ?_⟩
    all_goals first | decide +kernel | rfl | (constructor <;> first | decide +kernel | rfl)
  · refine ⟨0x80000000, ?_, ?_⟩
    all_goals first | decide +kernel | rfl | (constructor <;> first | decide +kernel | rfl)
  · refine ⟨0x7F800000, ?_⟩
    all_goals first | decide +kernel | rfl | (constructor <;> first | decide +kernel | rfl)
  · refine ⟨0xFFC00000, ?_⟩
    all_goals first | decide +kernel | rfl | (constructor <;> first | decide +kernel | rfl)
  · refine ⟨1, ?_, ?_⟩
    all_goals first | decide +kernel | rfl | (constructor <;> first | decide +kernel | rfl)
  · refine ⟨.down, 0x3F808041, ?_, ?_⟩
    all_goals first | decide +kernel | rfl | (constructor <;> first | decide +kernel | rfl)
  · refine ⟨0, ?_, ?_⟩
    all_goals first | decide +kernel | rfl | (constructor <;> first | decide +kernel | rfl)
  · refine ⟨.near, 0x7F7FFFFF, ?_, ?_⟩
    all_goals first | decide +kernel | rfl | (constructor <;> first | decide +kernel | rfl)
  · refine ⟨0xFF800000, ?_⟩
    all_goals first | decide +kernel | rfl | (constructor <;> first | decide +kernel | rfl)
  · refine ⟨0x7F800001, ?_⟩
    all_goals first | decide +kernel | rfl | (constructor <;> first | decide +kernel | rfl)

theorem witness_float_invalid_cases :
  (∃ a b, (nanWord a || nanWord b) = true) ∧
  (∃ c, signallingNan c = false) ∧
  (∃ a, isNumber a = true ∧ number a ≠ 0) ∧
  (∃ a b, nanWord a = true ∧ nanWord b = false) ∧
  (∃ a b, isNumber a = true ∧ isNumber b = true ∧ number a < number b) ∧
  (∃ a b, isNumber a = true ∧ isNumber b = true) ∧
  (∃ a b, (nanWord a || nanWord b) = true) ∧
  (∃ a, nanWord a = true) ∧
  (∃ a, isInfinity a = true) := by
  refine ⟨?_, ?_, ?_, ?_, ?_, ?_, ?_, ?_, ?_⟩
  · refine ⟨0x7F800001, 0, ?_⟩
    all_goals first | decide +kernel | rfl | (constructor <;> first | decide +kernel | rfl)
  · refine ⟨0x7FC00000, ?_⟩
    all_goals first | decide +kernel | rfl | (constructor <;> first | decide +kernel | rfl)
  · refine ⟨1, ?_, ?_⟩
    all_goals decide +kernel
  · refine ⟨0xFF800001, 0x7F800000, ?_, ?_⟩
    all_goals first | decide +kernel | rfl | (constructor <;> first | decide +kernel | rfl)
  · refine ⟨0x80000001, 0, ?_, ?_, ?_⟩
    all_goals first | decide +kernel | rfl | (constructor <;> first | decide +kernel | rfl)
  · refine ⟨0, 0x80000000, ?_, ?_⟩
    all_goals first | decide +kernel | rfl | (constructor <;> first | decide +kernel | rfl)
  · refine ⟨0, 0xFFC00000, ?_⟩
    all_goals first | decide +kernel | rfl | (constructor <;> first | decide +kernel | rfl)
  · refine ⟨0x7F800001, ?_⟩
    all_goals first | decide +kernel | rfl | (constructor <;> first | decide +kernel | rfl)
  · refine ⟨0xFF800000, ?_⟩
    all_goals first | decide +kernel | rfl | (constructor <;> first | decide +kernel | rfl)

theorem witness_local_loads_read_memory :
  (∃ (i : Instr), ∃ m size nar, ∃ (s : State), ∃ f, laneLoad i = some (m, size, nar) ∧ Ready s f i ∧ s.focus.ctx ≠ 4 ∧ NoLower f
    m.lsid ∧ (∀ l a, l < 8 → matched i (opnd s f) l = true → laneA (opnd s f) l = some a → LocalOk (here s) (eaOf a m.imm size)
    size false ∧ Readable s (windowOf (here s) (eaOf a m.imm size)) (localByte s.focus.cell (windowOf (here s) (eaOf a m.imm size))
    (offsetOf (eaOf a m.imm size)))) ∧ (delivered s f [m.t0] (lanesOf i (opnd s f) fun l => match laneA (opnd s f) l with
    | some a => some (nar (littleEndian s.mem (localByte s.focus.cell (windowOf (here s) (eaOf a m.imm size)) (offsetOf (eaOf a m.imm size))) size))
    | none => none) 0).isOk = true) ∧
  (∃ m, ∃ (s : State), ∃ f b a, Ready s f (.ldv m) ∧ s.focus.ctx ≠ 4 ∧ NoLower f m.lsid ∧ ActingA (.ldv m) (opnd s f) b a ∧ LocalOk
    (here s) (eaOf a m.imm 32) 32 false ∧ (∀ l, l < 8 → matched (.ldv m) (opnd s f) l = true → Readable s (windowOf (here s) (eaOf
    a m.imm 32)) (localByte s.focus.cell (windowOf (here s) (eaOf a m.imm 32)) (offsetOf (eaOf a m.imm 32) + 4 * l))) ∧ (delivered
    s f [m.t0] (lanesOf (.ldv m) (opnd s f) fun l => some (localWord s (windowOf (here s) (eaOf a m.imm 32)) (offsetOf (eaOf a
    m.imm 32) + 4 * l))) 0).isOk = true) ∧
  (∃ m, ∃ (s : State), ∃ f b a d, Ready s f (.ldvs m) ∧ s.focus.ctx ≠ 4 ∧ NoLower f m.lsid ∧ ActingA (.ldvs m) (opnd s f) b a ∧
    laneB (opnd s f) b = some d ∧ d.toNat % 4 = 0 ∧ (∀ l, l < 8 → matched (.ldvs m) (opnd s f) l = true → LocalOk (here s) (strided
    a m.imm d l) 4 false ∧ Readable s (windowOf (here s) (strided a m.imm d l)) (localByte s.focus.cell (windowOf (here s) (strided
    a m.imm d l)) (offsetOf (strided a m.imm d l)))) ∧ (delivered s f [m.t0] (lanesOf (.ldvs m) (opnd s f) fun l => some (localWord
    s (windowOf (here s) (strided a m.imm d l)) (offsetOf (strided a m.imm d l)))) 0).isOk = true) ∧
  (∃ m, ∃ (s : State), ∃ f, Ready s f (.ldv m) ∧ s.focus.ctx ≠ 4 ∧ IdleA (.ldv m) (opnd s f) ∧ (delivered s f [m.t0] Val.allNull
    0).isOk = true) ∧
  (∃ m, ∃ (s : State), ∃ f, Ready s f (.ldvs m) ∧ s.focus.ctx ≠ 4 ∧ IdleA (.ldvs m) (opnd s f) ∧ (delivered s f [m.t0] Val.allNull
    0).isOk = true) := by
  refine ⟨?_, ?_, ?_, ?_, ?_⟩
  · refine ⟨.ldh ⟨.always, 31, 127, .w 63⟩, ⟨.always, 31, 127, .w 63⟩, 2, _, (bench 0 0 (near 0) {} (blk (.ldh ⟨.always, 31, 127,
        .w 63⟩) (all 0))), (blk (.ldh ⟨.always, 31, 127, .w 63⟩) (all 0)), rfl, ?_, ?_, ?_, ?_, ?_⟩
    all_goals first | decide +kernel | (refine lanes_meet ?_; decide +kernel)
  · refine ⟨⟨.always, 31, 7, .w 63⟩, (bench 0 0 (near 0) {} (blk (.ldv ⟨.always, 31, 7, .w 63⟩) (all 0))), (blk (.ldv ⟨.always,
        31, 7, .w 63⟩) (all 0)), 0, 0, ?_, ?_, ?_, ?_, ?_, ?_, ?_⟩
    all_goals first | decide +kernel | rfl | (constructor <;> first | decide +kernel | rfl)
  · refine ⟨⟨.always, 31, 0, .w 63⟩, (bench 0 0 (near 0) {} (blk (.ldvs ⟨.always, 31, 0, .w 63⟩) (all 28) (all 0xFFFFFFFC))),
        (blk (.ldvs ⟨.always, 31, 0, .w 63⟩) (all 28) (all 0xFFFFFFFC)), 0, 28, 0xFFFFFFFC, ?_, ?_, ?_, ?_, ?_, ?_, ?_, ?_⟩
    all_goals first | decide +kernel | rfl | (constructor <;> first | decide +kernel | rfl)
  · refine ⟨⟨.always, 31, 0, .w 63⟩, (stage (.ldv ⟨.always, 31, 0, .w 63⟩)), (blk (.ldv ⟨.always, 31, 0, .w 63⟩)), ?_, ?_, ?_,
        ?_⟩
    all_goals first | decide +kernel | rfl | (constructor <;> first | decide +kernel | rfl)
  · refine ⟨⟨.always, 31, 0, .w 63⟩, (stage (.ldvs ⟨.always, 31, 0, .w 63⟩)), (blk (.ldvs ⟨.always, 31, 0, .w 63⟩)), ?_, ?_, ?_,
        ?_⟩
    all_goals first | decide +kernel | rfl | (constructor <;> first | decide +kernel | rfl)

theorem witness_presence_loads_take_and_defer :
  (∃ m, ∃ (s : State), ∃ f l a, let ea := (eaOf a m.imm 4); let w := (windowOf (here s) ea); let key := (localByte s.focus.cell w
    (offsetOf ea)); Ready s f (.ldc m) ∧ s.focus.ctx ≠ 4 ∧ NoLower f m.lsid ∧ OnlyA (.ldc m) (opnd s f) l a ∧ LocalOk (here s) ea 4
    true ∧ modeCode w = 2 ∧ isBad s key = false ∧ isFull s key = true ∧ isTaken s key = false ∧ waiterFull s key = false ∧
    (delivered s f [m.t0] (lanesOf (.ldc m) (opnd s f) fun k => if k = l then some (localWord s w (offsetOf ea)) else none) 0).isOk
    = true) ∧
  (∃ m, ∃ (s : State), ∃ f l a, let ea := (eaOf a m.imm 4); let w := (windowOf (here s) ea); let key := (localByte s.focus.cell w
    (offsetOf ea)); Ready s f (.ldw m) ∧ s.focus.ctx ≠ 4 ∧ NoLower f m.lsid ∧ OnlyA (.ldw m) (opnd s f) l a ∧ LocalOk (here s) ea 4
    false ∧ modeCode w = 2 ∧ isBad s key = false ∧ isFull s key = false ∧ waiterFull s key = false) := by
  refine ⟨?_, ?_⟩
  · refine ⟨⟨.always, 31, 0, .w 63⟩,
        { (bench 0 0 (near 2) {} (blk (.ldc ⟨.always, 31, 0, .w 63⟩) (only 7 252))) with full := [252] }, (blk (.ldc ⟨.always, 31,
        0, .w 63⟩) (only 7 252)), 7, 252, ?_, ?_, ?_, ?_, ?_, ?_, ?_, ?_, ?_, ?_, ?_⟩
    all_goals first | decide +kernel | rfl | (constructor <;> first | decide +kernel | rfl)
  · refine ⟨⟨.always, 31, 0, .w 63⟩, (bench 0 0 (near 2) {} (blk (.ldw ⟨.always, 31, 0, .w 63⟩) (only 7 252))), (blk (.ldw
        ⟨.always, 31, 0, .w 63⟩) (only 7 252)), 7, 252, ?_, ?_, ?_, ?_, ?_, ?_, ?_, ?_, ?_⟩
    all_goals first | decide +kernel | rfl | (constructor <;> first | decide +kernel | rfl)

theorem witness_local_stores_count_their_bytes :
  (∃ (i : Instr), ∃ st size, ∃ (s : State), ∃ f, laneStore i = some (st, size) ∧ Ready s f i ∧ (∀ l a b, l < 8 → matched i (opnd s
    f) l = true → laneA (opnd s f) l = some a → laneB (opnd s f) l = some b → LocalOk (here s) (eaOf a st.imm size) size true ∧
    (size < 4 → modeCode (windowOf (here s) (eaOf a st.imm size)) ≠ 2)) ∧ Declares f st.lsid.toNat) ∧
  (∃ st, ∃ (s : State), ∃ f b a, Ready s f (.stv st) ∧ ActingA (.stv st) (opnd s f) b a ∧ LocalOk (here s) (eaOf a st.imm 32) 32
    true ∧ Declares f st.lsid.toNat) ∧
  (∃ st, ∃ (s : State), ∃ f b a d, Ready s f (.stvs st) ∧ ActingA (.stvs st) (opnd s f) b a ∧ laneC (opnd s f) b = some d ∧ d.toNat
    % 4 = 0 ∧ (∀ l, l < 8 → matched (.stvs st) (opnd s f) l = true → LocalOk (here s) (strided a st.imm d l) 4 true) ∧ Declares f
    st.lsid.toNat) ∧
  (∃ st, ∃ (s : State), ∃ f, Ready s f (.stv st) ∧ IdleA (.stv st) (opnd s f) ∧ Declares f st.lsid.toNat) ∧
  (∃ st, ∃ (s : State), ∃ f, Ready s f (.stvs st) ∧ IdleA (.stvs st) (opnd s f) ∧ Declares f st.lsid.toNat) ∧
  (∃ q imm, ∃ (s : State), ∃ f, Ready s f (.clrp q imm) ∧ (∀ l a, l < 8 → matched (.clrp q imm) (opnd s f) l = true → laneA (opnd s
    f) l = some a → LocalOk (here s) (eaOf a imm 4) 4 true ∧ modeCode (windowOf (here s) (eaOf a imm 4)) = 2) ∧ Declares f
    q.lsid.toNat) := by
  refine ⟨?_, ?_, ?_, ?_, ?_, ?_⟩
  · refine ⟨.sth ⟨.always, 31, 127, .policy⟩, ⟨.always, 31, 127, .policy⟩, 2, (bench 0 0 (near 0) {} (blk (.sth ⟨.always, 31,
        127, .policy⟩) (all 0) (all 0x12345678))), (blk (.sth ⟨.always, 31, 127, .policy⟩) (all 0) (all 0x12345678)), rfl, ?_, ?_,
        ?_⟩
    all_goals first | decide +kernel | (refine lanes_meet₂ ?_; decide +kernel)
  · refine ⟨⟨.always, 31, 7, .policy⟩, (bench 0 0 (near 2) {} (blk (.stv ⟨.always, 31, 7, .policy⟩) (only 3 0) (all 3))), (blk
        (.stv ⟨.always, 31, 7, .policy⟩) (only 3 0) (all 3)), 3, 0, ?_, ?_, ?_, ?_⟩
    all_goals first | decide +kernel | rfl | (constructor <;> first | decide +kernel | rfl)
  · refine ⟨⟨.always, 31, 0, .close⟩, (bench 0 0 (near 0) {} (blk (.stvs ⟨.always, 31, 0, .close⟩) (all 28) (all 3) (all
        0xFFFFFFFC))), (blk (.stvs ⟨.always, 31, 0, .close⟩) (all 28) (all 3) (all 0xFFFFFFFC)), 0, 28, 0xFFFFFFFC, ?_, ?_, ?_, ?_,
        ?_, ?_⟩
    all_goals first | decide +kernel | rfl | (constructor <;> first | decide +kernel | rfl)
  · refine ⟨⟨.always, 31, 0, .policy⟩, (stage (.stv ⟨.always, 31, 0, .policy⟩) Val.allNull (all 3)), (blk (.stv ⟨.always, 31, 0,
        .policy⟩) Val.allNull (all 3)), ?_, ?_, ?_⟩
    all_goals first | decide +kernel | rfl | (constructor <;> first | decide +kernel | rfl)
  · refine ⟨⟨.always, 31, 0, .policy⟩, (stage (.stvs ⟨.always, 31, 0, .policy⟩) Val.allNull (all 3) (all 3)), (blk (.stvs
        ⟨.always, 31, 0, .policy⟩) Val.allNull (all 3) (all 3)), ?_, ?_, ?_⟩
    all_goals first | decide +kernel | rfl | (constructor <;> first | decide +kernel | rfl)
  · refine ⟨lf, 63, (bench 0 0 (near 2) {} (blk (.clrp lf 63) (only 7 0))), (blk (.clrp lf 63) (only 7 0)), ?_, ?_, ?_⟩
    all_goals first | decide +kernel | (refine lanes_meet ?_; decide +kernel)

theorem witness_access_checks_fault_in_order :
  (∃ (i : Instr) (acc : Access) (s : State), ∃ f l k ea, accessOf i = some acc ∧ Ready s f i ∧ l < 8 ∧ laneFault s i acc (opnd s f)
    l = some (k, ea) ∧ (∀ j, j < l → laneFault s i acc (opnd s f) j = none) ∧ (acc.reach = .stride → ∀ b d, baseLane i (opnd s f) =
    some b → strideAt acc (opnd s f) b.1 = some d → d.toNat % 4 = 0)) ∧
  (∃ (i : Instr) (acc : Access) (s : State), ∃ f b, accessOf i = some acc ∧ acc.reach = .stride ∧ Ready s f i ∧ baseLane i (opnd s
    f) = some b ∧ (∀ d, strideAt acc (opnd s f) b.1 = some d → d.toNat % 4 ≠ 0)) := by
  refine ⟨?_, ?_⟩
  · refine ⟨.cas ⟨.always, 31, .cell, false, .w 63⟩, ⟨.each, 0, 4, 4, true, fun w => (ownedKind w && modeCode w == 3) || kindCode
        w == 5, true, true, 31⟩, (bench 0 0 (near 3) {} (blk (.cas ⟨.always, 31, .cell, false, .w 63⟩) (only 7 254) (all 3) (all
        3))), (blk (.cas ⟨.always, 31, .cell, false, .w 63⟩) (only 7 254) (all 3) (all 3)), 7, .align, 254, rfl, ?_, ?_, ?_, ?_,
        fun h => nomatch h⟩
    all_goals first | decide +kernel | rfl | (constructor <;> first | decide +kernel | rfl)
  · refine ⟨.ldvs ⟨.always, 31, 0, .w 63⟩, ⟨.stride, 0, 4, 4, false, memoryKind, false, false, 31⟩, (bench 0 0 (near 0) {} (blk
        (.ldvs ⟨.always, 31, 0, .w 63⟩) (all 28) (all 2))), (blk (.ldvs ⟨.always, 31, 0, .w 63⟩) (all 28) (all 2)), (0, 28), rfl,
        ?_, ?_, ?_, of_only 2 (by decide +kernel) (by decide +kernel)⟩
    all_goals first | decide +kernel | rfl | (constructor <;> first | decide +kernel | rfl)

theorem witness_atomics_request_their_owners :
  (∃ (i : Instr), ∃ af op, ∃ (s : State), ∃ f l a b c key, atomicOf i = some (af, op) ∧ af.noret = true ∧ Ready s f i ∧ OnlyA i
    (opnd s f) l a ∧ laneB (opnd s f) l = some b ∧ (if usesThird op then laneC (opnd s f) l = some c else c = 0) ∧ isBayCore
    s.focus.cell = false ∧ accCheck s.focus.cell (windowOf (here s) a) .upd a 4 = none ∧ translate s s.focus.cell (windowOf (here
    s) a) (offsetOf a) = .mem key ∧ Declares f af.lsid.toNat) ∧
  (∃ (i : Instr), ∃ af op, ∃ (s : State), ∃ f l a b c key, atomicOf i = some (af, op) ∧ af.noret = false ∧ Ready s f i ∧ OnlyA i
    (opnd s f) l a ∧ laneB (opnd s f) l = some b ∧ (if usesThird op then laneC (opnd s f) l = some c else c = 0) ∧ isBayCore
    s.focus.cell = false ∧ accCheck s.focus.cell (windowOf (here s) a) .upd a 4 = none ∧ replyCount s s.focus.cell < 64 ∧ translate
    s s.focus.cell (windowOf (here s) a) (offsetOf a) = .mem key ∧ (∀ w ∈ f.waits, w.unsent = [])) := by
  refine ⟨?_, ?_⟩
  · refine ⟨.cas ⟨.always, 31, .region, true, .none⟩, ⟨.always, 31, .region, true, .none⟩, .cas, (bench 0 0 (near 3) {} (blk
        (.cas ⟨.always, 31, .region, true, .none⟩) (only 7 252) (all 3) (all 5))), (blk (.cas ⟨.always, 31, .region, true, .none⟩)
        (only 7 252) (all 3) (all 5)), 7, 252, 3, 5, 252, ?_, ?_, ?_, ?_, ?_, ?_, ?_, ?_, ?_, ?_⟩
    all_goals first | decide +kernel | rfl | (constructor <;> first | decide +kernel | rfl)
  · refine ⟨.amo .add ⟨.always, 31, .region, false, .w 63⟩, ⟨.always, 31, .region, false, .w 63⟩, .amo .add, (bench 0 0 (near 3)
        {} (blk (.amo .add ⟨.always, 31, .region, false, .w 63⟩) (only 0 252) (all 3))), (blk (.amo .add ⟨.always, 31, .region,
        false, .w 63⟩) (only 0 252) (all 3)), 0, 252, 3, 0, 252, ?_, ?_, ?_, ?_, ?_, ?_, ?_, ?_, ?_, ?_, ?_⟩
    all_goals first | decide +kernel | rfl | (constructor <;> first | decide +kernel | rfl)

theorem witness_fence_counts_and_waits :
  (∃ q sc, ∃ (s : State), ∃ f, Ready s f (.fence q sc) ∧ sc ≠ .engine ∧ (∀ p ∈ (here s).pend, p.2.st = .free ∨ ∀ o ∈ entryOwners
    p.2, scopeHas s sc o = false) ∧ Declares f q.lsid.toNat) ∧
  (∃ q, ∃ (s : State), ∃ f, Ready s f (.fence q .engine) ∧ (∀ u ∈ (coreOf s s.focus.cell).units, u.2.owner = s.focus.ctx → (u.2.st
    = .idle ∨ u.2.st = .loaded ∨ u.2.st = .held) ∧ u.2.endings = []) ∧ ((coreOf s s.focus.cell).mx.owner = some s.focus.ctx →
    (coreOf s s.focus.cell).mx.queue = [] ∧ (coreOf s s.focus.cell).mx.run = none) ∧ (here s).collq = [] ∧ Declares f q.lsid.toNat) ∧
  (∃ q sc, ∃ (s : State), ∃ f, Ready s f (.fence q sc) ∧ (here s).pend = [] ∧ (coreOf s s.focus.cell).units = [] ∧ (coreOf s
    s.focus.cell).mx.queue = [] ∧ (coreOf s s.focus.cell).mx.run = none ∧ (here s).collq = [] ∧ Declares f q.lsid.toNat) ∧
  (∃ q sc, ∃ (s : State), ∃ f, Ready s f (.fence q sc) ∧ ¬ Acts (.fence q sc) (opnd s f) ∧ Declares f q.lsid.toNat) ∧
  (∃ q sc, ∃ (s : State), ∃ f n p, Ready s f (.fence q sc) ∧ Acts (.fence q sc) (opnd s f) ∧ sc ≠ .engine ∧ (here s).pend = [(n,
    p)] ∧ p.st = .opened ∧ p.act = .nothing ∧ p.ownerCell = s.focus.cell ∧ p.ownerCell < 1048576) := by
  refine ⟨?_, ?_, ?_, ?_, ?_⟩
  · refine ⟨lf, .region, (bench 0 0 { pend := [(31, { st := .opened, ownerCell := hostDst })] } {} (blk (.fence lf .region))),
        (blk (.fence lf .region)), ?_, ?_, ?_, ?_⟩
    all_goals first | decide +kernel | rfl | (constructor <;> first | decide +kernel | rfl)
  · refine ⟨lf, (bench 0 0 {} { units := [(3, { st := .loaded })], mx := { owner := some 0 } } (blk (.fence lf .engine))), (blk
        (.fence lf .engine)), ?_, ?_, ?_, ?_, ?_⟩
    all_goals first | decide +kernel | rfl | (constructor <;> first | decide +kernel | rfl)
  · refine ⟨lf, .system, (stage (.fence lf .system)), (blk (.fence lf .system)), ?_, ?_, ?_, ?_, ?_, ?_, ?_⟩
    all_goals first | decide +kernel | rfl | (constructor <;> first | decide +kernel | rfl)
  · refine ⟨⟨.onTrue, 31⟩, .cell, (bench 0 0 {} {}
        { blk (.fence ⟨.onTrue, 31⟩ .cell) with slots := [(1, { p := some Val.allNull })] }),
        { blk (.fence ⟨.onTrue, 31⟩ .cell) with slots := [(1, { p := some Val.allNull })] }, ?_, ?_, ?_⟩
    all_goals first | decide +kernel | rfl | (constructor <;> first | decide +kernel | rfl)
  · refine ⟨lf, .cell, (bench 0 0 { pend := [(31, { st := .opened })] } {} (blk (.fence lf .cell))), (blk (.fence lf .cell)), 31,
        { st := .opened }, ?_, ?_, ?_, ?_, ?_, ?_, ?_, ?_⟩
    all_goals first | decide +kernel | rfl | (constructor <;> first | decide +kernel | rfl)

theorem witness_exits_are_counted :
  (∃ (i : Instr), ∃ k, ∃ (s : State), ∃ f, Ready s f i ∧ f.exit = none ∧ matched i (opnd s f) 0 = true ∧ exitOf (here s) f i = some
    (k, true)) ∧
  (∃ x, ∃ (s : State), ∃ f a, Ready s f (.br x) ∧ f.exit = none ∧ matched (.br x) (opnd s f) 0 = true ∧ laneA (opnd s f) 0 = some a
    ∧ a.toNat % 16 = 0) ∧
  (∃ x, ∃ (s : State), ∃ f a, Ready s f (.call x) ∧ f.exit = none ∧ matched (.call x) (opnd s f) 0 = true ∧ laneA (opnd s f) 0 =
    some a ∧ a.toNat % 16 = 0 ∧ (here s).calls.length < 16) ∧
  (∃ (i : Instr) (s : State), ∃ f, isAnExit i = true ∧ Ready s f i ∧ matched i (opnd s f) 0 = false) ∧
  (∃ x, ∃ (s : State), ∃ f, Ready s f (.br x) ∧ laneA (opnd s f) 0 = none) ∧
  (∃ x, ∃ (s : State), ∃ f, Ready s f (.call x) ∧ laneA (opnd s f) 0 = none) := by
  refine ⟨?_, ?_, ?_, ?_, ?_, ?_⟩
  · refine ⟨.callo ⟨.always, 7⟩ 0xFFFFF, .call 0xF0, (bench 0 0 { calls := List.replicate 15 0 } {} (blk (.callo ⟨.always, 7⟩
        0xFFFFF))), (blk (.callo ⟨.always, 7⟩ 0xFFFFF)), ?_, ?_, ?_, ?_⟩
    all_goals first | decide +kernel | rfl | (constructor <;> first | decide +kernel | rfl)
  · refine ⟨⟨.always, 7⟩, (stage (.br ⟨.always, 7⟩) (only 0 0xFFFFFFF0)), (blk (.br ⟨.always, 7⟩) (only 0 0xFFFFFFF0)),
        0xFFFFFFF0, ?_, ?_, ?_, ?_, ?_⟩
    all_goals first | decide +kernel | rfl | (constructor <;> first | decide +kernel | rfl)
  · refine ⟨⟨.always, 7⟩, (bench 0 0 { calls := List.replicate 15 0 } {} (blk (.call ⟨.always, 7⟩) (only 0 32))), (blk (.call
        ⟨.always, 7⟩) (only 0 32)), 32, ?_, ?_, ?_, ?_, ?_, ?_⟩
    all_goals first | decide +kernel | rfl | (constructor <;> first | decide +kernel | rfl)
  · refine ⟨.scall ⟨.onTrue, 7⟩ 0xFFF, (bench 0 0 {} {}
        { blk (.scall ⟨.onTrue, 7⟩ 0xFFF) with slots := [(1, { p := some Val.allNull })] }),
        { blk (.scall ⟨.onTrue, 7⟩ 0xFFF) with slots := [(1, { p := some Val.allNull })] }, ?_, ?_, ?_⟩
    all_goals first | decide +kernel | rfl | (constructor <;> first | decide +kernel | rfl)
  · refine ⟨⟨.always, 7⟩, (stage (.br ⟨.always, 7⟩) (only 1 4)), (blk (.br ⟨.always, 7⟩) (only 1 4)), ?_, ?_⟩
    all_goals first | decide +kernel | rfl | (constructor <;> first | decide +kernel | rfl)
  · refine ⟨⟨.always, 7⟩, (stage (.call ⟨.always, 7⟩) (only 1 4)), (blk (.call ⟨.always, 7⟩) (only 1 4)), ?_, ?_⟩
    all_goals first | decide +kernel | rfl | (constructor <;> first | decide +kernel | rfl)

theorem witness_exits_fault_when_taken :
  (∃ (i : Instr), ∃ k a, ∃ (s : State), ∃ f, Ready s f i ∧ matched i (opnd s f) 0 = true ∧ exitFault (here s) f s.focus.slot i =
    some (k, a)) ∧
  (∃ x, ∃ (s : State), ∃ f a, Ready s f (.br x) ∧ matched (.br x) (opnd s f) 0 = true ∧ laneA (opnd s f) 0 = some a ∧ a.toNat % 16
    ≠ 0) ∧
  (∃ x, ∃ (s : State), ∃ f a, Ready s f (.call x) ∧ matched (.call x) (opnd s f) 0 = true ∧ laneA (opnd s f) 0 = some a ∧ a.toNat %
    16 ≠ 0) ∧
  (∃ x, ∃ (s : State), ∃ f a, Ready s f (.call x) ∧ matched (.call x) (opnd s f) 0 = true ∧ laneA (opnd s f) 0 = some a ∧ a.toNat %
    16 = 0 ∧ (here s).calls.length = 16) ∧
  (∃ (i : Instr) (s : State), ∃ f n e, (i = .endBlk n ∨ i = .yieldBlk n ∨ i = .ret n .retry ∨ i = .ret n .succ) ∧ Ready s f i ∧
    matched i (opnd s f) 0 = true ∧ (here s).tl = true ∧ (here s).pend = [(e, { st := .faulted })] ∧ e < 32) ∧
  (∃ (i : Instr), ∃ k, ∃ (s : State), ∃ f q, Ready s f i ∧ matched i (opnd s f) 0 = true ∧ exitOf (here s) f i = some (k, true) ∧
    f.exit = some q) := by
  refine ⟨?_, ?_, ?_, ?_, ?_, ?_⟩
  · refine ⟨.ret ⟨.always, 7⟩ .call, .stack, 0, (bench 0 0 { tl := true, trapRec := some ⟨none, none, 1⟩, calls := [0] } {} (blk
        (.ret ⟨.always, 7⟩ .call))), (blk (.ret ⟨.always, 7⟩ .call)), ?_, ?_, ?_⟩
    all_goals first | decide +kernel | rfl | (constructor <;> first | decide +kernel | rfl)
  · refine ⟨⟨.always, 7⟩, (stage (.br ⟨.always, 7⟩) (only 0 8)), (blk (.br ⟨.always, 7⟩) (only 0 8)), 8, ?_, ?_, ?_, ?_⟩
    all_goals first | decide +kernel | rfl | (constructor <;> first | decide +kernel | rfl)
  · refine ⟨⟨.always, 7⟩, (stage (.call ⟨.always, 7⟩) (only 0 0xFFFFFFFF)), (blk (.call ⟨.always, 7⟩) (only 0 0xFFFFFFFF)),
        0xFFFFFFFF, ?_, ?_, ?_, ?_⟩
    all_goals first | decide +kernel | rfl | (constructor <;> first | decide +kernel | rfl)
  · refine ⟨⟨.always, 7⟩, (bench 0 0 { calls := List.replicate 16 0 } {} (blk (.call ⟨.always, 7⟩) (only 0 32))), (blk (.call
        ⟨.always, 7⟩) (only 0 32)), 32, ?_, ?_, ?_, ?_, ?_⟩
    all_goals first | decide +kernel | rfl | (constructor <;> first | decide +kernel | rfl)
  · refine ⟨.endBlk ⟨.always, 7⟩, (bench 0 0 { tl := true, pend := [(31, { st := .faulted })] } {} (blk (.endBlk ⟨.always, 7⟩))),
        (blk (.endBlk ⟨.always, 7⟩)), ⟨.always, 7⟩, 31, ?_, ?_, ?_, ?_, ?_, ?_⟩
    all_goals first | decide +kernel | exact .inl rfl
  · refine ⟨.endBlk ⟨.always, 7⟩, .done, (bench 0 0 {} {} { blk (.endBlk ⟨.always, 7⟩) with exit := some (.yielded, 2) }),
        { blk (.endBlk ⟨.always, 7⟩) with exit := some (.yielded, 2) }, (.yielded, 2), ?_, ?_, ?_, ?_⟩
    all_goals first | decide +kernel | rfl | (constructor <;> first | decide +kernel | rfl)

theorem witness_special_register_reads :
  (∃ r, ∃ (s : State), ∃ f w, Ready s f (.spr r) ∧ specialReg s (here s) s.focus.ctx r.reg.toNat = some w ∧ (delivered s f [r.t0]
    (lanesOf (.spr r) (opnd s f) fun _ => some w) 0).isOk = true) ∧
  (∃ r, ∃ (s : State), ∃ f, Ready s f (.spr r) ∧ r.reg.toNat = 0x14 ∧ (delivered s f [r.t0] (lanesOf (.spr r) (opnd s f) fun _ =>
    some (BitVec.ofNat 32 (Tbl.get 0 s.spines (cellOf s s.focus.cell).spine % 4096 * 2 ^ 16 + (cellOf s s.focus.cell).spine)))
    0).isOk = true) ∧
  (∃ r, ∃ (s : State), ∃ f n, Ready s f (.spr r) ∧ (r.reg.toNat = 0x12 ∨ r.reg.toNat = 0x13) ∧ n = f.sample.getD (cellOf s
    s.focus.cell).cyc ∧ (deliverAll { markFired f s.focus.slot with sample := some n, flags := f.flags ||| 0 } (slotAddr f
    s.focus.slot) s.focus.slot (lanesOf (.spr r) (opnd s f) fun _ => some (BitVec.ofNat 32 (if r.reg.toNat = 0x12 then n else n / 2
    ^ 32))) [r.t0]).isOk = true) ∧
  (∃ r, ∃ (s : State), ∃ f, Ready s f (.spr r) ∧ UserFocus s ∧ r.reg.toNat = 0x18 ∧ (delivered s f [r.t0] (lanesOf (.spr r) (opnd s
    f) fun _ => some (if (here s).evsel.getLsbD 31 = true ∧ (here s).evsel.extractLsb' 0 8 = 2 then (here s).evcnt + 1 else (here
    s).evcnt)) 0).isOk = true) ∧
  (∃ r, ∃ (s : State), ∃ f, Ready s f (.spr r) ∧ s.focus.ctx = 4 ∧ r.reg.toNat = 0x18 ∧ (delivered s f [r.t0] (lanesOf (.spr r)
    (opnd s f) fun _ => some 0) 0).isOk = true) := by
  refine ⟨?_, ?_, ?_, ?_, ?_⟩
  · refine ⟨⟨.always, 0x11, .w 63⟩, (bench 0 0 { pend := [(0, { st := .faulted }), (31, { st := .opened })] } {} (blk (.spr
        ⟨.always, 0x11, .w 63⟩))), (blk (.spr ⟨.always, 0x11, .w 63⟩)), 0x102, ?_, ?_, ?_⟩
    all_goals first | decide +kernel | rfl | (constructor <;> first | decide +kernel | rfl)
  · refine ⟨⟨.always, 0x14, .w 63⟩, (stage (.spr ⟨.always, 0x14, .w 63⟩)), (blk (.spr ⟨.always, 0x14, .w 63⟩)), ?_, ?_, ?_⟩
    all_goals first | decide +kernel | rfl | (constructor <;> first | decide +kernel | rfl)
  · refine ⟨⟨.always, 0x13, .w 63⟩, (stage (.spr ⟨.always, 0x13, .w 63⟩)), (blk (.spr ⟨.always, 0x13, .w 63⟩)), 0, ?_, ?_, ?_,
        ?_⟩
    all_goals first | decide +kernel | rfl | (constructor <;> first | decide +kernel | rfl)
  · refine ⟨⟨.always, 0x18, .w 63⟩, (bench 0 0 { evsel := 0x80000002, evcnt := 0xFFFFFFFF } {} (blk (.spr ⟨.always, 0x18, .w
        63⟩))), (blk (.spr ⟨.always, 0x18, .w 63⟩)), ?_, ?_, ?_, ?_⟩
    all_goals first | decide +kernel | rfl | (constructor <;> first | decide +kernel | rfl)
  · refine ⟨⟨.always, 0x18, .w 63⟩, (bench 0 4 {} {} (blk (.spr ⟨.always, 0x18, .w 63⟩))), (blk (.spr ⟨.always, 0x18, .w 63⟩)),
        ?_, ?_, ?_, ?_⟩
    all_goals first | decide +kernel | rfl | (constructor <;> first | decide +kernel | rfl)

theorem witness_special_register_writes_count :
  (∃ q reg, ∃ (s : State), ∃ f l a, Ready s f (.spw q reg) ∧ ActingA (.spw q reg) (opnd s f) l a ∧ Declares f q.lsid.toNat) ∧
  (∃ q reg, ∃ (s : State), ∃ f, Ready s f (.spw q reg) ∧ IdleA (.spw q reg) (opnd s f) ∧ Declares f q.lsid.toNat) := by
  refine ⟨?_, ?_⟩
  · refine ⟨lf, 0x17, (stage (.spw lf 0x17) (only 7 5)), (blk (.spw lf 0x17) (only 7 5)), 7, 5, ?_, ?_, ?_⟩
    all_goals first | decide +kernel | rfl | (constructor <;> first | decide +kernel | rfl)
  · refine ⟨lf, 0x0A, (stage (.spw lf 0x0A)), (blk (.spw lf 0x0A)), ?_, ?_, ?_⟩
    all_goals first | decide +kernel | rfl | (constructor <;> first | decide +kernel | rfl)

theorem witness_commit_writes_registers_and_goes_on :
  (∃ (s : State), ∃ c x f k h calls, Finished s c x f k ∧ f.effs = [] ∧ (f.regs.map fun p => p.1).Nodup ∧ successor (ctxOf s c x) f
    k = some (h, calls)) := by
  refine ⟨(bench 0 3 {} {} (over_ (.call 0xFFF0) [] [(63, only 7 1), (0, all 2)])), 0, 3, (over_ (.call 0xFFF0) [] [(63, only 7
        1), (0, all 2)]), .call 0xFFF0, 0xFFF0, [0x120], finished (by decide +kernel), ?_, ?_, ?_⟩
  all_goals first | decide +kernel | rfl | (constructor <;> first | decide +kernel | rfl)

theorem witness_commit_ends_the_activation :
  (∃ (s : State), ∃ c x f k, Finished s c x f k ∧ f.effs = [] ∧ f.regs = [] ∧ (k = .done ∨ k = .yielded) ∧ (ctxOf s c x).inter =
    none) ∧
  (∃ (s : State), ∃ c x f k, Finished s c x f k ∧ f.effs = [] ∧ f.regs = [] ∧ (k = .done ∨ k = .yielded) ∧ (ctxOf s c x).tl = true) ∧
  (∃ (s : State), ∃ c x f k i, Finished s c x f k ∧ f.effs = [] ∧ f.regs = [] ∧ (k = .done ∨ k = .yielded) ∧ (ctxOf s c x).inter =
    some i ∧ (ctxOf s c x).tl = false) := by
  refine ⟨?_, ?_, ?_⟩
  · refine ⟨(bench 0 3 {} {} (over_ .done [] [])), 0, 3, (over_ .done [] []), .done, finished (by decide +kernel), ?_, ?_, ?_,
        ?_⟩
    all_goals first | decide +kernel | rfl | (constructor <;> first | decide +kernel | rfl)
  · refine ⟨(bench 0 3
        { tl := true, inter := some { rtag := 1, itag := 2, argn := 3, args := [], cls := 3, succ := 0x40, depth := 0, tuple := none } }
        {} (over_ .done [] [])), 0, 3, (over_ .done [] []), .done, finished (by decide +kernel), ?_, ?_, ?_, ?_⟩
    all_goals first | decide +kernel | rfl | (constructor <;> first | decide +kernel | rfl)
  · refine ⟨(bench 0 3
        { inter := some { rtag := 1, itag := 2, argn := 3, args := [], cls := 3, succ := 0x40, depth := 0, tuple := none } } {}
        (over_ .yielded [] [])), 0, 3, (over_ .yielded [] []), .yielded,
        { rtag := 1, itag := 2, argn := 3, args := [], cls := 3, succ := 0x40, depth := 0, tuple := none }, finished (by
        decide +kernel), ?_, ?_, ?_, ?_, ?_⟩
    all_goals first | decide +kernel | rfl | (constructor <;> first | decide +kernel | rfl)

theorem witness_commit_enters_and_leaves_traps :
  (∃ (s : State), ∃ c x f k n j sc, Finished s c x f k ∧ f.effs = [] ∧ f.regs = [] ∧ ((k = .scall n ∧ sc = true) ∨ (k = .trap n ∧
    sc = false)) ∧ (ctxOf s c x).tl = false ∧ f.exit = some (k, j) ∧ j < 128) ∧
  (∃ (s : State), ∃ c x f kind r a, Finished s c x f (.trapRet kind) ∧ f.effs = [] ∧ f.regs = [] ∧ (ctxOf s c x).trapRec = some r ∧
    ((kind = .retry ∧ r.retry = some a) ∨ (kind = .succ ∧ r.succ = some a))) ∧
  (∃ (s : State), ∃ c x f kind r, Finished s c x f (.trapRet kind) ∧ f.effs = [] ∧ f.regs = [] ∧ (ctxOf s c x).trapRec = some r ∧
    ((kind = .retry ∧ r.retry = none) ∨ (kind = .succ ∧ r.succ = none)) ∧ (ctxOf s c x).inter = none) := by
  refine ⟨?_, ?_, ?_⟩
  · refine ⟨(bench 0 3 { trapv := 0x40 } {} (over_ (.scall 0xFFF) [] [])), 0, 3, (over_ (.scall 0xFFF) [] []), .scall 0xFFF,
        0xFFF, 2, true, finished (by decide +kernel), ?_, ?_, ?_, ?_, ?_, ?_⟩
    all_goals first | decide +kernel | rfl | (constructor <;> first | decide +kernel | rfl)
  · refine ⟨(bench 0 3 { tl := true, trapRec := some ⟨some 0x20, some 0x30, 16⟩ } {} (over_ (.trapRet .succ) [] [])), 0, 3,
        (over_ (.trapRet .succ) [] []), .succ, ⟨some 0x20, some 0x30, 16⟩, 0x30, finished (by decide +kernel), ?_, ?_, ?_, ?_⟩
    all_goals first | decide +kernel | rfl | (constructor <;> first | decide +kernel | rfl)
  · refine ⟨(bench 0 3 { tl := true, trapRec := some ⟨none, none, 0⟩ } {} (over_ (.trapRet .retry) [] [])), 0, 3, (over_
        (.trapRet .retry) [] []), .retry, ⟨none, none, 0⟩, finished (by decide +kernel), ?_, ?_, ?_, ?_, ?_⟩
    all_goals first | decide +kernel | rfl | (constructor <;> first | decide +kernel | rfl)

theorem witness_commit_stores_exactly_its_bytes :
  (∃ (s : State), ∃ c x f h, Finished s c x f (.goto h) ∧ Memory.wf s.mem = true ∧ f.regs = [] ∧ (∀ a ∈ actsOf f, ownStores c a) ∧
    (∀ l ∈ bytesOf f, keyIsLoft l.key = false ∧ isBad s l.key = false) ∧ (∀ y g, y ≠ x → (ctxOf s c y).frame = some g → decoded g =
    true)) := by
  refine ⟨(bench 0 3 {} {} (over_ (.goto 0)
        [{ lsid := 31, slot := 1, act := (.store [{ lane := 7, key := sramKey 0 (2 ^ 19 - 1), size := 1, val := 0xFF, ea := 0, mode := .random }] [] [] .policy) }]
        [])), 0, 3, (over_ (.goto 0)
        [{ lsid := 31, slot := 1, act := (.store [{ lane := 7, key := sramKey 0 (2 ^ 19 - 1), size := 1, val := 0xFF, ea := 0, mode := .random }] [] [] .policy) }]
        []), 0, finished (by decide +kernel), ?_, ?_, ?_, ?_, no_other⟩
  all_goals first
    | decide +kernel
    | (rw [show actsOf (over_ (.goto 0) [{ lsid := 31, slot := 1, act := (.store [{ lane := 7, key := sramKey 0 (2 ^ 19 - 1), size := 1, val := 0xFF, ea := 0, mode := .random }] [] [] .policy) }] []) = [.store [{ lane := 7, key := sramKey 0 (2 ^ 19 - 1), size := 1, val := 0xFF, ea := 0, mode := .random }] [] [] .policy] from by decide +kernel]
       intro a h
       rw [List.mem_singleton.mp h]
       exact ⟨_, _, rfl, by decide +kernel⟩)

theorem witness_commit_waits_for_every_count :
  (∃ (s : State), ∃ c x f, (ctxOf s c x).frame = some f ∧ (f.exit = none ∨ f.counted &&& f.h1 ≠ f.h1 ∨ f.wroteLo &&& f.h2 ≠ f.h2 ∨
    f.wroteHi &&& f.h3 ≠ f.h3)) := by
  refine ⟨(bench 0 3 {} {} { over_ .done [] [] with h3 := 0x80000000 }), 0, 3, { over_ .done [] [] with h3 := 0x80000000 }, ?_,
        ?_⟩
  all_goals first | decide +kernel | rfl | (constructor <;> first | decide +kernel | rfl)

theorem witness_special_register_writes_commit :
  (∃ (s : State), ∃ c x f h reg w e, Finished s c x f (.goto h) ∧ f.regs = [] ∧ f.effs = [e] ∧ e.act = .spw reg w) ∧
  (∃ (s : State), ∃ c x f h reg v w m n a b, Finished s c x f (.goto h) ∧ f.regs = [] ∧ (f.effs = [⟨m, a, .spw reg v⟩, ⟨n, b, .spw
    reg w⟩] ∨ f.effs = [⟨n, b, .spw reg w⟩, ⟨m, a, .spw reg v⟩]) ∧ m < n ∧ (reg = 0x0B ∨ reg = 0x0C)) := by
  refine ⟨?_, ?_⟩
  · refine ⟨(bench 0 3 {} {} (over_ (.goto 0x10) [{ lsid := 31, slot := 1, act := .spw 0x17 0xFFFFFFFF }] [])), 0, 3, (over_
        (.goto 0x10) [{ lsid := 31, slot := 1, act := .spw 0x17 0xFFFFFFFF }] []), 0x10, 0x17, 0xFFFFFFFF,
        { lsid := 31, slot := 1, act := .spw 0x17 0xFFFFFFFF }, finished (by decide +kernel), ?_, ?_, ?_⟩
    all_goals first | decide +kernel | rfl | (constructor <;> first | decide +kernel | rfl)
  · refine ⟨(bench 0 3 {} {} (over_ (.goto 0x10) [{ lsid := 1, slot := 1, act := .spw 0x0C 5 },
        { lsid := 31, slot := 1, act := .spw 0x0C 0xFFFFFFFF }] [])), 0, 3, (over_ (.goto 0x10)
        [{ lsid := 1, slot := 1, act := .spw 0x0C 5 }, { lsid := 31, slot := 1, act := .spw 0x0C 0xFFFFFFFF }] []), 0x10, 0x0C, 5,
        0xFFFFFFFF, 1, 31, 1, 1, finished (by decide +kernel), ?_, ?_, ?_, ?_⟩
    all_goals first | decide +kernel | rfl | (constructor <;> first | decide +kernel | rfl)

theorem witness_sends_keep_their_tokens :
  (∃ q act ch, ∃ (s : State), ∃ f t, Ready s f (.send q act ch) ∧ AnyA (.send q act ch) (opnd s f) ∧ SetReady act (opnd s f) ∧
    carried (here s) (laneB (opnd s f) 0) act = some t ∧ (cellOf s s.focus.cell).slot = none ∧ (chanEntry s ch).getLsbD 31 = true ∧
    Declares f q.lsid.toNat) ∧
  (∃ q act tag, ∃ (s : State), ∃ f t c r, ∃ (d : Nat × Nat), ∃ c', Ready s f (.sendm q act tag) ∧ AnyA (.sendm q act tag) (opnd s
    f) ∧ SetReady act (opnd s f) ∧ carried (here s) (laneB (opnd s f) 0) act = some t ∧ laneC (opnd s f) 0 = some c ∧ c.extractLsb'
    24 8 = 0 ∧ regionOf s s.focus.cell = some r ∧ regionCell s s.focus.cell d.1 d.2 = some c' ∧ d.1 < (regionAt s r).w ∧ d.2 <
    (regionAt s r).h ∧ (d.1 : Int) = ((cellOf s s.focus.cell).regpos.extractLsb' 0 16).toNat + (c.extractLsb' 0 11).toInt ∧ (d.2 :
    Int) = ((cellOf s s.focus.cell).regpos.extractLsb' 16 16).toNat + (c.extractLsb' 11 11).toInt ∧ Declares f q.lsid.toNat) ∧
  (∃ q act ch, ∃ (s : State), ∃ f, Ready s f (.send q act ch) ∧ (¬ AnyA (.send q act ch) (opnd s f) ∨ ¬ SetReady act (opnd s f)) ∧
    Declares f q.lsid.toNat) ∧
  (∃ q act tag, ∃ (s : State), ∃ f, Ready s f (.sendm q act tag) ∧ (¬ AnyA (.sendm q act tag) (opnd s f) ∨ ¬ SetReady act (opnd s
    f) ∨ laneC (opnd s f) 0 = none) ∧ Declares f q.lsid.toNat) := by
  refine ⟨?_, ?_, ?_, ?_⟩
  · refine ⟨lf, .next, 63, (bench 0 0 { itag := 0x3F, chans := [(63, 0x800007FF)] } {} (blk (.send lf .next 63) (only 7 5))),
        (blk (.send lf .next 63) (only 7 5)), 0x30, ?_, ⟨7, 5, by decide +kernel⟩, ?_, ?_, ?_, ?_, ?_⟩
    all_goals first | decide +kernel | rfl | (constructor <;> first | decide +kernel | rfl)
  · refine ⟨lf, .set, 0xE1, (place 0 0 2 2 (stage (.sendm lf .set 0xE1) (only 7 5) (only 0 15) (only 0 0xC00801))), (blk (.sendm
        lf .set 0xE1) (only 7 5) (only 0 15) (only 0 0xC00801)), 15, 0xC00801, 0, (1, 1), 33, ?_, ⟨7, 5, by decide +kernel⟩, ?_,
        ?_, ?_, ?_, ?_, ?_, ?_, ?_, ?_, ?_, ?_⟩
    all_goals first | decide +kernel | rfl | (constructor <;> first | decide +kernel | rfl)
  · refine ⟨lf, .set, 0, (stage (.send lf .set 0) (all 5) (only 7 1)), (blk (.send lf .set 0) (all 5) (only 7 1)), ?_, ?_, ?_⟩
    all_goals first | decide +kernel | (right; decide +kernel)
  · refine ⟨lf, .keep, 0, (stage (.sendm lf .keep 0) (all 5) Val.allNull (only 1 0)), (blk (.sendm lf .keep 0) (all 5)
        Val.allNull (only 1 0)), ?_, ?_, ?_⟩
    all_goals first | decide +kernel | (right; right; decide +kernel)

theorem witness_tag_functions_count :
  (∃ q tag, ∃ (s : State), ∃ f, Ready s f (.tblock q tag) ∧ Acts (.tblock q tag) (opnd s f) ∧ ¬ Foreign s tag.toNat ∧ Declares f
    q.lsid.toNat) ∧
  (∃ q tag, ∃ (s : State), ∃ f, Ready s f (.tunblk q tag) ∧ Acts (.tunblk q tag) (opnd s f) ∧ ¬ Foreign s tag.toNat ∧ Declares f
    q.lsid.toNat) ∧
  (∃ q lv, ∃ (s : State), ∃ f l a, Ready s f (.tsalloc q lv) ∧ ActingA (.tsalloc q lv) (opnd s f) l a ∧ parentRow (here s) lv.toNat
    = none ∧ (a.extractLsb' 4 2).toNat + 1 = lv.toNat ∧ Declares f q.lsid.toNat) ∧
  (∃ q lv, ∃ (s : State), ∃ f, Ready s f (.tsfree q lv) ∧ Acts (.tsfree q lv) (opnd s f) ∧ parentRow (here s) lv.toNat ≠ none ∧
    Declares f q.lsid.toNat) ∧
  (∃ q lv d, ∃ (s : State), ∃ f l a, Ready s f (.tkill q lv d) ∧ ActingA (.tkill q lv d) (opnd s f) l a ∧ parentRow (here s)
    lv.toNat ≠ none ∧ Declares f q.lsid.toNat) ∧
  (∃ q tag, ∃ (s : State), ∃ f l a, Ready s f (.tbind q tag) ∧ ActingA (.tbind q tag) (opnd s f) l a ∧ ¬ Foreign s tag.toNat ∧
    BindWord a s.focus.ctx ∧ Declares f q.lsid.toNat) ∧
  (∃ (i : Instr), ∃ q n, ∃ (s : State), ∃ f, (i = .tblock q n ∨ i = .tunblk q n) ∧ Ready s f i ∧ ¬ Acts i (opnd s f) ∧ Declares f
    q.lsid.toNat) ∧
  (∃ q lv, ∃ (s : State), ∃ f, Ready s f (.tsfree q lv) ∧ ¬ Acts (.tsfree q lv) (opnd s f) ∧ Declares f q.lsid.toNat) ∧
  (∃ (i : Instr), ∃ q n d t, ∃ (s : State), ∃ f, (i = .tsalloc q n ∨ i = .tkill q n d ∨ i = .tbind q t) ∧ Ready s f i ∧ IdleA i
    (opnd s f) ∧ Declares f q.lsid.toNat) := by
  refine ⟨?_, ?_, ?_, ?_, ?_, ?_, ?_, ?_, ?_⟩
  · refine ⟨lf, 255, (stage (.tblock lf 255)), (blk (.tblock lf 255)), ?_, ?_, ?_, ?_⟩
    all_goals first | decide +kernel | rfl | (constructor <;> first | decide +kernel | rfl)
  · refine ⟨lf, 0, (bench 0 0 {} { bindings := [(0, 0xB0000000)] } (blk (.tunblk lf 0))), (blk (.tunblk lf 0)), ?_, ?_, ?_, ?_⟩
    all_goals first | decide +kernel | rfl | (constructor <;> first | decide +kernel | rfl)
  · refine ⟨lf, 3, (stage (.tsalloc lf 3) (only 7 0x2F)), (blk (.tsalloc lf 3) (only 7 0x2F)), 7, 0x2F, ?_, ?_, ?_, ?_, ?_⟩
    all_goals first | decide +kernel | rfl | (constructor <;> first | decide +kernel | rfl)
  · refine ⟨lf, 3, (bench 0 0 { parents := [(3, some 0x2F)] } {} (blk (.tsfree lf 3))), (blk (.tsfree lf 3)), ?_, ?_, ?_, ?_⟩
    all_goals first | decide +kernel | rfl | (constructor <;> first | decide +kernel | rfl)
  · refine ⟨lf, 3, 15, (bench 0 0 { parents := [(3, some 0x2F)] } {} (blk (.tkill lf 3 15) (only 7 15))), (blk (.tkill lf 3 15)
        (only 7 15)), 7, 15, ?_, ?_, ?_, ?_⟩
    all_goals first | decide +kernel | rfl | (constructor <;> first | decide +kernel | rfl)
  · refine ⟨lf, 255, (bench 0 3 {} {} (blk (.tbind lf 255) (only 0 0xBD80FFF0))), (blk (.tbind lf 255) (only 0 0xBD80FFF0)), 0,
        0xBD80FFF0, ?_, ?_, ?_, ?_, ?_⟩
    all_goals first | decide +kernel | rfl | (constructor <;> first | decide +kernel | rfl)
  · refine ⟨.tblock lp 1, lp, 1, (bench 0 0 {} {} (unmatched (.tblock lp 1))), (unmatched (.tblock lp 1)), ?_, ?_, ?_, ?_⟩
    all_goals first | decide +kernel | exact .inl rfl
  · refine ⟨lp, 3, (bench 0 0 {} {} (unmatched (.tsfree lp 3))), (unmatched (.tsfree lp 3)), ?_, ?_, ?_⟩
    all_goals first | decide +kernel | rfl | (constructor <;> first | decide +kernel | rfl)
  · refine ⟨.tkill lf 1 2, lf, 1, 2, 0, (stage (.tkill lf 1 2)), (blk (.tkill lf 1 2)), ?_, ?_, ?_, ?_⟩
    all_goals first | decide +kernel | exact .inr (.inl rfl)

theorem witness_link_functions_count :
  (∃ q link, ∃ (s : State), ∃ f v rest, Ready s f (.lpeek q link false) ∧ EngineFree s ∧ linkOf s link = v :: rest ∧ (delivered s f
    [q.t0] (lanesOf (.lpeek q link false) (opnd s f) fun l => v.get l) 0).isOk = true) ∧
  (∃ q link, ∃ (s : State), ∃ f, Ready s f (.lpeek q link false) ∧ EngineFree s ∧ linkOf s link = [] ∧ (delivered s f [q.t0]
    Val.allNull 0).isOk = true) ∧
  (∃ q link, ∃ (s : State), ∃ f, Ready s f (.lpeek q link true) ∧ EngineFree s ∧ (delivered s f [q.t0] (lanesOf (.lpeek q link
    true) (opnd s f) fun _ => some (BitVec.ofNat 32 (linkOf s link).length)) 0).isOk = true) ∧
  (∃ q link fwd t0, ∃ (s : State), ∃ f F v rest, Ready s f (.lpop q link fwd t0) ∧ Acts (.lpop q link fwd t0) (opnd s f) ∧
    EngineFree s ∧ linkOf s link = v :: rest ∧ f.popsW = 0 ∧ f.popsN = 0 ∧ lowerPopUnfired f (link == 0) q.lsid.toNat = false ∧ (∀
    y g, y ≠ s.focus.ctx → (ctxOf s s.focus.cell y).frame = some g → g.popsW = 0 ∧ g.popsN = 0) ∧ deliver
    { markFired f s.focus.slot with popsW := if link = 0 then 1 else 0, popsN := if link = 0 then 0 else 1 } (slotAddr f
    s.focus.slot) s.focus.slot t0 (lanesOf (.lpop q link fwd t0) (opnd s f) fun l => v.get l) = .ok F ∧ F.h1.getLsbD q.lsid.toNat =
    true ∧ F.counted.getLsbD q.lsid.toNat = false) ∧
  (∃ q link fwd t0, ∃ (s : State), ∃ f, Ready s f (.lpop q link fwd t0) ∧ Acts (.lpop q link fwd t0) (opnd s f) ∧ EngineFree s ∧
    linkOf s link = []) ∧
  (∃ q link fwd t0, ∃ (s : State), ∃ f F, Ready s f (.lpop q link fwd t0) ∧ ¬ Acts (.lpop q link fwd t0) (opnd s f) ∧ deliver
    (markFired f s.focus.slot) (slotAddr f s.focus.slot) s.focus.slot t0 Val.allNull = .ok F ∧ F.h1.getLsbD q.lsid.toNat = true ∧
    F.counted.getLsbD q.lsid.toNat = false) ∧
  (∃ q out, ∃ (s : State), ∃ f, Ready s f (.lpush q out) ∧ AnyA (.lpush q out) (opnd s f) ∧ EngineFree s ∧ HasNeighbour s out ∧
    Declares f q.lsid.toNat) ∧
  (∃ q out, ∃ (s : State), ∃ f, Ready s f (.lpush q out) ∧ ¬ AnyA (.lpush q out) (opnd s f) ∧ Declares f q.lsid.toNat) ∧
  (∃ q ch reg, ∃ (s : State), ∃ f, Ready s f (.csig q ch reg) ∧ Acts (.csig q ch reg) (opnd s f) ∧ Declares f q.lsid.toNat) ∧
  (∃ q ch reg, ∃ (s : State), ∃ f, Ready s f (.csig q ch reg) ∧ ¬ Acts (.csig q ch reg) (opnd s f) ∧ Declares f q.lsid.toNat) := by
  refine ⟨?_, ?_, ?_, ?_, ?_, ?_, ?_, ?_, ?_, ?_⟩
  · refine ⟨⟨.always, .w 63⟩, 1, (bench 0 0 {} { linkN := [all 1, all 2] } (blk (.lpeek ⟨.always, .w 63⟩ 1 false))), (blk (.lpeek
        ⟨.always, .w 63⟩ 1 false)), all 1, [all 2], ?_, ?_, ?_, ?_⟩
    all_goals first | decide +kernel | rfl | (constructor <;> first | decide +kernel | rfl)
  · refine ⟨⟨.always, .w 63⟩, 0, (stage (.lpeek ⟨.always, .w 63⟩ 0 false)), (blk (.lpeek ⟨.always, .w 63⟩ 0 false)), ?_, ?_, ?_,
        ?_⟩
    all_goals first | decide +kernel | rfl | (constructor <;> first | decide +kernel | rfl)
  · refine ⟨⟨.always, .w 63⟩, 1, (bench 0 0 {} { linkN := [all 1, all 2] } (blk (.lpeek ⟨.always, .w 63⟩ 1 true))), (blk (.lpeek
        ⟨.always, .w 63⟩ 1 true)), ?_, ?_, ?_⟩
    all_goals first | decide +kernel | rfl | (constructor <;> first | decide +kernel | rfl)
  · refine ⟨lf, 1, true, .w 63, (bench 0 0 {} { linkN := [all 1, all 2] } (blk (.lpop lf 1 true (.w 63)))), (blk (.lpop lf 1 true
        (.w 63))), got (deliver { markFired (blk (.lpop lf 1 true (.w 63))) 1 with popsN := 1 } 0x114 1 (.w 63) (lanesOf (.lpop lf
        1 true (.w 63)) (opnd (bench 0 0 {} { linkN := [all 1, all 2] } (blk (.lpop lf 1 true (.w 63)))) (blk (.lpop lf 1 true (.w
        63)))) fun l => (all 1).get l)), all 1, [all 2], ?_, ?_, ?_, ?_, ?_, ?_, ?_, ?_, ?_, ?_, ?_⟩
    all_goals first
      | decide +kernel
      | exact got_eq (by decide +kernel)
      | (intro y g hy h; cases y with
         | zero => exact absurd rfl hy
         | succ y => simp [ctxOf, coreOf, cellOf, bench, Tbl.get] at h)
  · refine ⟨lf, 0, false, .none, (stage (.lpop lf 0 false .none)), (blk (.lpop lf 0 false .none)), ?_, ?_, ?_, ?_⟩
    all_goals first | decide +kernel | rfl | (constructor <;> first | decide +kernel | rfl)
  · refine ⟨lp, 0, false, .none, (bench 0 0 {} {} (unmatched (.lpop lp 0 false .none))), (unmatched (.lpop lp 0 false .none)),
        markFired (unmatched (.lpop lp 0 false .none)) 1, ?_, ?_, ?_, ?_, ?_⟩
    all_goals first | decide +kernel | rfl | (constructor <;> first | decide +kernel | rfl)
  · refine ⟨lf, 1, (place 0 0 1 2 (stage (.lpush lf 1) (only 7 5))), (blk (.lpush lf 1) (only 7 5)), ?_, ⟨7, 5, by
        decide +kernel⟩, ?_, ?_, ?_⟩
    all_goals first | decide +kernel | rfl | (constructor <;> first | decide +kernel | rfl)
  · refine ⟨lf, 1, (stage (.lpush lf 1)), (blk (.lpush lf 1)), ?_, ?_, ?_⟩
    all_goals first | decide +kernel | exact no_lane (by decide +kernel)
  · refine ⟨lf, 63, true, (stage (.csig lf 63 true)), (blk (.csig lf 63 true)), ?_, ?_, ?_⟩
    all_goals first | decide +kernel | rfl | (constructor <;> first | decide +kernel | rfl)
  · refine ⟨lp, 63, true, (bench 0 0 {} {} (unmatched (.csig lp 63 true))), (unmatched (.csig lp 63 true)), ?_, ?_, ?_⟩
    all_goals first | decide +kernel | rfl | (constructor <;> first | decide +kernel | rfl)

theorem witness_stream_functions_count :
  (∃ (i : Instr), ∃ q act, ∃ (s : State), ∃ f, streamNoWord i = some (q, act) ∧ Ready s f i ∧ Acts i (opnd s f) ∧ Declares f
    q.lsid.toNat) ∧
  (∃ (i : Instr), ∃ q act, ∃ (s : State), ∃ f, streamNoWord i = some (q, act) ∧ Ready s f i ∧ ¬ Acts i (opnd s f) ∧ Declares f
    q.lsid.toNat) ∧
  (∃ (i : Instr), ∃ q act, ∃ (s : State), ∃ f l a, streamWord a i = some (q, act) ∧ Ready s f i ∧ ActingA i (opnd s f) l a ∧
    Declares f q.lsid.toNat) ∧
  (∃ (i : Instr), ∃ q act, ∃ (s : State), ∃ f a, streamWord a i = some (q, act) ∧ Ready s f i ∧ IdleA i (opnd s f) ∧ Declares f
    q.lsid.toNat) ∧
  (∃ q mask mx, ∃ (s : State), ∃ f, Ready s f (.sbar q mask mx) ∧ (∀ n, n < 4 → mask.getLsbD n = true → (streamUnit s n).st = .idle
    ∨ (streamUnit s n).st = .loaded ∨ (streamUnit s n).st = .held) ∧ (mx = true → (engine s).queue = [] ∧ (engine s).run = none) ∧
    Declares f q.lsid.toNat) ∧
  (∃ q mask mx, ∃ (s : State), ∃ f, Ready s f (.sbar q mask mx) ∧ ¬ Acts (.sbar q mask mx) (opnd s f) ∧ Declares f q.lsid.toNat) ∧
  (∃ q mask mx, ∃ (s : State), ∃ f n, Ready s f (.sbar q mask mx) ∧ Acts (.sbar q mask mx) (opnd s f) ∧ n < 4 ∧ mask.getLsbD n =
    true ∧ ((streamUnit s n).st = .armed ∨ (streamUnit s n).st = .running)) ∧
  (∃ q mask, ∃ (s : State), ∃ f, Ready s f (.sbar q mask true) ∧ Acts (.sbar q mask true) (opnd s f) ∧ ((engine s).queue ≠ [] ∨
    (engine s).run ≠ none)) := by
  refine ⟨?_, ?_, ?_, ?_, ?_, ?_, ?_, ?_⟩
  · refine ⟨.sstop lf 3 true, lf, .sstop 3 true, (stage (.sstop lf 3 true)), (blk (.sstop lf 3 true)), ?_, ?_, ?_, ?_⟩
    all_goals first | decide +kernel | rfl | (constructor <;> first | decide +kernel | rfl)
  · refine ⟨.scond lp 1 63, lp, .scond 1 63, (bench 0 0 {} {} (unmatched (.scond lp 1 63))), (unmatched (.scond lp 1 63)), ?_,
        ?_, ?_, ?_⟩
    all_goals first | decide +kernel | rfl | (constructor <;> first | decide +kernel | rfl)
  · refine ⟨.sfmt lf 3, lf, .sfmt 3 5, (stage (.sfmt lf 3) (only 7 5)), (blk (.sfmt lf 3) (only 7 5)), 7, 5, ?_, ?_, ?_, ?_⟩
    all_goals first | decide +kernel | rfl | (constructor <;> first | decide +kernel | rfl)
  · refine ⟨.sdef lf 3, lf, .sdef 3 0, (stage (.sdef lf 3)), (blk (.sdef lf 3)), 0, ?_, ?_, ?_, ?_⟩
    all_goals first | decide +kernel | rfl | (constructor <;> first | decide +kernel | rfl)
  · refine ⟨lf, 15, true, (bench 0 0 {} { units := [(3, { st := .held })] } (blk (.sbar lf 15 true))), (blk (.sbar lf 15 true)),
        ?_, ?_, ?_, ?_⟩
    all_goals first | decide +kernel | rfl | (constructor <;> first | decide +kernel | rfl)
  · refine ⟨lp, 15, true, (bench 0 0 {} {} (unmatched (.sbar lp 15 true))), (unmatched (.sbar lp 15 true)), ?_, ?_, ?_⟩
    all_goals first | decide +kernel | rfl | (constructor <;> first | decide +kernel | rfl)
  · refine ⟨lf, 8, false, (bench 0 0 {} { units := [(3, { st := .armed })] } (blk (.sbar lf 8 false))), (blk (.sbar lf 8 false)),
        3, ?_, ?_, ?_, ?_, ?_⟩
    all_goals first | decide +kernel | rfl | (constructor <;> first | decide +kernel | rfl)
  · refine ⟨lf, 0, (bench 0 0 {} { mx := { owner := some 0, queue := [(.clear 0 64, [])] } } (blk (.sbar lf 0 true))), (blk
        (.sbar lf 0 true)), ?_, ?_, ?_⟩
    all_goals first | decide +kernel | rfl | (constructor <;> first | decide +kernel | rfl)

theorem witness_matrix_configuration_counts :
  (∃ q, ∃ (s : State), ∃ f F l a, Ready s f (.mxcfg q false) ∧ ActingA (.mxcfg q false) (opnd s f) l a ∧ ConfigWord a ∧ (engine
    s).queue = [] ∧ (engine s).run = none ∧ Owned s ∧ (engine s).waiting = [(s.focus.ctx, f.serial)] ∧ F = counted s f q.lsid.toNat
    (.mxcfg false a) ∧ Declares f q.lsid.toNat) ∧
  (∃ q, ∃ (s : State), ∃ f l a, Ready s f (.mxcfg q false) ∧ ActingA (.mxcfg q false) (opnd s f) l a ∧ ConfigWord a ∧ (engine
    s).queue = [] ∧ (engine s).run = none ∧ (engine s).owner = none ∧ (engine s).waiting = [] ∧ Declares f q.lsid.toNat) ∧
  (∃ q, ∃ (s : State), ∃ f l a y, Ready s f (.mxcfg q false) ∧ ActingA (.mxcfg q false) (opnd s f) l a ∧ ConfigWord a ∧ (engine
    s).owner = some y ∧ y ≠ s.focus.ctx) ∧
  (∃ q, ∃ (s : State), ∃ f, Ready s f (.mxcfg q true) ∧ Acts (.mxcfg q true) (opnd s f) ∧ Owned s ∧ (engine s).queue = [] ∧ (engine
    s).run = none ∧ Declares f q.lsid.toNat) ∧
  (∃ q, ∃ (s : State), ∃ f, Ready s f (.mxcfg q true) ∧ Acts (.mxcfg q true) (opnd s f) ∧ Owned s ∧ ((engine s).queue ≠ [] ∨
    (engine s).run ≠ none)) ∧
  (∃ q, ∃ (s : State), ∃ f, Ready s f (.mxcfg q true) ∧ ¬ Acts (.mxcfg q true) (opnd s f) ∧ Declares f q.lsid.toNat) ∧
  (∃ q, ∃ (s : State), ∃ f, Ready s f (.mxcfg q false) ∧ IdleA (.mxcfg q false) (opnd s f) ∧ Declares f q.lsid.toNat) ∧
  (∃ q, ∃ (s : State), ∃ f, Ready s f (.mxstat q) ∧ Owned s ∧ s.focus.ctx < 8 ∧ (engine s).queue.length ≤ 4 ∧ (engine
    s).arows.length ≤ 16 ∧ (delivered s f [q.t0] (lanesOf (.mxstat q) (opnd s f) fun _ => some (BitVec.ofNat 32 ( (if (engine
    s).sideUsed then 2 ^ 15 else 0) + (engine s).queue.length * 2 ^ 12 + (engine s).arows.length * 2 ^ 7 + (if (engine s).ready1
    then 2 ^ 6 else 0) + (if (engine s).ready0 then 2 ^ 5 else 0) + (if (engine s).run.isSome then 2 ^ 4 else 0) + s.focus.ctx * 2
    + 1))) 0).isOk = true) := by
  refine ⟨?_, ?_, ?_, ?_, ?_, ?_, ?_, ?_⟩
  · refine ⟨lf, (bench 0 0 {} { mx := { owner := some 0, waiting := [(0, 3)] } } (blk (.mxcfg lf false) (only 7 0xFE000))), (blk
        (.mxcfg lf false) (only 7 0xFE000)), counted (bench 0 0 {} { mx := { owner := some 0, waiting := [(0, 3)] } } (blk (.mxcfg
        lf false) (only 7 0xFE000))) (blk (.mxcfg lf false) (only 7 0xFE000)) 31 (.mxcfg false 0xFE000), 7, 0xFE000, ?_, ?_, ?_,
        ?_, ?_, ?_, ?_, ?_, ?_⟩
    all_goals first | decide +kernel | rfl | (constructor <;> first | decide +kernel | rfl)
  · refine ⟨lf, (stage (.mxcfg lf false) (only 7 0x1FE002)), (blk (.mxcfg lf false) (only 7 0x1FE002)), 7, 0x1FE002, ?_, ?_, ?_,
        ?_, ?_, ?_, ?_, ?_⟩
    all_goals first | decide +kernel | rfl | (constructor <;> first | decide +kernel | rfl)
  · refine ⟨lf, (bench 0 0 {} { mx := { owner := some 3 } } (blk (.mxcfg lf false) (only 7 0))), (blk (.mxcfg lf false) (only 7
        0)), 7, 0, 3, ?_, ?_, ?_, ?_, ?_⟩
    all_goals first | decide +kernel | rfl | (constructor <;> first | decide +kernel | rfl)
  · refine ⟨lf, (bench 0 0 {} { mx := { owner := some 0 } } (blk (.mxcfg lf true))), (blk (.mxcfg lf true)), ?_, ?_, ?_, ?_, ?_,
        ?_⟩
    all_goals first | decide +kernel | rfl | (constructor <;> first | decide +kernel | rfl)
  · refine ⟨lf, (bench 0 0 {} { mx := { owner := some 0, run := some { cmd := .run 0 } } } (blk (.mxcfg lf true))), (blk (.mxcfg
        lf true)), ?_, ?_, ?_, ?_⟩
    all_goals first | decide +kernel | rfl | (constructor <;> first | decide +kernel | rfl)
  · refine ⟨lp, (bench 0 0 {} {} (unmatched (.mxcfg lp true))), (unmatched (.mxcfg lp true)), ?_, ?_, ?_⟩
    all_goals first | decide +kernel | rfl | (constructor <;> first | decide +kernel | rfl)
  · refine ⟨lf, (stage (.mxcfg lf false)), (blk (.mxcfg lf false)), ?_, ?_, ?_⟩
    all_goals first | decide +kernel | rfl | (constructor <;> first | decide +kernel | rfl)
  · refine ⟨⟨.always, .w 63⟩, (bench 0 0 {} { mx := { owner := some 0, sideUsed := true, ready1 := true } } (blk (.mxstat
        ⟨.always, .w 63⟩))), (blk (.mxstat ⟨.always, .w 63⟩)), ?_, ?_, ?_, ?_, ?_, ?_⟩
    all_goals first | decide +kernel | rfl | (constructor <;> first | decide +kernel | rfl)

theorem witness_matrix_commands_count :
  (∃ q bank, ∃ (s : State), ∃ f, Ready s f (.mxldb q bank true) ∧ Acts (.mxldb q bank true) (opnd s f) ∧ Owned s ∧ Declares f
    q.lsid.toNat) ∧
  (∃ q bank, ∃ (s : State), ∃ f l a, Ready s f (.mxldb q bank false) ∧ ActingA (.mxldb q bank false) (opnd s f) l a ∧ Owned s ∧
    SpanOk s a (engineK s * 16 * elementBytes s) (elementBytes s) ∧ Declares f q.lsid.toNat) ∧
  (∃ q, ∃ (s : State), ∃ f l a, Ready s f (.mxrun q) ∧ ActingA (.mxrun q) (opnd s f) l a ∧ Owned s ∧ RunWord s a ∧ Declares f
    q.lsid.toNat) ∧
  (∃ q, ∃ (s : State), ∃ f l a b, Ready s f (.mxout q) ∧ ActingAB (.mxout q) (opnd s f) l a b ∧ Owned s ∧ PlainReadout a ∧
    a.extractLsb' 13 2 = 0 ∧ (engine s).cfg.getLsbD 3 = false ∧ (engine s).recomb = [] ∧ (engine s).run = none ∧ (engine s).queue =
    [] ∧ f.effs = [] ∧ lowerRunUnfired f q.lsid.toNat = false ∧ (windowOf (here s) b).w0.getLsbD 25 = false ∧ SpanOk s b
    (((a.extractLsb' 6 7).toNat + 1) * 64) 4 ∧ Declares f q.lsid.toNat) ∧
  (∃ q, ∃ (s : State), ∃ f l a b, Ready s f (.mxout q) ∧ ActingAB (.mxout q) (opnd s f) l a b ∧ Owned s ∧ PlainReadout a ∧
    a.extractLsb' 13 2 ≠ 0 ∧ (engine s).cfg.getLsbD 3 = false ∧ (engine s).recomb = [] ∧ (engine s).run = none ∧ (engine s).queue =
    [] ∧ f.effs = [] ∧ lowerRunUnfired f q.lsid.toNat = false ∧ Declares f q.lsid.toNat) ∧
  (∃ q, ∃ (s : State), ∃ f, Ready s f (.mxout q) ∧ IdleAB (.mxout q) (opnd s f) ∧ lowerRunUnfired f q.lsid.toNat = false ∧ Declares
    f q.lsid.toNat) ∧
  (∃ q first n, ∃ (s : State), ∃ f, Ready s f (.mxclr q first n) ∧ Acts (.mxclr q first n) (opnd s f) ∧ Owned s ∧ first.toNat +
    n.toNat + 1 ≤ 64 ∧ Declares f q.lsid.toNat) ∧
  (∃ (i : Instr), ∃ q bank first n, ∃ (s : State), ∃ f, (i = .mxldb q bank true ∨ i = .mxclr q first n) ∧ Ready s f i ∧ ¬ Acts i
    (opnd s f) ∧ Declares f q.lsid.toNat) ∧
  (∃ (i : Instr), ∃ q bank, ∃ (s : State), ∃ f, (i = .mxldb q bank false ∨ i = .mxrun q) ∧ Ready s f i ∧ IdleA i (opnd s f) ∧
    Declares f q.lsid.toNat) := by
  refine ⟨?_, ?_, ?_, ?_, ?_, ?_, ?_, ?_, ?_⟩
  · refine ⟨lf, 1, (bench 0 0 {} { mx := { owner := some 0, cfg := 0xE002 } } (blk (.mxldb lf 1 true))), (blk (.mxldb lf 1
        true)), ?_, ?_, ?_, ?_⟩
    all_goals first | decide +kernel | rfl | (constructor <;> first | decide +kernel | rfl)
  · refine ⟨lf, 1, (bench 0 0 (near 0) { mx := { owner := some 0, cfg := 0xE002 } } (blk (.mxldb lf 1 false) (only 7 128))), (blk
        (.mxldb lf 1 false) (only 7 128)), 7, 128, ?_, ?_, ?_, ?_, ?_⟩
    all_goals first | decide +kernel | rfl | (constructor <;> first | decide +kernel | rfl)
  · refine ⟨lf, (bench 0 0 {} { mx := { owner := some 0, cfg := 0xE002 } } (blk (.mxrun lf) (only 7 0x1F80))), (blk (.mxrun lf)
        (only 7 0x1F80)), 7, 0x1F80, ?_, ?_, ?_, ?_, ?_⟩
    all_goals first | decide +kernel | rfl | (constructor <;> first | decide +kernel | rfl)
  · refine ⟨lf, (bench 0 0 (near 0) { mx := { owner := some 0, cfg := 0xE002 } } (blk (.mxout lf) (only 7 0x3F) (only 7 192))),
        (blk (.mxout lf) (only 7 0x3F) (only 7 192)), 7, 0x3F, 192, ?_, ?_, ?_, ?_, ?_, ?_, ?_, ?_, ?_, ?_, ?_, ?_, ?_, ?_⟩
    all_goals first | decide +kernel | rfl | (constructor <;> first | decide +kernel | rfl)
  · refine ⟨lf, (bench 0 0 (near 0) { mx := { owner := some 0, cfg := 0xE002 } } (blk (.mxout lf) (only 7 0x4FC0) (all 1))), (blk
        (.mxout lf) (only 7 0x4FC0) (all 1)), 7, 0x4FC0, 1, ?_, ?_, ?_, ?_, ?_, ?_, ?_, ?_, ?_, ?_, ?_, ?_⟩
    all_goals first | decide +kernel | rfl | (constructor <;> first | decide +kernel | rfl)
  · refine ⟨lf, (stage (.mxout lf) (only 7 1) (only 6 1)), (blk (.mxout lf) (only 7 1) (only 6 1)), ?_, ?_, ?_, ?_⟩
    all_goals first | decide +kernel | rfl | (constructor <;> first | decide +kernel | rfl)
  · refine ⟨lf, 63, 0, (bench 0 0 {} { mx := { owner := some 0, cfg := 0xE002 } } (blk (.mxclr lf 63 0))), (blk (.mxclr lf 63
        0)), ?_, ?_, ?_, ?_, ?_⟩
    all_goals first | decide +kernel | rfl | (constructor <;> first | decide +kernel | rfl)
  · refine ⟨.mxclr lp 63 63, lp, 0, 63, 63, (bench 0 0 {} {} (unmatched (.mxclr lp 63 63))), (unmatched (.mxclr lp 63 63)), ?_,
        ?_, ?_, ?_⟩
    all_goals first | decide +kernel | exact .inr rfl
  · refine ⟨.mxrun lf, lf, 0, (stage (.mxrun lf)), (blk (.mxrun lf)), ?_, ?_, ?_, ?_⟩
    all_goals first | decide +kernel | exact .inl rfl | exact .inr rfl

theorem witness_barrier_functions_complete :
  (∃ q bn, ∃ (s : State), ∃ f, Ready s f (.bstat q bn) ∧ (barrierAt s bn.toNat).arr < 2 ^ 11 ∧ (barrierAt s bn.toNat).e < 2 ^ 11 ∧
    (delivered s f [q.t0] (lanesOf (.bstat q bn) (opnd s f) fun _ => some (BitVec.ofNat 32 ( (barrierAt s bn.toNat).arr +
    (barrierAt s bn.toNat).e * 2 ^ 11 + (if (barrierAt s bn.toNat).phase then 2 ^ 22 else 0) + (if (barrierAt s bn.toNat).init then
    2 ^ 23 else 0) + (barrierAt s bn.toNat).facc.toNat * 2 ^ 24))) 0).isOk = true) ∧
  (∃ (i : Instr), ∃ q bn drop, ∃ (s : State), ∃ f l a d, arrivalOf i = some (q, bn, drop) ∧ Ready s f i ∧ ActingA i (opnd s f) l a
    ∧ a.extractLsb' 22 10 = 0 ∧ Names s a d ∧ Declares f q.lsid.toNat) ∧
  (∃ (i : Instr), ∃ q bn drop, ∃ (s : State), ∃ f, arrivalOf i = some (q, bn, drop) ∧ Ready s f i ∧ IdleA i (opnd s f) ∧ Declares f
    q.lsid.toNat) ∧
  (∃ (i : Instr), ∃ q bn op lo, ∃ (s : State), ∃ f l a b d, homeOp b i = some (q, bn, op, lo) ∧ Ready s f i ∧ ActingAB i (opnd s f)
    l a b ∧ a.extractLsb' 22 10 = 0 ∧ Names s a d ∧ b.toNat < 2 ^ lo ∧ replyCount s s.focus.cell < 64 ∧ (∀ w ∈ f.waits, w.unsent =
    [])) ∧
  (∃ (i : Instr), ∃ q bn op lo, ∃ (s : State), ∃ f b, homeOp b i = some (q, bn, op, lo) ∧ Ready s f i ∧ IdleAB i (opnd s f) ∧
    replyCount s s.focus.cell < 64 ∧ Declares f q.lsid.toNat) := by
  refine ⟨?_, ?_, ?_, ?_, ?_⟩
  · refine ⟨⟨.always, .w 63⟩, 95, (bench 0 0 {}
        { bars := [(95, { init := true, phase := true, facc := 0x3F, e := 1024, arr := 1024 })] } (blk (.bstat ⟨.always, .w 63⟩
        95))), (blk (.bstat ⟨.always, .w 63⟩ 95)), ?_, ?_, ?_, ?_⟩
    all_goals first | decide +kernel | rfl | (constructor <;> first | decide +kernel | rfl)
  · refine ⟨.arvd lf 95, lf, 95, true, (place 0 0 2 2 (stage (.arvd lf 95) (only 7 0x801))), (blk (.arvd lf 95) (only 7 0x801)),
        7, 0x801, 33, ?_, ?_, ?_, ?_, ⟨0, 1, 1, by decide +kernel⟩, ?_⟩
    all_goals first | decide +kernel | rfl | (constructor <;> first | decide +kernel | rfl)
  · refine ⟨.arv lf 0, lf, 0, false, (stage (.arv lf 0)), (blk (.arv lf 0)), ?_, ?_, ?_, ?_⟩
    all_goals first | decide +kernel | rfl | (constructor <;> first | decide +kernel | rfl)
  · refine ⟨.leaveb lf 95, lf, 95, .leave 0x7FF, 11, (place 0 0 2 2 (stage (.leaveb lf 95) (only 7 0x801) (all 0x7FF))), (blk
        (.leaveb lf 95) (only 7 0x801) (all 0x7FF)), 7, 0x801, 0x7FF, 33, ?_, ?_, ?_, ?_, ⟨0, 1, 1, by decide +kernel⟩, ?_, ?_, ?_⟩
    all_goals first | decide +kernel | rfl | (constructor <;> first | decide +kernel | rfl)
  · refine ⟨.binit lf 0, lf, 0, .init 0, 19, (stage (.binit lf 0) (only 0 1) (only 1 1)), (blk (.binit lf 0) (only 0 1) (only 1
        1)), 0, ?_, ?_, ?_, ?_, ?_⟩
    all_goals first | decide +kernel | rfl | (constructor <;> first | decide +kernel | rfl)

theorem witness_collective_functions_complete :
  (∃ q gt, ∃ (s : State), ∃ f l a b, Ready s f (.joinc q gt) ∧ ActingAB (.joinc q gt) (opnd s f) l a b ∧ Collective s ∧ (groupAt s
    gt.toNat).live = false ∧ a.toNat + 128 ≤ progEnd s s.focus.cell ∧ (∀ k, a.toNat ≤ k → k < a.toNat + 128 → isBad s (sramKey
    s.focus.cell k) = false) ∧ (littleEndian s.mem (sramKey s.focus.cell a.toNat) 128).testBit (b.extractLsb' 0 10).toNat = true ∧
    Declares f q.lsid.toNat) ∧
  (∃ q gt, ∃ (s : State), ∃ f, Ready s f (.leavec q gt) ∧ Acts (.leavec q gt) (opnd s f) ∧ Collective s ∧ (groupAt s gt.toNat).live
    = true ∧ (∀ o ∈ (here s).collq, o.gt ≠ gt.toNat) ∧ Declares f q.lsid.toNat) ∧
  (∃ q gt, ∃ (s : State), ∃ f l a, Ready s f (.cstart q gt) ∧ ActingA (.cstart q gt) (opnd s f) l a ∧ Collective s ∧ (groupAt s
    gt.toNat).live = true ∧ (groupAt s gt.toNat).poison = false ∧ a.toNat % 16 = 0 ∧ a.toNat + 32 ≤ progEnd s s.focus.cell ∧ (∀ k,
    a.toNat ≤ k → k < a.toNat + 32 → isBad s (sramKey s.focus.cell k) = false) ∧ DescriptorOk (descriptorAt s a.toNat) ∧ Declares f
    q.lsid.toNat) ∧
  (∃ q gt, ∃ (s : State), ∃ f, Ready s f (.cabort q gt) ∧ Acts (.cabort q gt) (opnd s f) ∧ Collective s ∧ Declares f q.lsid.toNat) ∧
  (∃ q, ∃ (s : State), ∃ f l a, Ready s f (.cstat q) ∧ ActingA (.cstat q) (opnd s f) l a ∧ Collective s ∧ (groupAt s (a.extractLsb'
    0 8).toNat).rank < 1024 ∧ (groupAt s (a.extractLsb' 0 8).toNat).seq < 2 ^ 16 ∧ (delivered s f [q.t0] (lanesOf (.cstat q) (opnd
    s f) fun _ => some (BitVec.ofNat 32 ( (groupAt s (a.extractLsb' 0 8).toNat).seq + (if (groupAt s (a.extractLsb' 0
    8).toNat).live then 2 ^ 16 else 0) + (if (groupAt s (a.extractLsb' 0 8).toNat).poison then 2 ^ 17 else 0) + (if (groupAt s
    (a.extractLsb' 0 8).toNat).busy then 2 ^ 18 else 0) + (groupAt s (a.extractLsb' 0 8).toNat).rank * 2 ^ 19))) 0).isOk = true) ∧
  (∃ q, ∃ (s : State), ∃ f, Ready s f (.cstat q) ∧ IdleA (.cstat q) (opnd s f) ∧ (delivered s f [q.t0] Val.allNull 0).isOk = true) ∧
  (∃ q n, ∃ (s : State), ∃ f l a, Ready s f (.cpath q n) ∧ ActingA (.cpath q n) (opnd s f) l a ∧ (Tbl.get {} s.peers (a.extractLsb'
    0 16).toNat : Peer).known = true ∧ (delivered s f [q.t0] (lanesOf (.cpath q n) (opnd s f) fun _ => some (BitVec.ofNat 32
    (pathReading s (Tbl.get {} (Tbl.get {} s.peers (a.extractLsb' 0 16).toNat : Peer).paths n.toNat)))) 0).isOk = true) ∧
  (∃ q n, ∃ (s : State), ∃ f l a, Ready s f (.cpath q n) ∧ ActingA (.cpath q n) (opnd s f) l a ∧ (Tbl.get {} s.peers (a.extractLsb'
    0 16).toNat : Peer).known = false ∧ (delivered s f [q.t0] Val.allNull 0).isOk = true) ∧
  (∃ q n, ∃ (s : State), ∃ f, Ready s f (.cpath q n) ∧ IdleA (.cpath q n) (opnd s f) ∧ (delivered s f [q.t0] Val.allNull 0).isOk =
    true) ∧
  (∃ q gt, ∃ (s : State), ∃ f, Ready s f (.joinc q gt) ∧ IdleAB (.joinc q gt) (opnd s f) ∧ Declares f q.lsid.toNat) ∧
  (∃ q gt, ∃ (s : State), ∃ f, Ready s f (.cstart q gt) ∧ IdleA (.cstart q gt) (opnd s f) ∧ Declares f q.lsid.toNat) ∧
  (∃ (i : Instr), ∃ q gt, ∃ (s : State), ∃ f, (i = .leavec q gt ∨ i = .cabort q gt) ∧ Ready s f i ∧ ¬ Acts i (opnd s f) ∧ Declares
    f q.lsid.toNat) := by
  refine ⟨?_, ?_, ?_, ?_, ?_, ?_, ?_, ?_, ?_, ?_, ?_, ?_⟩
  · refine ⟨lf, 255, { (place 0 0 2 2 (stage (.joinc lf 255) (only 7 128) (only 7 1023))) with mem := [(255, 0x80)] }, (blk
        (.joinc lf 255) (only 7 128) (only 7 1023)), 7, 128, 1023, ?_, ?_, ?_, ?_, ?_, ?_, ?_, ?_⟩
    all_goals first | decide +kernel | rfl | (intros; rfl) | (constructor <;> first | decide +kernel | rfl)
  · refine ⟨lf, 255, (place 0 0 2 2 (bench 0 0 {} { gcache := [(255, { live := true })] } (blk (.leavec lf 255)))), (blk (.leavec
        lf 255)), ?_, ?_, ?_, ?_, ?_, ?_⟩
    all_goals first | decide +kernel | rfl | (constructor <;> first | decide +kernel | rfl)
  · refine ⟨lf, 255,
        { (place 0 0 2 2 (bench 0 0 {} { gcache := [(255, { live := true })] } (blk (.cstart lf 255) (only 7 16)))) with mem := [(16, 0xEF), (20, 1)] },
        (blk (.cstart lf 255) (only 7 16)), 7, 16, ?_, ?_, ?_, ?_, ?_, ?_, ?_, ?_, ?_, ?_⟩
    all_goals first | decide +kernel | rfl | (intros; rfl) | (constructor <;> first | decide +kernel | rfl)
  · refine ⟨lf, 255, (place 0 0 2 2 (stage (.cabort lf 255))), (blk (.cabort lf 255)), ?_, ?_, ?_, ?_⟩
    all_goals first | decide +kernel | rfl | (constructor <;> first | decide +kernel | rfl)
  · refine ⟨⟨.always, .w 63⟩, (place 0 0 2 2 (bench 0 0 {}
        { gcache := [(255, { live := true, rank := 1023, seq := 65535, busy := true })] } (blk (.cstat ⟨.always, .w 63⟩) (only 7
        255)))), (blk (.cstat ⟨.always, .w 63⟩) (only 7 255)), 7, 255, ?_, ?_, ?_, ?_, ?_, ?_⟩
    all_goals first | decide +kernel | rfl | (constructor <;> first | decide +kernel | rfl)
  · refine ⟨⟨.always, .w 63⟩, (stage (.cstat ⟨.always, .w 63⟩)), (blk (.cstat ⟨.always, .w 63⟩)), ?_, ?_, ?_⟩
    all_goals first | decide +kernel | rfl | (constructor <;> first | decide +kernel | rfl)
  · refine ⟨⟨.always, .w 63⟩, 15,
        { (stage (.cpath ⟨.always, .w 63⟩ 15) (only 7 0xFFFF)) with peers := [(0xFFFF, { known := true })] }, (blk (.cpath
        ⟨.always, .w 63⟩ 15) (only 7 0xFFFF)), 7, 0xFFFF, ?_, ?_, ?_, ?_⟩
    all_goals first | decide +kernel | rfl | (constructor <;> first | decide +kernel | rfl)
  · refine ⟨⟨.always, .w 63⟩, 0, (stage (.cpath ⟨.always, .w 63⟩ 0) (only 7 0xFFFF)), (blk (.cpath ⟨.always, .w 63⟩ 0) (only 7
        0xFFFF)), 7, 0xFFFF, ?_, ?_, ?_, ?_⟩
    all_goals first | decide +kernel | rfl | (constructor <;> first | decide +kernel | rfl)
  · refine ⟨⟨.always, .w 63⟩, 0, (stage (.cpath ⟨.always, .w 63⟩ 0)), (blk (.cpath ⟨.always, .w 63⟩ 0)), ?_, ?_, ?_⟩
    all_goals first | decide +kernel | rfl | (constructor <;> first | decide +kernel | rfl)
  · refine ⟨lf, 0, (stage (.joinc lf 0) (only 0 1) (only 1 1)), (blk (.joinc lf 0) (only 0 1) (only 1 1)), ?_, ?_, ?_⟩
    all_goals first | decide +kernel | rfl | (constructor <;> first | decide +kernel | rfl)
  · refine ⟨lf, 0, (stage (.cstart lf 0)), (blk (.cstart lf 0)), ?_, ?_, ?_⟩
    all_goals first | decide +kernel | rfl | (constructor <;> first | decide +kernel | rfl)
  · refine ⟨.cabort lp 0, lp, 0, (bench 0 0 {} {} (unmatched (.cabort lp 0))), (unmatched (.cabort lp 0)), ?_, ?_, ?_, ?_⟩
    all_goals first | decide +kernel | exact .inl rfl | exact .inr rfl

theorem witness_privileged_functions_need_a_manager :
  (∃ (i : Instr), ∃ q fn sub r, ∃ (s : State), ∃ f l a, manage1 i = some (q, fn, sub, r) ∧ Ready s f i ∧ ActingA i (opnd s f) l a ∧
    Manager s.focus.cell ∧ AddressOk s fn a ∧ Declares f q.lsid.toNat) ∧
  (∃ (i : Instr), ∃ q fn sub r, ∃ (s : State), ∃ f l a b, manage2 i = some (q, fn, sub, r) ∧ Ready s f i ∧ ActingAB i (opnd s f) l
    a b ∧ Manager s.focus.cell ∧ AddressOk s fn a ∧ (fn = 38 → b.extractLsb' 7 25 = 0) ∧ Declares f q.lsid.toNat) ∧
  (∃ q map r, ∃ (s : State), ∃ f l a, Ready s f (.mapsel q map r) ∧ ActingA (.mapsel q map r) (opnd s f) l a ∧ Manager s.focus.cell
    ∧ Declares f q.lsid.toNat) ∧
  (∃ (i : Instr), ∃ q fn sub r, ∃ (s : State), ∃ f, manage1 i = some (q, fn, sub, r) ∧ Ready s f i ∧ IdleA i (opnd s f) ∧ Manager
    s.focus.cell ∧ Declares f q.lsid.toNat) ∧
  (∃ (i : Instr), ∃ q fn sub r, ∃ (s : State), ∃ f, manage2 i = some (q, fn, sub, r) ∧ Ready s f i ∧ IdleAB i (opnd s f) ∧ Manager
    s.focus.cell ∧ Declares f q.lsid.toNat) ∧
  (∃ q map r, ∃ (s : State), ∃ f, Ready s f (.mapsel q map r) ∧ IdleA (.mapsel q map r) (opnd s f) ∧ Manager s.focus.cell ∧
    Declares f q.lsid.toNat) ∧
  (∃ (i : Instr), ∃ n, ∃ (s : State), ∃ f, privilegedLsid i = some n ∧ Ready s f i ∧ ¬ Manager s.focus.cell) := by
  refine ⟨?_, ?_, ?_, ?_, ?_, ?_, ?_⟩
  · refine ⟨.sflip lf 0xFF 1, lf, 37, 1, 0xFF, (bench 1048577 0 {} {} (blk (.sflip lf 0xFF 1) (only 7 0x1))), (blk (.sflip lf
        0xFF 1) (only 7 0x1)), 7, 1, ?_, ?_, ?_, ?_, ?_, ?_⟩
    all_goals first | decide +kernel | rfl | (constructor <;> first | decide +kernel | rfl)
  · refine ⟨.bindset lf 0, lf, 43, 0, 0, (bench 1049603 0 {} {} (blk (.bindset lf 0) (only 7 0x7FFFFFFF) (all 1))), (blk
        (.bindset lf 0) (only 7 0x7FFFFFFF) (all 1)), 7, 0x7FFFFFFF, 1, ?_, ?_, ?_, ?_, ?_, ?_, ?_⟩
    all_goals first | decide +kernel | rfl | (constructor <;> first | decide +kernel | rfl)
  · refine ⟨lf, 3, 0xFF, (bench 1048577 0 {} {} (blk (.mapsel lf 3 0xFF) (only 7 9))), (blk (.mapsel lf 3 0xFF) (only 7 9)), 7,
        9, ?_, ?_, ?_, ?_⟩
    all_goals first | decide +kernel | rfl | (constructor <;> first | decide +kernel | rfl)
  · refine ⟨.save lf 0, lf, 34, 0, 0, (bench 1048577 0 {} {} (blk (.save lf 0))), (blk (.save lf 0)), ?_, ?_, ?_, ?_, ?_⟩
    all_goals first | decide +kernel | rfl | (constructor <;> first | decide +kernel | rfl)
  · refine ⟨.scribe lf 0, lf, 36, 0, 0, (bench 1049603 0 {} {} (blk (.scribe lf 0) (only 0 1) (only 1 1))), (blk (.scribe lf 0)
        (only 0 1) (only 1 1)), ?_, ?_, ?_, ?_, ?_⟩
    all_goals first | decide +kernel | rfl | (constructor <;> first | decide +kernel | rfl)
  · refine ⟨lf, 2, 0, (bench 1049603 0 {} {} (blk (.mapsel lf 2 0))), (blk (.mapsel lf 2 0)), ?_, ?_, ?_, ?_⟩
    all_goals first | decide +kernel | rfl | (constructor <;> first | decide +kernel | rfl)
  · refine ⟨.takeover lf 0, 31, (bench 1049604 0 {} {} (blk (.takeover lf 0))), (blk (.takeover lf 0)), ?_, ?_, ?_⟩
    all_goals first | decide +kernel | rfl | (constructor <;> first | decide +kernel | rfl)

theorem witness_configuration_functions_complete :
  (∃ q n v, ∃ (s : State), ∃ f, Ready s f (.settle q n v) ∧ Acts (.settle q n v) (opnd s f) ∧ (here s).tl = true ∧ Declares f
    q.lsid.toNat) ∧
  (∃ q n v, ∃ (s : State), ∃ f, Ready s f (.settle q n v) ∧ ¬ Acts (.settle q n v) (opnd s f) ∧ Declares f q.lsid.toNat) ∧
  (∃ q, ∃ (s : State), ∃ f r, Ready s f (.cfgstat q) ∧ regionOf s s.focus.cell = some r ∧ (here s).cfgOut < 256 ∧ (regionAt s
    r).mapping < 4 ∧ (delivered s f [q.t0] (lanesOf (.cfgstat q) (opnd s f) fun _ => some (BitVec.ofNat 32 ( (here s).cfgOut + (if
    (regionAt s r).st = .draining then 2 ^ 8 else 0) + (regionAt s r).mapping * 2 ^ 9 + (if mapselPending (regionAt s r) then 2 ^
    11 else 0)))) 0).isOk = true) ∧
  (∃ q g, ∃ (s : State), ∃ f l a b, Ready s f (.cfgreq q g) ∧ ActingAB (.cfgreq q g) (opnd s f) l a b ∧ Declares f q.lsid.toNat) ∧
  (∃ q g, ∃ (s : State), ∃ f, Ready s f (.cfgreq q g) ∧ IdleAB (.cfgreq q g) (opnd s f) ∧ Declares f q.lsid.toNat) ∧
  (∃ q r, ∃ (s : State), ∃ f l a, Ready s f (.cfgrel q r) ∧ ActingA (.cfgrel q r) (opnd s f) l a ∧ Declares f q.lsid.toNat) ∧
  (∃ q r, ∃ (s : State), ∃ f, Ready s f (.cfgrel q r) ∧ IdleA (.cfgrel q r) (opnd s f) ∧ Declares f q.lsid.toNat) ∧
  (∃ q x cls, ∃ (s : State), ∃ f l a b o wh r, ∃ (x0 y0 : Nat), ∃ d, Ready s f (.spawn q x cls) ∧ ActingAB (.spawn q x cls) (opnd s
    f) l a b ∧ laneC (opnd s f) 0 = some o ∧ laneC (opnd s f) 1 = some wh ∧ a.toNat % 16 = 0 ∧ regionOf s s.focus.cell = some r ∧
    (x0 : Int) = ((cellOf s s.focus.cell).regpos.extractLsb' 0 16).toNat + (o.extractLsb' 0 16).toInt ∧ (y0 : Int) = ((cellOf s
    s.focus.cell).regpos.extractLsb' 16 16).toNat + (o.extractLsb' 16 16).toInt ∧ x0 + (wh.extractLsb' 0 16).toNat + 1 ≤ (regionAt
    s r).w ∧ y0 + (wh.extractLsb' 16 16).toNat + 1 ≤ (regionAt s r).h ∧ regionCell s s.focus.cell x0 y0 = some d ∧ Declares f
    q.lsid.toNat) ∧
  (∃ q x cls, ∃ (s : State), ∃ f, Ready s f (.spawn q x cls) ∧ (IdleAB (.spawn q x cls) (opnd s f) ∨ laneC (opnd s f) 0 = none ∨
    laneC (opnd s f) 1 = none) ∧ Declares f q.lsid.toNat) := by
  refine ⟨?_, ?_, ?_, ?_, ?_, ?_, ?_, ?_, ?_⟩
  · refine ⟨lf, 31, .drop, (bench 0 0 { tl := true } {} (blk (.settle lf 31 .drop))), (blk (.settle lf 31 .drop)), ?_, ?_, ?_,
        ?_⟩
    all_goals first | decide +kernel | rfl | (constructor <;> first | decide +kernel | rfl)
  · refine ⟨lp, 31, .drop, (bench 0 0 {} {} (unmatched (.settle lp 31 .drop))), (unmatched (.settle lp 31 .drop)), ?_, ?_, ?_⟩
    all_goals first | decide +kernel | rfl | (constructor <;> first | decide +kernel | rfl)
  · refine ⟨⟨.always, .w 63⟩, (place 0 0 2 2 (bench 0 0 { cfgOut := 255 } {} (blk (.cfgstat ⟨.always, .w 63⟩)))), (blk (.cfgstat
        ⟨.always, .w 63⟩)), 0, ?_, ?_, ?_, ?_, ?_⟩
    all_goals first | decide +kernel | rfl | (constructor <;> first | decide +kernel | rfl)
  · refine ⟨lf, 255, (stage (.cfgreq lf 255) (only 7 0xFFFFFFFF) (all 1)), (blk (.cfgreq lf 255) (only 7 0xFFFFFFFF) (all 1)), 7,
        0xFFFFFFFF, 1, ?_, ?_, ?_⟩
    all_goals first | decide +kernel | rfl | (constructor <;> first | decide +kernel | rfl)
  · refine ⟨lf, 0, (stage (.cfgreq lf 0) (only 0 1) (only 1 1)), (blk (.cfgreq lf 0) (only 0 1) (only 1 1)), ?_, ?_, ?_⟩
    all_goals first | decide +kernel | rfl | (constructor <;> first | decide +kernel | rfl)
  · refine ⟨lf, 255, (stage (.cfgrel lf 255) (only 7 5)), (blk (.cfgrel lf 255) (only 7 5)), 7, 5, ?_, ?_, ?_⟩
    all_goals first | decide +kernel | rfl | (constructor <;> first | decide +kernel | rfl)
  · refine ⟨lf, 0, (stage (.cfgrel lf 0)), (blk (.cfgrel lf 0)), ?_, ?_, ?_⟩
    all_goals first | decide +kernel | rfl | (constructor <;> first | decide +kernel | rfl)
  · refine ⟨lf, 3, 2, (place 0 0 2 2 (stage (.spawn lf 3 2) (only 7 0xFFFFFFF0) (all 5) (Lanes.ofFn fun k => if k = 0 then some
        0x00010001 else if k = 1 then some 0x00000000 else none))), (blk (.spawn lf 3 2) (only 7 0xFFFFFFF0) (all 5) (Lanes.ofFn
        fun k => if k = 0 then some 0x00010001 else if k = 1 then some 0x00000000 else none)), 7, 0xFFFFFFF0, 5, 0x00010001, 0, 0,
        1, 1, 33, ?_, ?_, ?_, ?_, ?_, ?_, ?_, ?_, ?_, ?_, ?_, ?_⟩
    all_goals first | decide +kernel | rfl | (constructor <;> first | decide +kernel | rfl)
  · refine ⟨lf, 0, 1, (stage (.spawn lf 0 1) (all 0) (all 0) (only 0 0)), (blk (.spawn lf 0 1) (all 0) (all 0) (only 0 0)), ?_,
        ?_, ?_⟩
    all_goals first | decide +kernel | (right; right; decide +kernel)

theorem witness_functions_fault_at_firing :
  (∃ (i : Instr) (s : State), ∃ f l a b k ta lanes n, Ready s f i ∧ ActsWith i (opnd s f) l a b ∧ l < 8 ∧ (cellOf s
    s.focus.cell).slot = none ∧ functionFault s f (opnd s f) l a i = some (k, ta, lanes, n)) := by
  refine ⟨.tkill lf 3 15, (bench 0 0 { itag := 0x3F } {} (blk (.tkill lf 3 15) (only 7 5))), (blk (.tkill lf 3 15) (only 7 5)),
        7, 5, 0, .tagspace, 0x3F, 128, 31, ?_, ?_, ?_, ?_, ?_⟩
  all_goals first | decide +kernel | rfl | (constructor <;> first | decide +kernel | rfl)

theorem witness_delivery_and_counting_faults :
  (∃ (i : Instr) (s : State), ∃ f ts k a, Ready s f i ∧ producing (here s) f (opnd s f) i = some ts ∧ targetsFault (markFired f
    s.focus.slot) ts = some (k, a)) ∧
  (∃ (i : Instr) (s : State), ∃ f n, Ready s f i ∧ countsAtFiring i = some n ∧ ¬ Acts i (opnd s f) ∧ ¬ Declares f n.toNat) ∧
  (∃ q reg, ∃ (s : State), ∃ f, Ready s f (.spw q reg) ∧ ¬ Declares f q.lsid.toNat) ∧
  (∃ q ch reg, ∃ (s : State), ∃ f, Ready s f (.csig q ch reg) ∧ ¬ Declares f q.lsid.toNat) ∧
  (∃ (i : Instr), ∃ q act, ∃ (s : State), ∃ f, streamNoWord i = some (q, act) ∧ Ready s f i ∧ ¬ Declares f q.lsid.toNat) ∧
  (∃ (i : Instr), ∃ q act, ∃ (s : State), ∃ f l a, streamWord a i = some (q, act) ∧ Ready s f i ∧ ActingA i (opnd s f) l a ∧ ¬
    Declares f q.lsid.toNat) ∧
  (∃ (i : Instr), ∃ q, ∃ (x : BitVec 8) (s : State), ∃ f, (i = .cfgreq q x ∨ i = .cfgrel q x) ∧ Ready s f i ∧ ¬ Declares f
    q.lsid.toNat) := by
  refine ⟨?_, ?_, ?_, ?_, ?_, ?_, ?_⟩
  · refine ⟨.mov ⟨.always, .none, .a 127⟩, (stage (.mov ⟨.always, .none, .a 127⟩) (all 5)), (blk (.mov ⟨.always, .none, .a 127⟩)
        (all 5)), [.a 127, .none], .target, 0, ?_, ?_, ?_⟩
    all_goals first | decide +kernel | rfl | (constructor <;> first | decide +kernel | rfl)
  · refine ⟨.tblock lp 1, (bench 0 0 {} {} { unmatched (.tblock lp 1) with h1 := 0x7FFFFFFF }),
        { unmatched (.tblock lp 1) with h1 := 0x7FFFFFFF }, 31, ?_, ?_, ?_, ?_⟩
    all_goals first | decide +kernel | rfl | (constructor <;> first | decide +kernel | rfl)
  · refine ⟨lf, 0x0A, (bench 0 0 {} {} { blk (.spw lf 0x0A) (all 1) with h1 := 0x7FFFFFFF }),
        { blk (.spw lf 0x0A) (all 1) with h1 := 0x7FFFFFFF }, ?_, ?_⟩
    all_goals first | decide +kernel | rfl | (constructor <;> first | decide +kernel | rfl)
  · refine ⟨lf, 0, true, (bench 0 0 {} {} { blk (.csig lf 0 true) with counted := 0x80000000 }),
        { blk (.csig lf 0 true) with counted := 0x80000000 }, ?_, ?_⟩
    all_goals first | decide +kernel | rfl | (constructor <;> first | decide +kernel | rfl)
  · refine ⟨.sstop lf 3 true, lf, .sstop 3 true, (bench 0 0 {} {} { blk (.sstop lf 3 true) with h1 := 0x7FFFFFFF }),
        { blk (.sstop lf 3 true) with h1 := 0x7FFFFFFF }, ?_, ?_, ?_⟩
    all_goals first | decide +kernel | rfl | (constructor <;> first | decide +kernel | rfl)
  · refine ⟨.sfmt lf 3, lf, .sfmt 3 5, (bench 0 0 {} {} { blk (.sfmt lf 3) (only 7 5) with h1 := 0x7FFFFFFF }),
        { blk (.sfmt lf 3) (only 7 5) with h1 := 0x7FFFFFFF }, 7, 5, ?_, ?_, ?_, ?_⟩
    all_goals first | decide +kernel | rfl | (constructor <;> first | decide +kernel | rfl)
  · refine ⟨.cfgrel lf 255, lf, 255, (bench 0 0 {} {} { blk (.cfgrel lf 255) (only 7 5) with h1 := 0x7FFFFFFF }),
        { blk (.cfgrel lf 255) (only 7 5) with h1 := 0x7FFFFFFF }, ?_, ?_, ?_⟩
    all_goals first | decide +kernel | exact .inr rfl

theorem witness_firings_leave_architectural_state :
  (∃ (i : Instr) (s : State), ∃ t, inBlock i = true ∧ exec i s = .next t) := by
  refine ⟨.imm ⟨.always, 1, .w 63⟩, (stage (.imm ⟨.always, 1, .w 63⟩)), (match exec (.imm ⟨.always, 1, .w 63⟩) (stage (.imm
        ⟨.always, 1, .w 63⟩)) with | .next t => t | _ => {}), ?_, ?_⟩
  all_goals rfl

theorem witness_nothing_stops_the_machine :
  (∃ (i : Instr) (s : State), ((here s).frame ≠ none ∨ isEvent i = true)) := by
  refine ⟨.imm ⟨.always, 1, .w 63⟩, (stage (.imm ⟨.always, 1, .w 63⟩)), ?_⟩
  all_goals first | decide +kernel | rfl | (constructor <;> first | decide +kernel | rfl)

theorem witness_memory_reads_what_was_written :
  (∃ m, Memory.wf m = true) ∧
  (∃ (k : Nat) (j : Nat), j ≠ k) ∧
  (∃ (s : State) (n : Nat) (j : Nat), Memory.wf s.mem = true ∧ j < n) ∧
  (∃ (k : Nat) (n : Nat) (j : Nat), (j < k ∨ k + n ≤ j)) ∧
  (∃ m w, Memory.wf m = true ∧ Memory.wf w = true ∧ (∀ k, memGet m k = memGet w k)) := by
  refine ⟨?_, ?_, ?_, ?_, ?_⟩
  · refine ⟨[(3, 1)], ?_⟩
    all_goals first | decide +kernel | rfl | (constructor <;> first | decide +kernel | rfl)
  · refine ⟨0, 1, ?_⟩
    all_goals first | decide +kernel | rfl | (constructor <;> first | decide +kernel | rfl)
  · refine ⟨{ State.reset with mem := [(3, 1)] }, 4, 3, ?_, ?_⟩
    all_goals first | decide +kernel | rfl | (constructor <;> first | decide +kernel | rfl)
  · refine ⟨8, 4, 12, ?_⟩
    all_goals first | decide +kernel | rfl | (constructor <;> first | decide +kernel | rfl)
  · refine ⟨[(3, 1)], [(3, 1)], ?_, ?_, ?_⟩
    all_goals first | decide | (intro k; rfl)

theorem witness_commit_applies_local_acts :
  (∃ (s : State), ∃ c x f h e tag b, Finished s c x f (.goto h) ∧ f.regs = [] ∧ f.effs = [e] ∧ e.act = .setBlk tag b ∧ bindingOf
    (coreOf s c) tag &&& 0xFF80FFF0 = bindingOf (coreOf s c) tag) ∧
  (∃ (s : State), ∃ c x f h e tag w, Finished s c x f (.goto h) ∧ f.regs = [] ∧ f.effs = [e] ∧ e.act = .bind tag w ∧ BindWord w x) ∧
  (∃ (s : State), ∃ c x f h e l p, Finished s c x f (.goto h) ∧ f.regs = [] ∧ f.effs = [e] ∧ e.act = .tsAlloc l p) ∧
  (∃ (s : State), ∃ c x f h e n, Finished s c x f (.goto h) ∧ f.regs = [] ∧ f.effs = [e] ∧ e.act = .csig n false) ∧
  (∃ (s : State), ∃ c x f h e v rest, Finished s c x f (.goto h) ∧ f.regs = [] ∧ f.effs = [e] ∧ e.act = .lpop true false ∧ (coreOf
    s c).linkW = v :: rest) ∧
  (∃ (s : State), ∃ c x f h e v rest, Finished s c x f (.goto h) ∧ f.regs = [] ∧ f.effs = [e] ∧ e.act = .lpop false false ∧ (coreOf
    s c).linkN = v :: rest) ∧
  (∃ (s : State), ∃ c x f h e east v d, OneEffect s c x f h e ∧ e.act = .lpush east v ∧ linkInside s c east = true ∧ coreOffset s c
    (if east then 1 else 0) (if east then 0 else 1) = some d ∧ linkLoad s d east < 8) ∧
  (∃ (s : State), ∃ c x f h e east v d, OneEffect s c x f h e ∧ e.act = .lpush east v ∧ linkInside s c east = true ∧ coreOffset s c
    (if east then 1 else 0) (if east then 0 else 1) = some d ∧ 8 ≤ linkLoad s d east) ∧
  (∃ (s : State), ∃ c x f h e, Finished s c x f (.goto h) ∧ f.regs = [] ∧ f.effs = [e] ∧ e.act = .mxcfg true 0) ∧
  (∃ (s : State), ∃ c x f h e m, Finished s c x f (.goto h) ∧ f.regs = [] ∧ f.effs = [e] ∧ e.act = .mxcmd m ∧ (coreOf s
    c).mx.queue.length < 4) ∧
  (∃ (s : State), ∃ c x f h e m, Finished s c x f (.goto h) ∧ f.regs = [] ∧ f.effs = [e] ∧ e.act = .mxcmd m ∧ 4 ≤ (coreOf s
    c).mx.queue.length) := by
  refine ⟨?_, ?_, ?_, ?_, ?_, ?_, ?_, ?_, ?_, ?_, ?_⟩
  · refine ⟨(bench 0 3 {} { bindings := [(255, 0xF380FFF0)] } (over_ (.goto 0x10)
        [{ lsid := 31, slot := 1, act := .setBlk 255 false }] [])), 0, 3, (over_ (.goto 0x10)
        [{ lsid := 31, slot := 1, act := .setBlk 255 false }] []), 0x10, { lsid := 31, slot := 1, act := .setBlk 255 false }, 255,
        false, finished (by decide +kernel), ?_, ?_, ?_, ?_⟩
    all_goals first | decide +kernel | rfl | (constructor <;> first | decide +kernel | rfl)
  · refine ⟨(bench 0 3 {} {} (over_ (.goto 0x10) [{ lsid := 31, slot := 1, act := .bind 255 0xBD80FFF0 }] [])), 0, 3, (over_
        (.goto 0x10) [{ lsid := 31, slot := 1, act := .bind 255 0xBD80FFF0 }] []), 0x10,
        { lsid := 31, slot := 1, act := .bind 255 0xBD80FFF0 }, 255, 0xBD80FFF0, finished (by decide +kernel), ?_, ?_, ?_, ?_⟩
    all_goals first | decide +kernel | rfl | (constructor <;> first | decide +kernel | rfl)
  · refine ⟨(bench 0 3 {} {} (over_ (.goto 0x10) [{ lsid := 31, slot := 1, act := .tsAlloc 3 0x2F }] [])), 0, 3, (over_ (.goto
        0x10) [{ lsid := 31, slot := 1, act := .tsAlloc 3 0x2F }] []), 0x10, { lsid := 31, slot := 1, act := .tsAlloc 3 0x2F }, 3,
        0x2F, finished (by decide +kernel), ?_, ?_, ?_⟩
    all_goals first | decide +kernel | rfl | (constructor <;> first | decide +kernel | rfl)
  · refine ⟨(bench 0 3 {} { pulses := [(63, 15)] } (over_ (.goto 0x10) [{ lsid := 31, slot := 1, act := .csig 63 false }] [])),
        0, 3, (over_ (.goto 0x10) [{ lsid := 31, slot := 1, act := .csig 63 false }] []), 0x10,
        { lsid := 31, slot := 1, act := .csig 63 false }, 63, finished (by decide +kernel), ?_, ?_, ?_⟩
    all_goals first | decide +kernel | rfl | (constructor <;> first | decide +kernel | rfl)
  · refine ⟨(bench 0 3 {} { linkW := [all 1] } (over_ (.goto 0x10) [{ lsid := 31, slot := 1, act := .lpop true false }] [])), 0,
        3, (over_ (.goto 0x10) [{ lsid := 31, slot := 1, act := .lpop true false }] []), 0x10,
        { lsid := 31, slot := 1, act := .lpop true false }, all 1, [], finished (by decide +kernel), ?_, ?_, ?_, ?_⟩
    all_goals first | decide +kernel | rfl | (constructor <;> first | decide +kernel | rfl)
  · refine ⟨(bench 0 3 {} { linkN := [all 1, all 2] } (over_ (.goto 0x10) [{ lsid := 31, slot := 1, act := .lpop false false }]
        [])), 0, 3, (over_ (.goto 0x10) [{ lsid := 31, slot := 1, act := .lpop false false }] []), 0x10,
        { lsid := 31, slot := 1, act := .lpop false false }, all 1, [all 2], finished (by decide +kernel), ?_, ?_, ?_, ?_⟩
    all_goals first | decide +kernel | rfl | (constructor <;> first | decide +kernel | rfl)
  · refine ⟨(place 0 3 2 1 (bench 0 3 {} {} (over_ (.goto 0x10) [{ lsid := 31, slot := 1, act := .lpush true (only 7 5) }] []))),
        0, 3, (over_ (.goto 0x10) [{ lsid := 31, slot := 1, act := .lpush true (only 7 5) }] []), 0x10,
        { lsid := 31, slot := 1, act := .lpush true (only 7 5) }, true, only 7 5, 1, ⟨finished (by decide +kernel), rfl, rfl⟩, ?_,
        ?_, ?_, ?_⟩
    all_goals first | decide +kernel | rfl | (constructor <;> first | decide +kernel | rfl)
  · refine
        ⟨{ (place 0 3 1 2 (bench 0 3 {} {} (over_ (.goto 0x10) [{ lsid := 31, slot := 1, act := .lpush false (only 7 5) }] []))) with net := List.replicate 8 { src := 0, dst := 32, at_ := 0, vc := 5, body := .link false (all 1) } },
        0, 3, (over_ (.goto 0x10) [{ lsid := 31, slot := 1, act := .lpush false (only 7 5) }] []), 0x10,
        { lsid := 31, slot := 1, act := .lpush false (only 7 5) }, false, only 7 5, 32, ⟨finished (by decide +kernel), rfl, rfl⟩,
        ?_, ?_, ?_, ?_⟩
    all_goals first | decide +kernel | rfl | (constructor <;> first | decide +kernel | rfl)
  · refine ⟨(bench 0 3 {} { mx := { owner := some 3 } } (over_ (.goto 0x10) [{ lsid := 31, slot := 1, act := .mxcfg true 0 }]
        [])), 0, 3, (over_ (.goto 0x10) [{ lsid := 31, slot := 1, act := .mxcfg true 0 }] []), 0x10,
        { lsid := 31, slot := 1, act := .mxcfg true 0 }, finished (by decide +kernel), ?_, ?_, ?_⟩
    all_goals first | decide +kernel | rfl | (constructor <;> first | decide +kernel | rfl)
  · refine ⟨(bench 0 3 {} { mx := { owner := some 3, queue := List.replicate 3 (.clear 0 1, []) } } (over_ (.goto 0x10)
        [{ lsid := 31, slot := 1, act := .mxcmd (.clear 0 64) }] [])), 0, 3, (over_ (.goto 0x10)
        [{ lsid := 31, slot := 1, act := .mxcmd (.clear 0 64) }] []), 0x10, { lsid := 31, slot := 1, act := .mxcmd (.clear 0 64) },
        .clear 0 64, finished (by decide +kernel), ?_, ?_, ?_, ?_⟩
    all_goals first | decide +kernel | rfl | (constructor <;> first | decide +kernel | rfl)
  · refine ⟨(bench 0 3 {} { mx := { owner := some 3, queue := List.replicate 4 (.clear 0 1, []) } } (over_ (.goto 0x10)
        [{ lsid := 31, slot := 1, act := .mxcmd (.clear 0 64) }] [])), 0, 3, (over_ (.goto 0x10)
        [{ lsid := 31, slot := 1, act := .mxcmd (.clear 0 64) }] []), 0x10, { lsid := 31, slot := 1, act := .mxcmd (.clear 0 64) },
        .clear 0 64, finished (by decide +kernel), ?_, ?_, ?_, ?_⟩
    all_goals first | decide +kernel | rfl | (constructor <;> first | decide +kernel | rfl)

theorem witness_commit_opens_pending_entries :
  (∃ (s : State), ∃ c x f h e d t w, Finished s c x f (.goto h) ∧ f.regs = [] ∧ f.effs = [e] ∧ e.act = .sendDyn d t w ∧ t.tuple =
    none ∧ (ctxOf s c x).pend = []) ∧
  (∃ (s : State), ∃ c x f h e l r, OneEffect s c x f h e ∧ e.act = .tsFree l ∧ (ctxOf s c x).pend = [] ∧ regionOf s c = some r) ∧
  (∃ (s : State), ∃ c x f n e d t w k, (ctxOf s c x).frame = some f ∧ f.exit = some (k, n) ∧ x < 4 ∧ f.counted &&& f.h1 = f.h1 ∧
    f.wroteLo &&& f.h2 = f.h2 ∧ f.wroteHi &&& f.h3 = f.h3 ∧ coreActs s c = true ∧ allDecoded f = true ∧ ((ctxOf s c x).nopre = true
    → (ctxOf s c x).nopreb ≠ 0) ∧ olderReady s c x f.serial = false ∧ f.effs = [e] ∧ e.act = .sendDyn d t w ∧ (∀ i, i < 32 →
    (Tbl.get {} (ctxOf s c x).pend i : Entry).st = .opened)) := by
  refine ⟨?_, ?_, ?_⟩
  · refine ⟨(bench 0 3 {} {} (over_ (.goto 0x10)
        [{ lsid := 31, slot := 1, act := .sendDyn 33 { tag := 0xE1, lanes := all 1 } 5 }] [])), 0, 3, (over_ (.goto 0x10)
        [{ lsid := 31, slot := 1, act := .sendDyn 33 { tag := 0xE1, lanes := all 1 } 5 }] []), 0x10,
        { lsid := 31, slot := 1, act := .sendDyn 33 { tag := 0xE1, lanes := all 1 } 5 }, 33, { tag := 0xE1, lanes := all 1 }, 5,
        finished (by decide +kernel), ?_, ?_, ?_, ?_, ?_⟩
    all_goals first | decide +kernel | rfl | (constructor <;> first | decide +kernel | rfl)
  · refine ⟨(place 0 3 1 1 (bench 0 3 {} {} (over_ (.goto 0x10) [{ lsid := 31, slot := 1, act := .tsFree 3 }] []))), 0, 3, (over_
        (.goto 0x10) [{ lsid := 31, slot := 1, act := .tsFree 3 }] []), 0x10, { lsid := 31, slot := 1, act := .tsFree 3 }, 3, 0,
        ⟨finished (by decide +kernel), rfl, rfl⟩, ?_, ?_, ?_⟩
    all_goals first | decide +kernel | rfl | (constructor <;> first | decide +kernel | rfl)
  · refine ⟨(bench 0 3 { pend := (List.range 32).map fun i => (i, { st := .opened }) } {} (over_ (.goto 0x10)
        [{ lsid := 31, slot := 1, act := .sendDyn 33 { tag := 0xE1, lanes := all 1 } 5 }] [])), 0, 3, (over_ (.goto 0x10)
        [{ lsid := 31, slot := 1, act := .sendDyn 33 { tag := 0xE1, lanes := all 1 } 5 }] []), 2,
        { lsid := 31, slot := 1, act := .sendDyn 33 { tag := 0xE1, lanes := all 1 } 5 }, 33, { tag := 0xE1, lanes := all 1 }, 5,
        .goto 0x10, ?_, ?_, ?_, ?_, ?_, ?_, ?_, ?_, ?_, ?_, ?_, ?_, ?_⟩
    all_goals first | decide +kernel | rfl | (constructor <;> first | decide +kernel | rfl)

theorem witness_activations_start :
  (∃ (s : State), ∃ c x cls q, Idle s c x ∧ OneToken s c q ∧ pickTag s c x = some (cls, q.t.tag)) ∧
  (∃ (s : State), ∃ c x cls j n, Idle s c x ∧ (coreOf s c).tokens = [] ∧ (coreOf s c).updTok = [] ∧ (coreOf s c).spawnQ = [] ∧
    (coreOf s c).joins = [j] ∧ j.tag < 256 ∧ j.done = some n ∧ j.solo = false ∧ j.releases = [] ∧ j.srcs = [] ∧ pickTag s c x =
    some (cls, j.tag)) ∧
  (∃ (s : State), ∃ c x q h, interjects s c x = true ∧ OneToken s c q ∧ (ctxOf s c x).pc = some h ∧ (ctxOf s c x).spec = [] ∧
    readyClass0 (coreOf s c) x = [q.t.tag]) ∧
  (∃ (s : State), ∃ c k u f g, let hdr := (((bindingOf (coreOf s c) (0xF0 + k)).extractLsb' 4 12).toNat * 16); coreActs s c = true
    ∧ k < 16 ∧ (ctxOf s c 4).frame = none ∧ (coreOf s c).updCur = none ∧ (coreOf s c).updQ = [] ∧ (coreOf s c).tokens = [] ∧
    (coreOf s c).joins = [] ∧ tagKept (coreOf s c) (0xF0 + k) = false ∧ (coreOf s c).updTok = [u] ∧ u.r.op = .upd k ∧ (bindingOf
    (coreOf s c) (0xF0 + k)).getLsbD 31 = true ∧ (bindingOf (coreOf s c) (0xF0 + k)).getLsbD 30 = false ∧ ((bindingOf (coreOf s c)
    (0xF0 + k)).extractLsb' 23 3).toNat = 4 ∧ fetchBlock s c 4 hdr (coreOf s c).stamp (ctxOf s c 4) = .ok f ∧ f.badWord = none ∧
    readDescs (ctxOf s c 4) f 0 f.descs = .ok g) ∧
  (∃ (s : State), ∃ c x hdr f g, coreActs s c = true ∧ x < 4 ∧ (ctxOf s c x).frame = some g ∧ (ctxOf s c x).spec.length < 3 ∧
    firstClaim s c = none ∧ hdr % 16 = 0 ∧ fetchBlock s c x hdr (coreOf s c).stamp (ctxOf s c x) = .ok f ∧ f.badWord = none ∧
    usedFrames s c < 7 ∧ usedChunks s c + (f.words.length + 15) / 16 ≤ 14) := by
  refine ⟨?_, ?_, ?_, ?_, ?_⟩
  · refine ⟨(soloCtx 0 3 {}
        { tokens := [{ stamp := 0, t := { tag := 255, itag := 0x3F, lanes := only 7 1 } }], bindings := [(255, 0xB180FFF0)] }), 0,
        3, 3, { stamp := 0, t := { tag := 255, itag := 0x3F, lanes := only 7 1 } }, ⟨by decide +kernel, by decide +kernel, by
        decide +kernel, by decide +kernel, by decide +kernel, by decide +kernel, by decide +kernel⟩, ?_, ?_⟩
    all_goals first | decide +kernel | rfl | (constructor <;> first | decide +kernel | rfl)
  · refine ⟨(soloCtx 0 3 {}
        { joins := [{ tag := 255, itag := 1, ports := [some (all 1), none, some (all 2), some (all 3)], done := some 0 }], bindings := [(255, 0xBD80FFF0)] }),
        0, 3, 3, { tag := 255, itag := 1, ports := [some (all 1), none, some (all 2), some (all 3)], done := some 0 }, 0, ⟨by
        decide +kernel, by decide +kernel, by decide +kernel, by decide +kernel, by decide +kernel, by decide +kernel, by
        decide +kernel⟩, ?_, ?_, ?_, ?_, ?_, ?_, ?_, ?_, ?_, ?_⟩
    all_goals first | decide +kernel | rfl | (constructor <;> first | decide +kernel | rfl)
  · refine ⟨(soloCtx 0 3 { st := .running, cls := 1, pc := some 0x40 }
        { tokens := [{ stamp := 0, t := { tag := 255, itag := 0x3F, lanes := only 7 1 } }], bindings := [(255, 0x8180FFF0)] }), 0,
        3, { stamp := 0, t := { tag := 255, itag := 0x3F, lanes := only 7 1 } }, 0x40, ?_, ?_, ?_, ?_, ?_⟩
    all_goals first | decide +kernel | rfl | (constructor <;> first | decide +kernel | rfl)
  · refine
        ⟨{ solo 0 { updTok := [{ stamp := 0, r := { op := .upd 15, lanes := [{ lane := 0, key := 0 }], asker := .nobody }, lane := { lane := 0, key := 0 }, src := 0 }], bindings := [(255, 0xB2000100)] } with mem := [(0x103, 0xB0), (0x113, 0x1A)] },
        0, 15,
        { stamp := 0, r := { op := .upd 15, lanes := [{ lane := 0, key := 0 }], asker := .nobody }, lane := { lane := 0, key := 0 }, src := 0 },
        (got (fetchBlock
        ({ solo 0 { updTok := [{ stamp := 0, r := { op := .upd 15, lanes := [{ lane := 0, key := 0 }], asker := .nobody }, lane := { lane := 0, key := 0 }, src := 0 }], bindings := [(255, 0xB2000100)] } with mem := [(0x103, 0xB0), (0x113, 0x1A)] })
        0 4 0x100 0 (ctxOf
        ({ solo 0 { updTok := [{ stamp := 0, r := { op := .upd 15, lanes := [{ lane := 0, key := 0 }], asker := .nobody }, lane := { lane := 0, key := 0 }, src := 0 }], bindings := [(255, 0xB2000100)] } with mem := [(0x103, 0xB0), (0x113, 0x1A)] })
        0 4))), (got (readDescs {} (got (fetchBlock
        ({ solo 0 { updTok := [{ stamp := 0, r := { op := .upd 15, lanes := [{ lane := 0, key := 0 }], asker := .nobody }, lane := { lane := 0, key := 0 }, src := 0 }], bindings := [(255, 0xB2000100)] } with mem := [(0x103, 0xB0), (0x113, 0x1A)] })
        0 4 0x100 0 (ctxOf
        ({ solo 0 { updTok := [{ stamp := 0, r := { op := .upd 15, lanes := [{ lane := 0, key := 0 }], asker := .nobody }, lane := { lane := 0, key := 0 }, src := 0 }], bindings := [(255, 0xB2000100)] } with mem := [(0x103, 0xB0), (0x113, 0x1A)] })
        0 4))) 0 [])), ?_, ?_, ?_, ?_, ?_, ?_, ?_, ?_, ?_, ?_, ?_, ?_, ?_, ?_, ?_, ?_⟩
    all_goals first | decide +kernel | exact got_eq (by decide +kernel)
  · refine ⟨{ bench 0 3 {} {} (blk (.fence lf .cell)) with mem := [(0x103, 0xB0), (0x113, 0x1A)] }, 0, 3, 0x100, (got (fetchBlock
        ({ bench 0 3 {} {} (blk (.fence lf .cell)) with mem := [(0x103, 0xB0), (0x113, 0x1A)] }) 0 3 0x100 0 (ctxOf
        ({ bench 0 3 {} {} (blk (.fence lf .cell)) with mem := [(0x103, 0xB0), (0x113, 0x1A)] }) 0 3))), (blk (.fence lf .cell)),
        ?_, ?_, ?_, ?_, ?_, ?_, ?_, ?_, ?_, ?_⟩
    all_goals first | decide +kernel | exact got_eq (by decide +kernel)

theorem witness_blocks_and_entries_fault_in_time :
  (∃ (s : State), ∃ c x f, (ctxOf s c x).frame = some f ∧ x < 4 ∧ coreActs s c = true ∧ anyArmed f = false ∧ (∀ w ∈ f.waits,
    w.unsent ≠ []) ∧ allDecoded f = true ∧ f.exit = none) ∧
  (∃ (s : State), ∃ c x f e, (ctxOf s c x).frame = some f ∧ x < 4 ∧ coreActs s c = true ∧ anyArmed f = false ∧ (∀ w ∈ f.waits,
    w.unsent ≠ []) ∧ allDecoded f = true ∧ f.exit = some e ∧ f.h1 &&& ~~~f.counted ≠ 0 ∧ (∀ w ∈ f.waits, ∀ n, w.lsid = some n →
    f.h1 &&& ~~~f.counted &&& ~~~(BitVec.ofNat 32 (2 ^ n)) ≠ 0)) ∧
  (∃ (s : State), ∃ c x f, (ctxOf s c x).frame = some f ∧ x < 4 ∧ coreActs s c = true ∧ (ctxOf s c x).nopre = true ∧ (ctxOf s c
    x).nopreb = 0) ∧
  (∃ (s : State), ∃ c x l rest h, FirstLate s c x l rest ∧ x < 4 ∧ coreActs s c = true ∧ (ctxOf s c x).st = .running ∧ (ctxOf s c
    x).frame = none ∧ (ctxOf s c x).pc = some h ∧ (ctxOf s c x).tl = false ∧ (ctxOf s c x).trapv ≠ 0) ∧
  (∃ (s : State), ∃ c x l rest f, FirstLate s c x l rest ∧ x < 4 ∧ coreActs s c = true ∧ (ctxOf s c x).st = .running ∧ (ctxOf s c
    x).frame = some f ∧ (∀ p ∈ f.slots, p.2.fired = false) ∧ f.takes = [] ∧ (ctxOf s c x).tl = false ∧ (ctxOf s c x).trapv ≠ 0) ∧
  (∃ (s : State), ∃ c x l rest, FirstLate s c x l rest ∧ x < 4 ∧ coreActs s c = true ∧ (ctxOf s c x).st = .idle ∧ (ctxOf s c x).tl
    = false ∧ (ctxOf s c x).trapv ≠ 0) := by
  refine ⟨?_, ?_, ?_, ?_, ?_, ?_⟩
  · refine ⟨(bench 0 3 {} {} ({ blk (.sel gf) with slots := [] })), 0, 3, { blk (.sel gf) with slots := [] }, ?_, ?_, ?_, ?_, ?_,
        ?_, ?_⟩
    all_goals first | decide +kernel | rfl | (constructor <;> first | decide +kernel | rfl)
  · refine ⟨(bench 0 3 {} {} ({ blk (.sel gf) with slots := [], exit := some (.done, 2) })), 0, 3,
        { blk (.sel gf) with slots := [], exit := some (.done, 2) }, (.done, 2), ?_, ?_, ?_, ?_, ?_, ?_, ?_, ?_, ?_⟩
    all_goals first | decide +kernel | rfl | (constructor <;> first | decide +kernel | rfl)
  · refine ⟨(bench 0 3 { nopre := true, nopreb := 0 } {} (blk (.sel gf))), 0, 3, (blk (.sel gf)), ?_, ?_, ?_, ?_, ?_⟩
    all_goals first | decide +kernel | rfl | (constructor <;> first | decide +kernel | rfl)
  · refine ⟨(soloCtx 0 3
        { st := .running, pc := some 0xFFF0, trapv := 0x40, lateQ := [{ cause := .remote, taddr := 5, lanes := 255, info := 31 }, { cause := .remote, taddr := 5, lanes := 255, info := 31 }] }
        {}), 0, 3, { cause := .remote, taddr := 5, lanes := 255, info := 31 },
        [{ cause := .remote, taddr := 5, lanes := 255, info := 31 }], 0xFFF0, ?_, ?_, ?_, ?_, ?_, ?_, ?_, ?_⟩
    all_goals first | decide +kernel | rfl | (constructor <;> first | decide +kernel | rfl)
  · refine ⟨(soloCtx 0 3
        { st := .running, frame := some (blk (.sel gf)), trapv := 0xFFF0, lateQ := [{ cause := .remote, taddr := 5, lanes := 255, info := 31 }] }
        {}), 0, 3, { cause := .remote, taddr := 5, lanes := 255, info := 31 }, [], (blk (.sel gf)), ?_, ?_, ?_, ?_, ?_, ?_, ?_, ?_,
        ?_⟩
    all_goals first | decide +kernel | rfl | (constructor <;> first | decide +kernel | rfl)
  · refine ⟨(soloCtx 0 3 { trapv := 0xFFF0, lateQ := [{ cause := .remote, taddr := 5, lanes := 255, info := 31 }] } {}), 0, 3,
        { cause := .remote, taddr := 5, lanes := 255, info := 31 }, [], ?_, ?_, ?_, ?_, ?_, ?_⟩
    all_goals first | decide +kernel | rfl | (constructor <;> first | decide +kernel | rfl)

theorem witness_owners_perform_requests :
  (∃ (s : State), ∃ n m r l, Arrives s n m r l ∧ r.op = .load ∧ l.mode = .random ∧ 0 < r.size ∧ r.size ≤ 4 ∧ keyIsLoft l.key =
    false) ∧
  (∃ (s : State), ∃ n m r l, Arrives s n m r l ∧ r.op = .store ∧ l.mode = .random ∧ 0 < r.size ∧ r.size ≤ 4 ∧ keyIsLoft l.key =
    false ∧ (cellOf s m.dst).sister = none ∧ Memory.wf s.mem = true) ∧
  (∃ (s : State), ∃ n m r l op, Arrives s n m r l ∧ r.op = .amo op) ∧
  (∃ (s : State), ∃ c, ∃ (u : UpdReq), ∃ l w, SlotWaits s c u ∧ Memory.wf s.mem = true ∧ u.r.lanes = [l] ∧ keyIsLoft l.key = false
    ∧ isBad s l.key = false ∧ atomicWord u.r.op (memWord s l.key) l.b l.c = some w ∧ (∃ c' x serial slot, u.r.asker = .frame c' x
    serial slot)) := by
  refine ⟨?_, ?_, ?_, ?_⟩
  · refine ⟨(mail 0 0 0 (.mem { op := .load, size := 4, lanes := [{ lane := 7, key := 0x7FFFC }], asker := .frame 0 3 7 1 })
        (bench 0 3 {} {}
        ({ blk (.fence lf .cell) with serial := 7, waits := [{ slot := 1, left := [0], got := Val.allNull, ext := .word, t0 := .none, lsid := none }] }))),
        0,
        { src := 0, dst := 0, at_ := 0, vc := 0, body := .mem { op := .load, size := 4, lanes := [{ lane := 7, key := 0x7FFFC }], asker := .frame 0 3 7 1 } },
        { op := .load, size := 4, lanes := [{ lane := 7, key := 0x7FFFC }], asker := .frame 0 3 7 1 },
        { lane := 7, key := 0x7FFFC }, ⟨by decide +kernel, rfl, by decide +kernel, ⟨0, 3, 7, 1, rfl⟩, by decide +kernel, by
        decide +kernel, rfl, by decide +kernel, by decide +kernel, rfl⟩, ?_, ?_, ?_, ?_, ?_⟩
    all_goals first | decide +kernel | rfl | (constructor <;> first | decide +kernel | rfl)
  · refine ⟨(mail 0 0 0 (.mem
        { op := .store, size := 1, lanes := [{ lane := 7, key := 0x7FFFF, b := 0xFF }], asker := .frame 0 3 7 1 }) (bench 0 3 {} {}
        ({ blk (.fence lf .cell) with serial := 7, waits := [{ slot := 1, left := [0], got := Val.allNull, ext := .word, t0 := .none, lsid := none }] }))),
        0,
        { src := 0, dst := 0, at_ := 0, vc := 0, body := .mem { op := .store, size := 1, lanes := [{ lane := 7, key := 0x7FFFF, b := 0xFF }], asker := .frame 0 3 7 1 } },
        { op := .store, size := 1, lanes := [{ lane := 7, key := 0x7FFFF, b := 0xFF }], asker := .frame 0 3 7 1 },
        { lane := 7, key := 0x7FFFF, b := 0xFF }, ⟨by decide +kernel, rfl, by decide +kernel, ⟨0, 3, 7, 1, rfl⟩, by decide +kernel,
        by decide +kernel, rfl, by decide +kernel, by decide +kernel, rfl⟩, ?_, ?_, ?_, ?_, ?_, ?_, ?_⟩
    all_goals first | decide +kernel | rfl | (constructor <;> first | decide +kernel | rfl)
  · refine ⟨(mail 0 0 0 (.mem
        { op := .amo .fadd, size := 4, lanes := [{ lane := 7, key := 0x7FFFC, b := 0xFF }], asker := .frame 0 3 7 1 }) (bench 0 3
        {} {}
        ({ blk (.fence lf .cell) with serial := 7, waits := [{ slot := 1, left := [0], got := Val.allNull, ext := .word, t0 := .none, lsid := none }] }))),
        0,
        { src := 0, dst := 0, at_ := 0, vc := 0, body := .mem { op := .amo .fadd, size := 4, lanes := [{ lane := 7, key := 0x7FFFC, b := 0xFF }], asker := .frame 0 3 7 1 } },
        { op := .amo .fadd, size := 4, lanes := [{ lane := 7, key := 0x7FFFC, b := 0xFF }], asker := .frame 0 3 7 1 },
        { lane := 7, key := 0x7FFFC, b := 0xFF }, .fadd, ⟨by decide +kernel, rfl, by decide +kernel, ⟨0, 3, 7, 1, rfl⟩, by
        decide +kernel, by decide +kernel, rfl, by decide +kernel, by decide +kernel, rfl⟩, ?_⟩
    all_goals first | decide +kernel | rfl | (constructor <;> first | decide +kernel | rfl)
  · refine ⟨(solo 0
        { updQ := [{ stamp := 0, r := { op := .amo .decw, lanes := [{ lane := 7, key := 0x7FFFC, b := 5 }], asker := .frame 0 3 7 1 }, src := 0 }] }),
        0,
        { stamp := 0, r := { op := .amo .decw, lanes := [{ lane := 7, key := 0x7FFFC, b := 5 }], asker := .frame 0 3 7 1 }, src := 0 },
        { lane := 7, key := 0x7FFFC, b := 5 }, 5, ?_, ?_, ?_, ?_, ?_, ?_, ?_⟩
    all_goals first | decide +kernel | exact ⟨0, 3, 7, 1, rfl⟩ | (constructor <;> first | decide +kernel | (intro x f hx hf; exact absurd (show none = some f from hf) nofun) | (intro x f hf; exact absurd (show none = some f from hf) nofun))

theorem witness_answers_reach_their_askers :
  (∃ (s : State), ∃ n m a c x f w v l, arrived s n = some m ∧ m.body = .answer a ∧ a.asker = .frame c x f.serial w.slot ∧ a.cause =
    none ∧ a.vals = [(l, v)] ∧ a.taken = [] ∧ (ctxOf s c x).frame = some f ∧ f.waits = [w] ∧ w.left = [l] ∧ w.overlay = [] ∧ w.ext
    = .word ∧ w.lsid = none ∧ (deliver { f with waits := [] } (slotAddr f w.slot) w.slot w.t0 (Lanes.ofFn fun i => if i = l then
    some v else w.got.get i)).isOk = true) ∧
  (∃ (s : State), ∃ n m a c x i, arrived s n = some m ∧ m.body = .answer a ∧ a.asker = .entry c x i ∧ a.cause = none ∧ (Tbl.get {}
    (ctxOf s c x).pend i : Entry).st = .opened ∧ (Tbl.get {} (ctxOf s c x).pend i : Entry).left = 1 ∧ (Tbl.get {} (ctxOf s c
    x).pend i : Entry).cause = none ∧ (ctxOf s c x).st ≠ .saved ∧ (cellOf s c).savedPoint = false ∧ (cellOf s c).sister = none) ∧
  (∃ (s : State), ∃ n m a c x i k, arrived s n = some m ∧ m.body = .answer a ∧ a.asker = .entry c x i ∧ a.cause = some k ∧ (Tbl.get
    {} (ctxOf s c x).pend i : Entry).st = .opened ∧ (Tbl.get {} (ctxOf s c x).pend i : Entry).left = 1 ∧ (Tbl.get {} (ctxOf s c
    x).pend i : Entry).cause = none ∧ (ctxOf s c x).st ≠ .saved ∧ (cellOf s c).savedPoint = false ∧ (cellOf s c).sister = none) ∧
  (∃ (s : State) (n : Nat) (m : Msg) (r : MemReq), s.net[n]? = some m ∧ m.body = .mem r ∧ m.wait ≠ 0 ∧ staleFrame s r.asker =
    false) ∧
  (∃ (s : State), ∃ c x n w m rest, (ctxOf s c x).winsets = (n, w, m) :: rest ∧ x < 4 ∧ coreActs s c = true ∧ (ctxOf s c x).frame =
    none ∧ (ctxOf s c x).st ≠ .saved) := by
  refine ⟨?_, ?_, ?_, ?_, ?_⟩
  · refine ⟨(mail 1 0 1 (.answer { asker := .frame 0 3 3 1, vals := [(7, 5)] }) (bench 0 3 {} {}
        ({ blk (.ldw ⟨.always, 31, 0, .w 63⟩) with waits := [{ slot := 1, left := [7], got := Val.allNull, ext := .word, t0 := .w 63, lsid := none }] }))),
        0, { src := 1, dst := 0, at_ := 0, vc := 1, body := .answer { asker := .frame 0 3 3 1, vals := [(7, 5)] } },
        { asker := .frame 0 3 3 1, vals := [(7, 5)] }, 0, 3,
        { blk (.ldw ⟨.always, 31, 0, .w 63⟩) with waits := [{ slot := 1, left := [7], got := Val.allNull, ext := .word, t0 := .w 63, lsid := none }] },
        { slot := 1, left := [7], got := Val.allNull, ext := .word, t0 := .w 63, lsid := none }, 5, 7, ?_, ?_, ?_, ?_, ?_, ?_, ?_,
        ?_, ?_, ?_, ?_, ?_, ?_⟩
    all_goals first | decide +kernel | rfl | (constructor <;> first | decide +kernel | rfl)
  · refine ⟨(mail 1 0 1 (.answer { asker := .entry 0 3 31 }) (soloCtx 0 3 { pend := [(31, { st := .opened, left := 1 })] } {})),
        0, { src := 1, dst := 0, at_ := 0, vc := 1, body := .answer { asker := .entry 0 3 31 } }, { asker := .entry 0 3 31 }, 0, 3,
        31, ?_, ?_, ?_, ?_, ?_, ?_, ?_, ?_, ?_, ?_⟩
    all_goals first | decide +kernel | rfl | (constructor <;> first | decide +kernel | rfl)
  · refine ⟨(mail 1 0 1 (.answer { asker := .entry 0 3 31, cause := some .bounds }) (soloCtx 0 3
        { pend := [(31, { st := .opened, left := 1 })] } {})), 0,
        { src := 1, dst := 0, at_ := 0, vc := 1, body := .answer { asker := .entry 0 3 31, cause := some .bounds } },
        { asker := .entry 0 3 31, cause := some .bounds }, 0, 3, 31, .bounds, ?_, ?_, ?_, ?_, ?_, ?_, ?_, ?_, ?_, ?_⟩
    all_goals first | decide +kernel | rfl | (constructor <;> first | decide +kernel | rfl)
  · refine
        ⟨{ solo 0 {} with net := [{ src := 1, dst := 0, at_ := 1, vc := 0, wait := 4096, backoff := 2048, body := .mem { op := .load, lanes := [{ lane := 0, key := 0 }], asker := .nobody } }] },
        0,
        { src := 1, dst := 0, at_ := 1, vc := 0, wait := 4096, backoff := 2048, body := .mem { op := .load, lanes := [{ lane := 0, key := 0 }], asker := .nobody } },
        { op := .load, lanes := [{ lane := 0, key := 0 }], asker := .nobody }, ?_, ?_, ?_, ?_⟩
    all_goals first | decide +kernel | rfl | (constructor <;> first | decide +kernel | rfl)
  · refine ⟨(soloCtx 0 3
        { winsets := [(15, { w0 := 0x80000000 }, { fn := 42, sub := 0, addr := 0, b := 0, core := 0, reply := 0 })] } {}), 0, 3,
        15, { w0 := 0x80000000 }, { fn := 42, sub := 0, addr := 0, b := 0, core := 0, reply := 0 }, [], ?_, ?_, ?_, ?_, ?_⟩
    all_goals first | decide +kernel | rfl | (constructor <;> first | decide +kernel | rfl)

theorem witness_commit_acts_on_streams :
  (∃ (s : State), ∃ c x f h e n a, OneEffect s c x f h e ∧ e.act = .sdef n a ∧ n < 4 ∧ ((unitAt s c n).st = .idle ∨ ((unitAt s c
    n).st = .loaded ∧ (unitAt s c n).owner = x)) ∧ a.toNat % 32 = 0 ∧ a.toNat + 32 ≤ progEnd s c ∧ spanBad s c a.toNat 32 = none ∧
    descBad s c x n ((List.range 8).map fun i => memWord s (sramKey c (a.toNat + 4 * i))) = false) ∧
  (∃ (s : State), ∃ c x f h e n, OneEffect s c x f h e ∧ e.act = .sgo n false ∧ n < 4 ∧ ((unitAt s c n).st = .loaded ∨ (unitAt s c
    n).st = .held) ∧ (unitAt s c n).owner = x ∧ descBad s c x n (unitAt s c n).desc = false) ∧
  (∃ (s : State), ∃ c x f h e n, OneEffect s c x f h e ∧ e.act = .sgo n true ∧ n < 4 ∧ (unitAt s c n).st = .held ∧ (unitAt s c
    n).owner = x ∧ descBad s c x n (unitAt s c n).desc = false) ∧
  (∃ (s : State), ∃ c x f h e n rel, OneEffect s c x f h e ∧ e.act = .sstop n rel ∧ n < 4 ∧ (unitAt s c n).owner = x ∧ ((unitAt s c
    n).st = .armed ∨ (unitAt s c n).st = .running) ∧ (unitAt s c n).asked = [] ∧ (word7 (unitAt s c n)).extractLsb' 14 2 = 2) ∧
  (∃ (s : State), ∃ c x f h e n rel, OneEffect s c x f h e ∧ e.act = .sstop n rel ∧ n < 4 ∧ (unitAt s c n).owner = x ∧ ((unitAt s c
    n).st = .loaded ∨ (unitAt s c n).st = .held)) ∧
  (∃ (s : State), ∃ c x f h e n alt, OneEffect s c x f h e ∧ e.act = .scond n alt ∧ n < 4 ∧ (unitAt s c n).st = .loaded ∧ (unitAt s
    c n).owner = x ∧ descBad s c x n (unitAt s c n).desc = false) ∧
  (∃ (s : State), ∃ c x f h e n w d, OneEffect s c x f h e ∧ e.act = .sfmt n w ∧ n < 4 ∧ ((unitAt s c n).st = .loaded ∨ (unitAt s c
    n).st = .held) ∧ (unitAt s c n).owner = x ∧ (unitAt s c n).desc.length = 8 ∧ d = (unitAt s c n).desc.set 5 w ∧ descBad s c x n
    d = false) ∧
  (∃ (s : State), ∃ c x f h e n r alt w, OneEffect s c x f h e ∧ e.slot < 128 ∧ (e.act = .sgo n r ∨ e.act = .sstop n r ∨ e.act =
    .scond n alt ∨ e.act = .sfmt n w) ∧ n < 4 ∧ (unitAt s c n).st ≠ .idle ∧ (unitAt s c n).owner ≠ x) ∧
  (∃ (s : State), ∃ c x f h e n r alt w, OneEffect s c x f h e ∧ e.slot < 128 ∧ (e.act = .sgo n r ∨ e.act = .sstop n r ∨ e.act =
    .scond n alt ∨ e.act = .sfmt n w) ∧ n < 4 ∧ (unitAt s c n).st = .idle) ∧
  (∃ (s : State), ∃ c x f h e n a, OneEffect s c x f h e ∧ e.slot < 128 ∧ e.act = .sdef n a ∧ n < 4 ∧ (unitAt s c n).st ≠ .idle ∧
    ((unitAt s c n).owner ≠ x ∨ (unitAt s c n).st ≠ .loaded)) := by
  refine ⟨?_, ?_, ?_, ?_, ?_, ?_, ?_, ?_, ?_, ?_⟩
  · refine
        ⟨{ (bench 0 3 { near 0 with chans := [(63, 0x800007FF)] } {} (over_ (.goto 0x10) [{ lsid := 31, slot := 1, act := .sdef 1 32 }] [])) with mem := [(32, 252), (36, 1), (40, 1), (44, 1), (48, 1), (52, 17), (56, 252), (58, 64)] },
        0, 3, (over_ (.goto 0x10) [{ lsid := 31, slot := 1, act := .sdef 1 32 }] []), 0x10,
        { lsid := 31, slot := 1, act := .sdef 1 32 }, 1, 32, ⟨finished (by decide +kernel), rfl, rfl⟩, ?_, ?_, ?_, ?_, ?_, ?_, ?_⟩
    all_goals first | decide +kernel | exact .inl rfl
  · refine ⟨(bench 0 3 { near 0 with chans := [(63, 0x800007FF)] }
        { units := [(0, { st := .loaded, owner := 3, desc := [252, 1, 1, 1, 1, 17, 0x4000FC, 0x40] })] } (over_ (.goto 0x10)
        [{ lsid := 31, slot := 1, act := .sgo 0 false }] [])), 0, 3, (over_ (.goto 0x10)
        [{ lsid := 31, slot := 1, act := .sgo 0 false }] []), 0x10, { lsid := 31, slot := 1, act := .sgo 0 false }, 0, ⟨finished
        (by decide +kernel), rfl, rfl⟩, ?_, ?_, ?_, ?_, ?_⟩
    all_goals first | decide +kernel | exact .inl rfl
  · refine ⟨(bench 0 3 { near 0 with chans := [(63, 0x800007FF)] }
        { units := [(1, { st := .held, owner := 3, desc := [252, 1, 1, 1, 1, 17, 0x4000FC, 0] })] } (over_ (.goto 0x10)
        [{ lsid := 31, slot := 1, act := .sgo 1 true }] [])), 0, 3, (over_ (.goto 0x10)
        [{ lsid := 31, slot := 1, act := .sgo 1 true }] []), 0x10, { lsid := 31, slot := 1, act := .sgo 1 true }, 1, ⟨finished (by
        decide +kernel), rfl, rfl⟩, ?_, ?_, ?_, ?_, ?_⟩
    all_goals first | decide +kernel | rfl | (constructor <;> first | decide +kernel | rfl)
  · refine ⟨(bench 0 3 { near 0 with chans := [(63, 0x800007FF)] }
        { units := [(0, { st := .running, owner := 3, desc := [252, 1, 1, 1, 1, 17, 0x4000FC, 0x8000] })] } (over_ (.goto 0x10)
        [{ lsid := 31, slot := 1, act := .sstop 0 true }] [])), 0, 3, (over_ (.goto 0x10)
        [{ lsid := 31, slot := 1, act := .sstop 0 true }] []), 0x10, { lsid := 31, slot := 1, act := .sstop 0 true }, 0, true,
        ⟨finished (by decide +kernel), rfl, rfl⟩, ?_, ?_, ?_, ?_, ?_, ?_⟩
    all_goals first | decide +kernel | exact .inr rfl
  · refine ⟨(bench 0 3 { near 0 with chans := [(63, 0x800007FF)] }
        { units := [(3, { st := .held, owner := 3, desc := [252, 1, 1, 1, 1, 17, 0x4000FC, 0] })] } (over_ (.goto 0x10)
        [{ lsid := 31, slot := 1, act := .sstop 3 false }] [])), 0, 3, (over_ (.goto 0x10)
        [{ lsid := 31, slot := 1, act := .sstop 3 false }] []), 0x10, { lsid := 31, slot := 1, act := .sstop 3 false }, 3, false,
        ⟨finished (by decide +kernel), rfl, rfl⟩, ?_, ?_, ?_, ?_⟩
    all_goals first | decide +kernel | exact .inr rfl
  · refine ⟨(bench 0 3 { near 0 with chans := [(63, 0x800007FF)] }
        { units := [(1, { st := .loaded, owner := 3, desc := [252, 1, 1, 1, 1, 17, 0x4000FC, 0] })] } (over_ (.goto 0x10)
        [{ lsid := 31, slot := 1, act := .scond 1 62 }] [])), 0, 3, (over_ (.goto 0x10)
        [{ lsid := 31, slot := 1, act := .scond 1 62 }] []), 0x10, { lsid := 31, slot := 1, act := .scond 1 62 }, 1, 62, ⟨finished
        (by decide +kernel), rfl, rfl⟩, ?_, ?_, ?_, ?_, ?_⟩
    all_goals first | decide +kernel | rfl | (constructor <;> first | decide +kernel | rfl)
  · refine ⟨(bench 0 3 { near 0 with chans := [(63, 0x800007FF)] }
        { units := [(0, { st := .loaded, owner := 3, desc := [252, 1, 1, 1, 1, 17, 0x4000FC, 0] })] } (over_ (.goto 0x10)
        [{ lsid := 31, slot := 1, act := .sfmt 0 0x811 }] [])), 0, 3, (over_ (.goto 0x10)
        [{ lsid := 31, slot := 1, act := .sfmt 0 0x811 }] []), 0x10, { lsid := 31, slot := 1, act := .sfmt 0 0x811 }, 0, 0x811,
        [252, 1, 1, 1, 1, 0x811, 0x4000FC, 0], ⟨finished (by decide +kernel), rfl, rfl⟩, ?_, ?_, ?_, ?_, ?_, ?_, ?_⟩
    all_goals first | decide +kernel | exact .inl rfl
  · refine ⟨(bench 0 3 { near 0 with chans := [(63, 0x800007FF)] }
        { units := [(3, { st := .loaded, owner := 2, desc := [252, 1, 1, 1, 1, 17, 0x4000FC, 0] })] } (over_ (.goto 0x10)
        [{ lsid := 31, slot := 1, act := .scond 3 63 }] [])), 0, 3, (over_ (.goto 0x10)
        [{ lsid := 31, slot := 1, act := .scond 3 63 }] []), 0x10, { lsid := 31, slot := 1, act := .scond 3 63 }, 3, true, 63, 0,
        ⟨finished (by decide +kernel), rfl, rfl⟩, ?_, ?_, ?_, ?_, ?_⟩
    all_goals first | decide +kernel | exact .inr (.inr (.inl rfl))
  · refine ⟨(bench 0 3 {} {} (over_ (.goto 0x10) [{ lsid := 31, slot := 1, act := .sgo 0 true }] [])), 0, 3, (over_ (.goto 0x10)
        [{ lsid := 31, slot := 1, act := .sgo 0 true }] []), 0x10, { lsid := 31, slot := 1, act := .sgo 0 true }, 0, true, 0, 0,
        ⟨finished (by decide +kernel), rfl, rfl⟩, ?_, ?_, ?_, ?_⟩
    all_goals first | decide +kernel | exact .inl rfl
  · refine ⟨(bench 0 3 { near 0 with chans := [(63, 0x800007FF)] }
        { units := [(3, { st := .held, owner := 3, desc := [252, 1, 1, 1, 1, 17, 0x4000FC, 0] })] } (over_ (.goto 0x10)
        [{ lsid := 31, slot := 1, act := .sdef 3 0 }] [])), 0, 3, (over_ (.goto 0x10) [{ lsid := 31, slot := 1, act := .sdef 3 0 }]
        []), 0x10, { lsid := 31, slot := 1, act := .sdef 3 0 }, 3, 0, ⟨finished (by decide +kernel), rfl, rfl⟩, ?_, ?_, ?_, ?_, ?_⟩
    all_goals first | decide +kernel | exact .inr (by decide +kernel)

theorem witness_stream_units_advance :
  (∃ (s : State), ∃ c n, n < 4 ∧ coreActs s c = true ∧ (unitAt s c n).queued = true ∧ (unitAt s c n).holdOn = [] ∧ (unitAt s c
    n).late = none) ∧
  (∃ (s : State), ∃ c n ch, n < 4 ∧ coreActs s c = true ∧ (unitAt s c n).st = .armed ∧ (unitAt s c n).queued = false ∧ ch =
    (((unitAt s c n).desc[7]?.getD 0).extractLsb' 0 6).toNat ∧ 0 < pulseCount s c ch) ∧
  (∃ (s : State), ∃ c n ch alt, n < 4 ∧ coreActs s c = true ∧ (unitAt s c n).st = .armed ∧ (unitAt s c n).queued = false ∧ (unitAt
    s c n).alt = some alt ∧ ch = (((unitAt s c n).desc[7]?.getD 0).extractLsb' 0 6).toNat ∧ pulseCount s c ch = 0 ∧ 0 < pulseCount
    s c alt ∧ ((unitAt s c n).desc[7]?.getD 0).extractLsb' 14 2 = 0) ∧
  (∃ (s : State), ∃ c n base k w, (n = 2 ∨ n = 3) ∧ coreActs s c = true ∧ Memory.wf s.mem = true ∧ oneWord (unitAt s c n) base 1 ∧
    (unitAt s c n).pending = [some w] ∧ InSram s c (unitAt s c n) base k) ∧
  (∃ (s : State), ∃ c n base k tkind, (n = 0 ∨ n = 1) ∧ coreActs s c = true ∧ oneWord (unitAt s c n) base tkind ∧ (unitAt s c
    n).ahead = [] ∧ InSram s c (unitAt s c n) base k) ∧
  (∃ (s : State), ∃ c n base w ch, (n = 0 ∨ n = 1) ∧ coreActs s c = true ∧ oneWord (unitAt s c n) base 0 ∧ (unitAt s c n).sent = 0
    ∧ (unitAt s c n).ahead = [((w : Word).toNat, none)] ∧ (cellOf s c).slot = none ∧ ch = (Tbl.get 0 (ctxOf s c (unitAt s c
    n).owner).chans (((unitAt s c n).desc[6]?.getD 0).extractLsb' 2 8).toNat : Word)) ∧
  (∃ (s : State), ∃ c n, (n = 2 ∨ n = 3) ∧ coreActs s c = true ∧ (unitAt s c n).st = .running ∧ (unitAt s c n).queued = false ∧
    descTotal (unitAt s c n).desc ≤ (unitAt s c n).next ∧ (unitAt s c n).asked = [] ∧ (unitAt s c n).late = none ∧ (unitAt s c
    n).refused = none ∧ ((unitAt s c n).desc[7]?.getD 0).extractLsb' 14 2 = 1) := by
  refine ⟨?_, ?_, ?_, ?_, ?_, ?_, ?_⟩
  · refine ⟨(solo 0 { units := [(3, { queued := true, st := .running })] }), 0, 3, ?_, ?_, ?_, ?_, ?_⟩
    all_goals first | decide +kernel | rfl | (constructor <;> first | decide +kernel | rfl)
  · refine ⟨(solo 0 { units := [(3, { st := .armed, desc := [0, 0, 0, 0, 0, 0, 0, 63] })], pulses := [(63, 15)] }), 0, 3, 63, ?_,
        ?_, ?_, ?_, ?_, ?_⟩
    all_goals first | decide +kernel | rfl | (constructor <;> first | decide +kernel | rfl)
  · refine ⟨(solo 0
        { units := [(0, { st := .armed, alt := some 62, desc := [0, 0, 0, 0, 0, 0, 0, 63] })], pulses := [(62, 1)] }), 0, 0, 63,
        62, ?_, ?_, ?_, ?_, ?_, ?_, ?_, ?_, ?_⟩
    all_goals first | decide +kernel | rfl | (constructor <;> first | decide +kernel | rfl)
  · refine ⟨(soloCtx 0 3 (near 0)
        { units := [(3, { st := .running, owner := 3, desc := [252, 1, 1, 1, 1, 17, 1, 0], pending := [some 5] })] }), 0, 3, 252,
        252, 5, ?_, ?_, ?_, one_word (by decide +kernel), ?_, ?_⟩
    all_goals first | decide +kernel | rfl | (constructor <;> first | decide +kernel | rfl)
  · refine ⟨(soloCtx 0 3 (near 0) { units := [(1, { st := .running, owner := 3, desc := [252, 1, 1, 1, 1, 17, 0, 0] })] }), 0, 1,
        252, 252, 0, ?_, ?_, one_word (by decide +kernel), ?_, ?_⟩
    all_goals first | decide +kernel | rfl | (constructor <;> first | decide +kernel | rfl)
  · refine ⟨(soloCtx 0 3 (near 0)
        { units := [(1, { st := .running, owner := 3, ahead := [(5, none)], desc := [252, 1, 1, 1, 1, 17, 0, 0] })] }), 0, 1, 252,
        5, 0, ?_, ?_, one_word (by decide +kernel), ?_, ?_, ?_, ?_⟩
    all_goals first | decide +kernel | rfl | (constructor <;> first | decide +kernel | rfl)
  · refine ⟨(solo 0 { units := [(2, { st := .running, next := 1, desc := [0, 1, 1, 1, 1, 17, 0, 0x4000] })] }), 0, 2, ?_, ?_, ?_,
        ?_, ?_, ?_, ?_, ?_, ?_⟩
    all_goals first | decide +kernel | rfl | (constructor <;> first | decide +kernel | rfl)

theorem witness_matrix_engine_advances :
  (∃ (s : State), ∃ c cmd q, coreActs s c = true ∧ (engineAt s c).queue = (cmd, []) :: q ∧ (engineAt s c).run = none ∧ (∀ a n, cmd
    ≠ .clear a n)) ∧
  (∃ (s : State), ∃ c a n q, coreActs s c = true ∧ (engineAt s c).queue = (.clear a n, []) :: q ∧ (engineAt s c).run = none ∧
    (engineAt s c).recomb = [] ∧ (engineAt s c).cfg.getLsbD 3 = false) ∧
  (∃ (s : State), ∃ c bank key ea, coreActs s c = true ∧ mxOpen s c = true ∧ Int8 (engineAt s c) ∧ (engineAt s c).run = some
    { cmd := .load bank false key ea } ∧ (∀ i, i < 32 → isBad s (key + 4 * i) = false)) ∧
  (∃ (s : State), ∃ c w, ∃ (xs bs : List Int), ∃ rest n src fed, coreActs s c = true ∧ mxOpen s c = true ∧ Int8 (engineAt s c) ∧
    (engineAt s c).run = some { cmd := .run w, next := n } ∧ n < (w.extractLsb' 0 7).toNat + 1 ∧ w.getLsbD 13 = false ∧ (engineAt s
    c).ready0 = true ∧ (engineAt s c).bank0 = bs.map intEl ∧ (engineAt s c).arows =
    { els := xs.map intEl, full := true, src := src, fed := fed } :: rest ∧ xs.length = 8 ∧ bs.length = 128) ∧
  (∃ (s : State), ∃ c w key ea, coreActs s c = true ∧ mxOpen s c = true ∧ Memory.wf s.mem = true ∧ Int8 (engineAt s c) ∧ (engineAt
    s c).late = none ∧ (engineAt s c).run = some { cmd := .out w key ea false } ∧ w.extractLsb' 13 2 = 0 ∧ w.extractLsb' 15 2 = 1 ∧
    w.extractLsb' 6 7 = 0 ∧ w.getLsbD 17 = false ∧ keyIsLoft key = false ∧ key % 4 = 0 ∧ keyIsLoft (key + 64) = false) := by
  refine ⟨?_, ?_, ?_, ?_, ?_⟩
  · refine ⟨(solo 0 { mx := { queue := [(.run 0, [])] } }), 0, .run 0, [], ?_, ?_, ?_, ?_⟩
    all_goals first | decide +kernel | exact fun _ _ h => nomatch h
  · refine ⟨(solo 0 { mx := { queue := [(.clear 63 1, [])] } }), 0, 63, 1, [], ?_, ?_, ?_, ?_, ?_⟩
    all_goals first | decide +kernel | rfl | (constructor <;> first | decide +kernel | rfl)
  · refine ⟨(solo 0 { mx := { cfg := 0xE002, run := some { cmd := .load 1 false 0x7FF80 0 } } }), 0, 1, 0x7FF80, 0, ?_, ?_, ?_,
        ?_, ?_⟩
    all_goals first | decide +kernel | rfl | (constructor <;> first | decide +kernel | rfl)
  · refine ⟨(solo 0
        { mx := { cfg := 0xE002, ready0 := true, bank0 := (List.replicate 128 (-128 : Int)).map intEl, arows := [{ els := (List.replicate 8 (-128 : Int)).map intEl, full := true }], run := some { cmd := .run 0x1F80 } } }),
        0, 0x1F80, List.replicate 8 (-128), List.replicate 128 (-128), [], 0, none, 0, ?_, ?_, ?_, ?_, ?_, ?_, ?_, ?_, ?_, ?_, ?_⟩
    all_goals first | decide +kernel | rfl | (constructor <;> first | decide +kernel | rfl)
  · refine ⟨(solo 0 { mx := { cfg := 0xE002, run := some { cmd := .out 0x803F 0x7FF80 0 false } } }), 0, 0x803F, 0x7FF80, 0, ?_,
        ?_, ?_, ?_, ?_, ?_, ?_, ?_, ?_, ?_, ?_, ?_, ?_⟩
    all_goals first | decide +kernel | rfl | (constructor <;> first | decide +kernel | rfl)

theorem witness_matrix_modes_accumulate :
  (∃ (s : State), ∃ c m w n b r rest row, m = engineAt s c ∧ Fires s c w n b ∧ (w.getLsbD 15 = true ∨ m.cfg.getLsbD 3 = false) ∧ n
    < (w.extractLsb' 0 7).toNat + 1 ∧ row = (w.extractLsb' 7 6).toNat + n ∧ depthOf m % 8 = 0 ∧ m.arows = r :: rest ∧ FullRow m r ∧
    (w.getLsbD 14 = true ∨ (Tbl.get (m.cfg.getLsbD 3) m.recomb row = false ∧ ∀ col, col < 16 → Tbl.get [] m.grp (row * 16 + col) =
    [] ∧ Bounded (modeOf m) (Tbl.get elZero m.acc (row * 16 + col))))) ∧
  (∃ (s : State), ∃ c m w n b r0 r1 t i, m = engineAt s c ∧ Fires s c w n b ∧ w.getLsbD 15 = false ∧ m.cfg.getLsbD 3 = true ∧
    (modeOf m).toNat < 3 ∧ 2 * n < (w.extractLsb' 0 7).toNat + 1 ∧ t = (w.extractLsb' 7 6).toNat / 32 + n / 8 ∧ i = n % 8 ∧
    m.arows[0]? = some r0 ∧ m.arows[8 - i]? = some r1 ∧ FullRow m r0 ∧ FullRow m r1 ∧ (w.getLsbD 14 = true ∨ (Tbl.get true m.recomb
    (32 * t + i) = true ∧ Tbl.get true m.recomb (32 * t + i + 8) = true ∧ ∀ j k, j < 8 → 1 ≤ k → k ≤ 7 → Bounded (modeOf m) (mAcc m
    t i j k)))) ∧
  (∃ (s : State), ∃ c m w key ea row, m = engineAt s c ∧ coreActs s c = true ∧ mxOpen s c = true ∧ Memory.wf s.mem = true ∧ m.late
    = none ∧ m.run = some { cmd := .out w key ea false } ∧ w.extractLsb' 13 2 = 0 ∧ w.extractLsb' 15 2 = 0 ∧ w.extractLsb' 6 7 = 0
    ∧ w.getLsbD 17 = false ∧ keyIsLoft key = false ∧ key % 4 = 0 ∧ keyIsLoft (key + 64) = false ∧ row = (w.extractLsb' 0 6).toNat ∧
    Tbl.get (m.cfg.getLsbD 3) m.recomb row = false ∧ (∀ col, col < 16 → Tbl.get [] m.grp (row * 16 + col) = [])) ∧
  (∃ (s : State), ∃ c m w key ea row, m = engineAt s c ∧ coreActs s c = true ∧ mxOpen s c = true ∧ Memory.wf s.mem = true ∧ m.late
    = none ∧ m.run = some { cmd := .out w key ea false } ∧ w.extractLsb' 13 2 = 0 ∧ w.extractLsb' 15 2 = 0 ∧ w.extractLsb' 6 7 = 0
    ∧ w.getLsbD 17 = false ∧ keyIsLoft key = false ∧ key % 4 = 0 ∧ keyIsLoft (key + 64) = false ∧ row = (w.extractLsb' 0 6).toNat ∧
    row % 32 < 16 ∧ Tbl.get (m.cfg.getLsbD 3) m.recomb row = true ∧ (∀ col, col < 16 → m.side.any (fun p => p.1 == row * 16 + col)
    = false) ∧ (∀ j k, j < 8 → 1 ≤ k → k ≤ 7 → Bounded (modeOf m) (mAcc m (row / 32) (row % 8) j k))) ∧
  (∃ (s : State), ∃ c m bank key ea, m = engineAt s c ∧ coreActs s c = true ∧ mxOpen s c = true ∧ modeOf m = 0 ∧ m.run = some
    { cmd := .load bank false key ea } ∧ (∀ i, i < depthOf m * 32 → isBad s (key + i) = false)) := by
  refine ⟨?_, ?_, ?_, ?_, ?_⟩
  · refine ⟨(solo 0
        { mx := { cfg := 0xE000, ready1 := true, bank1 := (List.replicate 128 (intEl 1)), arows := [{ els := List.replicate 8 (intEl 1), full := true }], run := some { cmd := .run 0x3F80 } } }),
        0, (engineAt (solo 0
        { mx := { cfg := 0xE000, ready1 := true, bank1 := (List.replicate 128 (intEl 1)), arows := [{ els := List.replicate 8 (intEl 1), full := true }], run := some { cmd := .run 0x3F80 } } })
        0), 0x3F80, 0, (List.replicate 128 (intEl 1)), { els := List.replicate 8 (intEl 1), full := true }, [], 63, rfl, ⟨by
        decide +kernel, by decide +kernel, ⟨0, none, [], rfl⟩, by decide +kernel, by decide +kernel, by decide +kernel, all_same
        holds_one⟩, ?_, ?_, ?_, ?_, ?_, ⟨rfl, by decide +kernel, all_same holds_one⟩, ?_⟩
    all_goals first | decide +kernel | exact .inr (by decide +kernel) | exact .inr ⟨by decide +kernel, fun col _ => ⟨rfl, bounded_zero⟩⟩
  · refine ⟨(solo 0
        { mx := { cfg := 0xE008, ready0 := true, bank0 := (List.replicate 128 (intEl 1)), arows := List.replicate 9 { els := List.replicate 8 (intEl 1), full := true }, run := some { cmd := .run 0x400F } } }),
        0, (engineAt (solo 0
        { mx := { cfg := 0xE008, ready0 := true, bank0 := (List.replicate 128 (intEl 1)), arows := List.replicate 9 { els := List.replicate 8 (intEl 1), full := true }, run := some { cmd := .run 0x400F } } })
        0), 0x400F, 0, (List.replicate 128 (intEl 1)), { els := List.replicate 8 (intEl 1), full := true },
        { els := List.replicate 8 (intEl 1), full := true }, 0, 0, rfl, ⟨by decide +kernel, by decide +kernel, ⟨0, none, [], rfl⟩,
        by decide +kernel, by decide +kernel, by decide +kernel, all_same holds_one⟩, ?_, ?_, ?_, ?_, ?_, ?_, ?_, ?_, ⟨rfl, by
        decide +kernel, all_same holds_one⟩, ⟨rfl, by decide +kernel, all_same holds_one⟩, .inl (by decide +kernel)⟩
    all_goals first | decide +kernel | rfl | (constructor <;> first | decide +kernel | rfl)
  · refine ⟨(solo 0 { mx := { cfg := 0xE000, run := some { cmd := .out 0x3F 0x7FF80 0 false } } }), 0, (engineAt (solo 0
        { mx := { cfg := 0xE000, run := some { cmd := .out 0x3F 0x7FF80 0 false } } }) 0), 0x3F, 0x7FF80, 0, 63, rfl, ?_, ?_, ?_,
        ?_, ?_, ?_, ?_, ?_, ?_, ?_, ?_, ?_, ?_, ?_, ?_⟩
    all_goals first | decide +kernel | rfl | (constructor <;> first | decide +kernel | rfl)
  · refine ⟨(solo 0 { mx := { cfg := 0xE008, run := some { cmd := .out 47 0x7FF80 0 false } } }), 0, (engineAt (solo 0
        { mx := { cfg := 0xE008, run := some { cmd := .out 47 0x7FF80 0 false } } }) 0), 47, 0x7FF80, 0, 47, rfl, ?_, ?_, ?_, ?_,
        ?_, ?_, ?_, ?_, ?_, ?_, ?_, ?_, ?_, ?_, ?_, ?_, fun _ _ _ _ _ => bounded_zero⟩
    all_goals first | decide +kernel | rfl | (constructor <;> first | decide +kernel | rfl)
  · refine ⟨(solo 0 { mx := { cfg := 0xE000, run := some { cmd := .load 1 false 0x7FE00 0 } } }), 0, (engineAt (solo 0
        { mx := { cfg := 0xE000, run := some { cmd := .load 1 false 0x7FE00 0 } } }) 0), 1, 0x7FE00, 0, rfl, ?_, ?_, ?_, ?_, ?_⟩
    all_goals first | decide +kernel | rfl | (constructor <;> first | decide +kernel | rfl)

theorem witness_tokens_and_signals_arrive :
  (∃ (s : State), ∃ n m t a, Came s n m (.token t a) ∧ t.tag < 256 ∧ t.tuple = none ∧ t.port = 0 ∧ TakesOne s m.dst t.tag t.itag) ∧
  (∃ (s : State), ∃ n m t a, let b := (bindingAt s m.dst t.tag); Came s n m (.token t a) ∧ t.tag < 256 ∧ t.tuple = none ∧ b.getLsbD
    31 = true ∧ b.extractLsb' 26 2 ≠ 0 ∧ t.port ≤ (b.extractLsb' 26 2).toNat ∧ (∀ g ∈ (coreOf s m.dst).kills, ¬ Removes g b t.itag)
    ∧ (∀ j ∈ (coreOf s m.dst).joins, j.tag = t.tag → j.itag = t.itag → j.solo = true) ∧ (coreOf s m.dst).joins.length < 64) ∧
  (∃ (s : State), ∃ n m t a, let b := (bindingAt s m.dst t.tag); Came s n m (.token t a) ∧ t.tag < 256 ∧ t.tuple = none ∧ t.src =
    none ∧ (b.getLsbD 31 = false ∨ (b.extractLsb' 26 2).toNat < t.port ∨ ∃ g ∈ (coreOf s m.dst).kills, Removes g b t.itag)) ∧
  (∃ (s : State), ∃ n m x l e d a, Came s n m (.killSet x l e d a)) ∧
  (∃ (s : State), ∃ n m x l a, Came s n m (.killClear x l a)) ∧
  (∃ (s : State), ∃ n m ch a, Came s n m (.pulse ch a) ∧ pulseCount s m.dst ch ≤ 15) ∧
  (∃ (s : State), ∃ n m west v, Came s n m (.link west v) ∧ (coreOf s m.dst).mx.owner = none ∧ (if west then (coreOf s m.dst).linkW
    else (coreOf s m.dst).linkN).length < 8) := by
  refine ⟨?_, ?_, ?_, ?_, ?_, ?_, ?_⟩
  · refine ⟨(mail 1 0 0 (.token { tag := 255, itag := 0x3F, lanes := only 7 1 } .nobody) (place 0 0 1 1 (solo 0
        { bindings := [(255, 0xB180FFF0)] }))), 0,
        { src := 1, dst := 0, at_ := 0, vc := 0, body := .token { tag := 255, itag := 0x3F, lanes := only 7 1 } .nobody },
        { tag := 255, itag := 0x3F, lanes := only 7 1 }, .nobody, ⟨by decide +kernel, rfl, by decide +kernel, by decide +kernel, by
        decide +kernel⟩, ?_, ?_, ?_, ?_⟩
    all_goals first | decide +kernel | rfl | (constructor <;> first | decide +kernel | rfl)
  · refine ⟨(mail 1 0 0 (.token { tag := 0, itag := 0x3F, port := 3, lanes := only 7 1 } .nobody) (place 0 0 1 1 (solo 0
        { bindings := [(0, 0xBC000100)] }))), 0,
        { src := 1, dst := 0, at_ := 0, vc := 0, body := .token { tag := 0, itag := 0x3F, port := 3, lanes := only 7 1 } .nobody },
        { tag := 0, itag := 0x3F, port := 3, lanes := only 7 1 }, .nobody, ⟨by decide +kernel, rfl, by decide +kernel, by
        decide +kernel, by decide +kernel⟩, ?_, ?_, ?_, ?_, ?_, ?_, ?_, ?_⟩
    all_goals first | decide +kernel | rfl | (constructor <;> first | decide +kernel | rfl)
  · refine ⟨(mail 1 0 0 (.token { tag := 0, itag := 0x3F, port := 3, lanes := only 7 1 } (.entry 1 0 0)) (place 0 0 1 1 (solo 0
        { bindings := [(0, 0xB8000100)] }))), 0,
        { src := 1, dst := 0, at_ := 0, vc := 0, body := .token { tag := 0, itag := 0x3F, port := 3, lanes := only 7 1 } (.entry 1 0 0) },
        { tag := 0, itag := 0x3F, port := 3, lanes := only 7 1 }, .entry 1 0 0, ⟨by decide +kernel, rfl, by decide +kernel, by
        decide +kernel, by decide +kernel⟩, ?_, ?_, ?_, ?_⟩
    all_goals first | decide +kernel | (right; left; decide +kernel)
  · refine ⟨(mail 1 0 0 (.killSet 0 3 15 15 .nobody) (place 0 0 1 1 (solo 0 {}))), 0,
        { src := 1, dst := 0, at_ := 0, vc := 0, body := .killSet 0 3 15 15 .nobody }, 0, 3, 15, 15, .nobody, ?_⟩
    all_goals first | decide +kernel | rfl | (constructor <;> first | decide +kernel | rfl)
  · refine ⟨(mail 1 0 0 (.killClear 0 3 .nobody) (place 0 0 1 1 (solo 0 {}))), 0,
        { src := 1, dst := 0, at_ := 0, vc := 0, body := .killClear 0 3 .nobody }, 0, 3, .nobody, ?_⟩
    all_goals first | decide +kernel | rfl | (constructor <;> first | decide +kernel | rfl)
  · refine ⟨(mail 1 0 0 (.pulse 63 .nobody) (place 0 0 1 1 (solo 0 { pulses := [(63, 15)] }))), 0,
        { src := 1, dst := 0, at_ := 0, vc := 0, body := .pulse 63 .nobody }, 63, .nobody, ⟨by decide +kernel, rfl, by
        decide +kernel, by decide +kernel, by decide +kernel⟩, ?_⟩
    all_goals first | decide +kernel | rfl | (constructor <;> first | decide +kernel | rfl)
  · refine ⟨(mail 1 0 0 (.link true (all 1)) (place 0 0 1 1 (solo 0 { linkW := List.replicate 7 (all 2) }))), 0,
        { src := 1, dst := 0, at_ := 0, vc := 0, body := .link true (all 1) }, true, all 1, ⟨by decide +kernel, rfl, by
        decide +kernel, by decide +kernel, by decide +kernel⟩, ?_, ?_⟩
    all_goals first | decide +kernel | rfl | (constructor <;> first | decide +kernel | rfl)

theorem witness_barriers_count_at_their_home :
  (∃ (s : State), ∃ n m bn drop fl w x a, Came s n m (.barrier bn (.arrive drop fl) w x a) ∧ CountsArrival s m.dst bn m.src x ∧
    barWaits s m = false ∧ (barOf s m.dst bn).arr + 1 < (barOf s m.dst bn).e) ∧
  (∃ (s : State), ∃ n m bn drop fl w x a, let b := (barOf s m.dst bn); Came s n m (.barrier bn (.arrive drop fl) w x a) ∧
    CountsArrival s m.dst bn m.src x ∧ barWaits s m = false ∧ b.arr + 1 = b.e) ∧
  (∃ (s : State), ∃ n m bn drop fl w x a, Came s n m (.barrier bn (.arrive drop fl) w x a) ∧ a ≠ .nobody ∧ barWaits s m = false ∧
    ((barOf s m.dst bn).init = false ∨ (barOf s m.dst bn).arr = (barOf s m.dst bn).e ∨ ∃ r ∈ (coreOf s m.dst).recs, r.bn = bn ∧
    r.cell = m.src ∧ r.ctx = x)) ∧
  (∃ (s : State) (n : Nat) (m : Msg), ∃ bn drop fl w x a, s.net[n]? = some m ∧ m.body = .barrier bn (.arrive drop fl) w x a ∧
    m.wait ≠ 0) ∧
  (∃ (s : State), ∃ n m bn w h x a, Came s n m (.barrier bn (.init w) h x a) ∧ a ≠ .nobody ∧ barWaits s m = false ∧ (barOf s m.dst
    bn).arr = 0 ∧ 1 ≤ (w.extractLsb' 0 11).toNat ∧ (w.extractLsb' 0 11).toNat ≤ 1024) ∧
  (∃ (s : State), ∃ n m bn op k, ∃ (d : Int), ∃ h x a, Came s n m (.barrier bn op h x a) ∧ a ≠ .nobody ∧ ((op = .join k ∧ d = k) ∨
    (op = .leave k ∧ d = -k)) ∧ barWaits s m = false ∧ (barOf s m.dst bn).init = true ∧ 1 ≤ k ∧ k ≤ 1024 ∧ 1 ≤ ((barOf s m.dst
    bn).e : Int) + (barOf s m.dst bn).delta + d ∧ ((barOf s m.dst bn).e : Int) + (barOf s m.dst bn).delta + d ≤ 1024) := by
  refine ⟨?_, ?_, ?_, ?_, ?_, ?_⟩
  · refine ⟨(mail 1 0 0 (.barrier 95 (.arrive true (some 0x3F)) 0 3 .nobody) (place 0 0 1 1 (solo 0
        { bars := [(95, { init := true, e := 1024 })], recs := [] }))), 0,
        { src := 1, dst := 0, at_ := 0, vc := 0, body := .barrier 95 (.arrive true (some 0x3F)) 0 3 .nobody }, 95, true, some 0x3F,
        0, 3, .nobody, ⟨by decide +kernel, rfl, by decide +kernel, by decide +kernel, by decide +kernel⟩, ?_, ?_, ?_⟩
    all_goals first | decide +kernel | rfl | (constructor <;> first | decide +kernel | rfl)
  · refine ⟨(mail 1 0 0 (.barrier 95 (.arrive false none) 0 3 .nobody) (place 0 0 1 1 (solo 0
        { bars := [(95, { init := true, e := 1024, arr := 1023 })], recs := [] }))), 0,
        { src := 1, dst := 0, at_ := 0, vc := 0, body := .barrier 95 (.arrive false none) 0 3 .nobody }, 95, false, none, 0, 3,
        .nobody, ⟨by decide +kernel, rfl, by decide +kernel, by decide +kernel, by decide +kernel⟩, ?_, ?_, ?_⟩
    all_goals first | decide +kernel | rfl | (constructor <;> first | decide +kernel | rfl)
  · refine ⟨(mail 1 0 0 (.barrier 95 (.arrive false none) 0 3 (.entry 1 3 0)) (place 0 0 1 1 (solo 0
        { bars := [(95, { init := true, e := 4, arr := 1 })], recs := [⟨95, 1, 3, 0⟩] }))), 0,
        { src := 1, dst := 0, at_ := 0, vc := 0, body := .barrier 95 (.arrive false none) 0 3 (.entry 1 3 0) }, 95, false, none, 0,
        3, .entry 1 3 0, ⟨by decide +kernel, rfl, by decide +kernel, by decide +kernel, by decide +kernel⟩, ?_, ?_, ?_⟩
    all_goals first | decide +kernel | exact .inr (.inr ⟨_, by decide +kernel, rfl, rfl, rfl⟩)
  · refine
        ⟨{ solo 0 {} with net := [{ src := 1, dst := 0, at_ := 1, vc := 0, wait := 64, backoff := 0, body := .barrier 95 (.arrive false none) 0 3 .nobody }] },
        0,
        { src := 1, dst := 0, at_ := 1, vc := 0, wait := 64, backoff := 0, body := .barrier 95 (.arrive false none) 0 3 .nobody },
        95, false, none, 0, 3, .nobody, ?_, ?_, ?_⟩
    all_goals first | decide +kernel | rfl | (constructor <;> first | decide +kernel | rfl)
  · refine ⟨(mail 1 0 0 (.barrier 95 (.init 0x7FC00) 0 3 (.entry 1 3 0)) (place 0 0 1 1 (solo 0 {}))), 0,
        { src := 1, dst := 0, at_ := 0, vc := 0, body := .barrier 95 (.init 0x7FC00) 0 3 (.entry 1 3 0) }, 95, 0x7FC00, 0, 3,
        .entry 1 3 0, ⟨by decide +kernel, rfl, by decide +kernel, by decide +kernel, by decide +kernel⟩, ?_, ?_, ?_, ?_, ?_⟩
    all_goals first | decide +kernel | rfl | (constructor <;> first | decide +kernel | rfl)
  · refine ⟨(mail 1 0 0 (.barrier 95 (.leave 1023) 0 3 (.entry 1 3 0)) (place 0 0 1 1 (solo 0
        { bars := [(95, { init := true, e := 1024 })], recs := [] }))), 0,
        { src := 1, dst := 0, at_ := 0, vc := 0, body := .barrier 95 (.leave 1023) 0 3 (.entry 1 3 0) }, 95, .leave 1023, 1023,
        -1023, 0, 3, .entry 1 3 0, ⟨by decide +kernel, rfl, by decide +kernel, by decide +kernel, by decide +kernel⟩, ?_, ?_, ?_,
        ?_, ?_, ?_, ?_, ?_⟩
    all_goals first | decide +kernel | exact .inr ⟨rfl, rfl⟩

theorem witness_collectives_run_in_order :
  (∃ (s : State), ∃ c x o, coreActs s c = true ∧ collCtx s c = some x ∧ (ctxOf s c x).collq = [o] ∧ o.started = false ∧ o.holdOn =
    [] ∧ groupRoom s c o.gt = true ∧ (∀ q ∈ (coreOf s c).tokens, q.held = false) ∧ TakesOne s c (512 + o.htag) 0) ∧
  (∃ (s : State), ∃ c x o rest, coreActs s c = true ∧ (ctxOf s c x).collq = o :: rest ∧ groupRoom s c o.gt = true ∧ o.started =
    true ∧ o.expect ≤ o.arrived ∧ max 1 o.expect ≤ o.ended ∧ (∀ e ∈ (ctxOf s c x).pend, e.2.st = .free) ∧ (∀ p ∈ rest, ¬ (p.gt =
    o.gt ∧ p.seq = o.seq))) ∧
  (∃ (s : State), ∃ n m t a p x, Packet s n m t a p x ∧ ((groupOf s m.dst p.gt).live = false ∨ (groupOf s m.dst
    p.gt).members.testBit p.rank = false)) ∧
  (∃ (s : State), ∃ n m t a p x, Packet s n m t a p x ∧ (groupOf s m.dst p.gt).live = true ∧ (groupOf s m.dst p.gt).members.testBit
    p.rank = true ∧ (groupOf s m.dst p.gt).poison = true ∧ senderOf m < hostDst) ∧
  (∃ (s : State), ∃ n m t a p x o, Packet s n m t a p x ∧ Member s m.dst p ∧ (ctxOf s m.dst x).collq = [o] ∧ o.gt = p.gt ∧ o.seq =
    p.seq ∧ o.started = true ∧ (groupOf s m.dst p.gt).dig = p.digest ∧ TakesOne s m.dst (512 + t.tag) t.itag) ∧
  (∃ (s : State), ∃ n m t a p x, Packet s n m t a p x ∧ Member s m.dst p ∧ (ctxOf s m.dst x).collq = [] ∧ 0 < (p.seq + 65536 -
    (groupOf s m.dst p.gt).seq) % 65536 ∧ (p.seq + 65536 - (groupOf s m.dst p.gt).seq) % 65536 < 32768 ∧ TakesOne s m.dst (512 +
    t.tag) t.itag) ∧
  (∃ (s : State), ∃ n m t a p x o, Packet s n m t a p x ∧ Member s m.dst p ∧ (ctxOf s m.dst x).collq = [o] ∧ o.gt = p.gt ∧ o.seq =
    p.seq ∧ o.started = true ∧ (groupOf s m.dst p.gt).dig ≠ p.digest ∧ p.gt ∉ (coreOf s m.dst).gtold ∧ (ctxOf s m.dst x).lateQ = []
    ∧ senderOf m < hostDst) ∧
  (∃ (s : State), ∃ n m gt seq x, Came s n m (.poison gt seq false) ∧ collCtx s m.dst = some x ∧ groupRoom s m.dst gt = true ∧
    (groupOf s m.dst gt).live = true) := by
  refine ⟨?_, ?_, ?_, ?_, ?_, ?_, ?_, ?_⟩
  · refine ⟨(home
        { collq := [{ gt := 255, seq := 65535, digest := 7, addr := 16, ftag := 1, htag := 0xEF, expect := 2, pmask := 0 }] } {}),
        0, 0, { gt := 255, seq := 65535, digest := 7, addr := 16, ftag := 1, htag := 0xEF, expect := 2, pmask := 0 }, ?_, ?_, ?_,
        ?_, ?_, ?_, ?_, ?_⟩
    all_goals first | decide +kernel | rfl | (constructor <;> first | decide +kernel | rfl)
  · refine ⟨(home
        { collq := [{ gt := 255, seq := 65535, digest := 7, addr := 16, ftag := 1, htag := 0xEF, expect := 2, pmask := 0, arrived := 2, started := true, ended := 2 }] }
        {}), 0, 0,
        { gt := 255, seq := 65535, digest := 7, addr := 16, ftag := 1, htag := 0xEF, expect := 2, pmask := 0, arrived := 2, started := true, ended := 2 },
        [], ?_, ?_, ?_, ?_, ?_, ?_, ?_, ?_⟩
    all_goals first | decide +kernel | rfl | (constructor <;> first | decide +kernel | rfl)
  · refine ⟨(mail 1 0 0 (.token
        { tag := 0xEF, lanes := all 1, tuple := some { gt := 255, seq := 65535, digest := 7, rank := 1023 } } .nobody) (home {}
        { gcache := [(255, { live := true, members := 2 ^ 1022 })] })), 0,
        { src := 1, dst := 0, at_ := 0, vc := 0, body := .token { tag := 0xEF, lanes := all 1, tuple := some { gt := 255, seq := 65535, digest := 7, rank := 1023 } } .nobody },
        { tag := 0xEF, lanes := all 1, tuple := some { gt := 255, seq := 65535, digest := 7, rank := 1023 } }, .nobody,
        { gt := 255, seq := 65535, digest := 7, rank := 1023 }, 0, ⟨⟨by decide +kernel, rfl, by decide +kernel, by decide +kernel,
        by decide +kernel⟩, rfl, by decide, by decide +kernel, by decide +kernel, rfl, rfl, by decide +kernel⟩, ?_⟩
    all_goals first | decide +kernel | rfl | (constructor <;> first | decide +kernel | rfl)
  · refine ⟨(mail 1 0 0 (.token
        { tag := 0xEF, lanes := all 1, tuple := some { gt := 255, seq := 65535, digest := 7, rank := 1023 } } .nobody) (home {}
        { gcache := [(255, { live := true, members := 2 ^ 1023, poison := true })] })), 0,
        { src := 1, dst := 0, at_ := 0, vc := 0, body := .token { tag := 0xEF, lanes := all 1, tuple := some { gt := 255, seq := 65535, digest := 7, rank := 1023 } } .nobody },
        { tag := 0xEF, lanes := all 1, tuple := some { gt := 255, seq := 65535, digest := 7, rank := 1023 } }, .nobody,
        { gt := 255, seq := 65535, digest := 7, rank := 1023 }, 0, ⟨⟨by decide +kernel, rfl, by decide +kernel, by decide +kernel,
        by decide +kernel⟩, rfl, by decide, by decide +kernel, by decide +kernel, rfl, rfl, by decide +kernel⟩, ?_, ?_, ?_, ?_⟩
    all_goals first | decide +kernel | rfl | (constructor <;> first | decide +kernel | rfl)
  · refine ⟨(mail 1 0 0 (.token
        { tag := 0xEF, lanes := all 1, tuple := some { gt := 255, seq := 65535, digest := 7, rank := 1023 } } .nobody) (home
        { collq := [{ gt := 255, seq := 65535, digest := 7, addr := 16, ftag := 1, htag := 0xEF, expect := 2, pmask := 0, started := true }] }
        { gcache := [(255, { live := true, members := 2 ^ 1023, dig := 7, seq := 0 })] })), 0,
        { src := 1, dst := 0, at_ := 0, vc := 0, body := .token { tag := 0xEF, lanes := all 1, tuple := some { gt := 255, seq := 65535, digest := 7, rank := 1023 } } .nobody },
        { tag := 0xEF, lanes := all 1, tuple := some { gt := 255, seq := 65535, digest := 7, rank := 1023 } }, .nobody,
        { gt := 255, seq := 65535, digest := 7, rank := 1023 }, 0,
        { gt := 255, seq := 65535, digest := 7, addr := 16, ftag := 1, htag := 0xEF, expect := 2, pmask := 0, started := true },
        ⟨⟨by decide +kernel, rfl, by decide +kernel, by decide +kernel, by decide +kernel⟩, rfl, by decide, by decide +kernel, by
        decide +kernel, rfl, rfl, by decide +kernel⟩, ?_, ?_, ?_, ?_, ?_, ?_, ?_⟩
    all_goals first | decide +kernel | rfl | (constructor <;> first | decide +kernel | rfl)
  · refine ⟨(mail 1 0 0 (.token
        { tag := 0xEF, lanes := all 1, tuple := some { gt := 255, seq := 32766, digest := 7, rank := 1023 } } .nobody) (home {}
        { gcache := [(255, { live := true, members := 2 ^ 1023, seq := 65535 })] })), 0,
        { src := 1, dst := 0, at_ := 0, vc := 0, body := .token { tag := 0xEF, lanes := all 1, tuple := some { gt := 255, seq := 32766, digest := 7, rank := 1023 } } .nobody },
        { tag := 0xEF, lanes := all 1, tuple := some { gt := 255, seq := 32766, digest := 7, rank := 1023 } }, .nobody,
        { gt := 255, seq := 32766, digest := 7, rank := 1023 }, 0, ⟨⟨by decide +kernel, rfl, by decide +kernel, by decide +kernel,
        by decide +kernel⟩, rfl, by decide, by decide +kernel, by decide +kernel, rfl, rfl, by decide +kernel⟩, ?_, ?_, ?_, ?_, ?_⟩
    all_goals first | decide +kernel | rfl | (constructor <;> first | decide +kernel | rfl)
  · refine ⟨(mail 1 0 0 (.token
        { tag := 0xEF, lanes := all 1, tuple := some { gt := 255, seq := 65535, digest := 7, rank := 1023 } } .nobody) (home
        { collq := [{ gt := 255, seq := 65535, digest := 7, addr := 16, ftag := 1, htag := 0xEF, expect := 2, pmask := 0, started := true }] }
        { gcache := [(255, { live := true, members := 2 ^ 1023, dig := 8, seq := 0 })] })), 0,
        { src := 1, dst := 0, at_ := 0, vc := 0, body := .token { tag := 0xEF, lanes := all 1, tuple := some { gt := 255, seq := 65535, digest := 7, rank := 1023 } } .nobody },
        { tag := 0xEF, lanes := all 1, tuple := some { gt := 255, seq := 65535, digest := 7, rank := 1023 } }, .nobody,
        { gt := 255, seq := 65535, digest := 7, rank := 1023 }, 0,
        { gt := 255, seq := 65535, digest := 7, addr := 16, ftag := 1, htag := 0xEF, expect := 2, pmask := 0, started := true },
        ⟨⟨by decide +kernel, rfl, by decide +kernel, by decide +kernel, by decide +kernel⟩, rfl, by decide, by decide +kernel, by
        decide +kernel, rfl, rfl, by decide +kernel⟩, ?_, ?_, ?_, ?_, ?_, ?_, ?_, ?_, ?_⟩
    all_goals first | decide +kernel | rfl | (constructor <;> first | decide +kernel | rfl)
  · refine ⟨(mail 1 0 1 (.poison 255 65535 false) (home {}
        { gcache := [(255, { live := true, members := 2 ^ 1023, seq := 65535 })] })), 0,
        { src := 1, dst := 0, at_ := 0, vc := 1, body := .poison 255 65535 false }, 255, 65535, 0, ⟨by decide +kernel, rfl, by
        decide +kernel, by decide +kernel, by decide +kernel⟩, ?_, ?_, ?_⟩
    all_goals first | decide +kernel | rfl | (constructor <;> first | decide +kernel | rfl)

theorem witness_collective_slots_open_and_end :
  (∃ (s : State), ∃ c x, coreActs s c = true ∧ x < 4 ∧ slotDue s c x = true ∧ (∀ y, y < x → slotDue s c y = false)) ∧
  (∃ (s : State), ∃ c k w, coreActs s c = true ∧ (cellOf s c).slot = some k ∧ k.resume = some w ∧ (ctxOf s c k.ctx).st = .idle ∧
    (ctxOf s c k.ctx).frame = none ∧ shadowReady s c k.ctx = false) ∧
  (∃ (s : State), ∃ c k w, coreActs s c = true ∧ (cellOf s c).slot = some k ∧ k.resume = some w ∧ (ctxOf s c k.ctx).st = .idle ∧
    k.began + 8192 ≤ (cellOf s c).cyc) ∧
  (∃ (s : State), ∃ c k f, coreActs s c = true ∧ (cellOf s c).slot = some k ∧ k.ctx < 4 ∧ k.resume = none ∧ (ctxOf s c k.ctx).st =
    .running ∧ (ctxOf s c k.ctx).frame = some f ∧ k.began + 8192 ≤ (cellOf s c).cyc) := by
  refine ⟨?_, ?_, ?_, ?_⟩
  · refine ⟨(home {} { tokens := [{ stamp := 0, t := { tag := 512 + 0xEF, lanes := all 1 } }] }), 0, 0, ?_, ?_, ?_, ?_⟩
    all_goals first | decide +kernel | rfl | (constructor <;> first | decide +kernel | rfl)
  · refine ⟨(modCell (home {} {}) 0 fun x => { x with slot := some ⟨0, 0, some { pc := some 0x40 }⟩ }), 0, ⟨0, 0, some
        { pc := some 0x40 }⟩, { pc := some 0x40 }, ?_, ?_, ?_, ?_, ?_, ?_⟩
    all_goals first | decide +kernel | rfl | (constructor <;> first | decide +kernel | rfl)
  · refine ⟨(modCell (home {} {}) 0 fun x => { x with slot := some ⟨0, 1, some { pc := some 0x40 }⟩, cyc := 8193 }), 0, ⟨0, 1,
        some { pc := some 0x40 }⟩, { pc := some 0x40 }, ?_, ?_, ?_, ?_, ?_⟩
    all_goals first | decide +kernel | rfl | (constructor <;> first | decide +kernel | rfl)
  · refine ⟨(modCell (home { st := .running, frame := some (blk (.sel gf)) } {}) 0 fun x =>
        { x with slot := some ⟨0, 1, none⟩, cyc := 8193 }), 0, ⟨0, 1, none⟩, (blk (.sel gf)), ?_, ?_, ?_, ?_, ?_, ?_, ?_⟩
    all_goals first | decide +kernel | rfl | (constructor <;> first | decide +kernel | rfl)

theorem witness_messages_travel_the_fabric :
  (∃ (s : State), ∃ n m q, Came s n m (.spawn q) ∧ spawnsOf (coreOf s m.dst).spawnHold q.ctx = [] ∧ (spawnsOf (coreOf s
    m.dst).spawnQ q.ctx).length < 4) ∧
  (∃ (s : State), ∃ n m q, Came s n m (.spawn q) ∧ spawnsOf (coreOf s m.dst).spawnHold q.ctx = [] ∧ 4 ≤ (spawnsOf (coreOf s
    m.dst).spawnQ q.ctx).length) ∧
  (∃ (s : State), ∃ n m q, Came s n m (.spawn q) ∧ spawnsOf (coreOf s m.dst).spawnHold q.ctx ≠ []) ∧
  (∃ (s : State), ∃ c q, coreActs s c = true ∧ (cellOf s c).sister = none ∧ (coreOf s c).spawnHold = [q] ∧ (spawnsOf (coreOf s
    c).spawnQ q.ctx).length < 4) ∧
  (∃ (s : State), ∃ n m q tr, arrived s n = some m ∧ m.body = .spawnAck q ∧ (coreOf s m.dst).spawnTrees = [tr] ∧ tr.m.asker =
    q.asker ∧ (if 0 < q.y then tr.m.x = q.x ∧ tr.m.y + 1 = q.y else tr.m.x + 1 = q.x ∧ tr.m.y = q.y)) ∧
  (∃ (s : State), ∃ n m l sh t a w, AtRouter s n m l sh t a ∧ m.leg = [] ∧ w = labelWord s m.at_ l sh ∧ RouterTakes s m.at_ w 2) ∧
  (∃ (s : State), ∃ n m l sh t a w k d, AtRouter s n m l sh t a ∧ m.leg = [] ∧ w = labelWord s m.at_ l sh ∧ RouterTakes s m.at_ w k
    ∧ k < 2 ∧ (cellOf s m.at_).altsel = false ∧ d = linkEnd s m.at_ (w.extractLsb' 22 4).toNat ∧ hasCredit s d (inputOf
    (w.extractLsb' 22 4).toNat) (if w.getLsbD 27 then 7 else 6) = true) ∧
  (∃ (s : State), ∃ n m l sh t a o os, AtRouter s n m l sh t a ∧ m.leg = o :: os ∧ hasCredit s (physMove m.at_ o) (inputOf o) m.vc
    = true) ∧
  (∃ (s : State), ∃ n m l sh t a w, AtRouter s n m l sh t a ∧ m.leg = [] ∧ w = labelWord s m.at_ l sh ∧ (∀ k, ¬ RouterTakes s m.at_
    w k) ∧ t.src = none) ∧
  (∃ (s : State) (n : Nat) (m : Msg) (x : Nat) (y : Nat), Hops s n m ∧ m.leg = [] ∧ byManagement m = false ∧ logicalOf s m.at_ =
    some (x, y) ∧ (logicalOf s m.dst).isSome = true ∧ deltaOf s m.at_ m.dst ≠ (0, 0) ∧ activeBank (cellOf s m.at_) = []) ∧
  (∃ (s : State) (n : Nat) (m : Msg) (l : Nat) (ls : List Nat), Hops s n m ∧ m.leg = [] ∧ byManagement m = false ∧ (logicalOf s
    m.at_).isSome = true ∧ (logicalOf s m.dst).isSome = true ∧ deltaOf s m.at_ m.dst ≠ (0, 0) ∧ activeBank (cellOf s m.at_) ≠ [] ∧
    hopLinks s m.at_ (outwards s m) = l :: ls ∧ l < 8) ∧
  (∃ (s : State) (n : Nat) (m : Msg) (l : Nat) (ls : List Nat), Hops s n m ∧ m.leg = l :: ls ∧ l < 8) ∧
  (∃ (s : State) (n : Nat) (m : Msg) (b : Nat), Hops s n m ∧ m.leg = [] ∧ m.src = bayCore b ∧ m.at_ = bayCore b ∧ b < 1024 ∧
    isCellCore m.dst = true ∧ (bayAt s b).attachDown = false) ∧
  (∃ (s : State) (n : Nat) (m : Msg) (b : Nat) (goal : Nat), Hops s n m ∧ m.leg = [] ∧ isCellCore m.at_ = true ∧ b < 1024 ∧ ((m.dst
    = bayCore b ∧ isCellCore m.src = true ∧ goal = b * 1024 + 15 * 32 + 15) ∨ (m.src = bayCore b ∧ isCellCore m.dst = true ∧ goal =
    m.dst)) ∧ m.at_ ≠ goal) ∧
  (∃ (s : State) (n : Nat) (m : Msg) (b : Nat), Hops s n m ∧ m.leg = [] ∧ m.dst = bayCore b ∧ b < 1024 ∧ isCellCore m.src = true ∧
    m.at_ = b * 1024 + 15 * 32 + 15 ∧ (bayAt s b).attachDown = false) ∧
  (∃ (s : State) (n : Nat) (m : Msg) (b : Nat), s.net[n]? = some m ∧ m.at_ ≠ m.dst ∧ m.leg = [] ∧ m.vc < 8 ∧ m.dst = bayCore b ∧ b
    < 1024 ∧ isCellCore m.src = true ∧ m.at_ = b * 1024 + 15 * 32 + 15 ∧ (bayAt s b).attachDown = true) := by
  refine ⟨?_, ?_, ?_, ?_, ?_, ?_, ?_, ?_, ?_, ?_, ?_, ?_, ?_, ?_, ?_, ?_⟩
  · refine ⟨(mail 1 0 0 (.spawn
        { ctx := 3, cls := 1, hdr := 0xFFF0, arg := 5, x := 0, y := 0, w := 32, h := 32, asker := .nobody }) (place 0 0 2 2 (solo 0
        {}))), 0,
        { src := 1, dst := 0, at_ := 0, vc := 0, body := .spawn { ctx := 3, cls := 1, hdr := 0xFFF0, arg := 5, x := 0, y := 0, w := 32, h := 32, asker := .nobody } },
        { ctx := 3, cls := 1, hdr := 0xFFF0, arg := 5, x := 0, y := 0, w := 32, h := 32, asker := .nobody }, ⟨by decide +kernel,
        rfl, by decide +kernel, by decide +kernel, by decide +kernel⟩, ?_, ?_⟩
    all_goals first | decide +kernel | rfl | (constructor <;> first | decide +kernel | rfl)
  · refine ⟨(mail 1 0 0 (.spawn
        { ctx := 3, cls := 1, hdr := 0xFFF0, arg := 5, x := 0, y := 0, w := 32, h := 32, asker := .nobody }) (place 0 0 2 2 (solo 0
        { spawnQ := List.replicate 4 { ctx := 3, cls := 1, hdr := 0xFFF0, arg := 5, x := 0, y := 0, w := 32, h := 32, asker := .nobody } }))),
        0,
        { src := 1, dst := 0, at_ := 0, vc := 0, body := .spawn { ctx := 3, cls := 1, hdr := 0xFFF0, arg := 5, x := 0, y := 0, w := 32, h := 32, asker := .nobody } },
        { ctx := 3, cls := 1, hdr := 0xFFF0, arg := 5, x := 0, y := 0, w := 32, h := 32, asker := .nobody }, ⟨by decide +kernel,
        rfl, by decide +kernel, by decide +kernel, by decide +kernel⟩, ?_, ?_⟩
    all_goals first | decide +kernel | rfl | (constructor <;> first | decide +kernel | rfl)
  · refine ⟨(mail 1 0 0 (.spawn
        { ctx := 3, cls := 1, hdr := 0xFFF0, arg := 5, x := 0, y := 0, w := 32, h := 32, asker := .nobody }) (place 0 0 2 2 (solo 0
        { spawnHold := [{ ctx := 3, cls := 1, hdr := 0xFFF0, arg := 5, x := 0, y := 0, w := 32, h := 32, asker := .nobody }] }))),
        0,
        { src := 1, dst := 0, at_ := 0, vc := 0, body := .spawn { ctx := 3, cls := 1, hdr := 0xFFF0, arg := 5, x := 0, y := 0, w := 32, h := 32, asker := .nobody } },
        { ctx := 3, cls := 1, hdr := 0xFFF0, arg := 5, x := 0, y := 0, w := 32, h := 32, asker := .nobody }, ⟨by decide +kernel,
        rfl, by decide +kernel, by decide +kernel, by decide +kernel⟩, ?_⟩
    all_goals first | decide +kernel | rfl | (constructor <;> first | decide +kernel | rfl)
  · refine ⟨(place 0 0 2 2 (solo 0
        { spawnHold := [{ ctx := 3, cls := 1, hdr := 0xFFF0, arg := 5, x := 31, y := 31, w := 32, h := 32, asker := .nobody }], spawnQ := List.replicate 3 { ctx := 3, cls := 1, hdr := 0xFFF0, arg := 5, x := 0, y := 0, w := 32, h := 32, asker := .nobody } })),
        0, { ctx := 3, cls := 1, hdr := 0xFFF0, arg := 5, x := 31, y := 31, w := 32, h := 32, asker := .nobody }, ?_, ?_, ?_, ?_⟩
    all_goals first | decide +kernel | rfl | (constructor <;> first | decide +kernel | rfl)
  · refine ⟨(mail 1 0 0 (.spawnAck
        { ctx := 3, cls := 1, hdr := 0xFFF0, arg := 5, x := 0, y := 31, w := 32, h := 32, asker := .entry 1 3 31 }) (place 0 0 2 2
        (solo 0
        { spawnTrees := [⟨{ ctx := 3, cls := 1, hdr := 0xFFF0, arg := 5, x := 0, y := 30, w := 32, h := 32, asker := .entry 1 3 31 }, 1⟩] }))),
        0,
        { src := 1, dst := 0, at_ := 0, vc := 0, body := .spawnAck { ctx := 3, cls := 1, hdr := 0xFFF0, arg := 5, x := 0, y := 31, w := 32, h := 32, asker := .entry 1 3 31 } },
        { ctx := 3, cls := 1, hdr := 0xFFF0, arg := 5, x := 0, y := 31, w := 32, h := 32, asker := .entry 1 3 31 },
        ⟨{ ctx := 3, cls := 1, hdr := 0xFFF0, arg := 5, x := 0, y := 30, w := 32, h := 32, asker := .entry 1 3 31 }, 1⟩, ?_, ?_,
        ?_, ?_, ?_⟩
    all_goals first | decide +kernel | rfl | (constructor <;> first | decide +kernel | rfl)
  · refine
        ⟨{ modCell (place 0 0 2 2 (solo 0 {})) 0 fun x => { x with labels := [(511, 0xC01FE000)] } with net := [{ src := 1, dst := 5, at_ := 0, vc := 6, body := .routed 511 false { tag := 0, itag := 0x3F, lanes := all 1 } .nobody }] },
        0, { src := 1, dst := 5, at_ := 0, vc := 6, body := .routed 511 false { tag := 0, itag := 0x3F, lanes := all 1 } .nobody },
        511, false, { tag := 0, itag := 0x3F, lanes := all 1 }, .nobody, 0xC01FE000, ?_, ?_, ?_, ?_⟩
    all_goals first | decide +kernel | rfl | (constructor <;> first | decide +kernel | rfl)
  · refine
        ⟨{ modCell (place 0 0 2 2 (solo 0 {})) 0 fun x => { x with labels := [(511, 0x80000000)] } with net := [{ src := 1, dst := 5, at_ := 0, vc := 6, body := .routed 511 false { tag := 0, itag := 0x3F, lanes := all 1 } .nobody }] },
        0, { src := 1, dst := 5, at_ := 0, vc := 6, body := .routed 511 false { tag := 0, itag := 0x3F, lanes := all 1 } .nobody },
        511, false, { tag := 0, itag := 0x3F, lanes := all 1 }, .nobody, 0x80000000, 0, (linkEnd
        ({ modCell (place 0 0 2 2 (solo 0 {})) 0 fun x => { x with labels := [(511, 0x80000000)] } with net := [{ src := 1, dst := 5, at_ := 0, vc := 6, body := .routed 511 false { tag := 0, itag := 0x3F, lanes := all 1 } .nobody }] })
        0 0), ?_, ?_, ?_, ?_, ?_, ?_, ?_, ?_⟩
    all_goals first | decide +kernel | rfl | (constructor <;> first | decide +kernel | rfl)
  · refine
        ⟨{ modCell (place 0 0 2 2 (solo 0 {})) 0 fun x => { x with labels := [] } with net := [{ src := 1, dst := 5, at_ := 0, vc := 6, leg := [0], body := .routed 511 false { tag := 0, itag := 0x3F, lanes := all 1 } .nobody }] },
        0,
        { src := 1, dst := 5, at_ := 0, vc := 6, leg := [0], body := .routed 511 false { tag := 0, itag := 0x3F, lanes := all 1 } .nobody },
        511, false, { tag := 0, itag := 0x3F, lanes := all 1 }, .nobody, 0, [], ?_, ?_, ?_⟩
    all_goals first | decide +kernel | rfl | (constructor <;> first | decide +kernel | rfl)
  · refine
        ⟨{ modCell (place 0 0 2 2 (solo 0 {})) 0 fun x => { x with labels := [] } with net := [{ src := 1, dst := 5, at_ := 0, vc := 6, body := .routed 511 false { tag := 0, itag := 0x3F, lanes := all 1 } .nobody }] },
        0, { src := 1, dst := 5, at_ := 0, vc := 6, body := .routed 511 false { tag := 0, itag := 0x3F, lanes := all 1 } .nobody },
        511, false, { tag := 0, itag := 0x3F, lanes := all 1 }, .nobody, 0, ?_, ?_, ?_, fun k h => absurd h.1 (by decide), ?_⟩
    all_goals first | decide +kernel | rfl | (constructor <;> first | decide +kernel | rfl)
  · refine
        ⟨{ solo 0 {} with net := [{ src := 0, dst := 33, at_ := 0, vc := 0, body := .token { tag := 0, itag := 0x3F, lanes := all 1 } .nobody }] },
        0, { src := 0, dst := 33, at_ := 0, vc := 0, body := .token { tag := 0, itag := 0x3F, lanes := all 1 } .nobody }, 0, 0,
        ⟨rfl, by decide, rfl, (fun _ _ _ _ h => nomatch h), by decide +kernel, by decide +kernel, by decide, of_all (by
        decide +kernel)⟩, ?_, ?_, ?_, ?_, ?_, ?_⟩
    all_goals first | decide +kernel | rfl | (constructor <;> first | decide +kernel | rfl)
  · refine
        ⟨{ modCell (solo 0 {}) 0 fun x => { x with bankA := [0, 0, 0, 1, 74, 1, 1] } with net := [{ src := 0, dst := 5, at_ := 0, vc := 0, body := .token { tag := 0, itag := 0x3F, lanes := all 1 } .nobody }] },
        0, { src := 0, dst := 5, at_ := 0, vc := 0, body := .token { tag := 0, itag := 0x3F, lanes := all 1 } .nobody }, 1, [1],
        ⟨rfl, by decide, rfl, (fun _ _ _ _ h => nomatch h), by decide +kernel, by decide +kernel, by decide, of_all (by
        decide +kernel)⟩, ?_, ?_, ?_, ?_, ?_, ?_, ?_, ?_⟩
    all_goals first | decide +kernel | rfl | (constructor <;> first | decide +kernel | rfl)
  · refine
        ⟨{ modCell (solo 0 {}) 0 fun x => { x with bankA := [0, 0, 0, 1, 74, 1, 1] } with net := [{ src := 0, dst := 5, at_ := 0, vc := 4, leg := [7, 1], body := .token { tag := 0, itag := 0x3F, lanes := all 1 } .nobody }] },
        0,
        { src := 0, dst := 5, at_ := 0, vc := 4, leg := [7, 1], body := .token { tag := 0, itag := 0x3F, lanes := all 1 } .nobody },
        7, [1], ⟨rfl, by decide, rfl, (fun _ _ _ _ h => nomatch h), by decide +kernel, by decide +kernel, by decide, of_all (by
        decide +kernel)⟩, ?_, ?_⟩
    all_goals first | decide +kernel | rfl | (constructor <;> first | decide +kernel | rfl)
  · refine
        ⟨{ solo 0 {} with net := [{ src := 1048576, dst := 5, at_ := 1048576, vc := 4, body := .token { tag := 0, itag := 0x3F, lanes := all 1 } .nobody }] },
        0,
        { src := 1048576, dst := 5, at_ := 1048576, vc := 4, body := .token { tag := 0, itag := 0x3F, lanes := all 1 } .nobody },
        0, ⟨rfl, by decide, rfl, (fun _ _ _ _ h => nomatch h), by decide +kernel, by decide +kernel, by decide, of_all (by
        decide +kernel)⟩, ?_, ?_, ?_, ?_, ?_, ?_⟩
    all_goals first | decide +kernel | rfl | (constructor <;> first | decide +kernel | rfl)
  · refine
        ⟨{ solo 0 {} with net := [{ src := 5, dst := 1048576, at_ := 5, vc := 4, body := .token { tag := 0, itag := 0x3F, lanes := all 1 } .nobody }] },
        0, { src := 5, dst := 1048576, at_ := 5, vc := 4, body := .token { tag := 0, itag := 0x3F, lanes := all 1 } .nobody }, 0,
        495, ⟨rfl, by decide, rfl, (fun _ _ _ _ h => nomatch h), by decide +kernel, by decide +kernel, by decide, of_all (by
        decide +kernel)⟩, ?_, ?_, ?_, ?_, ?_⟩
    all_goals first | decide +kernel | exact .inl ⟨rfl, by decide, rfl⟩
  · refine
        ⟨{ solo 0 {} with net := [{ src := 5, dst := 1048576, at_ := 495, vc := 4, body := .token { tag := 0, itag := 0x3F, lanes := all 1 } .nobody }] },
        0, { src := 5, dst := 1048576, at_ := 495, vc := 4, body := .token { tag := 0, itag := 0x3F, lanes := all 1 } .nobody }, 0,
        ⟨rfl, by decide, rfl, (fun _ _ _ _ h => nomatch h), by decide +kernel, by decide +kernel, by decide, of_all (by
        decide +kernel)⟩, ?_, ?_, ?_, ?_, ?_, ?_⟩
    all_goals first | decide +kernel | rfl | (constructor <;> first | decide +kernel | rfl)
  · refine
        ⟨{ solo 0 {} with net := [{ src := 5, dst := 1048576, at_ := 495, vc := 4, body := .token { tag := 0, itag := 0x3F, lanes := all 1 } .nobody }], bays := [(0, { attachDown := true })] },
        0, { src := 5, dst := 1048576, at_ := 495, vc := 4, body := .token { tag := 0, itag := 0x3F, lanes := all 1 } .nobody }, 0,
        ?_, ?_, ?_, ?_, ?_, ?_, ?_, ?_, ?_⟩
    all_goals first | decide +kernel | rfl | (constructor <;> first | decide +kernel | rfl)

theorem witness_regions_are_requested_and_drained :
  (∃ (s : State), ∃ n m id link tag x a, Came s n m (.cfg (.request id link tag) x a) ∧ Tbl.get none s.catalogue id = none) ∧
  (∃ (s : State), ∃ n m id link tag x a g, Came s n m (.cfg (.request id link tag) x a) ∧ Tbl.get none s.catalogue id = some g ∧
    (link.extractLsb' 6 6).toNat ≤ g.ins.length ∧ (link.extractLsb' 20 4).toNat ≤ g.outs.length ∧ serveRequest (accepted s n m a)
    m.src x g link = none) ∧
  (∃ (s : State), ∃ n m id link tag x a g t r, Came s n m (.cfg (.request id link tag) x a) ∧ Tbl.get none s.catalogue id = some g
    ∧ (link.extractLsb' 6 6).toNat ≤ g.ins.length ∧ (link.extractLsb' 20 4).toNat ≤ g.outs.length ∧ serveRequest (accepted s n m a)
    m.src x g link = some (t, r)) ∧
  (∃ (s : State), ∃ n m op x a h tag fn r, Came s n m (.cfg op x a) ∧ SelectIs op h tag fn ∧ handleRegion s h = some r ∧ ((regionAt
    s r).st = .resident ∨ (regionAt s r).st = .draining) ∧ stagedFor (regionAt s r) op = true) ∧
  (∃ (s : State), ∃ n m op x a h tag fn, Came s n m (.cfg op x a) ∧ SelectIs op h tag fn ∧ handleRegion s h = none) ∧
  (∃ (s : State), ∃ n m x a h tag k r, Came s n m (.cfg (.mapsel h k tag) x a) ∧ handleRegion s h = some r ∧ ((regionAt s r).st =
    .resident ∨ (regionAt s r).st = .draining) ∧ (regionAt s r).plan = none ∧ stagedFor (regionAt s r) (.mapsel h k tag) = false) ∧
  (∃ (s : State), ∃ r, (regionAt s r).st = .draining ∧ (sweepClean s r = false ∨ (regionAt s r).sums ≠ some ((drainSums s r).1 +
    (drainSums s r).2.2.1))) ∧
  (∃ (s : State), ∃ r h tag core, (regionAt s r).st = .draining ∧ sweepClean s r = true ∧ (regionAt s r).sums = some ((drainSums s
    r).1 + (drainSums s r).2.2.1) ∧ (regionAt s r).selects = [⟨.release h tag, core⟩]) ∧
  (∃ (s : State), ∃ r h k tag core t, (regionAt s r).st = .draining ∧ sweepClean s r = true ∧ (regionAt s r).sums = some
    ((drainSums s r).1 + (drainSums s r).2.2.1) ∧ (regionAt s r).selects = [⟨.mapsel h k tag, core⟩] ∧ loadMapping s r k = some t ∧
    (∀ q ∈ t.net, heldAtBoundary t r q = false)) := by
  refine ⟨?_, ?_, ?_, ?_, ?_, ?_, ?_, ?_, ?_⟩
  · refine ⟨(mail 0 0 4 (.cfg (.request 65535 0x104041 9) 3 .nobody) (place 0 0 1 1 (solo 0 {}))), 0,
        { src := 0, dst := 0, at_ := 0, vc := 4, body := .cfg (.request 65535 0x104041 9) 3 .nobody }, 65535, 0x104041, 9, 3,
        .nobody, ⟨by decide +kernel, rfl, by decide +kernel, by decide +kernel, by decide +kernel⟩, ?_⟩
    all_goals first | decide +kernel | rfl | (constructor <;> first | decide +kernel | rfl)
  · refine
        ⟨{ (mail 0 0 4 (.cfg (.request 65535 0 9) 3 .nobody) (place 0 0 1 1 (solo 0 {}))) with catalogue := [(65535, some ⟨aRegion, [], []⟩)] },
        0, { src := 0, dst := 0, at_ := 0, vc := 4, body := .cfg (.request 65535 0 9) 3 .nobody }, 65535, 0, 9, 3, .nobody,
        ⟨aRegion, [], []⟩, ⟨by decide +kernel, rfl, by decide +kernel, by decide +kernel, by decide +kernel⟩, ?_, ?_, ?_,
        serve_none rfl (by decide +kernel) _ _ _ (by decide) _⟩
    all_goals first | decide +kernel | rfl | (constructor <;> first | decide +kernel | rfl)
  · refine
        ⟨{ (modCell ((mail 0 0 4 (.cfg (.request 65535 0 9) 3 .nobody) (place 0 0 1 1 (solo 0 {})))) 1 fun x => { x with inReset := false }) with catalogue := [(65535, some ⟨aRegion, [], []⟩)] },
        0, { src := 0, dst := 0, at_ := 0, vc := 4, body := .cfg (.request 65535 0 9) 3 .nobody }, 65535, 0, 9, 3, .nobody,
        ⟨aRegion, [], []⟩, _, 1, ⟨by decide +kernel, rfl, by decide +kernel, by decide +kernel, by decide +kernel⟩, ?_, ?_, ?_,
        serve_some (o := (1, 0)) rfl (by decide +kernel) (by decide +kernel) (nearest_at_one (by decide +kernel) (by
        decide +kernel)) (by decide +kernel)⟩
    all_goals first | decide +kernel | rfl | (constructor <;> first | decide +kernel | rfl)
  · refine
        ⟨{ (mail 0 0 4 (.cfg (.mapsel 0xF000 2 9) 3 .nobody) (place 0 0 1 1 (solo 0 {}))) with regions := [(0, { st := .resident, w := 1, h := 1, gen := 15, staged := [(2, [])] })] },
        0, { src := 0, dst := 0, at_ := 0, vc := 4, body := .cfg (.mapsel 0xF000 2 9) 3 .nobody }, .mapsel 0xF000 2 9, 3, .nobody,
        0xF000, 9, 35, 0, ⟨by decide +kernel, rfl, by decide +kernel, by decide +kernel, by decide +kernel⟩, .inr ⟨2, rfl, rfl⟩,
        ?_, ?_, ?_⟩
    all_goals first | decide +kernel | rfl | (constructor <;> first | decide +kernel | rfl)
  · refine
        ⟨{ (mail 0 0 4 (.cfg (.release 0xE000 9) 3 .nobody) (place 0 0 1 1 (solo 0 {}))) with regions := [(0, { st := .resident, w := 1, h := 1, gen := 15 })] },
        0, { src := 0, dst := 0, at_ := 0, vc := 4, body := .cfg (.release 0xE000 9) 3 .nobody }, .release 0xE000 9, 3, .nobody,
        0xE000, 9, 33, ⟨by decide +kernel, rfl, by decide +kernel, by decide +kernel, by decide +kernel⟩, .inl ⟨rfl, rfl⟩, ?_⟩
    all_goals first | decide +kernel | rfl | (constructor <;> first | decide +kernel | rfl)
  · refine
        ⟨{ (mail 0 0 4 (.cfg (.mapsel 0xF000 2 9) 3 .nobody) (place 0 0 1 1 (solo 0 {}))) with regions := [(0, { st := .resident, w := 1, h := 1, gen := 15 })] },
        0, { src := 0, dst := 0, at_ := 0, vc := 4, body := .cfg (.mapsel 0xF000 2 9) 3 .nobody }, 3, .nobody, 0xF000, 9, 2, 0, ⟨by
        decide +kernel, rfl, by decide +kernel, by decide +kernel, by decide +kernel⟩, ?_, ?_, ?_, ?_⟩
    all_goals first | decide +kernel | exact .inl rfl
  · refine
        ⟨{ modCell (place 0 0 1 1 (solo 0 {})) 0 fun x => { x with sentDyn := 1, recvDyn := 1 } with regions := [(0, { st := .draining, w := 1, h := 1, sums := some 0 })] },
        0, ?_, ?_⟩
    all_goals first | decide +kernel | rfl | (constructor <;> first | decide +kernel | rfl)
  · refine
        ⟨{ modCell (place 0 0 1 1 (solo 0 {})) 0 fun x => { x with sentDyn := 1, recvDyn := 1 } with regions := [(0, { st := .draining, w := 1, h := 1, sums := some 1, selects := [⟨.release 0 9, 0⟩] })] },
        0, 0, 9, 0, ?_, ?_, ?_, ?_⟩
    all_goals first | decide +kernel | rfl | (constructor <;> first | decide +kernel | rfl)
  · refine
        ⟨{ modCell (place 0 0 1 1 (solo 0 {})) 0 fun x => { x with sentDyn := 1, recvDyn := 1 } with regions := [(0, { st := .draining, w := 1, h := 1, sums := some 1, selects := [⟨.mapsel 0 2 9, 0⟩], staged := [(2, [])] })] },
        0, 0, 2, 9, 0, (loadMapping
        ({ modCell (place 0 0 1 1 (solo 0 {})) 0 fun x => { x with sentDyn := 1, recvDyn := 1 } with regions := [(0, { st := .draining, w := 1, h := 1, sums := some 1, selects := [⟨.mapsel 0 2 9, 0⟩], staged := [(2, [])] })] })
        0 2).getD {}, ?_, ?_, ?_, ?_, ?_, ?_⟩
    all_goals first | decide +kernel | rfl | (constructor <;> first | decide +kernel | rfl)

theorem witness_cuts_save_their_region :
  (∃ (s : State) (n : Nat) (m : Msg), ∃ r, arrived s n = some m ∧ m.body = .peg r ∧ (regionAt s r).cut ≠ none ∧ isDead s m.dst =
    false ∧ regionOf s m.dst = some r) ∧
  (∃ (s : State), ∃ c r k, regionOf s c = some r ∧ (regionAt s r).cut = some k ∧ atSavePoint s c = true) ∧
  (∃ (s : State), ∃ c r k, regionOf s c = some r ∧ (regionAt s r).cut = some k ∧ (cellOf s c).paused = true ∧ (cellOf s
    c).savedPoint = true) ∧
  (∃ (s : State), ∃ n m r k p, recordable s n = some m ∧ regionOf s m.dst = some r ∧ (regionAt s r).cut = some k ∧ idleSlot s m.dst
    = some p ∧ p.recorded.length < 81) ∧
  (∃ (s : State), ∃ n m r k p, recordable s n = some m ∧ regionOf s m.dst = some r ∧ (regionAt s r).cut = some k ∧ idleSlot s m.dst
    = some p ∧ 81 ≤ p.recorded.length) ∧
  (∃ (s : State), ∃ r k, (regionAt s r).cut = some k ∧ cutComplete s r = true ∧ (regionCells s r).Nodup) ∧
  (∃ (s : State), ∃ r k, (regionAt s r).cut = some k ∧ cutComplete s r = false ∧ (∀ c ∈ regionCells s r, ¬ SaveFailsAt s c)) ∧
  (∃ (s : State), ∃ r k c before rest, (regionAt s r).cut = some k ∧ regionCells s r = before ++ c :: rest ∧ (∀ d ∈ before, ¬
    SaveFailsAt s d) ∧ SaveFailsAt s c) ∧
  (∃ (s : State), ∃ r c k, (regionAt s r).cut = some k ∧ regionOf s c = some r ∧ SaveFailsAt s c) ∧
  (∃ (s : State), ∃ c r, (cellOf s c).cutAsked = true ∧ regionOf s c = some r ∧ cutRefused (regionAt s r) = false) := by
  refine ⟨?_, ?_, ?_, ?_, ?_, ?_, ?_, ?_, ?_, ?_⟩
  · refine
        ⟨{ (modCell (place 0 0 2 2 (solo 0 {})) 0 fun x => x) with regions := [(0, { st := .resident, w := 2, h := 2, cut := some ⟨0, none⟩ })], net := [{ src := 0, dst := 0, at_ := 0, vc := 4, body := .peg 0 }] },
        0, { src := 0, dst := 0, at_ := 0, vc := 4, body := .peg 0 }, 0, ?_, ?_, ?_, ?_, ?_⟩
    all_goals first | decide +kernel | rfl | (constructor <;> first | decide +kernel | rfl)
  · refine
        ⟨{ (modCell (place 0 0 1 1 (solo 0 { ctxs := [(3, { regs := [(63, Lanes.all 7)] })] })) 0 fun x => { x with peg := true }) with regions := [(0, { st := .resident, w := 1, h := 1, cut := some ⟨1, none⟩ })] },
        0, 0, ⟨1, none⟩, ?_, ?_, ?_⟩
    all_goals first | decide +kernel | rfl | (constructor <;> first | decide +kernel | rfl)
  · refine
        ⟨{ (modCell (place 0 0 1 1 (solo 0 {})) 0 fun x => { x with savedPoint := true, paused := true }) with regions := [(0, { st := .resident, w := 1, h := 1, cut := some ⟨1, none⟩ })] },
        0, 0, ⟨1, none⟩, ?_, ?_, ?_, ?_⟩
    all_goals first | decide +kernel | rfl | (constructor <;> first | decide +kernel | rfl)
  · refine
        ⟨{ (modCell (place 0 0 1 1 (solo 0 {})) 0 fun x => { x with peg := true, savedPoint := true, colour := true, slotA := some { core := {}, sram := [], full := [], complete := false, sealed_ := false, recorded := List.replicate 80 { src := 0, dst := 0, at_ := 0, vc := 1, body := .token { tag := 0, itag := 0x3F, lanes := all 1 } .nobody } } }) with regions := [(0, { st := .resident, w := 1, h := 1, cut := some ⟨0, none⟩ })], net := [{ src := 0, dst := 0, at_ := 0, vc := 1, body := .token { tag := 0, itag := 0x3F, lanes := all 1 } .nobody }] },
        0, { src := 0, dst := 0, at_ := 0, vc := 1, body := .token { tag := 0, itag := 0x3F, lanes := all 1 } .nobody }, 0, ⟨0,
        none⟩,
        { core := {}, sram := [], full := [], complete := false, sealed_ := false, recorded := List.replicate 80 { src := 0, dst := 0, at_ := 0, vc := 1, body := .token { tag := 0, itag := 0x3F, lanes := all 1 } .nobody } },
        ?_, ?_, ?_, ?_, ?_⟩
    all_goals first | decide +kernel | rfl | (constructor <;> first | decide +kernel | rfl)
  · refine
        ⟨{ (modCell (place 0 0 1 1 (solo 0 {})) 0 fun x => { x with peg := true, savedPoint := true, colour := true, slotA := some { core := {}, sram := [], full := [], complete := false, sealed_ := false, recorded := List.replicate 81 { src := 0, dst := 0, at_ := 0, vc := 1, body := .token { tag := 0, itag := 0x3F, lanes := all 1 } .nobody } } }) with regions := [(0, { st := .resident, w := 1, h := 1, cut := some ⟨0, none⟩ })], net := [{ src := 0, dst := 0, at_ := 0, vc := 1, body := .token { tag := 0, itag := 0x3F, lanes := all 1 } .nobody }] },
        0, { src := 0, dst := 0, at_ := 0, vc := 1, body := .token { tag := 0, itag := 0x3F, lanes := all 1 } .nobody }, 0, ⟨0,
        none⟩,
        { core := {}, sram := [], full := [], complete := false, sealed_ := false, recorded := List.replicate 81 { src := 0, dst := 0, at_ := 0, vc := 1, body := .token { tag := 0, itag := 0x3F, lanes := all 1 } .nobody } },
        ?_, ?_, ?_, ?_, ?_⟩
    all_goals first | decide +kernel | rfl | (constructor <;> first | decide +kernel | rfl)
  · refine
        ⟨{ (modCell (place 0 0 1 1 (solo 0 {})) 0 fun x => { x with peg := true, savedPoint := true, colour := true, slotA := some { core := {}, sram := [], full := [], complete := false, sealed_ := false, recorded := List.replicate 80 { src := 0, dst := 0, at_ := 0, vc := 1, body := .token { tag := 0, itag := 0x3F, lanes := all 1 } .nobody } } }) with regions := [(0, { st := .resident, w := 1, h := 1, cut := some ⟨1, none⟩ })] },
        0, ⟨1, none⟩, ?_, ?_, ?_⟩
    all_goals first | decide +kernel | rfl | (constructor <;> first | decide +kernel | rfl)
  · refine
        ⟨{ (modCell (place 0 0 1 1 (solo 0 {})) 0 fun x => x) with regions := [(0, { st := .resident, w := 1, h := 1, cut := some ⟨1, none⟩ })] },
        0, ⟨1, none⟩, ?_, ?_, all_save (by decide +kernel)⟩
    all_goals first | decide +kernel | rfl | (constructor <;> first | decide +kernel | rfl)
  · refine
        ⟨{ (modCell (place 0 0 2 1 (solo 0 {})) 0 fun x => x) with regions := [(0, { st := .resident, w := 2, h := 1, cut := some ⟨1, none⟩ })] },
        0, ⟨1, none⟩, 1, [0], [], ?_, ?_, all_save (by decide +kernel), save_fails (by decide +kernel)⟩
    all_goals first | decide +kernel | rfl | (constructor <;> first | decide +kernel | rfl)
  · refine
        ⟨{ (modCell (place 0 0 1 1 (solo 0 {})) 0 fun x => { x with savedPoint := true }) with regions := [(0, { st := .resident, w := 1, h := 1, cut := some ⟨1, none⟩ })], bad := [loftKey 0 0x1FC000] },
        0, 0, ⟨1, none⟩, ?_, ?_, save_fails (by decide +kernel)⟩
    all_goals first | decide +kernel | rfl | (constructor <;> first | decide +kernel | rfl)
  · refine
        ⟨{ modCell (solo 0 {}) 0 fun x => { x with cutAsked := true, region := some 0 } with regions := [(0, { st := .resident, w := 1, h := 1 })] },
        0, 0, ?_, ?_, ?_⟩
    all_goals first | decide +kernel | rfl | (constructor <;> first | decide +kernel | rfl)

theorem witness_contexts_and_regions_are_restored :
  (∃ (s : State), ∃ c x m rest, (ctxOf s c x).saves = m :: rest ∧ x < 4 ∧ coreActs s c = true ∧ cutAt s c = none ∧ mayBeSaved s c x
    = true ∧ slotBad s c (idleB (cellOf s c)) = false) ∧
  (∃ (s : State), ∃ c x m rest, (ctxOf s c x).saves = m :: rest ∧ x < 4 ∧ coreActs s c = true ∧ cutAt s c = none ∧ mayBeSaved s c x
    = true ∧ slotBad s c (idleB (cellOf s c)) = true) ∧
  (∃ (s : State), ∃ c x m rest, (ctxOf s c x).saves = m :: rest ∧ (ctxOf s c x).st = .saved ∧ cutAt s c = none) ∧
  (∃ (s : State), ∃ n m a c x i p, arrived s n = some m ∧ m.body = .answer a ∧ a.asker = .entry c x i ∧ a.cause = none ∧ a.recorded
    = false ∧ (Tbl.get {} (ctxOf s c x).pend i : Entry).st = .opened ∧ (Tbl.get {} (ctxOf s c x).pend i : Entry).left = 1 ∧
    (Tbl.get {} (ctxOf s c x).pend i : Entry).cause = none ∧ (ctxOf s c x).st = .saved ∧ (cellOf s c).savedPoint = false ∧ (cellOf
    s c).sister = none ∧ (ctxOf s c x).record = true ∧ idleSlot s c = some p ∧ (Tbl.get {} (slotCtx p x).pend i : Entry) = Tbl.get
    {} (ctxOf s c x).pend i) ∧
  (∃ (s : State), ∃ n m f a w, let x := ((f.addr.extractLsb' 20 3).toNat); Came s n m (.mgmt f a) ∧ f.fn = 35 ∧ f.sub = 0 ∧ x < 4 ∧
    ((ctxOf s m.dst x).st = .saved ∨ (ctxOf s m.dst x).st = .halted) ∧ newestRecord (cellOf s m.dst) x = some w ∧ slotBad s m.dst
    (recordB (cellOf s m.dst) x) = false) ∧
  (∃ (s : State), ∃ n m f a, let x := ((f.addr.extractLsb' 20 3).toNat); Came s n m (.mgmt f a) ∧ f.fn = 35 ∧ f.sub = 0 ∧ x < 4 ∧
    (((ctxOf s m.dst x).st ≠ .saved ∧ (ctxOf s m.dst x).st ≠ .halted) ∨ newestRecord (cellOf s m.dst) x = none)) ∧
  (∃ (s : State), ∃ r req, (regionAt s r).rolling = some req ∧ (∀ c ∈ regionCells s r, cellUnfit s c = false ∧ regionOf s c = some
    r) ∧ (regionCells s r).Nodup ∧ Memory.wf s.mem = true) ∧
  (∃ (s : State), ∃ r, (regionAt s r).ended = true) ∧
  (∃ (s : State), ∃ r, (regionAt s r).ended = false ∧ (regionAt s r).watched ≠ some (regionWork s r)) ∧
  (∃ (s : State), ∃ r, (regionCells s r).Nodup ∧ (regionAt s r).ended = false ∧ (regionAt s r).watched = some (regionWork s r)) := by
  refine ⟨?_, ?_, ?_, ?_, ?_, ?_, ?_, ?_, ?_, ?_⟩
  · refine ⟨(soloCtx 0 3 { saves := [{ fn := 34, sub := 0, addr := 0, b := 0, core := 1048576, reply := 9 }] } {}), 0, 3,
        { fn := 34, sub := 0, addr := 0, b := 0, core := 1048576, reply := 9 }, [], ?_, ?_, ?_, ?_, ?_, ?_⟩
    all_goals first | decide +kernel | rfl | (constructor <;> first | decide +kernel | rfl)
  · refine
        ⟨{ soloCtx 0 3 { saves := [{ fn := 34, sub := 0, addr := 0, b := 0, core := 1048576, reply := 9 }] } {} with bad := [loftKey 0 (slotBase false), loftKey 0 (slotBase true)] },
        0, 3, { fn := 34, sub := 0, addr := 0, b := 0, core := 1048576, reply := 9 }, [], ?_, ?_, ?_, ?_, ?_, ?_⟩
    all_goals first | decide +kernel | rfl | (constructor <;> first | decide +kernel | rfl)
  · refine ⟨(soloCtx 0 3 { saves := [{ fn := 34, sub := 0, addr := 0, b := 0, core := 1048576, reply := 9 }], st := .saved } {}),
        0, 3, { fn := 34, sub := 0, addr := 0, b := 0, core := 1048576, reply := 9 }, [], ?_, ?_, ?_⟩
    all_goals first | decide +kernel | rfl | (constructor <;> first | decide +kernel | rfl)
  · refine
        ⟨{ modCell (soloCtx 0 3 { st := .saved, record := true, pend := [(31, { st := .opened, left := 1 })] } {}) 0 fun x => { x with slotA := some { core := { ctxs := [(3, { pend := [(31, { st := .opened, left := 1 })], regs := [(63, Lanes.all 7)] })] }, sram := [], full := [], complete := false, sealed_ := false } } with net := [{ src := 1, dst := 0, at_ := 0, vc := 5, body := .answer { asker := .entry 0 3 31 } }] },
        0, { src := 1, dst := 0, at_ := 0, vc := 5, body := .answer { asker := .entry 0 3 31 } }, { asker := .entry 0 3 31 }, 0, 3,
        31,
        { core := { ctxs := [(3, { pend := [(31, { st := .opened, left := 1 })], regs := [(63, Lanes.all 7)] })] }, sram := [], full := [], complete := false, sealed_ := false },
        ?_, ?_, ?_, ?_, ?_, ?_, ?_, ?_, ?_, ?_, ?_, ?_, ?_, ?_⟩
    all_goals first | decide +kernel | rfl | (constructor <;> first | decide +kernel | rfl)
  · refine ⟨(mail 1048576 0 4 (.mgmt { fn := 35, sub := 0, addr := 0x300000, b := 0, core := 1048576, reply := 9 } .nobody)
        (modCell (place 0 0 1 1 (soloCtx 0 3 { st := .halted, record := true } {})) 0 fun x =>
        { x with slotA := some { core := { ctxs := [(3, { pend := [(31, { st := .opened, left := 1 })], regs := [(63, Lanes.all 7)] })] }, sram := [], full := [], complete := false, sealed_ := false } })),
        0,
        { src := 1048576, dst := 0, at_ := 0, vc := 4, body := .mgmt { fn := 35, sub := 0, addr := 0x300000, b := 0, core := 1048576, reply := 9 } .nobody },
        { fn := 35, sub := 0, addr := 0x300000, b := 0, core := 1048576, reply := 9 }, .nobody,
        { pend := [(31, { st := .opened, left := 1 })], regs := [(63, Lanes.all 7)] }, ⟨by decide +kernel, rfl, by decide +kernel,
        by decide +kernel, by decide +kernel⟩, ?_, ?_, ?_, ?_, ?_, ?_⟩
    all_goals first | decide +kernel | rfl | (constructor <;> first | decide +kernel | rfl)
  · refine ⟨(mail 1048576 0 4 (.mgmt { fn := 35, sub := 0, addr := 0x300000, b := 0, core := 1048576, reply := 9 } .nobody)
        (modCell (place 0 0 1 1 (soloCtx 0 3 {} {})) 0 fun x => x)), 0,
        { src := 1048576, dst := 0, at_ := 0, vc := 4, body := .mgmt { fn := 35, sub := 0, addr := 0x300000, b := 0, core := 1048576, reply := 9 } .nobody },
        { fn := 35, sub := 0, addr := 0x300000, b := 0, core := 1048576, reply := 9 }, .nobody, ⟨by decide +kernel, rfl, by
        decide +kernel, by decide +kernel, by decide +kernel⟩, ?_, ?_, ?_, ?_⟩
    all_goals first | decide +kernel | rfl | (constructor <;> first | decide +kernel | rfl)
  · refine
        ⟨{ (modCell (place 0 0 1 1 (solo 0 {})) 0 fun x => x) with regions := [(0, { st := .resident, w := 1, h := 1, rolling := some none, hold := true })] },
        0, none, ?_, ?_, ?_, ?_⟩
    all_goals first | decide +kernel | rfl | (constructor <;> first | decide +kernel | rfl)
  · refine
        ⟨{ (modCell (place 0 0 1 1 (solo 0 {})) 0 fun x => x) with regions := [(0, { st := .resident, w := 1, h := 1, ended := true })] },
        0, ?_⟩
    all_goals first | decide +kernel | rfl | (constructor <;> first | decide +kernel | rfl)
  · refine ⟨{ (modCell (place 0 0 1 1 (solo 0 {})) 0 fun x => x) with regions := [(0, { st := .resident, w := 1, h := 1 })] }, 0,
        ?_, ?_⟩
    all_goals first | decide +kernel | rfl | (constructor <;> first | decide +kernel | rfl)
  · refine
        ⟨{ (modCell (place 0 0 1 1 (solo 0 {})) 0 fun x => x) with regions := [(0, { st := .resident, w := 1, h := 1, watched := some 0 })] },
        0, ?_, ?_, ?_⟩
    all_goals first | decide +kernel | rfl | (constructor <;> first | decide +kernel | rfl)

theorem witness_spares_and_sisters_take_over :
  (∃ (s : State), ∃ z p m, (cellOf s z).partner = some p ∧ (cellOf s z).sistering = some m ∧ (cellOf s z).inReset = false ∧ (cellOf
    s z).synced = false ∧ Memory.wf s.mem = true ∧ p ≠ z) ∧
  (∃ (s : State), ∃ z p m rest, (cellOf s z).mirror = m :: rest ∧ (cellOf s z).partner = some p ∧ p ≠ z) ∧
  (∃ (s : State), ∃ a z m, (cellOf s a).takeover = some m ∧ (cellOf s a).sister = some z ∧ a ≠ z ∧ mayTakeOver s a = true ∧ (cellOf
    s z).synced = true) ∧
  (∃ (s : State), ∃ a z m, (cellOf s a).takeover = some m ∧ (cellOf s a).sister = some z ∧ (cellOf s z).synced = false) ∧
  (∃ (s : State), ∃ a z, (cellOf s a).inReset = false ∧ isCellCore a = true ∧ (cellOf s a).sister = some z ∧ a ≠ z ∧ (cellOf s
    z).synced = true ∧ (cellOf s z).mirror = [] ∧ enginesIdle s a = true ∧ (cellOf s a).routerError = false ∧ (cellOf s
    a).loftError = false) ∧
  (∃ (s : State), ∃ a, (cellOf s a).inReset = false ∧ isCellCore a = true ∧ (∀ z, (cellOf s a).sister = some z → (cellOf s
    z).synced = false ∨ enginesIdle s a = false ∨ (cellOf s a).routerError = true ∨ (cellOf s a).loftError = true)) ∧
  (∃ (s : State), ∃ c, (cellOf s c).roving = false ∧ mayTest s c = false) ∧
  (∃ (s : State), ∃ c p, s.booted = true ∧ (cellOf s c).inReset = false ∧ (cellOf s c).defect = false ∧ cutAt s c = none ∧
    isCellCore c = true ∧ (cellOf s c).roving = true ∧ (cellOf s c).partner = some p ∧ (cellOf s p).sister = some c ∧ p ≠ c ∧
    isCellCore p = true) ∧
  (∃ (s : State), ∃ c, s.booted = true ∧ ((cellOf s c).roving = true ∨ mayTest s c = true) ∧ (cellOf s c).inReset = false ∧ (cellOf
    s c).defect = false ∧ cutAt s c = none ∧ isCellCore c = true ∧ (cellOf s c).region = none ∧ (cellOf s c).partner = none ∧
    (cellOf s c).testing = none) ∧
  (∃ (s : State), ∃ c z, s.booted = true ∧ ((cellOf s c).roving = true ∨ mayTest s c = true) ∧ (cellOf s c).inReset = false ∧
    (cellOf s c).defect = false ∧ cutAt s c = none ∧ isCellCore c = true ∧ (cellOf s c).region ≠ none ∧ (cellOf s c).partner = none
    ∧ (cellOf s c).sister = some z ∧ (cellOf s z).synced = true ∧ (cellOf s c).takeover = none) ∧
  (∃ (s : State), ∃ c m, (cellOf s c).testing = some m) ∧
  (∃ (s : State), ∃ c m, (cellOf s c).testing = some m) ∧
  (∃ (s : State), ∃ dead spare r, regionOf s dead = some r ∧ (regionAt s r).rolling ≠ none ∧ logicalOf s spare = some
    (placeInRegion s r dead) ∧ cellUnfit s dead = true ∧ cellUnfit s spare = false ∧ regionOf s spare = none ∧ isCellCore spare =
    true ∧ bayOf spare = bayOf dead ∧ (cellOf s spare).partner = none ∧ dead ≠ spare) ∧
  (∃ (s : State), ∃ c, isCellCore c = true ∧ isDead s c = false) := by
  refine ⟨?_, ?_, ?_, ?_, ?_, ?_, ?_, ?_, ?_, ?_, ?_, ?_, ?_, ?_⟩
  · refine
        ⟨{ State.reset with cells := [(0, { inReset := false, sister := some 1 }), (1, { inReset := false, partner := some 0, sistering := some { fn := 39, sub := 0, addr := 0, b := 0, core := 1048576, reply := 9 } })] },
        1, 0, { fn := 39, sub := 0, addr := 0, b := 0, core := 1048576, reply := 9 }, ?_, ?_, ?_, ?_, ?_, ?_⟩
    all_goals first | decide +kernel | rfl | (constructor <;> first | decide +kernel | rfl)
  · refine
        ⟨{ State.reset with cells := [(0, { inReset := false, sister := some 1 }), (1, { inReset := false, partner := some 0, mirror := [({}, [], [])] })] },
        1, 0, ({}, [], []), [], ?_, ?_, ?_⟩
    all_goals first | decide +kernel | rfl | (constructor <;> first | decide +kernel | rfl)
  · refine
        ⟨{ State.reset with cells := [(0, { inReset := false, region := some 0, sister := some 1, takeover := some { fn := 40, sub := 0, addr := 0, b := 0, core := 1048576, reply := 9 } }), (1, { inReset := false, partner := some 0, synced := true })], regions := [(0, { st := .resident, w := 1, h := 1 })] },
        0, 1, { fn := 40, sub := 0, addr := 0, b := 0, core := 1048576, reply := 9 }, ?_, ?_, ?_, ?_, ?_⟩
    all_goals first | decide +kernel | rfl | (constructor <;> first | decide +kernel | rfl)
  · refine
        ⟨{ State.reset with cells := [(0, { inReset := false, region := some 0, sister := some 1, takeover := some { fn := 40, sub := 0, addr := 0, b := 0, core := 1048576, reply := 9 } }), (1, { inReset := false, partner := some 0 })], regions := [(0, { st := .resident, w := 1, h := 1 })] },
        0, 1, { fn := 40, sub := 0, addr := 0, b := 0, core := 1048576, reply := 9 }, ?_, ?_, ?_⟩
    all_goals first | decide +kernel | rfl | (constructor <;> first | decide +kernel | rfl)
  · refine
        ⟨{ State.reset with cells := [(0, { inReset := false, region := some 0, sister := some 1 }), (1, { inReset := false, partner := some 0, synced := true })], regions := [(0, { st := .resident, w := 1, h := 1 })] },
        0, 1, ?_, ?_, ?_, ?_, ?_, ?_, ?_, ?_, ?_⟩
    all_goals first | decide +kernel | rfl | (constructor <;> first | decide +kernel | rfl)
  · refine
        ⟨{ State.reset with cells := [(0, { inReset := false, region := some 0, sister := some 1 }), (1, { inReset := false, partner := some 0 })], regions := [(0, { st := .resident, w := 1, h := 1 })] },
        0, ?_, ?_, of_only 1 (by decide +kernel) (.inl (by decide +kernel))⟩
    all_goals first | decide +kernel | rfl | (constructor <;> first | decide +kernel | rfl)
  · refine ⟨{ State.reset with cells := [(0, { inReset := false }), (1, {})], bays := [(0, { retired := true })] }, 0, ?_, ?_⟩
    all_goals first | decide +kernel | rfl | (constructor <;> first | decide +kernel | rfl)
  · refine
        ⟨{ State.reset with cells := [(0, { inReset := false, sister := some 1 }), (1, { inReset := false, partner := some 0, synced := true, roving := true })], booted := true },
        1, 0, ?_, ?_, ?_, ?_, ?_, ?_, ?_, ?_, ?_, ?_⟩
    all_goals first | decide +kernel | rfl | (constructor <;> first | decide +kernel | rfl)
  · refine ⟨{ State.reset with cells := [(0, { inReset := false }), (1, {})], booted := true }, 0, ?_, ?_, ?_, ?_, ?_, ?_, ?_,
        ?_, ?_⟩
    all_goals first | decide +kernel | rfl | (constructor <;> first | decide +kernel | rfl)
  · refine
        ⟨{ State.reset with cells := [(0, { inReset := false, region := some 0, sister := some 1 }), (1, { inReset := false, partner := some 0, synced := true })], regions := [(0, { st := .resident, w := 1, h := 1 })], booted := true },
        0, 1, ?_, ?_, ?_, ?_, ?_, ?_, ?_, ?_, ?_, ?_, ?_⟩
    all_goals first | decide +kernel | rfl | (constructor <;> first | decide +kernel | rfl)
  · refine
        ⟨{ State.reset with cells := [(0, { inReset := false, testing := some { fn := 38, sub := 0, addr := 0, b := 0, core := 1048576, reply := 9 } }), (1, {})] },
        0, { fn := 38, sub := 0, addr := 0, b := 0, core := 1048576, reply := 9 }, ?_⟩
    all_goals first | decide +kernel | rfl | (constructor <;> first | decide +kernel | rfl)
  · refine
        ⟨{ State.reset with cells := [(0, { inReset := false, testing := some { fn := 38, sub := 0, addr := 0, b := 0, core := 1048576, reply := 9 } }), (1, {})] },
        0, { fn := 38, sub := 0, addr := 0, b := 0, core := 1048576, reply := 9 }, ?_⟩
    all_goals first | decide +kernel | rfl | (constructor <;> first | decide +kernel | rfl)
  · refine
        ⟨{ State.reset with cells := [(0, { inReset := false, region := some 0, defect := true }), (30, { inReset := false })], embed := [(0, 30)], regions := [(0, { st := .resident, w := 1, h := 1, rolling := some none })] },
        0, 30, 0, ?_, ?_, ?_, ?_, ?_, ?_, ?_, ?_, ?_, ?_⟩
    all_goals first | decide +kernel | rfl | (constructor <;> first | decide +kernel | rfl)
  · refine ⟨{ State.reset with cells := [(0, { inReset := false }), (1, {})] }, 0, ?_, ?_⟩
    all_goals first | decide +kernel | rfl | (constructor <;> first | decide +kernel | rfl)

theorem witness_management_reaches_its_targets :
  (∃ (s : State), ∃ n m c off a l, Reached s n m (.register (.cell c off) none a l)) ∧
  (∃ (s : State), ∃ n m c w a l, Reached s n m (.register (.cell c 0x40) (some w) a l)) ∧
  (∃ (s : State), ∃ n m b w a l, Reached s n m (.register (.bay b 4) (some w) a l)) ∧
  (∃ (s : State), ∃ n m b w a l, Reached s n m (.register (.bay b 0x18) (some w) a l) ∧ isBayCore m.src = true) ∧
  (∃ (s : State), ∃ b, s.booted = true ∧ isDead s (bayCore b) = false) ∧
  (∃ (s : State), ∃ c, s.booted = true ∧ isDead s c = false) ∧
  (∃ (s : State), ∃ n m f a r, CameFn s n m f a 33 ∧ regionOf s m.dst = some r ∧ cutRefused (regionAt s r) = false) ∧
  (∃ (s : State), ∃ n m f a, let x := ((f.addr.extractLsb' 20 3).toNat); CameFn s n m f a 34 ∧ x < 4 ∧ (ctxOf s m.dst x).st ≠
    .saved) ∧
  (∃ (s : State), ∃ n m f a r, CameFn s n m f a 35 ∧ f.sub = 1 ∧ regionOf s m.dst = some r ∧ (regionAt s r).complete = true ∧
    (regionAt s r).rolling = none ∧ (∀ c ∈ regionCells s r, slotBad s c (cellOf s c).lastB = false ∧ undoBad s c = false)) ∧
  (∃ (s : State), ∃ n m f a r k, CameFn s n m f a 35 ∧ f.sub = 1 ∧ regionOf s m.dst = some r ∧ (regionAt s r).complete = true ∧
    (regionAt s r).rolling = none ∧ k ∈ regionCells s r ∧ (slotBad s k (cellOf s k).lastB = true ∨ undoBad s k = true) ∧ k <
    1048576) ∧
  (∃ (s : State), ∃ n m f a, CameFn s n m f a 37 ∧ f.sub = 1 ∧ f.sill = false) ∧
  (∃ (s : State), ∃ n m f a, CameFn s n m f a 37 ∧ (f.sub = 0 ∨ f.sill = true)) ∧
  (∃ (s : State), ∃ n m f a, CameFn s n m f a 38 ∧ (cellOf s m.dst).region = none ∧ (cellOf s m.dst).partner = none ∧ (cellOf s
    m.dst).testing = none) ∧
  (∃ (s : State), ∃ n m f a z, CameFn s n m f a 40 ∧ (cellOf s m.dst).sister = some z ∧ (cellOf s z).synced = true ∧ (cellOf s
    m.dst).takeover = none) ∧
  (∃ (s : State), ∃ n m f a, CameFn s n m f a 41 ∧ f.sub = 0 ∧ (bayAt s (bayOf m.dst)).ready = true ∧ vmin (spineMhz s
    (f.b.extractLsb' 0 3).toNat) ≤ (bayAt s (bayOf m.dst)).mv) ∧
  (∃ (s : State), ∃ n m f a, CameFn s n m f a 43 ∧ f.b &&& 0xFF80FFF0 = f.b ∧ (f.b.extractLsb' 23 3).toNat < 4) ∧
  (∃ (s : State), ∃ n m f a, arrived s n = some m ∧ m.body = .mgmt f a ∧ f.fn ≠ 36 ∧ ¬ (f.fn = 35 ∧ f.sub = 0) ∧ isDead s m.dst =
    true) ∧
  (∃ (s : State), ∃ n m f a, Reached s n m (.mgmt f a) ∧ f.fn = 36 ∧ (imageWord f.image 1).extractLsb' 16 16 = BitVec.ofNat 16
    (bayAt s (bayOf m.dst)).vbundle ∧ (bayAt s (bayOf m.dst)).vbundle < 2 ^ 16) ∧
  (∃ (s : State) (n : Nat) (f : MgmtFn) (b : Nat), s.flips[n]? = some (f, b) ∧ f.sub = 0 ∧ b < 1024 ∧ flipWaits s [b] = false) ∧
  (∃ (s : State) (n : Nat) (f : MgmtFn) (b : Nat) (k : Nat), s.flips[n]? = some (f, b) ∧ f.sub = 1 ∧ k ∈ (bayAt s b).bundleBays ∧
    (bayAt s k).vbundle ≠ (bayAt s b).vbundle ∧ flipWaits s (bayAt s b).bundleBays = false) ∧
  (∃ (s : State) (d : ScribeBundle), s.booted = true ∧ (d.bays.map fun p => p.1).Nodup) ∧
  (∃ (s : State), s.booted = false) ∧
  (∃ (s : State), ∃ n m f c x i k, Reached s n m (.mgmt f (.entry c x i)) ∧ cutAt s m.dst = some k ∧ (f.fn = 34 ∨ (f.fn = 35 ∧
    f.sub = 1) ∨ f.fn = 38 ∨ f.fn = 40)) := by
  refine ⟨?_, ?_, ?_, ?_, ?_, ?_, ?_, ?_, ?_, ?_, ?_, ?_, ?_, ?_, ?_, ?_, ?_, ?_, ?_, ?_, ?_, ?_, ?_⟩
  · refine ⟨(mail 1048576 0 4 (.register (.cell 0 0x40) none .nobody 7) (modCell (place 0 0 1 1 (soloCtx 0 3 {} {})) 0 fun x =>
        x)), 0, { src := 1048576, dst := 0, at_ := 0, vc := 4, body := .register (.cell 0 0x40) none .nobody 7 }, 0, 0x40, .nobody,
        7, ⟨by decide +kernel, rfl, by decide +kernel⟩⟩
  · refine ⟨(mail 1048576 0 4 (.register (.cell 0 0x40) (some 0xFFFFFFFF) .nobody 7) (modCell (place 0 0 1 1 (soloCtx 0 3 {} {}))
        0 fun x => x)), 0,
        { src := 1048576, dst := 0, at_ := 0, vc := 4, body := .register (.cell 0 0x40) (some 0xFFFFFFFF) .nobody 7 }, 0,
        0xFFFFFFFF, .nobody, 7, ⟨by decide +kernel, rfl, by decide +kernel⟩⟩
  · refine ⟨(modCell (mail 1048576 1048576 4 (.register (.bay 0 4) (some 0xFFFFFFFF) .nobody 7) (modCell (place 0 0 1 1 (soloCtx
        0 3 {} {})) 0 fun x => x)) 1048576 fun x => { x with inReset := false }), 0,
        { src := 1048576, dst := 1048576, at_ := 1048576, vc := 4, body := .register (.bay 0 4) (some 0xFFFFFFFF) .nobody 7 }, 0,
        0xFFFFFFFF, .nobody, 7, ⟨by decide +kernel, rfl, by decide +kernel⟩⟩
  · refine ⟨(modCell (mail 1048576 1048576 4 (.register (.bay 0 0x18) (some 0xFFFFFFFF) .nobody 7) (modCell (place 0 0 1 1
        (soloCtx 0 3 {} {})) 0 fun x => x)) 1048576 fun x => { x with inReset := false }), 0,
        { src := 1048576, dst := 1048576, at_ := 1048576, vc := 4, body := .register (.bay 0 0x18) (some 0xFFFFFFFF) .nobody 7 },
        0, 0xFFFFFFFF, .nobody, 7, ⟨by decide +kernel, rfl, by decide +kernel⟩, ?_⟩
    all_goals first | decide +kernel | rfl | (constructor <;> first | decide +kernel | rfl)
  · refine ⟨{ solo 1048576 {} with booted := true }, 0, ?_, ?_⟩
    all_goals first | decide +kernel | rfl | (constructor <;> first | decide +kernel | rfl)
  · refine ⟨{ solo 0 {} with booted := true }, 0, ?_, ?_⟩
    all_goals first | decide +kernel | rfl | (constructor <;> first | decide +kernel | rfl)
  · refine ⟨(mail 1048576 0 4 (.mgmt { fn := 33, sub := 1, addr := 0, b := 0, core := 1048576, reply := 9 } .nobody) (modCell
        (place 0 0 1 1 (soloCtx 0 3 {} {})) 0 fun x => x)), 0,
        { src := 1048576, dst := 0, at_ := 0, vc := 4, body := .mgmt { fn := 33, sub := 1, addr := 0, b := 0, core := 1048576, reply := 9 } .nobody },
        { fn := 33, sub := 1, addr := 0, b := 0, core := 1048576, reply := 9 }, .nobody, 0, ⟨⟨by decide +kernel, rfl, by
        decide +kernel⟩, by decide +kernel, by decide +kernel⟩, ?_, ?_⟩
    all_goals first | decide +kernel | rfl | (constructor <;> first | decide +kernel | rfl)
  · refine ⟨(mail 1048576 0 4 (.mgmt { fn := 34, sub := 0, addr := 0x300000, b := 0, core := 1048576, reply := 9 } .nobody)
        (modCell (place 0 0 1 1 (soloCtx 0 3 {} {})) 0 fun x => x)), 0,
        { src := 1048576, dst := 0, at_ := 0, vc := 4, body := .mgmt { fn := 34, sub := 0, addr := 0x300000, b := 0, core := 1048576, reply := 9 } .nobody },
        { fn := 34, sub := 0, addr := 0x300000, b := 0, core := 1048576, reply := 9 }, .nobody, ⟨⟨by decide +kernel, rfl, by
        decide +kernel⟩, by decide +kernel, by decide +kernel⟩, ?_, ?_⟩
    all_goals first | decide +kernel | rfl | (constructor <;> first | decide +kernel | rfl)
  · refine
        ⟨{ (mail 1048576 0 4 (.mgmt { fn := 35, sub := 1, addr := 0, b := 0, core := 1048576, reply := 9 } .nobody) (modCell (place 0 0 1 1 (soloCtx 0 3 {} {})) 0 fun x => x)) with regions := [(0, { st := .resident, w := 1, h := 1, complete := true })] },
        0,
        { src := 1048576, dst := 0, at_ := 0, vc := 4, body := .mgmt { fn := 35, sub := 1, addr := 0, b := 0, core := 1048576, reply := 9 } .nobody },
        { fn := 35, sub := 1, addr := 0, b := 0, core := 1048576, reply := 9 }, .nobody, 0, ⟨⟨by decide +kernel, rfl, by
        decide +kernel⟩, by decide +kernel, by decide +kernel⟩, ?_, ?_, ?_, ?_, ?_⟩
    all_goals first | decide +kernel | rfl | (constructor <;> first | decide +kernel | rfl)
  · refine
        ⟨{ (mail 1048576 0 4 (.mgmt { fn := 35, sub := 1, addr := 0, b := 0, core := 1048576, reply := 9 } .nobody) (modCell (place 0 0 1 1 (soloCtx 0 3 {} {})) 0 fun x => x)) with regions := [(0, { st := .resident, w := 1, h := 1, complete := true })], bad := [loftKey 0 0x1FC000] },
        0,
        { src := 1048576, dst := 0, at_ := 0, vc := 4, body := .mgmt { fn := 35, sub := 1, addr := 0, b := 0, core := 1048576, reply := 9 } .nobody },
        { fn := 35, sub := 1, addr := 0, b := 0, core := 1048576, reply := 9 }, .nobody, 0, 0, ⟨⟨by decide +kernel, rfl, by
        decide +kernel⟩, by decide +kernel, by decide +kernel⟩, ?_, ?_, ?_, ?_, ?_, ?_, ?_⟩
    all_goals first | decide +kernel | rfl | (constructor <;> first | decide +kernel | rfl)
  · refine ⟨(modCell (mail 1048576 1048576 4 (.mgmt { fn := 37, sub := 1, addr := 0, b := 0, core := 1048576, reply := 9 }
        .nobody) (modCell (place 0 0 1 1 (soloCtx 0 3 {} {})) 0 fun x => x)) 1048576 fun x => { x with inReset := false }), 0,
        { src := 1048576, dst := 1048576, at_ := 1048576, vc := 4, body := .mgmt { fn := 37, sub := 1, addr := 0, b := 0, core := 1048576, reply := 9 } .nobody },
        { fn := 37, sub := 1, addr := 0, b := 0, core := 1048576, reply := 9 }, .nobody, ⟨⟨by decide +kernel, rfl, by
        decide +kernel⟩, by decide +kernel, by decide +kernel⟩, ?_, ?_⟩
    all_goals first | decide +kernel | rfl | (constructor <;> first | decide +kernel | rfl)
  · refine ⟨(modCell (mail 1048576 1048576 4 (.mgmt { fn := 37, sub := 0, addr := 0, b := 0, core := 1048576, reply := 9 }
        .nobody) (modCell (place 0 0 1 1 (soloCtx 0 3 {} {})) 0 fun x => x)) 1048576 fun x => { x with inReset := false }), 0,
        { src := 1048576, dst := 1048576, at_ := 1048576, vc := 4, body := .mgmt { fn := 37, sub := 0, addr := 0, b := 0, core := 1048576, reply := 9 } .nobody },
        { fn := 37, sub := 0, addr := 0, b := 0, core := 1048576, reply := 9 }, .nobody, ⟨⟨by decide +kernel, rfl, by
        decide +kernel⟩, by decide +kernel, by decide +kernel⟩, ?_⟩
    all_goals first | decide +kernel | rfl | (constructor <;> first | decide +kernel | rfl)
  · refine
        ⟨{ (mail 1048576 0 4 (.mgmt { fn := 38, sub := 0, addr := 0, b := 0, core := 1048576, reply := 9 } .nobody) (modCell (place 0 0 1 1 (soloCtx 0 3 {} {})) 0 fun x => x)) with cells := [(0, { inReset := false })] },
        0,
        { src := 1048576, dst := 0, at_ := 0, vc := 4, body := .mgmt { fn := 38, sub := 0, addr := 0, b := 0, core := 1048576, reply := 9 } .nobody },
        { fn := 38, sub := 0, addr := 0, b := 0, core := 1048576, reply := 9 }, .nobody, ⟨⟨by decide +kernel, rfl, by
        decide +kernel⟩, by decide +kernel, by decide +kernel⟩, ?_, ?_, ?_⟩
    all_goals first | decide +kernel | rfl | (constructor <;> first | decide +kernel | rfl)
  · refine
        ⟨{ (mail 1048576 0 4 (.mgmt { fn := 40, sub := 0, addr := 0, b := 0, core := 1048576, reply := 9 } .nobody) (modCell (place 0 0 1 1 (soloCtx 0 3 {} {})) 0 fun x => { x with sister := some 1 })) with cells := [(0, { inReset := false, region := some 0, regdim := 0x10001, sister := some 1 }), (1, { inReset := false, partner := some 0, synced := true })] },
        0,
        { src := 1048576, dst := 0, at_ := 0, vc := 4, body := .mgmt { fn := 40, sub := 0, addr := 0, b := 0, core := 1048576, reply := 9 } .nobody },
        { fn := 40, sub := 0, addr := 0, b := 0, core := 1048576, reply := 9 }, .nobody, 1, ⟨⟨by decide +kernel, rfl, by
        decide +kernel⟩, by decide +kernel, by decide +kernel⟩, ?_, ?_, ?_⟩
    all_goals first | decide +kernel | rfl | (constructor <;> first | decide +kernel | rfl)
  · refine ⟨(mail 1048576 0 4 (.mgmt { fn := 41, sub := 0, addr := 0, b := 0, core := 1048576, reply := 9 } .nobody) (modCell
        (place 0 0 1 1 (soloCtx 0 3 {} {})) 0 fun x => x)), 0,
        { src := 1048576, dst := 0, at_ := 0, vc := 4, body := .mgmt { fn := 41, sub := 0, addr := 0, b := 0, core := 1048576, reply := 9 } .nobody },
        { fn := 41, sub := 0, addr := 0, b := 0, core := 1048576, reply := 9 }, .nobody, ⟨⟨by decide +kernel, rfl, by
        decide +kernel⟩, by decide +kernel, by decide +kernel⟩, ?_, ?_, ?_⟩
    all_goals first | decide +kernel | rfl | (constructor <;> first | decide +kernel | rfl)
  · refine ⟨(mail 1048576 0 4 (.mgmt { fn := 43, sub := 0, addr := 0x7F800000, b := 0xB180FFF0, core := 1048576, reply := 9 }
        .nobody) (modCell (place 0 0 1 1 (soloCtx 0 3 {} {})) 0 fun x => x)), 0,
        { src := 1048576, dst := 0, at_ := 0, vc := 4, body := .mgmt { fn := 43, sub := 0, addr := 0x7F800000, b := 0xB180FFF0, core := 1048576, reply := 9 } .nobody },
        { fn := 43, sub := 0, addr := 0x7F800000, b := 0xB180FFF0, core := 1048576, reply := 9 }, .nobody, ⟨⟨by decide +kernel,
        rfl, by decide +kernel⟩, by decide +kernel, by decide +kernel⟩, ?_, ?_⟩
    all_goals first | decide +kernel | rfl | (constructor <;> first | decide +kernel | rfl)
  · refine ⟨(mail 1048576 0 4 (.mgmt { fn := 33, sub := 0, addr := 0, b := 0, core := 1048576, reply := 9 } .nobody)
        State.reset), 0,
        { src := 1048576, dst := 0, at_ := 0, vc := 4, body := .mgmt { fn := 33, sub := 0, addr := 0, b := 0, core := 1048576, reply := 9 } .nobody },
        { fn := 33, sub := 0, addr := 0, b := 0, core := 1048576, reply := 9 }, .nobody, ?_, ?_, ?_, ?_, ?_⟩
    all_goals first | decide +kernel | rfl | (constructor <;> first | decide +kernel | rfl)
  · refine ⟨(mail 1048576 0 4 (.mgmt
        { fn := 36, sub := 0, addr := 0, b := 0, core := 1048576, reply := 9, image := List.replicate 40 0 } .nobody) (modCell
        (place 0 0 1 1 (soloCtx 0 3 {} {})) 0 fun x => x)), 0,
        { src := 1048576, dst := 0, at_ := 0, vc := 4, body := .mgmt { fn := 36, sub := 0, addr := 0, b := 0, core := 1048576, reply := 9, image := List.replicate 40 0 } .nobody },
        { fn := 36, sub := 0, addr := 0, b := 0, core := 1048576, reply := 9, image := List.replicate 40 0 }, .nobody, ⟨by
        decide +kernel, rfl, by decide +kernel⟩, ?_, ?_, ?_⟩
    all_goals first | decide +kernel | rfl | (constructor <;> first | decide +kernel | rfl)
  · refine ⟨{ State.reset with flips := [({ fn := 37, sub := 0, addr := 0, b := 0, core := 1048576, reply := 9 }, 1023)] }, 0,
        { fn := 37, sub := 0, addr := 0, b := 0, core := 1048576, reply := 9 }, 1023, ?_, ?_, ?_, ?_⟩
    all_goals first | decide +kernel | rfl | (constructor <;> first | decide +kernel | rfl)
  · refine
        ⟨{ State.reset with flips := [({ fn := 37, sub := 1, addr := 0, b := 0, core := 1048576, reply := 9 }, 0)], bays := [(0, { bundleBays := [0, 1], vbundle := 1 })] },
        0, { fn := 37, sub := 1, addr := 0, b := 0, core := 1048576, reply := 9 }, 0, 1, ?_, ?_, ?_, ?_, ?_⟩
    all_goals first | decide +kernel | rfl | (constructor <;> first | decide +kernel | rfl)
  · refine ⟨{ State.reset with booted := true }, ⟨1, 1, 0, [], []⟩, ?_, ?_⟩
    all_goals first | decide +kernel | rfl | (constructor <;> first | decide +kernel | rfl)
  · refine ⟨State.reset, ?_⟩
    all_goals first | decide +kernel | rfl | (constructor <;> first | decide +kernel | rfl)
  · refine
        ⟨{ (mail 1048576 0 4 (.mgmt { fn := 34, sub := 0, addr := 0x300000, b := 0, core := 1048576, reply := 9 } (.entry 1048576 0 3)) (modCell (place 0 0 1 1 (soloCtx 0 3 {} {})) 0 fun x => x)) with regions := [(0, { st := .resident, w := 1, h := 1, cut := some ⟨0, none⟩ })] },
        0,
        { src := 1048576, dst := 0, at_ := 0, vc := 4, body := .mgmt { fn := 34, sub := 0, addr := 0x300000, b := 0, core := 1048576, reply := 9 } (.entry 1048576 0 3) },
        { fn := 34, sub := 0, addr := 0x300000, b := 0, core := 1048576, reply := 9 }, 1048576, 0, 3, (0, ⟨0, none⟩), ⟨by
        decide +kernel, rfl, by decide +kernel⟩, ?_, ?_⟩
    all_goals first | decide +kernel | rfl | (constructor <;> first | decide +kernel | rfl)

theorem witness_fleet_events_do_as_told :
  (∃ (s : State), ∃ b, s.booted = true ∧ (bayAt s b).attachDown = false ∧ (bayAt s b).samples.length ≤ 600) ∧
  (∃ (s : State), ∃ b, (s.booted = false ∨ (bayAt s b).attachDown = true)) ∧
  (∃ (s : State), s.booted = true) ∧
  (∃ (s : State), s.booted = true) ∧
  (∃ (s : State), s.booted = true ∧ s.lowFlow = true) ∧
  (∃ (s : State), s.booted = true) ∧
  (∃ (s : State), s.booted = true) ∧
  (∃ (s : State), s.booted = true) ∧
  (∃ (s : State), ∃ d, s.booted = true ∧ (if s.flashActiveB then s.flashB else s.flashA) = some d) ∧
  (∃ (s : State), s.booted = true) ∧
  (∃ (s : State), ∃ c bank row, s.booted = true ∧ isCellCore c = true ∧ bank < 4 ∧ row < 512 ∧ (bank, row) ∉ (cellOf s c).remaps ∧
    RowFailing s c bank row ∧ ((imgRemaps (activeBank (cellOf s c))).filter fun p => p.1 == bank).length + ((cellOf s
    c).remaps.filter fun p => p.1 == bank).length < 8) ∧
  (∃ (s : State), ∃ c bank row, ¬ RowFailing s c bank row) ∧
  (∃ (s : State), ∃ c bank row, s.booted = true ∧ isCellCore c = true ∧ bank < 4 ∧ row < 512 ∧ (bank, row) ∉ (cellOf s c).remaps ∧
    (cellOf s c).defect = false ∧ RowFailing s c bank row ∧ 8 ≤ ((imgRemaps (activeBank (cellOf s c))).filter fun p => p.1 ==
    bank).length + ((cellOf s c).remaps.filter fun p => p.1 == bank).length) ∧
  (∃ (s : State), ∃ c bank p, (cellOf s c).rows.find? (fun q => q.1 == bank) = some p) := by
  refine ⟨?_, ?_, ?_, ?_, ?_, ?_, ?_, ?_, ?_, ?_, ?_, ?_, ?_, ?_⟩
  · refine
        ⟨{ State.reset with booted := true, bays := [(1023, { samples := List.replicate 600 ⟨0, 0, 0, 0, 0, 0, false, [], []⟩ })] },
        1023, ?_, ?_, ?_⟩
    all_goals first | decide +kernel | rfl | (constructor <;> first | decide +kernel | rfl)
  · refine ⟨{ State.reset with booted := true, bays := [(1023, { attachDown := true })] }, 1023, ?_⟩
    all_goals first | decide +kernel | rfl | (constructor <;> first | decide +kernel | rfl)
  · refine ⟨{ State.reset with booted := true }, ?_⟩
    all_goals first | decide +kernel | rfl | (constructor <;> first | decide +kernel | rfl)
  · refine ⟨{ State.reset with booted := true }, ?_⟩
    all_goals first | decide +kernel | rfl | (constructor <;> first | decide +kernel | rfl)
  · refine ⟨{ State.reset with booted := true, lowFlow := true }, ?_, ?_⟩
    all_goals first | decide +kernel | rfl | (constructor <;> first | decide +kernel | rfl)
  · refine ⟨{ State.reset with booted := true }, ?_⟩
    all_goals first | decide +kernel | rfl | (constructor <;> first | decide +kernel | rfl)
  · refine ⟨{ State.reset with booted := true }, ?_⟩
    all_goals first | decide +kernel | rfl | (constructor <;> first | decide +kernel | rfl)
  · refine ⟨{ State.reset with booted := true }, ?_⟩
    all_goals first | decide +kernel | rfl | (constructor <;> first | decide +kernel | rfl)
  · refine ⟨{ State.reset with booted := true, flashA := some ⟨1, [], [], [], []⟩ }, ⟨1, [], [], [], []⟩, ?_, ?_⟩
    all_goals first | decide +kernel | rfl | (constructor <;> first | decide +kernel | rfl)
  · refine ⟨{ State.reset with booted := true }, ?_⟩
    all_goals first | decide +kernel | rfl | (constructor <;> first | decide +kernel | rfl)
  · refine
        ⟨{ State.reset with booted := true, cells := [(0, { remaps := (List.range 7).map fun r => (3, r), rowErrs := List.replicate 16 (3, 511, 0) })] },
        0, 3, 511, ?_, ?_, ?_, ?_, ?_, row_failing rfl, ?_⟩
    all_goals first | decide +kernel | rfl | (constructor <;> first | decide +kernel | rfl)
  · refine ⟨State.reset, 0, 3, 511, row_sound (by decide +kernel)⟩
  · refine
        ⟨{ State.reset with booted := true, cells := [(0, { remaps := (List.range 8).map fun r => (3, r), rowErrs := List.replicate 16 (3, 511, 0) })] },
        0, 3, 511, ?_, ?_, ?_, ?_, ?_, ?_, row_failing rfl, ?_⟩
    all_goals first | decide +kernel | rfl | (constructor <;> first | decide +kernel | rfl)
  · refine ⟨{ State.reset with cells := [(0, { rows := [(3, ⟨511, true⟩)] })] }, 0, 3, (3, ⟨511, true⟩), ?_⟩
    all_goals first | decide +kernel | rfl | (constructor <;> first | decide +kernel | rfl)

theorem witness_power_events_act_on_their_bay :
  (∃ (s : State), ∃ c, isCellCore c = true ∧ (cellOf s c).inReset = false ∧ (cellOf s c).energyMark + 1024 ≤ (cellOf s c).cyc) ∧
  (∃ (s : State), ∃ c, isDead s c = false ∧ isCellCore c = true) ∧
  (∃ (s : State), ∃ b r, ((bayAt s b).overdrawn < 4 ∨ ∀ c ∈ regionCells s r, c / 1024 ≠ b)) ∧
  (∃ (s : State), ∃ b r k, (regionAt s r).st = .resident ∧ 4 ≤ (bayAt s b).overdrawn ∧ k ∈ regionCells s r ∧ k < 1048576 ∧ k / 1024
    = b) ∧
  (∃ (s : State), ∃ b, (bayAt s b).releasing = false) ∧
  (∃ (s : State), ∃ b, (bayAt s b).releasing = true) ∧
  (∃ (s : State), ∃ b, (bayAt s b).temp < 760) ∧
  (∃ (s : State), ∃ b, 760 ≤ (bayAt s b).temp) ∧
  (∃ (s : State), ∃ b t, t < 4096 ∧ (bayAt s b).warn ≤ t) ∧
  (∃ t, 840 ≤ t ∧ t < 4096) ∧
  (∃ (b : Nat) (i : Instr), (i = .droop b ∨ i = .currentCap b)) ∧
  (∃ (s : State), ∃ n f, s.spineNext = [(n, f)]) := by
  refine ⟨?_, ?_, ?_, ?_, ?_, ?_, ?_, ?_, ?_, ?_, ?_, ?_⟩
  · refine ⟨(modCell (solo 0 {}) 0 fun x => { x with cyc := 1024 }), 0, ?_, ?_, ?_⟩
    all_goals first | decide +kernel | rfl | (constructor <;> first | decide +kernel | rfl)
  · refine ⟨(solo 0 {}), 0, ?_, ?_⟩
    all_goals first | decide +kernel | rfl | (constructor <;> first | decide +kernel | rfl)
  · refine ⟨(place 0 0 1 1 (solo 0 {})), 0, 0, ?_⟩
    all_goals first | decide +kernel | rfl | (constructor <;> first | decide +kernel | rfl)
  · refine ⟨{ place 0 0 1 1 (solo 0 {}) with bays := [(0, { overdrawn := 4 })] }, 0, 0, 0, ?_, ?_, ?_, ?_, ?_⟩
    all_goals first | decide +kernel | rfl | (constructor <;> first | decide +kernel | rfl)
  · refine ⟨{ State.reset with bays := [(1023, { ready := false })] }, 1023, ?_⟩
    all_goals first | decide +kernel | rfl | (constructor <;> first | decide +kernel | rfl)
  · refine ⟨{ State.reset with bays := [(1023, { releasing := true })] }, 1023, ?_⟩
    all_goals first | decide +kernel | rfl | (constructor <;> first | decide +kernel | rfl)
  · refine ⟨{ State.reset with bays := [(1023, { temp := 759 })] }, 1023, ?_⟩
    all_goals first | decide +kernel | rfl | (constructor <;> first | decide +kernel | rfl)
  · refine ⟨{ State.reset with bays := [(1023, { temp := 760 })] }, 1023, ?_⟩
    all_goals first | decide +kernel | rfl | (constructor <;> first | decide +kernel | rfl)
  · refine ⟨{ State.reset with bays := [(1023, { warn := 4095 })] }, 1023, 4095, ?_, ?_⟩
    all_goals first | decide +kernel | rfl | (constructor <;> first | decide +kernel | rfl)
  · refine ⟨840, ?_, ?_⟩
    all_goals first | decide +kernel | rfl | (constructor <;> first | decide +kernel | rfl)
  · refine ⟨1023, .currentCap 1023, ?_⟩
    exact .inr rfl
  · refine ⟨{ State.reset with spineNext := [(6, 1200)] }, 6, 1200, ?_⟩
    all_goals first | decide +kernel | rfl | (constructor <;> first | decide +kernel | rfl)

theorem witness_port_events_act_on_their_port :
  (∃ (s : State), ∃ p, (portAt s p).cmd = none ∧ (portAt s p).laserok = true) ∧
  (∃ (s : State), ∃ p, ((portAt s p).cmd ≠ none ∨ (portAt s p).laserok = false)) ∧
  (∃ (s : State), ∃ p, (portAt s p).cmd = none ∧ (portAt s p).up = false ∧ mapLocked (portAt s p) = true) ∧
  (∃ (s : State), ∃ p, ((portAt s p).cmd ≠ none ∨ (portAt s p).up = true ∨ mapLocked (portAt s p) = false)) ∧
  (∃ (s : State), ∃ p train, (portAt s p).cmd = some train) ∧
  (∃ (s : State), ∃ p, (portAt s p).laserok = false ∧ (portAt s p).laser = true) ∧
  (∃ (s : State), ∃ p, (portAt s p).laserok = true) ∧
  (∃ (s : State), ∃ p k, (portAt s p).cmd = some false ∧ (portAt s p).trained = 0 ∧ k < 4096) ∧
  (∃ (s : State), ∃ p, (portAt s p).cmd = some false ∧ (portAt s p).trained = 0) ∧
  (∃ (s : State), ∃ p h v k, (portAt s p).cmd = some true ∧ (portAt s p).locked = 511 ∧ (portAt s p).announced = some k ∧ (portAt s
    p).farMap = k ∧ 16 ≤ h ∧ h < 256 ∧ 12 ≤ v ∧ v < 256) ∧
  (∃ (s : State), ∃ p a b, (portAt s p).cmd = some true ∧ (portAt s p).announced = some a ∧ (portAt s p).farMap = b ∧ a ≠ b ∧ a <
    8) ∧
  (∃ (s : State), ∃ p, (portAt s p).laser = true ∧ (portAt s p).up = true ∧ (portAt s p).trained = 255 ∧ (portAt s p).link = false) ∧
  (∃ (s : State), ∃ p, (portAt s p).link = true) ∧
  (∃ (s : State), ∃ p n, n < 9 ∧ (portAt s p).locked.testBit n = true ∧ (portAt s p).trained = 0) ∧
  (∃ (s : State), ∃ h i, let q : Path := (Tbl.get {} (Tbl.get {} s.peers h : Peer).paths i); q.timeouts < 2 ∧ q.trims < 4) ∧
  (∃ (s : State), ∃ h i, let q : Path := (Tbl.get {} (Tbl.get {} s.peers h : Peer).paths i); (Tbl.get {} s.peers h : Peer).known =
    true ∧ i < 16 ∧ (2 ≤ q.timeouts ∨ 4 ≤ q.trims)) ∧
  (∃ (s : State), ∃ h i, ∃ (m : PathSample), (Tbl.get {} s.peers h : Peer).known = true ∧ i < 16 ∧ m.acked = true ∧ m.level < 256) ∧
  (∃ (m : PathSample), m.acked = false) := by
  refine ⟨?_, ?_, ?_, ?_, ?_, ?_, ?_, ?_, ?_, ?_, ?_, ?_, ?_, ?_, ?_, ?_, ?_, ?_⟩
  · refine ⟨{ State.reset with ports := [(5119, { laserok := true })] }, 5119, ?_, ?_⟩
    all_goals first | decide +kernel | rfl | (constructor <;> first | decide +kernel | rfl)
  · refine ⟨{ State.reset with ports := [(5119, { laserok := false })] }, 5119, ?_⟩
    all_goals first | decide +kernel | rfl | (constructor <;> first | decide +kernel | rfl)
  · refine ⟨{ State.reset with ports := [(5119, { locked := 511 })] }, 5119, ?_, ?_, ?_⟩
    all_goals first | decide +kernel | rfl | (constructor <;> first | decide +kernel | rfl)
  · refine ⟨{ State.reset with ports := [(5119, { up := true, locked := 511 })] }, 5119, ?_⟩
    all_goals first | decide +kernel | rfl | (constructor <;> first | decide +kernel | rfl)
  · refine ⟨{ State.reset with ports := [(5119, { cmd := some true })] }, 5119, true, ?_⟩
    all_goals first | decide +kernel | rfl | (constructor <;> first | decide +kernel | rfl)
  · refine ⟨{ State.reset with ports := [(5119, { laser := true })] }, 5119, ?_, ?_⟩
    all_goals first | decide +kernel | rfl | (constructor <;> first | decide +kernel | rfl)
  · refine ⟨{ State.reset with ports := [(5119, { laserok := true })] }, 5119, ?_⟩
    all_goals first | decide +kernel | rfl | (constructor <;> first | decide +kernel | rfl)
  · refine ⟨{ State.reset with ports := [(5119, { cmd := some false })] }, 5119, 4095, ?_, ?_, ?_⟩
    all_goals first | decide +kernel | rfl | (constructor <;> first | decide +kernel | rfl)
  · refine ⟨{ State.reset with ports := [(5119, { cmd := some false })] }, 5119, ?_, ?_⟩
    all_goals first | decide +kernel | rfl | (constructor <;> first | decide +kernel | rfl)
  · refine ⟨{ State.reset with ports := [(5119, { cmd := some true, locked := 511, announced := some 15 })] }, 5119, 16, 12, 15,
        ?_, ?_, ?_, ?_, ?_, ?_, ?_, ?_⟩
    all_goals first | decide +kernel | rfl | (constructor <;> first | decide +kernel | rfl)
  · refine ⟨{ State.reset with ports := [(5119, { cmd := some true, announced := some 7 })] }, 5119, 7, 15, ?_, ?_, ?_, ?_, ?_⟩
    all_goals first | decide +kernel | rfl | (constructor <;> first | decide +kernel | rfl)
  · refine ⟨{ State.reset with ports := [(5119, { laser := true, up := true, trained := 255 })] }, 5119, ?_, ?_, ?_, ?_⟩
    all_goals first | decide +kernel | rfl | (constructor <;> first | decide +kernel | rfl)
  · refine ⟨{ State.reset with ports := [(5119, { link := true })] }, 5119, ?_⟩
    all_goals first | decide +kernel | rfl | (constructor <;> first | decide +kernel | rfl)
  · refine ⟨{ State.reset with ports := [(5119, { locked := 256 })] }, 5119, 8, ?_, ?_, ?_⟩
    all_goals first | decide +kernel | rfl | (constructor <;> first | decide +kernel | rfl)
  · refine ⟨{ State.reset with peers := [(0, { known := true, paths := [(15, { timeouts := 1, trims := 3 })] })] }, 0, 15, ?_,
        ?_⟩
    all_goals first | decide +kernel | rfl | (constructor <;> first | decide +kernel | rfl)
  · refine ⟨{ State.reset with peers := [(0, { known := true, paths := [(15, { trims := 4 })] })] }, 0, 15, ?_, ?_, ?_⟩
    all_goals first | decide +kernel | rfl | (constructor <;> first | decide +kernel | rfl)
  · refine ⟨{ State.reset with peers := [(0, { known := true })] }, 0, 15, { acked := true, level := 255, ecn := true }, ?_, ?_,
        ?_, ?_⟩
    all_goals first | decide +kernel | rfl | (constructor <;> first | decide +kernel | rfl)
  · refine ⟨{ acked := false, level := 255, ecn := true }, ?_⟩
    all_goals first | decide +kernel | rfl | (constructor <;> first | decide +kernel | rfl)

theorem witness_jobs_and_launches_are_taken :
  (∃ (s : State), ∃ j k t regs v, jobOk s j = true ∧ resolveJob j = some k ∧ placeAll k s k.regions = some (t, regs) ∧ loadJob t k
    regs = some v) ∧
  (∃ (s : State), ∃ j k, jobOk s j = true ∧ resolveJob j = some k ∧ placeAll k s k.regions = none) ∧
  (∃ (s : State), ∃ j, (jobOk s j = false ∨ resolveJob j = none ∨ ∃ k t regs, resolveJob j = some k ∧ placeAll k s k.regions = some
    (t, regs) ∧ loadJob t k regs = none)) ∧
  (∃ (s : State), ∃ tenant payload j q, Launches s tenant payload j q ∧ rootOpen s (freshHead s q) = true ∧ HoldsNone s q ∧
    QueueSound s q ∧ Memory.wf s.mem = true) ∧
  (∃ (s : State), ∃ tenant payload j q, Launches s tenant payload j q ∧ (rootOpen s (freshHead s q) = false ∨ ¬ HoldsNone s q)) ∧
  (∃ (s : State) (payload : List Word) (code : Nat), ((payload.length ≠ 16 ∧ code = 3) ∨ (payload.length = 16 ∧ (payload.getD 0
    0).extractLsb' 18 14 = 0 ∧ Tbl.get none s.jobs ((payload.getD 0 0).extractLsb' 0 16).toNat = none ∧ code = 1))) ∧
  (∃ (s : State), ∃ tenant payload j q, s.heldLaunches = [⟨((payload.getD 0 0).extractLsb' 0 16).toNat, payload⟩] ∧ Launches
    { s with heldLaunches := [] } tenant payload j q ∧ rootOpen s (freshHead s q) = true ∧ QueueSound s q ∧ Memory.wf s.mem = true) := by
  refine ⟨?_, ?_, ?_, ?_, ?_, ?_, ?_⟩
  · refine ⟨(booted1 none), aJob, aJob, placed1.1, placed1.2, (loadJob placed1.1 aJob placed1.2).getD {}, ?_, ?_, placed1_eq,
        some_getD _ (by decide +kernel)⟩
    all_goals first | decide +kernel | rfl | (constructor <;> first | decide +kernel | rfl)
  · refine ⟨(booted1 (some 0)), aJob, aJob, ?_, ?_, not_placed⟩
    all_goals first | decide +kernel | rfl | (constructor <;> first | decide +kernel | rfl)
  · refine ⟨State.reset, aJob, ?_⟩
    exact .inl (by decide +kernel)
  · refine
        ⟨{ modCell (place 0 0 1 1 (solo 0 {})) 0 fun x => x with regions := [(0, { st := .resident, w := 1, h := 1 })], jobs := [(65535, some ⟨7, [⟨0, 0, 0, 3, 0x400000, 1, 0, 0⟩], [0], true⟩)] },
        7, ((0xFFFF : Word) :: List.replicate 15 5), ⟨7, [⟨0, 0, 0, 3, 0x400000, 1, 0, 0⟩], [0], true⟩, ⟨0, 0, 0, 3, 0x400000, 1,
        0, 0⟩, ⟨by decide +kernel, rfl, rfl, rfl, by decide +kernel, by decide +kernel⟩, ?_, (fun _ h => nomatch h), ?_, ?_⟩
    all_goals first | decide +kernel | rfl | (constructor <;> first | decide +kernel | rfl)
  · refine
        ⟨{ modCell (place 0 0 1 1 (solo 0 {})) 0 fun x => x with regions := [(0, { st := .resident, w := 1, h := 1, hold := true })], jobs := [(65535, some ⟨7, [⟨0, 0, 0, 3, 0x400000, 1, 0, 0⟩], [0], true⟩)] },
        7, ((0xFFFF : Word) :: List.replicate 15 5), ⟨7, [⟨0, 0, 0, 3, 0x400000, 1, 0, 0⟩], [0], true⟩, ⟨0, 0, 0, 3, 0x400000, 1,
        0, 0⟩, ⟨by decide +kernel, rfl, rfl, rfl, by decide +kernel, by decide +kernel⟩, .inl (by decide +kernel)⟩
  · refine ⟨State.reset, ((0xFFFF : Word) :: List.replicate 15 5), 1, ?_⟩
    all_goals first | decide +kernel | rfl | (constructor <;> first | decide +kernel | rfl)
  · refine
        ⟨{ { modCell (place 0 0 1 1 (solo 0 {})) 0 fun x => x with regions := [(0, { st := .resident, w := 1, h := 1 })], jobs := [(65535, some ⟨7, [⟨0, 0, 0, 3, 0x400000, 1, 0, 0⟩], [0], true⟩)] } with heldLaunches := [⟨65535, ((0xFFFF : Word) :: List.replicate 15 5)⟩] },
        7, ((0xFFFF : Word) :: List.replicate 15 5), ⟨7, [⟨0, 0, 0, 3, 0x400000, 1, 0, 0⟩], [0], true⟩, ⟨0, 0, 0, 3, 0x400000, 1,
        0, 0⟩, ?_, ⟨by decide +kernel, rfl, rfl, rfl, by decide +kernel, by decide +kernel⟩, ?_, ?_, ?_⟩
    all_goals first | decide +kernel | rfl | (constructor <;> first | decide +kernel | rfl)

theorem witness_the_module_boots_resets_and_attests :
  (∃ (s : State), (s.ar.any fun p => p.1 == 0) = false) ∧
  (∃ (s : State), ∃ b, s.booted = true ∧ b < 1024 ∧ Tbl.get 0 s.spines 6 ≤ 1200 ∧ s.lowFlow = false) ∧
  (∃ (s : State), ∃ b, s.booted = true ∧ b < 1024 ∧ Tbl.get 0 s.spines 6 ≤ 1200 ∧ s.lowFlow = true) ∧
  (∃ (s : State), ∃ forced, (forced = true ∨ ∀ p ∈ s.jobs, ∀ j, p.2 = some j → j.active = false)) ∧
  (∃ (s : State) (p : Nat × Option Job), ∃ j, p ∈ s.jobs ∧ p.2 = some j ∧ j.active = true) ∧
  (∃ (s : State), ∃ b t, s.booted = true ∧ (bayAt s b).tenant ≠ t) ∧
  (∃ (s : State) (nonce : List Byte), s.booted = true ∧ nonce.length = 32) ∧
  (∃ (s : State), ∃ t, (s.encapKeys.any fun p => p.1 == t) = true) ∧
  (∃ (s : State), ∃ i, ∃ (m : List Byte), s.booted = true ∧ 5 ≤ i ∧ i ≤ 7 ∧ m.length = 48) ∧
  (∃ (s : State), ∃ d, s.booted = true ∧ (if s.flashActiveB then s.flashB else s.flashA) = some d ∧ (∀ c, (cellOf s c).region =
    none) ∧ (∀ p ∈ s.cells, p.2.region = none)) := by
  refine ⟨?_, ?_, ?_, ?_, ?_, ?_, ?_, ?_, ?_, ?_⟩
  · refine ⟨State.reset, ?_⟩
    all_goals first | decide +kernel | rfl | (constructor <;> first | decide +kernel | rfl)
  · refine ⟨{ State.reset with booted := true }, 1023, ?_, ?_, ?_, ?_⟩
    all_goals first | decide +kernel | rfl | (constructor <;> first | decide +kernel | rfl)
  · refine ⟨{ State.reset with booted := true, lowFlow := true }, 1023, ?_, ?_, ?_, ?_⟩
    all_goals first | decide +kernel | rfl | (constructor <;> first | decide +kernel | rfl)
  · refine ⟨State.reset, false, ?_⟩
    exact .inr (fun _ h => nomatch h)
  · refine ⟨{ State.reset with jobs := [(1, some ⟨7, [⟨0, 0, 0, 3, 0x400000, 1, 0, 0⟩], [0], true⟩)] }, (1, some ⟨7, [⟨0, 0, 0,
        3, 0x400000, 1, 0, 0⟩], [0], true⟩), ⟨7, [⟨0, 0, 0, 3, 0x400000, 1, 0, 0⟩], [0], true⟩, ?_, ?_, ?_⟩
    all_goals first | decide +kernel | rfl | (constructor <;> first | decide +kernel | rfl)
  · refine ⟨{ State.reset with booted := true }, 1023, 7, ?_, ?_⟩
    all_goals first | decide +kernel | rfl | (constructor <;> first | decide +kernel | rfl)
  · refine ⟨{ State.reset with booted := true }, (List.replicate 32 0), ?_, ?_⟩
    all_goals first | decide +kernel | rfl | (constructor <;> first | decide +kernel | rfl)
  · refine ⟨{ State.reset with booted := true, encapKeys := [(7, [])] }, 7, ?_⟩
    all_goals first | decide +kernel | rfl | (constructor <;> first | decide +kernel | rfl)
  · refine ⟨{ State.reset with booted := true }, 7, (List.replicate 48 0), ?_, ?_, ?_, ?_⟩
    all_goals first | decide +kernel | rfl | (constructor <;> first | decide +kernel | rfl)
  · refine ⟨{ State.reset with booted := true, flashA := some ⟨1, [], [], [], []⟩ }, ⟨1, [], [], [], []⟩, ?_, ?_, fun _ => rfl,
        fun _ h => nomatch h⟩
    all_goals first | decide +kernel | rfl | (constructor <;> first | decide +kernel | rfl)

theorem witness_host_pages_translate :
  (∃ (s : State), ∃ n m r l x, AtBridge s n m r l ∧ r.op = .load ∧ findXlat s (Config.bridgePort m.src) l.key = some x ∧
    x.leaf.testBit 1 = true) ∧
  (∃ (s : State), ∃ n m r l x, AtBridge s n m r l ∧ r.op = .store ∧ findXlat s (Config.bridgePort m.src) l.key = some x ∧
    x.leaf.testBit 2 = true ∧ Memory.wf s.hostMem = true) ∧
  (∃ (s : State), ∃ n m r l, AtBridge s n m r l ∧ (r.op = .load ∨ r.op = .store) ∧ findXlat s (Config.bridgePort m.src) l.key =
    none) ∧
  (∃ (s : State), ∃ p a e1 e2, hostCanonical a = true ∧ (∀ x ∈ s.tlb, x.port ≠ p) ∧ e1 = littleEndian s.bridgeMem ((portAt s
    p).ptRoot + 8 * (a / 2 ^ 39 % 512)) 8 ∧ e1 % 2 = 1 ∧ e1 / 2 ^ 4 % 2 = 0 ∧ e1 / 2 ^ 5 % 128 = 0 ∧ e2 = littleEndian s.bridgeMem
    (e1 / 2 ^ 12 % 2 ^ 40 * 4096 + 8 * (a / 2 ^ 30 % 512)) 8 ∧ e2 % 2 = 1 ∧ e2 / 2 ^ 4 % 2 = 1 ∧ e2 / 2 ^ 5 % 128 = 0 ∧ e2 / 2 ^ 12
    % 2 ^ 18 = 0) := by
  refine ⟨?_, ?_, ?_, ?_⟩
  · refine
        ⟨{ bench 0 3 {} {} ({ blk (.fence lf .cell) with serial := 7, waits := [{ slot := 1, left := [0], got := Val.allNull, ext := .word, t0 := .none, lsid := none }] }) with net := [{ src := 0, dst := 2000000, at_ := 2000000, vc := 0, body := .mem { op := .load, size := 4, lanes := [{ lane := 7, key := 4092, b := 0x12345678 }], asker := .frame 0 3 7 1 } }], tlb := [⟨Config.bridgePort 0, 0, 4096, 2⟩] },
        0,
        { src := 0, dst := 2000000, at_ := 2000000, vc := 0, body := .mem { op := .load, size := 4, lanes := [{ lane := 7, key := 4092, b := 0x12345678 }], asker := .frame 0 3 7 1 } },
        { op := .load, size := 4, lanes := [{ lane := 7, key := 4092, b := 0x12345678 }], asker := .frame 0 3 7 1 },
        { lane := 7, key := 4092, b := 0x12345678 }, ⟨Config.bridgePort 0, 0, 4096, 2⟩, ⟨by decide +kernel, rfl, rfl, ⟨0, 3, 7, 1,
        rfl⟩, by decide +kernel, rfl, by decide +kernel⟩, ?_, by simp [findXlat, hostCanonical, heldXlat], ?_⟩
    all_goals first | decide +kernel | rfl | (constructor <;> first | decide +kernel | rfl)
  · refine
        ⟨{ bench 0 3 {} {} ({ blk (.fence lf .cell) with serial := 7, waits := [{ slot := 1, left := [0], got := Val.allNull, ext := .word, t0 := .none, lsid := none }] }) with net := [{ src := 0, dst := 2000000, at_ := 2000000, vc := 0, body := .mem { op := .store, size := 4, lanes := [{ lane := 7, key := 4092, b := 0x12345678 }], asker := .frame 0 3 7 1 } }], tlb := [⟨Config.bridgePort 0, 0, 4096, 4⟩] },
        0,
        { src := 0, dst := 2000000, at_ := 2000000, vc := 0, body := .mem { op := .store, size := 4, lanes := [{ lane := 7, key := 4092, b := 0x12345678 }], asker := .frame 0 3 7 1 } },
        { op := .store, size := 4, lanes := [{ lane := 7, key := 4092, b := 0x12345678 }], asker := .frame 0 3 7 1 },
        { lane := 7, key := 4092, b := 0x12345678 }, ⟨Config.bridgePort 0, 0, 4096, 4⟩, ⟨by decide +kernel, rfl, rfl, ⟨0, 3, 7, 1,
        rfl⟩, by decide +kernel, rfl, by decide +kernel⟩, ?_, by simp [findXlat, hostCanonical, heldXlat], ?_, ?_⟩
    all_goals first | decide +kernel | rfl | (constructor <;> first | decide +kernel | rfl)
  · refine
        ⟨{ bench 0 3 {} {} ({ blk (.fence lf .cell) with serial := 7, waits := [{ slot := 1, left := [0], got := Val.allNull, ext := .word, t0 := .none, lsid := none }] }) with net := [{ src := 0, dst := 2000000, at_ := 2000000, vc := 0, body := .mem { op := .load, size := 4, lanes := [{ lane := 7, key := (2 ^ 47), b := 0x12345678 }], asker := .frame 0 3 7 1 } }], tlb := [] },
        0,
        { src := 0, dst := 2000000, at_ := 2000000, vc := 0, body := .mem { op := .load, size := 4, lanes := [{ lane := 7, key := (2 ^ 47), b := 0x12345678 }], asker := .frame 0 3 7 1 } },
        { op := .load, size := 4, lanes := [{ lane := 7, key := (2 ^ 47), b := 0x12345678 }], asker := .frame 0 3 7 1 },
        { lane := 7, key := (2 ^ 47), b := 0x12345678 }, ⟨by decide +kernel, rfl, rfl, ⟨0, 3, 7, 1, rfl⟩, by decide +kernel, rfl,
        by decide +kernel⟩, ?_, by simp [findXlat, hostCanonical]⟩
    all_goals first | decide +kernel | rfl | (constructor <;> first | decide +kernel | rfl)
  · refine ⟨{ State.reset with bridgeMem := [(0, 1), (1, 16), (4096, 19)] }, 79, 0, 0x1001, 0x13, ?_, ?_, ?_, ?_, ?_, ?_, ?_, ?_,
        ?_, ?_, ?_⟩
    all_goals first | decide +kernel | rfl | (constructor <;> first | decide +kernel | rfl)

theorem witness_host_reaches_exports :
  (∃ (s : State) (h : HostOp), ∃ e k, openedExport s h.tenant h.port h.exportNo = some e ∧ h.isWrite = false ∧ h.count = 1 ∧
    exportKey s e .ldw h.offset = some k) ∧
  (∃ (s : State) (h : HostOp), ∃ e k w, openedExport s h.tenant h.port h.exportNo = some e ∧ h.isWrite = true ∧ h.words = [w] ∧
    exportKey s e .stw h.offset = some k) ∧
  (∃ (s : State) (h : HostOp), openedExport s h.tenant h.port h.exportNo = none) ∧
  (∃ (s : State) (h : HostRmw), ∃ e k, openedExport s h.tenant h.port h.exportNo = some e ∧ h.cas = none ∧ exportKey s e (.amo
    h.op) h.offset = some k ∧ (exportWindow s e).w0.getLsbD 24 = true) ∧
  (∃ (s : State) (h : HostRmw), ∃ e, openedExport s h.tenant h.port h.exportNo = some e ∧ (exportWindow s e).w0.getLsbD 24 = false) := by
  refine ⟨?_, ?_, ?_, ?_, ?_⟩
  · refine
        ⟨{ soloCtx 0 3 (near 0) {} with exports := [(1, { known := true, tenant := 7, cell := 0, ctx := 3 })], tss := [(2243, [], [])] },
        ⟨7, 1, 252, false, [], 1, none, 3⟩, { known := true, tenant := 7, cell := 0, ctx := 3 }, 252, ?_, ?_, ?_, ?_⟩
    all_goals first | decide +kernel | rfl | (constructor <;> first | decide +kernel | rfl)
  · refine
        ⟨{ soloCtx 0 3 (near 0) {} with exports := [(1, { known := true, tenant := 7, cell := 0, ctx := 3 })], tss := [(2243, [], [])] },
        ⟨7, 1, 252, true, [9], 1, none, 3⟩, { known := true, tenant := 7, cell := 0, ctx := 3 }, 252, 9, ?_, ?_, ?_, ?_⟩
    all_goals first | decide +kernel | rfl | (constructor <;> first | decide +kernel | rfl)
  · refine ⟨State.reset, ⟨7, 1, 252, true, [9], 1, none, 3⟩, ?_⟩
    all_goals first | decide +kernel | rfl | (constructor <;> first | decide +kernel | rfl)
  · refine
        ⟨{ soloCtx 0 3 { wins := [(0, { w0 := 0x8D000000, w2 := 256 })] } {} with exports := [(1, { known := true, tenant := 7, cell := 0, ctx := 3 })], tss := [(2243, [], [])] },
        ⟨7, 1, 252, .add, 9, none, none, 3⟩, { known := true, tenant := 7, cell := 0, ctx := 3 }, 252, ?_, ?_, ?_, ?_⟩
    all_goals first | decide +kernel | rfl | (constructor <;> first | decide +kernel | rfl)
  · refine
        ⟨{ soloCtx 0 3 (near 3) {} with exports := [(1, { known := true, tenant := 7, cell := 0, ctx := 3 })], tss := [(2243, [], [])] },
        ⟨7, 1, 252, .add, 9, none, none, 3⟩, { known := true, tenant := 7, cell := 0, ctx := 3 }, ?_, ?_⟩
    all_goals first | decide +kernel | rfl | (constructor <;> first | decide +kernel | rfl)

theorem witness_peers_reach_exports :
  (∃ (s : State) (d : RmaPacket), ∃ e w k, endpointOn s d.port = true ∧ d.authentic = true ∧ packetOk d = true ∧ openedExport s
    d.tenant d.port d.exportNo = some e ∧ d.words = [w] ∧ d.spanOffset ≤ d.offset ∧ d.offset < d.spanOffset + 4 * d.spanWords ∧
    winMode (exportWindow s e) = .random ∧ exportKey s e .stw d.offset = some k ∧ k % 4 = 0 ∧ isDead s (keyCore k) = false ∧
    storeCheck s .random 4 k = .done ∧ rodBlocks s d = false ∧ rmaOf s d.message = none ∧ Memory.wf s.mem = true) ∧
  (∃ (s : State) (d : RmaPacket), endpointOn s d.port = true ∧ (d.authentic = false ∨ d.mode = .uud ∨ 1024 < d.words.length ∨
    openedExport s d.tenant d.port d.exportNo = none)) ∧
  (∃ (s : State) (d : RmaPacket), ∃ e w r, endpointOn s d.port = true ∧ d.authentic = true ∧ packetOk d = true ∧ openedExport s
    d.tenant d.port d.exportNo = some e ∧ winMode (exportWindow s e) ≠ .presence ∧ d.words = [w] ∧ rmaOf s d.message = some r ∧
    r.placed.contains d.offset = true) ∧
  (∃ (s : State) (d : RmaPacket), endpointOn s d.port = false) ∧
  (∃ (s : State) (d : UecSend), endpointOn s d.port = false) ∧
  (∃ (s : State) (r : RmaMsg), ∃ c tag, s.rmas = [r] ∧ r.spanWords ≤ r.placed.length ∧ r.waiting = 0 ∧ (Tbl.get {} s.exports
    r.exportNo : Export).completion = some (c, tag)) ∧
  (∃ (s : State) (d : UecSend), endpointOn s d.port = true ∧ (d.authentic = false ∨ d.mode = .uud ∨ openedExport s d.tenant d.port
    d.exportNo = none)) ∧
  (∃ (s : State) (d : UecSend), ∃ e tag, endpointOn s d.port = true ∧ d.authentic = true ∧ d.mode ≠ .uud ∧ openedExport s d.tenant
    d.port d.exportNo = some e ∧ e.receive = some tag ∧ d.poison = none ∧ d.bytes.length ≤ 512) ∧
  (∃ (s : State) (d : UecSend), ∃ e tag, endpointOn s d.port = true ∧ d.authentic = true ∧ d.mode ≠ .uud ∧ openedExport s d.tenant
    d.port d.exportNo = some e ∧ e.receive = some tag ∧ d.poison = none ∧ 512 < d.bytes.length) ∧
  (∃ (s : State) (d : UecSend), ∃ e gt seq back, endpointOn s d.port = true ∧ d.authentic = true ∧ d.mode ≠ .uud ∧ openedExport s
    d.tenant d.port d.exportNo = some e ∧ d.poison = some (gt, seq, back)) := by
  refine ⟨?_, ?_, ?_, ?_, ?_, ?_, ?_, ?_, ?_, ?_⟩
  · refine
        ⟨{ soloCtx 0 3 (near 0) {} with exports := [(1, { known := true, tenant := 7, cell := 0, ctx := 3 })], tss := [(2243, [], [])], ports := [(3, { up := true, trained := 255, link := true })] },
        ⟨true, 7, 1, 3, 5, 252, [9], 252, 1, none, none, .rud⟩, { known := true, tenant := 7, cell := 0, ctx := 3 }, 9, 252, ?_,
        ?_, ?_, ?_, ?_, ?_, ?_, ?_, ?_, ?_, ?_, ?_, ?_, ?_, ?_⟩
    all_goals first | decide +kernel | rfl | (constructor <;> first | decide +kernel | rfl)
  · refine
        ⟨{ soloCtx 0 3 (near 0) {} with exports := [(1, { known := true, tenant := 7, cell := 0, ctx := 3 })], tss := [(2243, [], [])], ports := [(3, { up := true, trained := 255, link := true })] },
        ⟨true, 7, 1, 3, 5, 252, [9], 252, 1, none, none, .uud⟩, ?_, ?_⟩
    all_goals first | decide +kernel | exact .inr (.inl rfl)
  · refine
        ⟨{ soloCtx 0 3 (near 0) {} with exports := [(1, { known := true, tenant := 7, cell := 0, ctx := 3 })], tss := [(2243, [], [])], ports := [(3, { up := true, trained := 255, link := true })], rmas := [⟨5, 1, 3, 1, [252], 0, 0, none⟩] },
        ⟨true, 7, 1, 3, 5, 252, [9], 252, 1, none, none, .rud⟩, { known := true, tenant := 7, cell := 0, ctx := 3 }, 9, ⟨5, 1, 3,
        1, [252], 0, 0, none⟩, ?_, ?_, ?_, ?_, ?_, ?_, ?_, ?_⟩
    all_goals first | decide +kernel | rfl | (constructor <;> first | decide +kernel | rfl)
  · refine
        ⟨{ soloCtx 0 3 (near 0) {} with exports := [(1, { known := true, tenant := 7, cell := 0, ctx := 3 })], tss := [(2243, [], [])] },
        ⟨true, 7, 1, 3, 5, 252, [9], 252, 1, none, none, .rud⟩, ?_⟩
    all_goals first | decide +kernel | rfl | (constructor <;> first | decide +kernel | rfl)
  · refine
        ⟨{ soloCtx 0 3 (near 0) {} with exports := [(1, { known := true, tenant := 7, cell := 0, ctx := 3 })], tss := [(2243, [], [])] },
        ⟨true, 7, 1, 3, List.replicate 1 9, none, none, .rud⟩, ?_⟩
    all_goals first | decide +kernel | rfl | (constructor <;> first | decide +kernel | rfl)
  · refine
        ⟨{ soloCtx 0 3 (near 0) {} with exports := [(1, { known := true, tenant := 7, cell := 0, ctx := 3, completion := some (0, 255) })], tss := [(2243, [], [])], rmas := [⟨5, 1, 3, 1, [252], 0, 0, none⟩] },
        ⟨5, 1, 3, 1, [252], 0, 0, none⟩, 0, 255, ?_, ?_, ?_, ?_⟩
    all_goals first | decide +kernel | rfl | (constructor <;> first | decide +kernel | rfl)
  · refine
        ⟨{ soloCtx 0 3 (near 0) {} with exports := [(1, { known := true, tenant := 7, cell := 0, ctx := 3, receive := some 255 })], tss := [(2243, [], [])], ports := [(3, { up := true, trained := 255, link := true })] },
        ⟨true, 7, 1, 3, List.replicate 1 9, none, none, .uud⟩, ?_, ?_⟩
    all_goals first | decide +kernel | exact .inr (.inl rfl)
  · refine
        ⟨{ soloCtx 0 3 (near 0) {} with exports := [(1, { known := true, tenant := 7, cell := 0, ctx := 3, receive := some 255 })], tss := [(2243, [], [])], ports := [(3, { up := true, trained := 255, link := true })] },
        ⟨true, 7, 1, 3, List.replicate 512 9, none, none, .rud⟩,
        { known := true, tenant := 7, cell := 0, ctx := 3, receive := some 255 }, 255, ?_, ?_, ?_, ?_, ?_, ?_, ?_⟩
    all_goals first | decide +kernel | rfl | (constructor <;> first | decide +kernel | rfl)
  · refine
        ⟨{ soloCtx 0 3 (near 0) {} with exports := [(1, { known := true, tenant := 7, cell := 0, ctx := 3, receive := some 255 })], tss := [(2243, [], [])], ports := [(3, { up := true, trained := 255, link := true })] },
        ⟨true, 7, 1, 3, List.replicate 513 9, none, none, .rud⟩,
        { known := true, tenant := 7, cell := 0, ctx := 3, receive := some 255 }, 255, ?_, ?_, ?_, ?_, ?_, ?_, ?_⟩
    all_goals first | decide +kernel | rfl | (constructor <;> first | decide +kernel | rfl)
  · refine
        ⟨{ soloCtx 0 3 (near 0) {} with exports := [(1, { known := true, tenant := 7, cell := 0, ctx := 3 })], tss := [(2243, [], [])], ports := [(3, { up := true, trained := 255, link := true })] },
        ⟨true, 7, 1, 3, [], none, some (255, 9, false), .rud⟩, { known := true, tenant := 7, cell := 0, ctx := 3 }, 255, 9, false,
        ?_, ?_, ?_, ?_, ?_⟩
    all_goals first | decide +kernel | rfl | (constructor <;> first | decide +kernel | rfl)

end Sys2Proof.Tests
end

section
/-! PROOFS. What the departure of a block's frame leaves, the trap that a fault at firing takes, and the acting lane of a scalar function:
what every statement about functions that count or fault cites. -/

namespace Sys2Proof.Proofs

open Sys2Proof Sys2Proof.Machine Sys2Proof.Claim

/-! ### Acting lanes -/

theorem get_ofFn {α : Type} (g : Nat → α) {l : Nat} (hl : l < 8) : (Lanes.ofFn g).get l = g l :=
  match l, hl with
  | 0, _ | 1, _ | 2, _ | 3, _ | 4, _ | 5, _ | 6, _ | 7, _ => rfl

theorem get_all {α : Type} (a : α) (l : Nat) : (Lanes.all a).get l = a := by
  unfold Lanes.get
  split <;> rfl

/-- The lanes that the machine matches are those of R28. -/
theorem get_matching (i : Instr) (o : Slot) {l : Nat} (hl : l < 8) :
    (matching (prOf i) (o.p.getD Val.allNull)).get l = matched i o l := by
  unfold matching matched
  cases prOf i with
  | always => exact get_all _ _
  | onTrue => simp only [get_ofFn _ hl]; cases (o.p.getD Val.allNull).get l <;> rfl
  | onFalse => simp only [get_ofFn _ hl]; cases (o.p.getD Val.allNull).get l <;> rfl

theorem laneNums_split : ∀ l, l < 8 → laneNums = List.range l ++ l :: List.range' (l + 1) (7 - l) := by decide

theorem mem_laneNums {l : Nat} : l ∈ laneNums ↔ l < 8 := by
  rw [show laneNums = List.range 8 from rfl, List.mem_range]

/-- A search of the lanes finds the lowest one that answers (R188). -/
theorem findSome?_laneNums {β : Type} {p : Nat → Option β} {l : Nat} {b : β} (hl : l < 8) (hp : p l = some b)
    (low : ∀ k, k < l → p k = none) : laneNums.findSome? p = some b :=
  List.findSome?_eq_some_iff.2 ⟨_, l, _, laneNums_split l hl, hp, fun k hk => low k (List.mem_range.1 hk)⟩

section
variable {i : Instr} {s : State} {v : Context} {f : Frame}

theorem envOf_m_get {l : Nat} (hl : l < 8) : (envOf s v f i).m.get l = matched i (slotOf f s.focus.slot) l :=
  get_matching i _ hl

theorem envOf_a_get (hA : usesA i = true) (l : Nat) : (envOf s v f i).a.get l = laneA (slotOf f s.focus.slot) l := by
  rw [envOf, if_pos hA]

theorem envOf_b_get (hB : usesB i = true) (l : Nat) : (envOf s v f i).b.get l = laneB (slotOf f s.focus.slot) l := by
  rw [envOf, if_pos hB]

theorem actA_of_acting {l : Nat} {a : Word} (hA : usesA i = true) (h : ActingA i (slotOf f s.focus.slot) l a) :
    actA (envOf s v f i) = some (l, a) := by
  obtain ⟨hl, hm, ha, low⟩ := h
  refine findSome?_laneNums hl ?_ fun k hk => ?_
  · rw [envOf_m_get hl, hm, envOf_a_get hA, ha]; rfl
  · rw [envOf_m_get (by omega), envOf_a_get hA]
    split
    · next hm => rw [low k hk hm]; rfl
    · rfl

theorem actA_of_idle (hA : usesA i = true) (h : IdleA i (slotOf f s.focus.slot)) : actA (envOf s v f i) = none := by
  refine List.findSome?_eq_none_iff.2 fun k hk => ?_
  have hk := mem_laneNums.1 hk
  rw [envOf_m_get hk, envOf_a_get hA]
  split
  · next hm => rw [h k hk hm]; rfl
  · rfl

/-- One lane's answer to `actAB` where an operand is null. -/
theorem pairLane_eq_none {α : Type} {x y : Option Word} (g : Word → Word → α) (h : x = none ∨ y = none) :
    (match x, y with | some a, some b => some (g a b) | _, _ => none) = none := by
  rcases h with rfl | rfl
  · rfl
  · cases x <;> rfl

theorem actAB_of_acting {l : Nat} {a b : Word} (hA : usesA i = true) (hB : usesB i = true)
    (h : ActingAB i (slotOf f s.focus.slot) l a b) : actAB (envOf s v f i) = some (l, a, b) := by
  obtain ⟨hl, hm, ha, hb, low⟩ := h
  refine findSome?_laneNums hl ?_ fun k hk => ?_
  · rw [envOf_m_get hl, hm, envOf_a_get hA, envOf_b_get hB, ha, hb]; rfl
  · rw [envOf_m_get (by omega), envOf_a_get hA, envOf_b_get hB]
    split
    · next hk' => exact pairLane_eq_none _ (low k hk hk')
    · rfl

theorem actAB_of_idle (hA : usesA i = true) (hB : usesB i = true) (h : IdleAB i (slotOf f s.focus.slot)) :
    actAB (envOf s v f i) = none := by
  refine List.findSome?_eq_none_iff.2 fun k hk => ?_
  have hk := mem_laneNums.1 hk
  rw [envOf_m_get hk, envOf_a_get hA, envOf_b_get hB]
  split
  · next hm => exact pairLane_eq_none _ (h k hk hm)
  · rfl

end

/-! ### Counting a side effect -/

/-- What a firing leaves, in the terms of the statements. -/
theorem leaves_of_fired {s t : State} {F : Frame} (h : Fired s t s.focus.cell s.focus.ctx F) : Leaves s t F := by
  obtain ⟨g, w, u, hctx⟩ := h.ctx
  have hfocus : t.focus = s.focus := by rw [h.fields]
  have hmem : t.mem = s.mem := by rw [h.fields]
  refine ⟨⟨g F.waits, w, u, by rw [here, hfocus]; exact hctx⟩, hfocus, fun k => by rw [hmem], by rw [h.fields],
    by rw [h.fields], by rw [h.fields], h.cells, h.core, h.lasting, h.bays, by rw [h.fields], by rw [h.fields], by rw [h.fields]⟩

/-- A side effect whose act is found at firing counts (R29). -/
theorem counts_of_fireQ {i : Instr} {s : State} {f : Frame} {lsid : BitVec 5} {g : State → Env → Except BFault Act} {act : Act}
    (hx : exec i s = fireQ s i lsid g) (hr : Ready s f i)
    (hg : ∀ u, g u (envOf s (here s) f i) = .ok act) : Counts i s f lsid.toNat act := by
  intro hdecl
  obtain ⟨hf, ha, hd⟩ := hr
  obtain ⟨t, ht, hfired⟩ := fireQ_counts s i lsid g f act hd hf ha hdecl.1 hdecl.2 (hg _)
  exact ⟨t, hx.trans ht, leaves_of_fired hfired⟩

/-! ### Discarding a block -/

/-- `t` keeps of `s` the memory, the presence bits, the reports, the place in focus and every context. -/
structure KeepsContexts (s t : State) : Prop where
  mem : t.mem = s.mem
  full : t.full = s.full
  outbox : t.outbox = s.outbox
  focus : t.focus = s.focus
  ctx : ∀ d y, ctxOf t d y = ctxOf s d y

theorem KeepsContexts.refl (s : State) : KeepsContexts s s := ⟨rfl, rfl, rfl, rfl, fun _ _ => rfl⟩

theorem KeepsContexts.trans {s t u : State} (h : KeepsContexts s t) (k : KeepsContexts t u) : KeepsContexts s u :=
  ⟨k.mem.trans h.mem, k.full.trans h.full, k.outbox.trans h.outbox, k.focus.trans h.focus, fun d y => (k.ctx d y).trans (h.ctx d y)⟩

theorem keepsContexts_foldl {α : Type} (g : State → α → State) (hg : ∀ s a, KeepsContexts s (g s a)) (l : List α) (s : State) :
    KeepsContexts s (l.foldl g s) := by
  induction l generalizing s with
  | nil => exact .refl s
  | cons a l ih => exact (hg s a).trans (ih _)

theorem keepsContexts_waiters (s : State) (c : Nat) (g : Core → List Waiter) :
    KeepsContexts s (modCore s c fun k => { k with waiters := g k }) :=
  ⟨rfl, rfl, rfl, rfl, fun d y => ctxOf_modCore s c d y _ fun _ => rfl⟩

theorem keepsContexts_post (s : State) (src dst vc : Nat) (b : Body) : KeepsContexts s (post s src dst vc b) := by
  have h := postMsg_fields s { src := src, dst := dst, at_ := src, vc := vc, body := b }
  exact ⟨by rw [post, h], by rw [post, h], by rw [post, h], by rw [post, h], ctxOf_postMsg s _⟩

theorem keepsContexts_answerWaiter (s : State) (w : Waiter) : KeepsContexts s (answerWaiter s w) :=
  keepsContexts_post s _ _ _ _

theorem keepsContexts_serveWord (s : State) (k : Nat) (written : Bool) : KeepsContexts s (serveWord s k written) := by
  unfold serveWord
  split
  · exact (keepsContexts_waiters s _ _).trans (keepsContexts_foldl answerWaiter keepsContexts_answerWaiter _ _)
  · exact .refl s

theorem keepsContexts_freeTake (s : State) (k : Nat) (a : Asker) : KeepsContexts s (freeTake s k a) :=
  keepsContexts_waiters s _ _

theorem keepsContexts_cancelTake (s : State) (k : Nat) (a : Asker) : KeepsContexts s (cancelTake s k a) := by
  unfold cancelTake
  split
  · exact (keepsContexts_freeTake s k a).trans (keepsContexts_serveWord _ _ _)
  · exact .refl s

theorem keepsContexts_sendCancel (s : State) (c : Nat) (a : Asker) (k : Nat) : KeepsContexts s (sendCancel s c a k) := by
  unfold sendCancel
  split
  · exact keepsContexts_cancelTake s k a
  · exact keepsContexts_post s _ _ _ _

/-- Reading a table whose entries were all changed, where the change keeps the reset value. -/
theorem get_map_entries {α : Type} (d : α) (g : α → α) (hd : g d = d) (t : Tbl α) (k : Nat) :
    Tbl.get d (t.map fun p => (p.1, g p.2)) k = g (Tbl.get d t k) := by
  induction t with
  | nil => exact hd.symm
  | cons p t ih =>
    simp only [List.map_cons, Tbl.get]
    split
    · rfl
    · exact ih

theorem cellOf_removeWaiters (s : State) (c x serial d : Nat) :
    cellOf (removeWaiters s c x serial) d = { cellOf s d with core := { (cellOf s d).core with
      waiters := (cellOf s d).core.waiters.filter fun w => !(askerOf c x serial w.asker) || isTake w } } :=
  get_map_entries _ (fun p : Cell => { p with core := { p.core with
    waiters := p.core.waiters.filter fun w => !(askerOf c x serial w.asker) || isTake w } }) rfl _ _

theorem keepsContexts_removeWaiters (s : State) (c x serial : Nat) : KeepsContexts s (removeWaiters s c x serial) :=
  ⟨rfl, rfl, rfl, rfl, fun d y => by rw [ctxOf_core, cellOf_removeWaiters, ctxOf_core]⟩

/-- `t` follows from `s` by discarding the frames of context `x` of core `c`: of that context only its frames and its event counter
change (R26, R32). -/
structure Discards (s t : State) (c x : Nat) : Prop where
  mem : t.mem = s.mem
  full : t.full = s.full
  outbox : t.outbox = s.outbox
  focus : t.focus = s.focus
  ctx : ∃ n u, ctxOf t c x = { ctxOf s c x with frame := none, spec := [], evcnt := n, evNow := u }

theorem discards_modCtx {s t : State} (h : KeepsContexts s t) (c x : Nat) :
    Discards s (modCtx t c x fun v => { v with frame := none, spec := [] }) c x :=
  ⟨h.mem, h.full, h.outbox, h.focus, _, _, by rw [ctxOf_modCtx, h.ctx]⟩

theorem discards_dropFrames (s : State) (c x : Nat) : Discards s (dropFrames s c x) c x := by
  unfold dropFrames
  simp only
  split
  · next hf =>
    refine ⟨rfl, rfl, rfl, rfl, (ctxOf s c x).evcnt, (ctxOf s c x).evNow, ?_⟩
    rw [ctxOf_modCtx, ← hf]
  · next f _ =>
    exact discards_modCtx ((keepsContexts_removeWaiters s c x f.serial).trans
      (keepsContexts_foldl _ (fun s t => keepsContexts_sendCancel s c _ _) _ _)) c x

theorem discards_countEvent {s t : State} {c x : Nat} (h : Discards s t c x) (ev n : Nat) :
    Discards s (countEvent t c x ev n) c x := by
  obtain ⟨hmem, hfull, hout, hfocus, w, u, hctx⟩ := h
  obtain ⟨w', u', e | e⟩ := countEvent_eq t c x ev n
  · rw [e]; exact ⟨hmem, hfull, hout, hfocus, w, u, hctx⟩
  · rw [e]; exact ⟨hmem, hfull, hout, hfocus, w', u', by rw [ctxOf_putCtx, hctx]⟩

theorem discards_discardBlock (s : State) (c x : Nat) : Discards s (discardBlock s c x) c x :=
  discards_countEvent (discards_countEvent (discards_dropFrames s c x) 4 1) 5 _

/-! ### The trap that a fault takes -/

@[simp] theorem ctxOf_report (s : State) (r : Report) (c x : Nat) : ctxOf (report s r) c x = ctxOf s c x := rfl

@[simp] theorem report_outbox (s : State) (r : Report) : (report s r).outbox = s.outbox ++ [r] := rfl

/-- A trap leaves the context without a frame, and the place in focus. -/
theorem trapEntry_frame_focus (s : State) (c x : Nat) (cause : Cause) (tb ta ti : Word) (r k : Option Nat) :
    (ctxOf (trapEntry s c x cause tb ta ti r k) c x).frame = none ∧ (trapEntry s c x cause tb ta ti r k).focus = s.focus := by
  unfold trapEntry
  simp only
  split
  · exact ⟨by simp, rfl⟩
  · exact ⟨by rw [ctxOf_putCtx], rfl⟩

theorem tinfoWord_of_lt {slot lanes lsid : Nat} (hs : slot < 128) (hl : lanes < 256) (hq : lsid < 32) :
    tinfoWord false false slot lanes lsid = BitVec.ofNat 32 (slot * 2 ^ 16 + lanes * 2 ^ 8 + lsid) := by
  simp [tinfoWord, wordOf, Nat.mod_eq_of_lt hs, Nat.mod_eq_of_lt hl, Nat.mod_eq_of_lt hq]

/-- The trap after a block was discarded is the one that R124 and R134 ask of a fault. -/
theorem trapsAt_trapEntry {s t : State} {c x : Nat} (h : Discards s t c x) (f : Frame) (cause : Cause) (taddr : Word)
    {slot lanes lsid : Nat} (hs : slot < 128) (hl : lanes < 256) (hq : lsid < 32) :
    TrapsAt s (trapEntry t c x cause (wordOf f.hdr) taddr (tinfoWord false false slot lanes lsid) (some f.hdr) (some f.hdr))
      c x slot f cause taddr lanes lsid := by
  obtain ⟨hmem, hfull, hout, -, n, u, hctx⟩ := h
  rw [tinfoWord_of_lt hs hl hq]
  unfold trapEntry TrapsAt
  simp only [hctx]
  by_cases ht : (ctxOf s c x).tl = false ∧ (ctxOf s c x).trapv ≠ 0
  · have hrun : ((ctxOf s c x).tl || (ctxOf s c x).trapv == 0) = false := by
      rw [ht.1, Bool.false_or]
      exact beq_eq_false_iff_ne.2 ht.2
    rw [if_pos ht, hrun]
    simp [hmem, hfull, wordOf]
  · have hhalt : ((ctxOf s c x).tl || (ctxOf s c x).trapv == 0) = true := by
      cases htl : (ctxOf s c x).tl with
      | true => rfl
      | false => exact beq_iff_eq.2 (Classical.byContradiction fun hv => ht ⟨htl, hv⟩)
    rw [if_neg ht, hhalt]
    simp [hmem, hfull, hout, wordOf]

/-- A fault of a block in a context other than the update slot traps with the fault's record, and the frame is gone. -/
theorem trapsAt_blockFault {s : State} {c x : Nat} {f : Frame} (e : BFault) (hf : (ctxOf s c x).frame = some f) (hx : x ≠ 4)
    (hs : e.slot < 128) (hl : e.lanes < 256) (hq : e.lsid < 32) :
    TrapsAt s (blockFault s c x e) c x e.slot f e.cause e.taddr e.lanes e.lsid ∧
      (ctxOf (blockFault s c x e) c x).frame = none ∧ (blockFault s c x e).focus = s.focus := by
  have hd := discards_discardBlock s c x
  unfold blockFault
  simp only [hf, if_neg hx]
  obtain ⟨hframe, hfocus⟩ := trapEntry_frame_focus (discardBlock s c x) c x e.cause (wordOf f.hdr) e.taddr
    (tinfoWord false false e.slot e.lanes e.lsid) (some f.hdr) (some f.hdr)
  exact ⟨trapsAt_trapEntry hd f e.cause e.taddr hs hl hq, hframe, hfocus.trans hd.focus⟩

/-- A trap taken from a state that differs from the firing's only in the context's frame and event counter is a trap of the firing. -/
theorem trapsAt_of_issued {s t u : State} {c x slot : Nat} {f F : Frame} {cause : Cause} {taddr : Word} {lanes lsid : Nat}
    (h : TrapsAt t u c x slot F cause taddr lanes lsid) (hhdr : F.hdr = f.hdr)
    (hctx : ∃ g n w, ctxOf t c x = { ctxOf s c x with frame := g, evcnt := n, evNow := w })
    (hmem : t.mem = s.mem) (hfull : t.full = s.full) (hout : t.outbox = s.outbox) :
    TrapsAt s u c x slot f cause taddr lanes lsid := by
  obtain ⟨g, n, w, hctx⟩ := hctx
  unfold TrapsAt at h ⊢
  rw [hctx, hmem, hfull, hout, hhdr] at h
  exact h

/-- Counting the issue of an instruction changes no memory, no presence bit, no report and not the place in focus. -/
theorem issue_keeps (s : State) (c x ev n : Nat) :
    let t := spendIssue (countEvent s c x ev 1) c n
    t.mem = s.mem ∧ t.full = s.full ∧ t.outbox = s.outbox ∧ t.focus = s.focus := by
  obtain ⟨w, u, h | h⟩ := countEvent_eq s c x ev 1 <;> rw [h] <;> exact ⟨rfl, rfl, rfl, rfl⟩

/-- No operation departs from a context without a frame. -/
theorem departReply_noFrame {s : State} {c x : Nat} (h : (ctxOf s c x).frame = none) : departReply s c x = s := by
  unfold departReply
  rw [h]

/-- An armed instruction whose firing meets a fault of its block: the block traps, and then contexts of the cell start their next
blocks. -/
theorem fire_faults {s : State} {i : Instr} {ev : Nat} {k : State → Env → State} {f : Frame} (e : BFault) (hr : Ready s f i)
    (hk : ∀ u, k u (envOf s (here s) f i) =
      blockFault (putFrame u s.focus.cell s.focus.ctx (markFired f s.focus.slot)) s.focus.cell s.focus.ctx e)
    (he : e.slot = s.focus.slot) (hx : s.focus.ctx ≠ 4) (hs : s.focus.slot < 128) (hl : e.lanes < 256) (hq : e.lsid < 32) :
    ∃ u, fire s i ev k = .next (settleCore u s.focus.cell) ∧ u.focus = s.focus ∧
      TrapsWith s u f e.cause e.taddr e.lanes e.lsid := by
  obtain ⟨hf, ha, -⟩ := hr
  have fires := fireGate_next s i ev (fun _ _ => true) k f hf ha rfl
  rw [hk] at fires
  obtain ⟨hmem, hfull, hout, hfocus⟩ := issue_keeps s s.focus.cell s.focus.ctx ev (issueCost ev)
  obtain ⟨n, w, hctx⟩ := ctxOf_issue s s.focus.cell s.focus.ctx ev 1 (issueCost ev)
  generalize spendIssue (countEvent s s.focus.cell s.focus.ctx ev 1) s.focus.cell (issueCost ev) = t at *
  obtain ⟨traps, hnone, hkeep⟩ := trapsAt_blockFault (s := putFrame t s.focus.cell s.focus.ctx (markFired f s.focus.slot)) e
    (by rw [ctxOf_putFrame]) hx (he ▸ hs) hl hq
  have idle := departReply_noFrame hnone
  refine ⟨_, fires.trans (by rw [idle]), hkeep.trans hfocus, ?_⟩
  rw [he] at traps
  exact trapsAt_of_issued traps rfl ⟨_, n, w, by rw [ctxOf_putFrame, hctx]⟩ hmem hfull hout

/-- A side effect that meets a fault at firing faults its block (R32); an uncorrectable word is counted apart (R445). -/
theorem faults_of_fireQ {i : Instr} {s : State} {f : Frame} {lsid : BitVec 5} {g : State → Env → Except BFault Act} {e : BFault}
    (hx : exec i s = fireQ s i lsid g) (hr : Ready s f i) (hg : ∀ u, g u (envOf s (here s) f i) = .error e)
    (hecc : e.cause ≠ .ecc) (he : e.slot = s.focus.slot) : Faults i s f e.cause e.taddr e.lanes e.lsid := by
  intro hctx hs hl hq
  rw [hx]
  refine fire_faults e hr (fun u => ?_) he hctx hs hl hq
  simp only [hg, noteEcc, if_neg hecc]
  rfl

end Sys2Proof.Proofs
end

section
/-! PROOFS. The privileged functions (R95, R228, R231). -/

namespace Sys2Proof.Proofs

open Sys2Proof Sys2Proof.Machine Sys2Proof.Claim

/-! ### The privilege check -/

theorem isMgmtCore_iff (c : Nat) : isMgmtCore c = true ↔ Manager c := by simp [isMgmtCore]

theorem privileged_of_manager {e : Env} (h : Manager e.c) (lsid : BitVec 5) (r : Except BFault Act) : privileged e lsid r = r :=
  if_pos ((isMgmtCore_iff _).2 h)

theorem privileged_of_not_manager {e : Env} (h : ¬ Manager e.c) (lsid : BitVec 5) (r : Except BFault Act) :
    privileged e lsid r = .error (ferr e lsid .priv 0) :=
  if_neg fun k => h ((isMgmtCore_iff _).1 k)

/-- Instruction `i` fires in `s` a side effect `lsid` that only a management core looks at, by `act` (R95). -/
def FiresPrivileged (i : Instr) (s : State) (lsid : BitVec 5) (act : Env → Except BFault Act) : Prop :=
  exec i s = fireQ s i lsid fun _ e => privileged e lsid (act e)

section
variable {i : Instr} {s : State} {f : Frame} {lsid : BitVec 5} {act : Env → Except BFault Act}

theorem counts_of_manager (h : FiresPrivileged i s lsid act) (hr : Ready s f i) (hm : Manager s.focus.cell) {a : Act}
    (ha : act (envOf s (here s) f i) = .ok a) : Counts i s f lsid.toNat a :=
  counts_of_fireQ h hr fun _ => (privileged_of_manager hm lsid _).trans ha

theorem faults_of_not_manager (h : FiresPrivileged i s lsid act) (hr : Ready s f i) (hm : ¬ Manager s.focus.cell) :
    Faults i s f .priv 0 0 lsid.toNat :=
  faults_of_fireQ (e := ferr (envOf s (here s) f i) lsid .priv 0) h hr (fun _ => privileged_of_not_manager hm lsid _) nofun rfl

end

/-! ### What each function does at its acting lane -/

/-- The words of operand B that fault ILLEGAL: for SELFTEST a set reserved bit of the test set (R403). -/
def badSecond (fn : Nat) (b : Word) : Bool := if fn = 38 then bits b 7 25 != 0 else false

/-- The act of a management function over an address (R228). -/
def manage1Act (lsid : BitVec 5) (fn sub : Nat) (r : BitVec 8) (e : Env) : Except BFault Act :=
  match actA e with
  | none => .ok .nothing
  | some (l, a) => mgmtAct e lsid fn sub r l a 0

/-- The act of a management function over an address and a word (R228). -/
def manage2Act (lsid : BitVec 5) (fn sub : Nat) (r : BitVec 8) (e : Env) : Except BFault Act :=
  match actAB e with
  | none => .ok .nothing
  | some (l, a, b) =>
    if badSecond fn b then .error (ferr e lsid .illegal (wordOf (slotAddr e.f e.slot)) (2 ^ l))
    else mgmtAct e lsid fn sub r l a b

/-- The act of MAPSEL (R231). -/
def mapselAct (map : BitVec 2) (r : BitVec 8) (e : Env) : Except BFault Act :=
  match actA e with
  | none => .ok .nothing
  | some (_, a) => .ok (.cfg (.mapsel a map.toNat r.toNat))

section
variable {i : Instr} {q : LF} {fn sub : Nat} {r : BitVec 8}

theorem firesPrivileged_manage1 (h : manage1 i = some (q, fn, sub, r)) (s : State) :
    FiresPrivileged i s q.lsid (manage1Act q.lsid fn sub r) := by
  unfold manage1 at h
  split at h <;> cases h <;> rfl

theorem firesPrivileged_manage2 (h : manage2 i = some (q, fn, sub, r)) (s : State) :
    FiresPrivileged i s q.lsid (manage2Act q.lsid fn sub r) := by
  unfold manage2 at h
  split at h <;> cases h <;> rfl

theorem firesPrivileged_mapsel (q : LF) (map : BitVec 2) (r : BitVec 8) (s : State) :
    FiresPrivileged (.mapsel q map r) s q.lsid (mapselAct map r) := rfl

theorem usesA_of_manage1 (h : manage1 i = some (q, fn, sub, r)) : usesA i = true := by
  unfold manage1 at h
  split at h <;> cases h <;> rfl

theorem usesAB_of_manage2 (h : manage2 i = some (q, fn, sub, r)) : usesA i = true ∧ usesB i = true := by
  unfold manage2 at h
  split at h <;> cases h <;> exact ⟨rfl, rfl⟩

end

/-- Every privileged function fires by one of the three acts. -/
theorem exists_firesPrivileged {i : Instr} {n : BitVec 5} (h : privilegedLsid i = some n) (s : State) :
    ∃ act, FiresPrivileged i s n act := by
  unfold privilegedLsid at h
  split at h
  · next q map r => cases h; exact ⟨_, firesPrivileged_mapsel q map r s⟩
  · split at h
    · next m _ hm => cases h; exact ⟨_, firesPrivileged_manage1 hm s⟩
    · next m _ hm => cases h; exact ⟨_, firesPrivileged_manage2 hm s⟩
    · cases h

/-! ### Management addresses -/

theorem bits_eq_extractLsb' (a : Word) (lo w : Nat) : bits a lo w = (a.extractLsb' lo w).toNat := by
  simp [bits, fld, Nat.shiftRight_eq_div_pow]

/-- AUX of a management address lies in the bits that R228 keeps at zero where no function uses it. -/
theorem maAux_eq (a : Word) : maAux a = 16 * bits a 27 4 + bits a 23 4 := by
  simp only [maAux, bits, fld]
  omega

/-- The fields of an address that R228 allows: no reserved one is set. -/
theorem maReserved_eq_false {s : State} {fn : Nat} {a : Word} (ha : AddressOk s fn a) : maReserved fn a = false := by
  obtain ⟨h31, h27, h23, -⟩ := ha
  have hi : fn ≠ 43 → bits a 27 4 = 0 := fun h => by rw [bits_eq_extractLsb', h27 h]; rfl
  have lo : fn ≠ 43 → fn ≠ 42 → bits a 23 4 = 0 := fun h h' => by rw [bits_eq_extractLsb', h23 h h']; rfl
  unfold maReserved
  rw [show Machine.bit a 31 = false from h31]
  by_cases h43 : fn = 43
  · simp [h43]
  · by_cases h42 : fn = 42
    · simp [h42, hi (by omega)]
    · simp [h43, h42, maAux_eq, hi h43, lo h43 h42]

/-- A bay controller's address names its own bay where R228 allows it. -/
theorem addressOk_ownBay {s : State} {fn : Nat} {a : Word} (hm : Manager s.focus.cell) (ha : AddressOk s fn a) :
    (isBayCore s.focus.cell && bits a 0 10 != bayOf s.focus.cell) = false := by
  obtain ⟨-, -, -, hbay⟩ := ha
  by_cases hc : s.focus.cell < 1049600
  · have hcell : ¬ s.focus.cell < 1048576 := by omega
    rw [bits_eq_extractLsb', hbay hc, bayOf, if_neg hcell]
    simp
  · simp [isBayCore, hc]

/-- Of the managers, the sill processors are those that are no bay controller. -/
theorem not_isBayCore_eq {c : Nat} (hm : Manager c) : (!isBayCore c) = decide (1049600 ≤ c) := by
  obtain ⟨hlo, -⟩ := hm
  by_cases hc : c < 1049600
  · simp [isBayCore, hlo, hc]
  · have hge : 1049600 ≤ c := by omega
    simp [isBayCore, hc, hge]

/-- A management function whose address R228 allows departs at commit. -/
theorem mgmtAct_ok {s : State} {e : Env} {fn : Nat} {a : Word} (hc : e.c = s.focus.cell) (hm : Manager s.focus.cell)
    (ha : AddressOk s fn a) (lsid : BitVec 5) (sub : Nat) (r : BitVec 8) (l : Nat) (b : Word) :
    mgmtAct e lsid fn sub r l a b = .ok (sentFunction s fn sub r a b) := by
  unfold mgmtAct sentFunction
  rw [hc, maReserved_eq_false ha, addressOk_ownBay hm ha, not_isBayCore_eq hm]
  rfl

theorem badSecond_eq_false {fn : Nat} {b : Word} (h : fn = 38 → b.extractLsb' 7 25 = 0) : badSecond fn b = false := by
  unfold badSecond
  split
  · next h38 => rw [bits_eq_extractLsb', h h38]; rfl
  · rfl

/-! ### The acts in a management core -/

section
variable {i : Instr} {s : State} {f : Frame} {q : LF} {fn sub : Nat} {r : BitVec 8}

theorem counts_manage1 {l : Nat} {a : Word} (h : manage1 i = some (q, fn, sub, r)) (hr : Ready s f i)
    (hact : ActingA i (opnd s f) l a) (hm : Manager s.focus.cell) (ha : AddressOk s fn a) :
    Counts i s f q.lsid.toNat (sentFunction s fn sub r a 0) := by
  refine counts_of_manager (firesPrivileged_manage1 h s) hr hm ?_
  rw [manage1Act, actA_of_acting (usesA_of_manage1 h) hact]
  exact mgmtAct_ok rfl hm ha q.lsid sub r l 0

theorem counts_manage1_idle (h : manage1 i = some (q, fn, sub, r)) (hr : Ready s f i) (hidle : IdleA i (opnd s f))
    (hm : Manager s.focus.cell) : Counts i s f q.lsid.toNat .nothing := by
  refine counts_of_manager (firesPrivileged_manage1 h s) hr hm ?_
  rw [manage1Act, actA_of_idle (usesA_of_manage1 h) hidle]

theorem counts_manage2 {l : Nat} {a b : Word} (h : manage2 i = some (q, fn, sub, r)) (hr : Ready s f i)
    (hact : ActingAB i (opnd s f) l a b) (hm : Manager s.focus.cell) (ha : AddressOk s fn a)
    (hb : fn = 38 → b.extractLsb' 7 25 = 0) : Counts i s f q.lsid.toNat (sentFunction s fn sub r a b) := by
  obtain ⟨hA, hB⟩ := usesAB_of_manage2 h
  refine counts_of_manager (firesPrivileged_manage2 h s) hr hm ?_
  rw [manage2Act, actAB_of_acting hA hB hact]
  simp only [badSecond_eq_false hb, Bool.false_eq_true, if_false]
  exact mgmtAct_ok rfl hm ha q.lsid sub r l b

theorem counts_manage2_idle (h : manage2 i = some (q, fn, sub, r)) (hr : Ready s f i) (hidle : IdleAB i (opnd s f))
    (hm : Manager s.focus.cell) : Counts i s f q.lsid.toNat .nothing := by
  obtain ⟨hA, hB⟩ := usesAB_of_manage2 h
  refine counts_of_manager (firesPrivileged_manage2 h s) hr hm ?_
  rw [manage2Act, actAB_of_idle hA hB hidle]

theorem counts_mapsel {map : BitVec 2} {l : Nat} {a : Word} (hr : Ready s f (.mapsel q map r))
    (hact : ActingA (.mapsel q map r) (opnd s f) l a) (hm : Manager s.focus.cell) :
    Counts (.mapsel q map r) s f q.lsid.toNat (.cfg (.mapsel a map.toNat r.toNat)) := by
  refine counts_of_manager (firesPrivileged_mapsel q map r s) hr hm ?_
  rw [mapselAct, actA_of_acting rfl hact]

theorem counts_mapsel_idle {map : BitVec 2} (hr : Ready s f (.mapsel q map r)) (hidle : IdleA (.mapsel q map r) (opnd s f))
    (hm : Manager s.focus.cell) : Counts (.mapsel q map r) s f q.lsid.toNat .nothing := by
  refine counts_of_manager (firesPrivileged_mapsel q map r s) hr hm ?_
  rw [mapselAct, actA_of_idle rfl hidle]

end

/-- Settles O29: every privileged function fires one side effect behind the privilege check; in a management core the check passes and
the act is that of the acting lane, in any other core the check is the fault. -/
theorem privilegedFunctionsNeedAManager : Obligations.PrivilegedFunctionsNeedAManager := by
  unfold Obligations.PrivilegedFunctionsNeedAManager
  refine ⟨?_, ?_, ?_, ?_, ?_, ?_, ?_⟩
  · intro i q fn sub r s f l a h hr hact hm ha
    exact counts_manage1 h hr hact hm ha
  · intro i q fn sub r s f l a b h hr hact hm ha hb
    exact counts_manage2 h hr hact hm ha hb
  · intro q map r s f l a hr hact hm
    exact counts_mapsel hr hact hm
  · intro i q fn sub r s f h hr hidle hm
    exact counts_manage1_idle h hr hidle hm
  · intro i q fn sub r s f h hr hidle hm
    exact counts_manage2_idle h hr hidle hm
  · intro q map r s f hr hidle hm
    exact counts_mapsel_idle hr hidle hm
  · intro i n s f h hr hm
    obtain ⟨act, hfires⟩ := exists_firesPrivileged h s
    exact faults_of_not_manager hfires hr hm

end Sys2Proof.Proofs
end

section
/-! PROOFS. The instructions that deliver a value: from the way an instruction fires to what it yields, lane by lane (R27, R28, R102). -/

namespace Sys2Proof.Proofs

open Sys2Proof Sys2Proof.Machine Sys2Proof.Claim

/-! ### Delivering a value -/

section
variable {i : Instr} {s : State} {f : Frame}

/-- An armed instruction that fires by producing a value and flags yields them. -/
theorem yields_of_produce {ev : Nat} {ts : List Target} {r : Env → Val × Word} {val : Val} {flags : Word}
    (hx : exec i s = fire s i ev fun s e => produce s e ts (r e)) (hr : Ready s f i)
    (hv : r (envOf s (here s) f i) = (val, flags)) : Yields i s f ts val flags := by
  intro F hF
  obtain ⟨hf, ha, hd⟩ := hr
  obtain ⟨t, ht, hfired⟩ := produce_fires s i ev ts r f F hd hf ha (by rw [hv]; exact hF)
  exact ⟨t, hx.trans ht, leaves_of_fired hfired⟩

theorem yields_of_fireG {g : GF} {r : Env → Val × Word} {val : Val} {flags : Word} (hx : exec i s = fireG s i g r)
    (hr : Ready s f i) (hv : r (envOf s (here s) f i) = (val, flags)) : Yields i s f [g.t0, g.t1] val flags :=
  yields_of_produce hx hr hv

theorem yields_of_fireT {t0 : Target} {r : Env → Val × Word} {val : Val} {flags : Word} (hx : exec i s = fireT s i t0 r)
    (hr : Ready s f i) (hv : r (envOf s (here s) f i) = (val, flags)) : Yields i s f [t0] val flags :=
  yields_of_produce hx hr hv

/-! ### Lane by lane -/

theorem envOf_cc_get {v : Context} (hC : usesC i = true) (l : Nat) : (envOf s v f i).cc.get l = laneC (opnd s f) l := by
  rw [envOf, if_pos hC]

theorem ofFn_congr {α : Type} {p q : Nat → α} (h : ∀ l, l < 8 → p l = q l) : Lanes.ofFn p = Lanes.ofFn q := by
  simp [Lanes.ofFn, h]

/-- The lanes of a firing instruction are those of R102 where the two readings agree on every lane. -/
theorem laneVal_envOf {p q : Nat → Option Word} (h : ∀ l, l < 8 → p l = q l) :
    (laneVal (envOf s (here s) f i) p, (0 : Word)) = (lanesOf i (opnd s f) q, 0) :=
  congrArg (·, 0) (ofFn_congr fun l hl => by rw [envOf_m_get hl, h l hl])

theorem map1_envOf (hA : usesA i = true) (fn : Word → Word) :
    map1 (envOf s (here s) f i) fn = (lanes1 i (opnd s f) fn, 0) := by
  refine laneVal_envOf fun l _ => ?_
  rw [envOf_a_get hA]
  cases laneA (opnd s f) l <;> rfl

theorem map2_envOf (hA : usesA i = true) (hB : usesB i = true) (fn : Word → Word → Word) :
    map2 (envOf s (here s) f i) fn = (lanes2 i (opnd s f) fn, 0) := by
  refine laneVal_envOf fun l _ => ?_
  rewrite [envOf_a_get hA, envOf_b_get hB]
  rfl

theorem map3_envOf (hA : usesA i = true) (hB : usesB i = true) (hC : usesC i = true) (fn : Word → Word → Word → Word) :
    map3 (envOf s (here s) f i) fn = (lanes3 i (opnd s f) fn, 0) := by
  refine laneVal_envOf fun l _ => ?_
  rewrite [envOf_a_get hA, envOf_b_get hB, envOf_cc_get hC]
  rfl

end

/-! ### The templates of R102 -/

/-- Instruction `i` fires by the template over A with the function `fn`. -/
structure Fires1 (i : Instr) (g : GF) (fn : Word → Word) : Prop where
  usesA : usesA i = true
  exec : ∀ s, exec i s = fireG s i g fun e => map1 e fn

/-- Instruction `i` fires by the template over A and B with the function `fn`. -/
structure Fires2 (i : Instr) (g : GF) (fn : Word → Word → Word) : Prop where
  usesA : usesA i = true
  usesB : usesB i = true
  exec : ∀ s, exec i s = fireG s i g fun e => map2 e fn

/-- Instruction `i` fires by the template over A, B and C with the function `fn`. -/
structure Fires3 (i : Instr) (g : GF) (fn : Word → Word → Word → Word) : Prop where
  usesA : usesA i = true
  usesB : usesB i = true
  usesC : usesC i = true
  exec : ∀ s, exec i s = fireG s i g fun e => map3 e fn

section
variable {i : Instr} {s : State} {f : Frame} {g : GF}

theorem Fires1.congr {m fn : Word → Word} (h : Fires1 i g m) (hm : ∀ a, m a = fn a) : Fires1 i g fn := by
  rwa [← funext hm]

theorem Fires2.congr {m fn : Word → Word → Word} (h : Fires2 i g m) (hm : ∀ a b, m a b = fn a b) : Fires2 i g fn := by
  rwa [← funext fun a => funext (hm a)]

theorem Fires3.congr {m fn : Word → Word → Word → Word} (h : Fires3 i g m) (hm : ∀ a b c, m a b c = fn a b c) :
    Fires3 i g fn := by
  rwa [← funext fun a => funext fun b => funext (hm a b)]

theorem Fires1.yields {fn : Word → Word} (h : Fires1 i g fn) (hr : Ready s f i) :
    Yields i s f [g.t0, g.t1] (lanes1 i (opnd s f) fn) 0 :=
  yields_of_fireG (h.exec s) hr (map1_envOf h.usesA fn)

theorem Fires2.yields {fn : Word → Word → Word} (h : Fires2 i g fn) (hr : Ready s f i) :
    Yields i s f [g.t0, g.t1] (lanes2 i (opnd s f) fn) 0 :=
  yields_of_fireG (h.exec s) hr (map2_envOf h.usesA h.usesB fn)

theorem Fires3.yields {fn : Word → Word → Word → Word} (h : Fires3 i g fn) (hr : Ready s f i) :
    Yields i s f [g.t0, g.t1] (lanes3 i (opnd s f) fn) 0 :=
  yields_of_fireG (h.exec s) hr (map3_envOf h.usesA h.usesB h.usesC fn)

end

end Sys2Proof.Proofs
end

section
/-! PROOFS. Integer words: the model's word functions are those of R109 to R113. -/

namespace Sys2Proof.Proofs

open Sys2Proof Sys2Proof.Machine Sys2Proof.Claim

/-! ### Readings of a word -/

theorem wordOf_toNat (a : Word) : wordOf a.toNat = a := by simp [wordOf]

theorem wordOf_mul_two_pow (n k : Nat) : wordOf (n * 2 ^ k) = wordOf n <<< k := by
  refine BitVec.eq_of_toNat_eq ?_
  simp [wordOf, Nat.shiftLeft_eq]

theorem sread_eq_reading (x : Sgn) (a : Word) : sread x a = reading x a := by cases x <;> rfl

theorem reading_inj {x : Sgn} {a b : Word} (h : reading x a = reading x b) : a = b := by
  cases x with
  | sw => exact BitVec.eq_of_toInt_eq h
  | uw => exact BitVec.eq_of_toNat_eq (Int.ofNat_inj.1 h)

theorem ult_eq_decide_reading (a b : Word) : a.ult b = decide (reading .uw a < reading .uw b) := by
  simp [reading, BitVec.ult]

theorem slt_eq_decide_reading (a b : Word) : a.slt b = decide (reading .sw a < reading .sw b) := BitVec.slt_eq_decide

theorem ule_eq_decide_reading (a b : Word) : a.ule b = decide (reading .uw a ≤ reading .uw b) := by
  simp [reading, BitVec.ule]

theorem sle_eq_decide_reading (a b : Word) : a.sle b = decide (reading .sw a ≤ reading .sw b) := BitVec.sle_eq_decide

/-! ### Sums and products (R109) -/

theorem add_eq_ofNat (a b : Word) : a + b = BitVec.ofNat 32 (a.toNat + b.toNat) := by simp [BitVec.ofNat_add]

theorem mul_eq_ofNat (a b : Word) : a * b = BitVec.ofNat 32 (a.toNat * b.toNat) := by simp [BitVec.ofNat_mul]

theorem sub_eq_ofInt (a b : Word) : a - b = BitVec.ofInt 32 (a.toInt - b.toInt) :=
  BitVec.eq_of_toInt_eq (by rw [BitVec.toInt_sub, BitVec.toInt_ofInt])

theorem add3_eq_ofNat (a b c : Word) : a + b + c = BitVec.ofNat 32 (a.toNat + b.toNat + c.toNat) := by
  simp [BitVec.ofNat_add]

theorem mad_eq_ofNat (a b c : Word) : a * b + c = BitVec.ofNat 32 (a.toNat * b.toNat + c.toNat) := by
  simp [BitVec.ofNat_add, BitVec.ofNat_mul]

/-- The upper half of a product, taken as a quotient or as bits [63:32] of its 64-bit word. -/
theorem wordOfInt_div_eq_extractLsb' (v : Int) : wordOfInt (v / 2 ^ 32) = (BitVec.ofInt 64 v).extractLsb' 32 32 := by
  refine BitVec.eq_of_toNat_eq ?_
  simp only [wordOfInt, BitVec.toNat_ofInt, BitVec.extractLsb'_toNat, Nat.shiftRight_eq_div_pow]
  omega

theorem mulhWord_sw (a b : Word) : mulhWord .sw a b = (a.signExtend 64 * b.signExtend 64).extractLsb' 32 32 := by
  rw [mulhWord, wordOfInt_div_eq_extractLsb', BitVec.ofInt_mul]
  rfl

theorem mulhWord_uw (a b : Word) : mulhWord .uw a b = (a.setWidth 64 * b.setWidth 64).extractLsb' 32 32 := by
  have widen : ∀ w : Word, BitVec.ofInt 64 (sread .uw w) = w.setWidth 64 := fun w => by
    rw [sread, BitVec.ofInt_natCast, BitVec.ofNat_toNat]
  rw [mulhWord, wordOfInt_div_eq_extractLsb', BitVec.ofInt_mul, widen, widen]

theorem leaWord_eq_add_shiftLeft (x : LeaF) (a b : Word) : leaWord x a b = a + b <<< x.code := by
  rw [leaWord, wordOf_mul_two_pow, wordOf_toNat]

/-! ### Least, greatest, saturated and absolute values (R109) -/

/-- Whether equal readings count as less makes no difference where they choose the same word. -/
theorem ite_le_eq_ite_lt {m n : Int} {p q : Word} (h : m = n → p = q) :
    (if m ≤ n then p else q) = if m < n then p else q := by
  by_cases hlt : m < n
  · rw [if_pos (Int.le_of_lt hlt), if_pos hlt]
  · rw [if_neg hlt]
    by_cases hle : m ≤ n
    · rw [if_pos hle, h (Int.le_antisymm hle (Int.not_lt.1 hlt))]
    · rw [if_neg hle]

theorem minWord_eq_ite_lt (x : Sgn) (a b : Word) : minWord x a b = if reading x a < reading x b then a else b := by
  rw [minWord, sread_eq_reading, sread_eq_reading]
  exact ite_le_eq_ite_lt reading_inj

theorem maxWord_eq_ite_lt (x : Sgn) (a b : Word) : maxWord x a b = if reading x a < reading x b then b else a := by
  rw [maxWord, sread_eq_reading, sread_eq_reading]
  exact ite_le_eq_ite_lt fun h => (reading_inj h).symm

theorem minWord_sw (a b : Word) : minWord .sw a b = if a.slt b then a else b := by
  simp only [minWord_eq_ite_lt, slt_eq_decide_reading, decide_eq_true_eq]

theorem minWord_uw (a b : Word) : minWord .uw a b = if a.ult b then a else b := by
  simp only [minWord_eq_ite_lt, ult_eq_decide_reading, decide_eq_true_eq]

theorem maxWord_sw (a b : Word) : maxWord .sw a b = if a.slt b then b else a := by
  simp only [maxWord_eq_ite_lt, slt_eq_decide_reading, decide_eq_true_eq]

theorem maxWord_uw (a b : Word) : maxWord .uw a b = if a.ult b then b else a := by
  simp only [maxWord_eq_ite_lt, ult_eq_decide_reading, decide_eq_true_eq]

theorem wordOfInt_clampInt {lo hi : Int} (h : lo ≤ hi) (v : Int) : wordOfInt (clampInt lo hi v) = clamped lo hi v := by
  refine congrArg (BitVec.ofInt 32) ?_
  unfold clampInt
  by_cases hlo : v < lo
  · rw [if_pos hlo]
    omega
  · rw [if_neg hlo]
    by_cases hhi : hi < v
    · rw [if_pos hhi]
      omega
    · rw [if_neg hhi]
      omega

theorem absdWord_eq_ite_lt (x : Sgn) (a b : Word) : absdWord x a b =
    if reading x a < reading x b then BitVec.ofInt 32 (reading x b - reading x a) else BitVec.ofInt 32 (reading x a - reading x b) := by
  rw [absdWord, sread_eq_reading, sread_eq_reading, wordOf, ← BitVec.ofInt_natCast]
  split
  · exact congrArg _ (by omega)
  · exact congrArg _ (by omega)

/-! ### Quotients and remainders (R110) -/

theorem wordOfInt_tdiv (a b : Word) : wordOfInt (a.toInt.tdiv b.toInt) = a.sdiv b :=
  BitVec.eq_of_toInt_eq (by rw [wordOfInt, BitVec.toInt_ofInt, BitVec.toInt_sdiv])

theorem wordOfInt_tmod (a b : Word) : wordOfInt (a.toInt.tmod b.toInt) = a.srem b := by
  rw [wordOfInt, ← BitVec.toInt_srem, BitVec.ofInt_toInt]

theorem divWord_sw (a b : Word) : divWord .sw a b = if b = 0 then 0xFFFFFFFF else a.sdiv b := by
  simp only [divWord, wordOfInt_tdiv]
  refine ite_congr rfl (fun _ => rfl) fun _ => ?_
  split
  · next h => obtain ⟨rfl, rfl⟩ := h; decide
  · rfl

theorem divWord_uw (a b : Word) : divWord .uw a b = if b = 0 then 0xFFFFFFFF else a.udiv b :=
  ite_congr rfl (fun _ => rfl) fun _ => wordOf_toNat (a.udiv b)

theorem remWord_sw (a b : Word) : remWord .sw a b = if b = 0 then a else a.srem b := by
  simp only [remWord, wordOfInt_tmod]
  refine ite_congr rfl (fun _ => rfl) fun _ => ?_
  split
  · next h => obtain ⟨rfl, rfl⟩ := h; decide
  · rfl

theorem remWord_uw (a b : Word) : remWord .uw a b = if b = 0 then a else a.umod b :=
  ite_congr rfl (fun _ => rfl) fun _ => wordOf_toNat (a.umod b)

/-! ### Shifts and rotates (R111) -/

theorem shlWord_eq_shiftLeft (a : Word) (n : Nat) : shlWord a n = a <<< n := by
  unfold shlWord
  split
  · rw [wordOf_mul_two_pow, wordOf_toNat]
  · next h => exact (BitVec.shiftLeft_eq_zero (Nat.le_of_not_lt h)).symm

theorem shrWord_uw (a : Word) (n : Nat) : shrWord .uw a n = a >>> n := by
  simp only [shrWord]
  split
  · rw [← Nat.shiftRight_eq_div_pow, ← BitVec.toNat_ushiftRight, wordOf_toNat]
  · next h => exact (BitVec.ushiftRight_eq_zero (Nat.le_of_not_lt h)).symm

/-- An arithmetic shift by the word's width or more leaves its sign in every bit. -/
theorem sshiftRight_of_ge (a : Word) {n : Nat} (h : 32 ≤ n) : a.sshiftRight n = if a.msb then 0xFFFFFFFF else 0 := by
  cases hm : a.msb with
  | true => rw [BitVec.sshiftRight_eq_of_msb_true hm, BitVec.ushiftRight_eq_zero h]; rfl
  | false => rw [BitVec.sshiftRight_eq_of_msb_false hm, BitVec.ushiftRight_eq_zero h]; rfl

theorem shrWord_sw (a : Word) (n : Nat) : shrWord .sw a n = a.sshiftRight n := by
  simp only [shrWord]
  split
  · rw [BitVec.sshiftRight_eq, Int.shiftRight_eq_div_pow, Int.natCast_pow]
    rfl
  · next h => exact (sshiftRight_of_ge a (Nat.le_of_not_lt h)).symm

theorem rotWord_eq_rotateLeft (a : Word) (n : Nat) : rotWord a n = a.rotateLeft (n % 32) := by
  have hk : n % 32 < 32 := Nat.mod_lt _ (by decide)
  rw [rotWord]
  generalize n % 32 = k at hk
  have hpow : 2 ^ 32 = 2 ^ k * 2 ^ (32 - k) := by rw [← Nat.pow_add, Nat.add_sub_cancel' (Nat.le_of_lt hk)]
  have hlow : a.toNat / 2 ^ (32 - k) < 2 ^ k := (Nat.div_lt_iff_lt_mul (Nat.two_pow_pos _)).2 (hpow ▸ a.isLt)
  have hhigh : a.toNat * 2 ^ k % 2 ^ 32 = 2 ^ k * (a.toNat % 2 ^ (32 - k)) := by
    rw [hpow, Nat.mul_comm, Nat.mul_mod_mul_left]
  rw [← wordOf_toNat (a.rotateLeft k), BitVec.toNat_rotateLeft, Nat.mod_eq_of_lt hk, Nat.shiftLeft_eq, Nat.shiftRight_eq_div_pow,
    hhigh, Nat.two_pow_add_eq_or_of_lt hlow]

/-! ### Bit counts (R112) -/

theorem popCount_eq_length_filter (k n : Nat) : popCount k n = ((List.range k).filter n.testBit).length := by
  induction k generalizing n with
  | zero => rfl
  | succ k ih =>
    have tail : (n.testBit ∘ Nat.succ) = (n / 2).testBit := funext fun j => Nat.testBit_succ n j
    rw [popCount, ih, List.range_succ_eq_map, List.filter_cons, List.filter_map, tail]
    rcases Nat.mod_two_eq_zero_or_one n with h | h <;> simp [Nat.testBit_zero, h, Nat.add_comm]

/-- The run of zeros from place 0 ends there or goes on at place 1. -/
theorem zeroRun_range_succ (p : Nat → Bool) (k : Nat) :
    zeroRun ((List.range (k + 1)).map p) = if p 0 then 0 else zeroRun ((List.range k).map fun j => p (j + 1)) + 1 := by
  rw [List.range_succ_eq_map, List.map_cons, List.map_map, zeroRun, List.takeWhile_cons]
  cases p 0 <;> rfl

theorem headD_onesFrom (k i n : Nat) : (onesFrom k i n).headD (i + k) = i + zeroRun ((List.range k).map n.testBit) := by
  induction k generalizing i n with
  | zero => rfl
  | succ k ih =>
    have tail : (fun j => n.testBit (j + 1)) = (n / 2).testBit := funext fun j => Nat.testBit_succ n j
    rw [onesFrom, zeroRun_range_succ, tail, Nat.testBit_zero]
    by_cases h : n % 2 = 1
    · simp [h]
    · have := ih (i + 1) (n / 2)
      simp only [h, if_false, decide_false, Bool.false_eq_true]
      rw [show i + (k + 1) = i + 1 + k by omega, this]
      omega

theorem zeroRun_from_top {k n : Nat} (h : n < 2 ^ k) :
    zeroRun ((List.range k).map fun j => n.testBit (k - 1 - j)) = if n = 0 then k else k - 1 - n.log2 := by
  induction k with
  | zero => simp [zeroRun]
  | succ k ih =>
    have tail : (fun j => n.testBit (k + 1 - 1 - (j + 1))) = fun j => n.testBit (k - 1 - j) :=
      funext fun j => congrArg _ (by omega)
    rw [zeroRun_range_succ, tail]
    by_cases hn : n < 2 ^ k
    · have top : n.testBit (k + 1 - 1 - 0) = false := Nat.testBit_lt_two_pow hn
      rw [top, ih hn]
      by_cases h0 : n = 0
      · simp [h0]
      · have := (Nat.log2_lt h0).2 hn
        simp [h0]
        omega
    · have hge : 2 ^ k ≤ n := Nat.le_of_not_lt hn
      have hn0 : n ≠ 0 := by have := Nat.two_pow_pos k; omega
      have hlog : n.log2 = k := (Nat.log2_eq_iff hn0).2 ⟨hge, h⟩
      have top : n.testBit (k + 1 - 1 - 0) = true := Nat.testBit_of_two_pow_le_and_two_pow_add_one_gt hge h
      rw [if_pos top, if_neg hn0, hlog]
      omega

theorem bitcWord_pop (a : Word) :
    bitcWord .pop a = BitVec.ofNat 32 ((List.range 32).filter fun k => a.getLsbD k).length :=
  congrArg wordOf (popCount_eq_length_filter 32 a.toNat)

theorem bitcWord_ctz (a : Word) :
    bitcWord .ctz a = BitVec.ofNat 32 (zeroRun ((List.range 32).map fun k => a.getLsbD k)) :=
  congrArg wordOf ((headD_onesFrom 32 0 a.toNat).trans (Nat.zero_add _))

theorem bitcWord_clz (a : Word) :
    bitcWord .clz a = BitVec.ofNat 32 (zeroRun ((List.range 32).map fun k => a.getLsbD (31 - k))) := by
  have run : zeroRun ((List.range 32).map fun k => a.getLsbD (31 - k)) = if a.toNat = 0 then 32 else 32 - 1 - a.toNat.log2 :=
    zeroRun_from_top a.isLt
  rw [run, bitcWord]
  by_cases h : a = 0
  · simp [h]
  · have h0 : a.toNat ≠ 0 := fun e => h (BitVec.eq_of_toNat_eq e)
    rw [if_neg h, if_neg h0]
    rfl

/-! ### Extensions and bit fields (R112, R113) -/

/-- The field of width `w` at place `p` of a word. -/
theorem fld_toNat (a : Word) (p w : Nat) : fld a.toNat p w = ((a >>> p).setWidth w).toNat := by
  simp [fld, Nat.shiftRight_eq_div_pow]

theorem bits_low (a : Word) (w : Nat) : bits a 0 w = (a.setWidth w).toNat := by
  rw [bits, fld_toNat, BitVec.ushiftRight_zero]

theorem wordOf_field {w : Nat} (x : BitVec w) : wordOf x.toNat = x.setWidth 32 := BitVec.ofNat_toNat 32 x

theorem toInt_eq_ite_half {w : Nat} (x : BitVec w) :
    x.toInt = if 2 ^ (w - 1) ≤ x.toNat then (x.toNat : Int) - 2 ^ w else x.toNat := by
  simp [BitVec.toInt_eq_msb_cond, BitVec.msb_eq_decide]

/-- A number read in two's complement is a field's word read as signed. -/
theorem signed_toNat {w : Nat} (x : BitVec w) : signed x.toNat w = x.toInt := by
  rw [signed, Nat.mod_eq_of_lt x.isLt, toInt_eq_ite_half]
  by_cases h : 2 ^ (w - 1) ≤ x.toNat
  · rw [if_pos h, if_neg (Nat.not_lt.2 h)]
  · rw [if_neg h, if_pos (Nat.lt_of_not_le h)]

theorem wordOfInt_signed_bits (a : Word) (w : Nat) : wordOfInt (signed (bits a 0 w) w) = (a.setWidth w).signExtend 32 := by
  rw [bits_low, signed_toNat]
  rfl

theorem wordOf_bits_low (a : Word) (w : Nat) : wordOf (bits a 0 w) = (a.setWidth w).setWidth 32 := by
  rw [bits_low, wordOf_field]

theorem bfxWord_uw (a b : Word) : bfxWord .uw a b =
    ((a >>> (b.extractLsb' 0 5).toNat).setWidth ((b.extractLsb' 8 5).toNat + 1)).setWidth 32 := by
  simp only [bfxWord, bits_eq_extractLsb', fld_toNat, wordOf_field]

theorem bfxWord_sw (a b : Word) : bfxWord .sw a b =
    ((a >>> (b.extractLsb' 0 5).toNat).setWidth ((b.extractLsb' 8 5).toNat + 1)).signExtend 32 := by
  simp only [bfxWord, bits_eq_extractLsb', fld_toNat, BitVec.signExtend, toInt_eq_ite_half]
  split
  · rfl
  · rw [BitVec.ofInt_natCast, wordOf]

theorem wordOf_ones (w : Nat) : wordOf (2 ^ w - 1) = (BitVec.allOnes w).setWidth 32 := by
  rw [← wordOf_field, BitVec.toNat_allOnes]

theorem bfiWord_eq_inserted (a b c : Word) : bfiWord a b c = inserted a b c := by
  simp only [bfiWord, inserted, fieldMask, bits_eq_extractLsb', wordOf_mul_two_pow, wordOf_ones, wordOf_toNat]

end Sys2Proof.Proofs
end

section
/-! PROOFS. The scalar instructions: each fires by a template with the word function of its rule (R104 to R115). -/

namespace Sys2Proof.Proofs

open Sys2Proof Sys2Proof.Machine Sys2Proof.Claim

/-! ### Integer arithmetic and logic (R109) -/

section
variable {i : Instr} {g : GF}

/-- Row by row of R109, the machine fires the template over A and B, and its word function equals the row's f. -/
theorem arith2_fires {fn : Word → Word → Word} (h : arith2 i = some (g, fn)) : Fires2 i g fn := by
  unfold arith2 at h
  split at h <;> cases h
  all_goals refine Fires2.congr ⟨rfl, rfl, fun _ => rfl⟩ ?_
  · exact add_eq_ofNat
  · exact sub_eq_ofInt
  · exact mul_eq_ofNat
  · exact mulhWord_sw
  · exact mulhWord_uw
  -- AND, OR, XOR and ANDN are the same operations on words in both.
  · exact fun _ _ => rfl
  · exact fun _ _ => rfl
  · exact fun _ _ => rfl
  · exact fun _ _ => rfl
  · exact minWord_sw
  · exact minWord_uw
  · exact maxWord_sw
  · exact maxWord_uw
  · exact fun a b => (leaWord_eq_add_shiftLeft .s0 a b).trans (congrArg (a + ·) (BitVec.shiftLeft_zero b))
  · exact leaWord_eq_add_shiftLeft .s1
  · exact leaWord_eq_add_shiftLeft .s2
  · exact leaWord_eq_add_shiftLeft .s3
  · exact leaWord_eq_add_shiftLeft .s4
  · exact fun _ _ => wordOfInt_clampInt (by decide) _
  · exact fun _ _ => wordOfInt_clampInt (by decide) _
  · exact fun _ _ => wordOfInt_clampInt (by decide) _
  · exact fun _ _ => wordOfInt_clampInt (by decide) _
  · exact absdWord_eq_ite_lt _

theorem arith3_fires {fn : Word → Word → Word → Word} (h : arith3 i = some (g, fn)) : Fires3 i g fn := by
  unfold arith3 at h
  split at h <;> cases h
  all_goals refine Fires3.congr ⟨rfl, rfl, rfl, fun _ => rfl⟩ ?_
  · exact add3_eq_ofNat
  · exact mad_eq_ofNat

/-! ### Divisions, shifts and fields (R110 to R113) -/

/-- The machine fires the template over A and B with the quotients, remainders, shifts and fields of R110, R111 and R113. -/
theorem divShift2_fires {fn : Word → Word → Word} (h : divShift2 i = some (g, fn)) : Fires2 i g fn := by
  unfold divShift2 at h
  split at h <;> cases h
  all_goals refine Fires2.congr ⟨rfl, rfl, fun _ => rfl⟩ ?_
  · exact divWord_sw
  · exact divWord_uw
  · exact remWord_sw
  · exact remWord_uw
  · exact fun a b => shlWord_eq_shiftLeft a b.toNat
  · exact fun a b => shrWord_uw a b.toNat
  · exact fun a b => shrWord_sw a b.toNat
  · exact fun a b => rotWord_eq_rotateLeft a b.toNat
  · exact bfxWord_uw
  · exact bfxWord_sw

/-- The machine fires the template over A with the bit counts and extensions of R112. -/
theorem bits1_fires {fn : Word → Word} (h : bits1 i = some (g, fn)) : Fires1 i g fn := by
  unfold bits1 at h
  split at h <;> cases h
  all_goals refine Fires1.congr ⟨rfl, fun _ => rfl⟩ ?_
  · exact bitcWord_pop
  · exact bitcWord_clz
  · exact bitcWord_ctz
  · exact fun a => wordOfInt_signed_bits a 8
  · exact fun a => wordOf_bits_low a 8
  · exact fun a => wordOfInt_signed_bits a 16
  · exact fun a => wordOf_bits_low a 16

theorem bfi_fires : Fires3 (.bfi g) g inserted :=
  Fires3.congr ⟨rfl, rfl, rfl, fun _ => rfl⟩ bfiWord_eq_inserted

/-! ### Tests and predicates (R114, R115) -/

/-- The tests compare under the readings of R101. Of PLOG the machine combines A ≠ 0 and B ≠ 0 where the statement combines A = 0 and
B = 0, so that each row is a law of truth values. -/
theorem tests2_fires {fn : Word → Word → Word} (h : tests2 i = some (g, fn)) : Fires2 i g fn := by
  unfold tests2 at h
  split at h <;> cases h
  all_goals refine Fires2.congr ⟨rfl, rfl, fun _ => rfl⟩ ?_
  · exact fun _ _ => rfl
  · exact fun _ _ => rfl
  · exact fun a b => congrArg wbool (slt_eq_decide_reading a b).symm
  · exact fun a b => congrArg wbool (ult_eq_decide_reading a b).symm
  · exact fun a b => congrArg wbool (sle_eq_decide_reading a b).symm
  · exact fun a b => congrArg wbool (ule_eq_decide_reading a b).symm
  · exact fun a b => congrArg truth (Bool.not_or (a == 0) (b == 0)).symm
  · exact fun a b => congrArg truth (Bool.not_and (a == 0) (b == 0)).symm
  · exact fun a b => congrArg truth (Bool.not_bne_not (a == 0) (b == 0))
  · exact fun a b => congrArg (fun q => truth (a != 0 && q)) (Bool.not_not (b == 0))
  · exact fun a b => congrArg truth ((by decide : ∀ p q : Bool, (!(!p && !q)) = (p || q)) (a == 0) (b == 0))
  · exact fun a b => congrArg truth ((by decide : ∀ p q : Bool, (!(!p || !q)) = (p && q)) (a == 0) (b == 0))
  · exact fun a b => congrArg truth ((by decide : ∀ p q : Bool, ((!p) == (!q)) = (p == q)) (a == 0) (b == 0))
  · exact fun a b => congrArg (fun q => truth (a != 0 || q)) (Bool.not_not (b == 0))

theorem tests1_fires {fn : Word → Word} (h : tests1 i = some (g, fn)) : Fires1 i g fn := by
  unfold tests1 at h
  split at h <;> cases h
  all_goals refine Fires1.congr ⟨rfl, fun _ => rfl⟩ ?_
  · exact fun _ => rfl
  · exact fun _ => rfl
  · exact fun a => congrArg wbool (BitVec.msb_eq_getLsbD_last a)

/-- All words equal the first one where each equals each. -/
theorem all_beq_head (a : Word) (ws : List Word) :
    (a :: ws).all (· == a) = (a :: ws).all fun w => (a :: ws).all fun v => v == w := by
  rw [Bool.eq_iff_iff]
  simp only [List.all_eq_true, beq_iff_eq]
  exact ⟨fun h w hw v hv => (h v hv).trans (h w hw).symm, fun h => h a List.mem_cons_self⟩

theorem uniWord_eq_unified (x : UniF) (ws : List Word) : uniWord x ws = unified x ws := by
  cases ws with
  | nil => rfl
  | cons a ws =>
    rw [unified.eq_def, if_neg (List.cons_ne_nil a ws)]
    cases x with
    | all => rfl
    | any => rfl
    | eq => exact congrArg (some ∘ truth) (all_beq_head a ws)

/-- Two selections from a list agree where they agree on its members (core Lean, which the package's modules build on, has no such law
for lists). -/
theorem filterMap_congr_mem {α β : Type} {p q : α → Option β} {l : List α} (h : ∀ a ∈ l, p a = q a) :
    l.filterMap p = l.filterMap q := by
  induction l with
  | nil => rfl
  | cons a l ih =>
    rw [List.filterMap_cons, List.filterMap_cons, h a List.mem_cons_self, ih fun b hb => h b (List.mem_cons_of_mem a hb)]

/-- The live lanes that UNI folds hold the live words of R115. -/
theorem liveLanes_envOf {s : State} {f : Frame} (hA : usesA i = true) :
    (liveLanes (envOf s (here s) f i)).map (·.2) = liveWords i (opnd s f) := by
  have lane : ∀ l ∈ laneNums,
      (if (envOf s (here s) f i).m.get l then ((envOf s (here s) f i).a.get l).map fun a => (l, a) else none).map (·.2) =
        if matched i (opnd s f) l then laneA (opnd s f) l else none := fun l hl => by
    rw [envOf_m_get (mem_laneNums.1 hl), envOf_a_get hA]
    cases matched i (opnd s f) l with
    | false => rfl
    | true => cases laneA (opnd s f) l <;> rfl
  rw [liveLanes, liveWords, List.map_filterMap]
  exact filterMap_congr_mem lane

theorem uni_yields {x : UniF} {s : State} {f : Frame} (hr : Ready s f (.uni x g)) :
    Yields (.uni x g) s f [g.t0, g.t1]
      (lanesOf (.uni x g) (opnd s f) fun _ => unified x (liveWords (.uni x g) (opnd s f))) 0 :=
  yields_of_fireG (show exec (.uni x g) s = execUni x g s from rfl) hr (laneVal_envOf fun _ _ => by
    rw [liveLanes_envOf rfl, uniWord_eq_unified])

/-! ### Dataflow (R104 to R108) -/

/-- Each dataflow instruction gives its matching lanes the words of R104 to R108. -/
theorem dataflow_yields {s : State} {f : Frame} {ts : List Target} {r : Nat → Option Word} (hr : Ready s f i)
    (h : dataflow (here s) f (opnd s f) i = some (ts, r)) : Yields i s f ts (lanesOf i (opnd s f) r) 0 := by
  unfold dataflow at h
  split at h <;> cases h
  case h_1 g =>
    refine yields_of_fireG (show exec (.mov g) s = execMov g s from rfl) hr (laneVal_envOf fun l _ => ?_)
    rw [envOf_a_get rfl, Option.map_id_fun, id]
  case h_2 g =>
    refine yields_of_fireG (show exec (.nult .present g) s = execNult .present g s from rfl) hr (laneVal_envOf fun l _ => ?_)
    rw [envOf_a_get rfl]
    rfl
  case h_3 g =>
    refine yields_of_fireG (show exec (.nult .null g) s = execNult .null g s from rfl) hr (laneVal_envOf fun l _ => ?_)
    rw [envOf_a_get rfl]
    rfl
  case h_4 g =>
    refine yields_of_fireG (show exec (.sel g) s = execSel g s from rfl) hr (laneVal_envOf fun l _ => ?_)
    rw [envOf_a_get rfl, envOf_b_get rfl, envOf_cc_get rfl]
    cases laneC (opnd s f) l with
    | none => rfl
    | some c => exact ite_not (c = 0) _ _
  case h_5 j => exact yields_of_fireT (show exec (.lit j) s = execLit j s from rfl) hr (laneVal_envOf fun _ _ => rfl)
  case h_6 j => exact yields_of_fireT (show exec (.imm j) s = execImm j s from rfl) hr (laneVal_envOf fun _ _ => rfl)
  case h_7 g => exact yields_of_fireG (show exec (.lane .idx g) s = execLane .idx g s from rfl) hr (laneVal_envOf fun _ _ => rfl)
  case h_8 g =>
    refine yields_of_fireG (show exec (.lane .bit g) s = execLane .bit g s from rfl) hr (laneVal_envOf fun l _ => ?_)
    have power : wordOf (2 ^ l) = 1 <<< l := by rw [← Nat.one_mul (2 ^ l), wordOf_mul_two_pow]; rfl
    exact congrArg some power
  case h_9 x g =>
    refine yields_of_fireG (show exec (.arg x g) s = execArg x g s from rfl) hr (laneVal_envOf fun l _ => ?_)
    by_cases h : (here s).argn ≤ x.toNat
    · exact (if_neg (Nat.not_lt.2 h)).trans (if_pos h).symm
    · exact (if_pos (Nat.lt_of_not_le h)).trans (if_neg h).symm

end

/-! ### The obligations -/

/-- Settles O6: each instruction of the table fires by the template of R102 with a word function that equals the table's. -/
theorem arithmeticAndLogicResults : Obligations.ArithmeticAndLogicResults := by
  unfold Obligations.ArithmeticAndLogicResults
  refine ⟨?_, ?_⟩
  · intro i g fn h s f hr
    exact (arith2_fires h).yields hr
  · intro i g fn h s f hr
    exact (arith3_fires h).yields hr

/-- Settles O7: the machine's division, shift, count and field functions equal the operations on words that R110 to R113 name. -/
theorem divideShiftAndFieldResults : Obligations.DivideShiftAndFieldResults := by
  unfold Obligations.DivideShiftAndFieldResults
  refine ⟨?_, ?_, ?_⟩
  · intro i g fn h s f hr
    exact (divShift2_fires h).yields hr
  · intro i g fn h s f hr
    exact (bits1_fires h).yields hr
  · intro g s f hr
    exact bfi_fires.yields hr

/-- Settles O8: the tests fire by the templates of R102, and UNI folds the live words that the statement lists. -/
theorem testAndPredicateResults : Obligations.TestAndPredicateResults := by
  unfold Obligations.TestAndPredicateResults
  refine ⟨?_, ?_, ?_⟩
  · intro i g fn h s f hr
    exact (tests2_fires h).yields hr
  · intro i g fn h s f hr
    exact (tests1_fires h).yields hr
  · intro x g s f hr
    exact uni_yields hr

/-- Settles O10: each instruction gives its matching lanes the words of its rule. -/
theorem dataflowResults : Obligations.DataflowResults := by
  unfold Obligations.DataflowResults
  intro i s f ts r hr h
  exact dataflow_yields hr h

end Sys2Proof.Proofs
end

section
/-! PROOFS. The lane instructions: permutations, compaction and expansion, and the folds of the live lanes (R156 to R158). -/

namespace Sys2Proof.Proofs

open Sys2Proof Sys2Proof.Machine Sys2Proof.Claim

/-! ### Permutations (R156) -/

section
variable {i : Instr} {s : State} {f : Frame} {g : GF}

/-- A permutation gives each matching lane the lane of A that it names. -/
theorem permute_envOf (hA : usesA i = true) {src : Nat → Option Nat} {r : Nat → Option Word}
    (h : ∀ l, (src l).bind (laneA (opnd s f)) = r l) :
    permute (envOf s (here s) f i) src = (lanesOf i (opnd s f) r, 0) :=
  laneVal_envOf fun l _ => (congrArg (src l).bind (funext (envOf_a_get hA))).trans (h l)

theorem laneMove_yields {r : Nat → Option Word} (hr : Ready s f i) (h : laneMove i (opnd s f) = some (g, r)) :
    Yields i s f [g.t0, g.t1] (lanesOf i (opnd s f) r) 0 := by
  unfold laneMove at h
  split at h <;> cases h
  case h_1 =>
    refine yields_of_fireG (show exec (.lperm g) s = execLperm g s from rfl) hr (permute_envOf rfl fun l => ?_)
    rw [envOf_b_get rfl]
    cases laneB (opnd s f) l with
    | none => rfl
    | some b => exact congrArg (laneA (opnd s f)) (congrArg (· % 8) (Nat.div_one b.toNat))
  case h_2 x => exact yields_of_fireG (show exec (.lbc x g) s = execLbc x g s from rfl) hr (permute_envOf rfl fun _ => rfl)
  case h_3 x =>
    refine yields_of_fireG (show exec (.lshf x g) s = execLshf x g s from rfl) hr (permute_envOf rfl fun l => ?_)
    by_cases h : l < x.toNat
    · rw [if_neg (Nat.not_le.2 h), if_pos h]
      rfl
    · rw [if_pos (Nat.le_of_not_lt h), if_neg h]
      rfl
  case h_4 x => exact yields_of_fireG (show exec (.lrot x g) s = execLrot x g s from rfl) hr (permute_envOf rfl fun _ => rfl)

/-! ### Compaction and expansion (R158) -/

theorem lcmp_yields (hr : Ready s f (.lcmp g)) :
    Yields (.lcmp g) s f [g.t0, g.t1] (compacted (.lcmp g) (opnd s f)) 0 :=
  yields_of_fireG (show exec (.lcmp g) s = execLcmp g s from rfl) hr (by rw [liveLanes_envOf rfl]; rfl)

section
variable {β : Type} {k l : Nat}

theorem find?_lane_cons_self (l : Nat) (b : β) (t : List (Nat × β)) :
    ((l, b) :: t).find? (fun p => p.1 == l) = some (l, b) :=
  List.find?_cons_of_pos (beq_self_eq_true l)

theorem find?_lane_cons_of_ne (h : k ≠ l) {b : β} {t : List (Nat × β)} :
    ((k, b) :: t).find? (fun p => p.1 == l) = t.find? fun p => p.1 == l :=
  List.find?_cons_of_neg fun e => h (beq_iff_eq.1 e)

end

section
variable (hA : usesA i = true) (hB : usesB i = true)
include hA hB

/-- LXPD's running index moves past a lane exactly where the lane takes. -/
theorem expand_cons_envOf (k : Nat) {l : Nat} (t : List Nat) (hl : l < 8) :
    expand (envOf s (here s) f i) k (l :: t) =
      if takesLane i (opnd s f) l then (l, laneA (opnd s f) k) :: expand (envOf s (here s) f i) (k + 1) t
      else expand (envOf s (here s) f i) k t := by
  rewrite [expand, envOf_m_get hl, envOf_a_get hA, envOf_b_get hB]
  rfl

theorem takesLane_of_mem_expand {k : Nat} {L : List Nat} (hL : ∀ l ∈ L, l < 8) {p : Nat × Option Word}
    (hp : p ∈ expand (envOf s (here s) f i) k L) : takesLane i (opnd s f) p.1 = true := by
  induction L generalizing k with
  | nil => cases hp
  | cons l t ih =>
    obtain ⟨hl, ht⟩ := List.forall_mem_cons.1 hL
    rw [expand_cons_envOf hA hB k t hl] at hp
    split at hp
    · next take =>
      rcases List.mem_cons.1 hp with rfl | hp
      · exact take
      · exact ih ht hp
    · exact ih ht hp

/-- A lane that takes receives the lane of A whose number is how many lanes took before it. -/
theorem find?_expand {l : Nat} (hl : l < 8) (take : takesLane i (opnd s f) l = true) (post : List Nat) {pre : List Nat}
    (hpre : ∀ j ∈ pre, j < l) (k : Nat) :
    (expand (envOf s (here s) f i) k (pre ++ l :: post)).find? (fun p => p.1 == l) =
      some (l, laneA (opnd s f) (k + (pre.filter (takesLane i (opnd s f))).length)) := by
  induction pre generalizing k with
  | nil =>
    rw [List.nil_append, expand_cons_envOf hA hB k post hl, if_pos take]
    exact find?_lane_cons_self l _ _
  | cons j pre ih =>
    obtain ⟨hj, hpre⟩ := List.forall_mem_cons.1 hpre
    rw [List.cons_append, expand_cons_envOf hA hB k _ (Nat.lt_trans hj hl)]
    by_cases takeJ : takesLane i (opnd s f) j = true
    · rw [if_pos takeJ, find?_lane_cons_of_ne (Nat.ne_of_lt hj), ih hpre, List.filter_cons_of_pos takeJ, List.length_cons,
        Nat.add_assoc, Nat.add_comm 1]
    · rw [if_neg takeJ, ih hpre, List.filter_cons_of_neg takeJ]

theorem expand_envOf {l : Nat} (hl : l < 8) :
    (((expand (envOf s (here s) f i) 0 laneNums).find? fun p => p.1 == l).bind fun p => p.2) =
      if takesLane i (opnd s f) l then laneA (opnd s f) (rank (takesLane i (opnd s f)) l) else none := by
  by_cases take : takesLane i (opnd s f) l = true
  · rw [if_pos take, laneNums_split l hl, find?_expand hA hB hl take _ (fun j => List.mem_range.1), Nat.zero_add]
    rfl
  · have absent : (expand (envOf s (here s) f i) 0 laneNums).find? (fun p => p.1 == l) = none :=
      List.find?_eq_none.2 fun p hp e =>
        take (beq_iff_eq.1 e ▸ takesLane_of_mem_expand hA hB (fun _ => mem_laneNums.1) hp)
    rw [if_neg take, absent]
    rfl

end

theorem lxpd_yields (hr : Ready s f (.lxpd g)) :
    Yields (.lxpd g) s f [g.t0, g.t1] (expanded (.lxpd g) (opnd s f)) 0 :=
  yields_of_fireG (show exec (.lxpd g) s = execLxpd g s from rfl) hr
    (congrArg (·, 0) (ofFn_congr fun _ hl => expand_envOf rfl rfl hl))

end

/-! ### Folds of words with flags (R157) -/

/-- One operation of a fold: the accumulator and the flags after the word `v`. -/
def foldStep (op : Word → Word → Word × Word) (acc : Option Word × Word) (v : Word) : Option Word × Word :=
  match acc.1 with
  | some p => (some (op p v).1, acc.2 ||| (op p v).2)
  | none => (some v, acc.2)

theorem foldStep_eq_some (op : Word → Word → Word × Word) (acc : Option Word × Word) (v : Word) :
    ∃ w fl, foldStep op acc v = (some w, fl) := by
  obtain ⟨_ | p, fl⟩ := acc <;> exact ⟨_, _, rfl⟩

theorem foldFlags_eq_foldl (op : Word → Word → Word × Word) (ws : List Word) :
    foldFlags op ws = ws.foldl (foldStep op) (none, 0) := by
  cases ws <;> rfl

section
variable {rm : Rm} {x : FoldF}

/-- The machine's fold goes on from the accumulator that the first lane leaves. -/
theorem foldLanes_cons {acc : Option Word} {fl fl' a w : Word} (h : foldStep (foldOp rm x) (acc, fl) a = (some w, fl'))
    (l : Nat) (t : List (Nat × Word)) :
    foldLanes rm x acc fl ((l, a) :: t) = ((l, w) :: (foldLanes rm x (some w) fl' t).1, (foldLanes rm x (some w) fl' t).2) := by
  cases acc <;> cases h
  · exact congrArg (fun u => ((l, a) :: (foldLanes rm x (some a) u t).1, (foldLanes rm x (some a) u t).2)) BitVec.or_zero
  · rfl

theorem foldLanes_snd (acc : Option Word) (fl : Word) (L : List (Nat × Word)) :
    (foldLanes rm x acc fl L).2 = (L.map (·.2)).foldl (foldStep (foldOp rm x)) (acc, fl) := by
  induction L generalizing acc fl with
  | nil => rfl
  | cons p t ih =>
    obtain ⟨w, fl', h⟩ := foldStep_eq_some (foldOp rm x) (acc, fl) p.2
    rw [foldLanes_cons h, ih, List.map_cons, List.foldl_cons, h]

/-- The accumulator listed for a lane is the fold of the words up to it. -/
theorem find?_foldLanes {l : Nat} (a : Word) (post : List (Nat × Word)) {pre : List (Nat × Word)} (hpre : ∀ p ∈ pre, p.1 ≠ l)
    (acc : Option Word) (fl : Word) :
    (((foldLanes rm x acc fl (pre ++ (l, a) :: post)).1.find? fun p => p.1 == l).map fun p => p.2) =
      (((pre ++ [(l, a)]).map (·.2)).foldl (foldStep (foldOp rm x)) (acc, fl)).1 := by
  induction pre generalizing acc fl with
  | nil =>
    obtain ⟨w, fl', h⟩ := foldStep_eq_some (foldOp rm x) (acc, fl) a
    rw [List.nil_append, foldLanes_cons h, find?_lane_cons_self]
    exact (congrArg Prod.fst h).symm
  | cons p pre ih =>
    obtain ⟨hp, hpre⟩ := List.forall_mem_cons.1 hpre
    obtain ⟨w, fl', h⟩ := foldStep_eq_some (foldOp rm x) (acc, fl) p.2
    rw [List.cons_append, foldLanes_cons h, find?_lane_cons_of_ne hp, ih hpre, List.cons_append, List.map_cons,
      List.foldl_cons, h]

theorem find?_foldLanes_of_absent {l : Nat} {L : List (Nat × Word)} (hL : ∀ p ∈ L, p.1 ≠ l) (acc : Option Word) (fl : Word) :
    (foldLanes rm x acc fl L).1.find? (fun p => p.1 == l) = none := by
  induction L generalizing acc fl with
  | nil => rfl
  | cons p t ih =>
    obtain ⟨hp, ht⟩ := List.forall_mem_cons.1 hL
    obtain ⟨w, fl', h⟩ := foldStep_eq_some (foldOp rm x) (acc, fl) p.2
    rw [foldLanes_cons h, find?_lane_cons_of_ne hp, ih ht]

/-! ### The folds of the live lanes (R157) -/

/-- Lane `l` with its word where it is live. -/
def liveLane (i : Instr) (o : Slot) (l : Nat) : Option (Nat × Word) :=
  if matched i o l then (laneA o l).map fun a => (l, a) else none

variable {i : Instr} {s : State} {f : Frame}

theorem fst_of_liveLane {o : Slot} {l : Nat} {p : Nat × Word} (h : liveLane i o l = some p) : p.1 = l := by
  unfold liveLane at h
  split at h
  · obtain ⟨a, -, rfl⟩ := Option.map_eq_some_iff.1 h
    rfl
  · cases h

theorem isSome_liveLane (o : Slot) (l : Nat) : (liveLane i o l).isSome = live i o l := by
  unfold liveLane live
  cases matched i o l with
  | false => rfl
  | true => exact Option.isSome_map

theorem map_snd_liveLane (o : Slot) (L : List Nat) :
    (L.filterMap (liveLane i o)).map (·.2) = L.filterMap fun l => if matched i o l then laneA o l else none := by
  rw [List.map_filterMap]
  refine filterMap_congr_mem fun l _ => ?_
  unfold liveLane
  cases matched i o l with
  | false => rfl
  | true => cases laneA o l <;> rfl

theorem liveLanes_eq_filterMap (hA : usesA i = true) :
    liveLanes (envOf s (here s) f i) = laneNums.filterMap (liveLane i (opnd s f)) :=
  filterMap_congr_mem fun l hl => by rw [envOf_m_get (mem_laneNums.1 hl), envOf_a_get hA, liveLane]

/-- The machine's accumulator and flags after all live lanes. -/
theorem foldLanes_liveLanes_snd (hA : usesA i = true) :
    (foldLanes rm x none 0 (liveLanes (envOf s (here s) f i))).2 = foldFlags (foldOp rm x) (liveWords i (opnd s f)) := by
  rw [foldLanes_snd, liveLanes_envOf hA, foldFlags_eq_foldl]

/-- What LSCAN lists for a lane: the fold of the live words up to it where the lane is live, else nothing. -/
theorem scanLane_eq (hA : usesA i = true) {l : Nat} (hl : l < 8) :
    (((foldLanes rm x none 0 (liveLanes (envOf s (here s) f i))).1.find? fun p => p.1 == l).map fun p => p.2) =
      if live i (opnd s f) l then (foldFlags (foldOp rm x) (liveUpTo i (opnd s f) l)).1 else none := by
  rw [liveLanes_eq_filterMap hA, ← isSome_liveLane]
  cases h : liveLane i (opnd s f) l with
  | none =>
    have absent : ∀ p ∈ laneNums.filterMap (liveLane i (opnd s f)), p.1 ≠ l := by
      rintro p hp rfl
      obtain ⟨j, -, hj⟩ := List.mem_filterMap.1 hp
      rw [fst_of_liveLane hj, hj] at h
      cases h
    rw [find?_foldLanes_of_absent absent]
    rfl
  | some p =>
    obtain ⟨k, a⟩ := p
    obtain rfl : k = l := fst_of_liveLane h
    have below : ∀ q ∈ (List.range k).filterMap (liveLane i (opnd s f)), q.1 ≠ k := fun q hq => by
      obtain ⟨j, hj, hq⟩ := List.mem_filterMap.1 hq
      exact fst_of_liveLane hq ▸ Nat.ne_of_lt (List.mem_range.1 hj)
    have upTo : liveUpTo i (opnd s f) k = ((List.range k).filterMap (liveLane i (opnd s f)) ++ [(k, a)]).map (·.2) := by
      rw [liveUpTo, ← map_snd_liveLane, List.range_succ, List.filterMap_append, List.filterMap_cons_some h, List.filterMap_nil]
    rw [laneNums_split k hl, List.filterMap_append, List.filterMap_cons_some h, find?_foldLanes a _ below, foldFlags_eq_foldl, upTo]
    rfl

/-- LSCAN's lanes and flags, for every operation of R157. -/
theorem lscan_yields {g : GF} (hr : Ready s f (.lscan x g)) :
    Yields (.lscan x g) s f [g.t0, g.t1]
      (Lanes.ofFn fun l => if live (.lscan x g) (opnd s f) l then
        (foldFlags (foldOp (dirOf f) x) (liveUpTo (.lscan x g) (opnd s f) l)).1 else none)
      (foldFlags (foldOp (dirOf f) x) (liveWords (.lscan x g) (opnd s f))).2 := by
  refine yields_of_fireG (show exec (.lscan x g) s = execLscan x g s from rfl) hr ?_
  refine (Prod.mk.injEq ..).mpr ⟨ofFn_congr fun l hl => ?_, congrArg Prod.snd (foldLanes_liveLanes_snd rfl)⟩
  rw [envOf_m_get hl]
  refine (congrArg (ite _ · none) (scanLane_eq rfl hl)).trans ?_
  unfold live
  cases matched (.lscan x g) (opnd s f) l <;> rfl

/-- LRED's lanes and flags, for every operation of R157. -/
theorem lred_yields {g : GF} (hr : Ready s f (.lred x g)) :
    Yields (.lred x g) s f [g.t0, g.t1]
      (lanesOf (.lred x g) (opnd s f) fun _ => (foldFlags (foldOp (dirOf f) x) (liveWords (.lred x g) (opnd s f))).1)
      (foldFlags (foldOp (dirOf f) x) (liveWords (.lred x g) (opnd s f))).2 := by
  have folded := foldLanes_liveLanes_snd (rm := dirOf f) (x := x) (i := .lred x g) (s := s) (f := f) rfl
  refine yields_of_fireG (show exec (.lred x g) s = execLred x g s from rfl) hr ?_
  refine (Prod.mk.injEq ..).mpr ⟨ofFn_congr fun l hl => ?_, congrArg Prod.snd folded⟩
  rw [envOf_m_get hl]
  exact congrArg (fun r => if matched (.lred x g) (opnd s f) l then r.1 else none) folded

end

/-! ### Integer folds (R157) -/

/-- The integer operations of R157 raise no flag. -/
theorem foldOp_of_foldWord {x : FoldF} {op : Word → Word → Word} (h : foldWord x = some op) (rm : Rm) :
    foldOp rm x = fun p q => (op p q, 0) := by
  unfold foldWord at h
  split at h <;> cases h
  · rfl
  · exact funext fun p => funext fun q => congrArg (·, 0) (maxWord_sw p q)
  · exact funext fun p => funext fun q => congrArg (·, 0) (minWord_sw p q)
  · rfl
  · rfl

theorem foldl_foldStep_of_no_flags (op : Word → Word → Word) (w : Word) (ws : List Word) :
    ws.foldl (foldStep fun p q => (op p q, 0)) (some w, 0) = (some (ws.foldl op w), 0) := by
  induction ws generalizing w with
  | nil => rfl
  | cons v ws ih =>
    have step : foldStep (fun p q => (op p q, 0)) (some w, 0) v = (some (op w v), 0) := congrArg (Prod.mk _) BitVec.or_self
    rw [List.foldl_cons, step, ih, List.foldl_cons]

theorem foldFlags_of_foldWord {x : FoldF} {op : Word → Word → Word} (h : foldWord x = some op) (rm : Rm) (ws : List Word) :
    foldFlags (foldOp rm x) ws = (foldWords op ws, 0) := by
  rw [foldOp_of_foldWord h]
  cases ws with
  | nil => rfl
  | cons w ws => exact foldl_foldStep_of_no_flags op w ws

/-- Settles O11: the permutations read the lanes they name, LCMP lists the live words, LXPD's running index is the rank of a lane, and the
integer folds are the general fold of the live words with an operation that raises no flag. -/
theorem laneInstructionResults : Obligations.LaneInstructionResults := by
  unfold Obligations.LaneInstructionResults
  refine ⟨?_, ?_, ?_, ?_, ?_⟩
  · intro i s f g r hr h
    exact laneMove_yields hr h
  · intro g s f hr
    exact lcmp_yields hr
  · intro g s f hr
    exact lxpd_yields hr
  · intro x g op s f h hr
    simpa only [foldFlags_of_foldWord h] using lscan_yields hr
  · intro x g op s f h hr
    simpa only [foldFlags_of_foldWord h] using lred_yields hr

end Sys2Proof.Proofs
end

section
/-! PROOFS. The floating-point instructions over lanes with their flags, and the sign instructions (R141 to R153). -/

namespace Sys2Proof.Proofs

open Sys2Proof Sys2Proof.Machine Sys2Proof.Claim

/-! ### The templates of R141 -/

section
variable {i : Instr} {s : State} {f : Frame}

theorem toList_ofFn {α : Type} (q : Nat → α) : (Lanes.ofFn q).toList = laneNums.map q := rfl

/-- The words and the union of flags of a firing instruction are those of R141 where the two readings agree on every lane. -/
theorem flagged_envOf {p r : Nat → Option (Word × Word)} (h : ∀ l, p l = r l) :
    flagged (envOf s (here s) f i) p = (fpVal i (opnd s f) r, fpFlags i (opnd s f) r) := by
  obtain rfl : p = r := funext h
  have lane : ∀ (q : Word × Word → Word) (l : Nat), l < 8 →
      (if (envOf s (here s) f i).m.get l then p l else none).map q = if matched i (opnd s f) l then (p l).map q else none :=
    fun q _ hl => by rw [envOf_m_get hl, apply_ite (Option.map q)]; rfl
  refine (Prod.mk.injEq ..).mpr ⟨?_, congrArg (List.foldl (· ||| ·) 0) ?_⟩
  · rw [fpVal, lanesOf]
    refine ofFn_congr fun l hl => ?_
    rw [get_ofFn _ hl]
    exact lane (·.1) l hl
  · rw [toList_ofFn, List.filterMap_map]
    exact filterMap_congr_mem fun l hl => lane (·.2) l (mem_laneNums.1 hl)

theorem fmap1_envOf (hA : usesA i = true) (fn : Word → Word × Word) :
    let r := fun l => match laneA (opnd s f) l with | some a => some (fn a) | none => none
    fmap1 (envOf s (here s) f i) fn = (fpVal i (opnd s f) r, fpFlags i (opnd s f) r) := by
  refine flagged_envOf fun l => ?_
  rw [envOf_a_get hA]
  cases laneA (opnd s f) l <;> rfl

theorem fmap2_envOf (hA : usesA i = true) (hB : usesB i = true) (fn : Word → Word → Word × Word) :
    let r := fun l => match laneA (opnd s f) l, laneB (opnd s f) l with | some a, some b => some (fn a b) | _, _ => none
    fmap2 (envOf s (here s) f i) fn = (fpVal i (opnd s f) r, fpFlags i (opnd s f) r) := by
  refine flagged_envOf fun l => ?_
  rewrite [envOf_a_get hA, envOf_b_get hB]
  rfl

theorem fmap3_envOf (hA : usesA i = true) (hB : usesB i = true) (hC : usesC i = true) (fn : Word → Word → Word → Word × Word) :
    let r := fun l => match laneA (opnd s f) l, laneB (opnd s f) l, laneC (opnd s f) l with
      | some a, some b, some c => some (fn a b c)
      | _, _, _ => none
    fmap3 (envOf s (here s) f i) fn = (fpVal i (opnd s f) r, fpFlags i (opnd s f) r) := by
  refine flagged_envOf fun l => ?_
  rewrite [envOf_a_get hA, envOf_b_get hB, envOf_cc_get hC]
  rfl

end

/-- Instruction `i` fires by the template of R141 over A with the function `fn` of the block's rounding direction. -/
structure FiresFp1 (i : Instr) (g : GF) (fn : Rm → Word → Word × Word) : Prop where
  usesA : usesA i = true
  exec : ∀ s, exec i s = fireG s i g fun e => fmap1 e (fn (rmE e))

/-- Instruction `i` fires by the template of R141 over A and B with the function `fn` of the block's rounding direction. -/
structure FiresFp2 (i : Instr) (g : GF) (fn : Rm → Word → Word → Word × Word) : Prop where
  usesA : usesA i = true
  usesB : usesB i = true
  exec : ∀ s, exec i s = fireG s i g fun e => fmap2 e (fn (rmE e))

/-- Instruction `i` fires by the template of R141 over A, B and C with the function `fn` of the block's rounding direction. -/
structure FiresFp3 (i : Instr) (g : GF) (fn : Rm → Word → Word → Word → Word × Word) : Prop where
  usesA : usesA i = true
  usesB : usesB i = true
  usesC : usesC i = true
  exec : ∀ s, exec i s = fireG s i g fun e => fmap3 e (fn (rmE e))

section
variable {i : Instr} {s : State} {f : Frame} {g : GF} {rm : Rm}

theorem FiresFp1.yields {fn : Rm → Word → Word × Word} (h : FiresFp1 i g fn) (hr : Ready s f i) :
    let r := fun l => match laneA (opnd s f) l with | some a => some (fn (dirOf f) a) | none => none
    Yields i s f [g.t0, g.t1] (fpVal i (opnd s f) r) (fpFlags i (opnd s f) r) :=
  yields_of_fireG (h.exec s) hr (fmap1_envOf h.usesA (fn (dirOf f)))

theorem FiresFp2.yields {fn : Rm → Word → Word → Word × Word} (h : FiresFp2 i g fn) (hr : Ready s f i) :
    let r := fun l => match laneA (opnd s f) l, laneB (opnd s f) l with | some a, some b => some (fn (dirOf f) a b) | _, _ => none
    Yields i s f [g.t0, g.t1] (fpVal i (opnd s f) r) (fpFlags i (opnd s f) r) :=
  yields_of_fireG (h.exec s) hr (fmap2_envOf h.usesA h.usesB (fn (dirOf f)))

theorem FiresFp3.yields {fn : Rm → Word → Word → Word → Word × Word} (h : FiresFp3 i g fn) (hr : Ready s f i) :
    let r := fun l => match laneA (opnd s f) l, laneB (opnd s f) l, laneC (opnd s f) l with
      | some a, some b, some c => some (fn (dirOf f) a b c)
      | _, _, _ => none
    Yields i s f [g.t0, g.t1] (fpVal i (opnd s f) r) (fpFlags i (opnd s f) r) :=
  yields_of_fireG (h.exec s) hr (fmap3_envOf h.usesA h.usesB h.usesC (fn (dirOf f)))

/-! ### The instructions that raise flags (R143 to R146, R148 to R153) -/

/-- Each row of the statement's table is a function of the rounding direction, which a firing takes from its own frame. -/
theorem fp1_fires {fn : Word → Word × Word} (h : fp1 rm i = some (g, fn)) : ∃ m, fn = m rm ∧ FiresFp1 i g m := by
  unfold fp1 at h
  split at h <;> cases h
  case h_1 => exact ⟨fpSqrt, rfl, rfl, fun _ => rfl⟩
  case h_2 x => exact ⟨fun _ => fpApprox x, rfl, rfl, fun _ => rfl⟩
  case h_3 x => exact ⟨fun rm => cvtFI rm x, rfl, rfl, fun _ => rfl⟩
  case h_4 x => exact ⟨fun rm => cvtIF rm x, rfl, rfl, fun _ => rfl⟩
  case h_5 x => exact ⟨fun rm => fRnd rm x, rfl, rfl, fun _ => rfl⟩
  case h_6 x => exact ⟨fun _ => fXtr x, rfl, rfl, fun _ => rfl⟩
  case h_7 x => exact ⟨fun rm => narrow rm x, rfl, rfl, fun _ => rfl⟩
  case h_8 x => exact ⟨fun rm => spl3 rm x, rfl, rfl, fun _ => rfl⟩

theorem fp2_fires {fn : Word → Word → Word × Word} (h : fp2 rm i = some (g, fn)) : ∃ m, fn = m rm ∧ FiresFp2 i g m := by
  unfold fp2 at h
  split at h <;> cases h
  case h_1 => exact ⟨fpAdd, rfl, rfl, rfl, fun _ => rfl⟩
  case h_2 => exact ⟨fun rm a b => fpAdd rm a (flipSign b), rfl, rfl, rfl, fun _ => rfl⟩
  case h_3 => exact ⟨fpMul, rfl, rfl, rfl, fun _ => rfl⟩
  case h_4 => exact ⟨fpDiv, rfl, rfl, rfl, fun _ => rfl⟩
  case h_5 => exact ⟨fScl, rfl, rfl, rfl, fun _ => rfl⟩
  case h_6 => exact ⟨fun _ => fpMinMax false false, rfl, rfl, rfl, fun _ => rfl⟩
  case h_7 => exact ⟨fun _ => fpMinMax false true, rfl, rfl, rfl, fun _ => rfl⟩
  case h_8 => exact ⟨fun _ => fpMinMax true false, rfl, rfl, rfl, fun _ => rfl⟩
  case h_9 => exact ⟨fun _ => fpMinMax true true, rfl, rfl, rfl, fun _ => rfl⟩
  case h_10 x => exact ⟨fun _ => fCmp x, rfl, rfl, rfl, fun _ => rfl⟩

theorem fp3_fires {fn : Word → Word → Word → Word × Word} (h : fp3 rm i = some (g, fn)) : ∃ m, fn = m rm ∧ FiresFp3 i g m := by
  unfold fp3 at h
  split at h <;> cases h
  case h_1 => exact ⟨fun rm => fpFused rm false false, rfl, rfl, rfl, rfl, fun _ => rfl⟩
  case h_2 => exact ⟨fun rm => fpFused rm false true, rfl, rfl, rfl, rfl, fun _ => rfl⟩
  case h_3 => exact ⟨fun rm => fpFused rm true false, rfl, rfl, rfl, rfl, fun _ => rfl⟩
  case h_4 => exact ⟨fLrp, rfl, rfl, rfl, rfl, fun _ => rfl⟩

end

/-! ### The sign instructions (R147) -/

theorem getLsbD_signBit (k : Nat) : (0x80000000#32).getLsbD k = decide (k = 31) :=
  (BitVec.getLsbD_twoPow 31 k).trans (by simp [eq_comm])

theorem getLsbD_belowSign : ∀ k, k < 32 → (0x7FFFFFFF#32).getLsbD k = decide (k ≠ 31) := by decide

/-- The sign that FSGN gives its result (R147). -/
def signOf (x : FsgnF) (a b : Word) : Bool :=
  match x with
  | .cpy => b.msb
  | .ncpy => !b.msb
  | .xor => a.msb != b.msb
  | .abs => false
  | .neg => !a.msb

/-- FSGN changes bit [31] alone. -/
theorem getLsbD_fSgn (x : FsgnF) (a b : Word) {k : Nat} (hk : k < 32) :
    (fSgn x a b).getLsbD k = if k = 31 then signOf x a b else a.getLsbD k := by
  have sign : fSgn x a b = if signOf x a b then (a &&& 0x7FFFFFFF) ||| 0x80000000 else a &&& 0x7FFFFFFF := by
    cases x <;> rfl
  rw [sign]
  cases signOf x a b <;> by_cases h : k = 31 <;> simp [h, getLsbD_signBit, getLsbD_belowSign k hk]

/-- A word is FSGN's where its bit [31] is the sign that the form gives and its other bits are A's. -/
theorem fSgn_eq {x : FsgnF} {a b w : Word} (h : ∀ k, k < 32 → w.getLsbD k = if k = 31 then signOf x a b else a.getLsbD k) :
    fSgn x a b = w :=
  BitVec.eq_of_getLsbD_eq fun k hk => (getLsbD_fSgn x a b hk).trans (h k hk).symm

section
variable {x : FsgnF} {g : GF}

theorem signed2_fires {fn : Word → Word → Word} (h : signed2 x = some fn) : Fires2 (.fsgn x g) g fn := by
  unfold signed2 at h
  split at h <;> cases h
  all_goals
    refine Fires2.congr ⟨rfl, rfl, fun _ => rfl⟩ fun a b => fSgn_eq fun k hk => ?_
    by_cases hs : k = 31 <;> simp [hs, decide_eq_true hk, signOf, BitVec.msb_eq_getLsbD_last, getLsbD_signBit, getLsbD_belowSign k hk]

theorem signed1_fires {fn : Word → Word} (h : signed1 x = some fn) : Fires1 (.fsgn x g) g fn := by
  unfold signed1 at h
  split at h <;> cases h
  all_goals
    refine Fires1.congr ⟨rfl, fun _ => rfl⟩ fun a => fSgn_eq (b := 0) fun k hk => ?_
    by_cases hs : k = 31 <;> simp [hs, signOf, BitVec.msb_eq_getLsbD_last, getLsbD_signBit, getLsbD_belowSign k hk]

end

/-- Settles O47: each instruction fires a template of R141 with the lane function of its rule in the block's rounding direction, and FSGN
fires a template of R102 with a word function that agrees with A below bit [31]. -/
theorem floatLanesAndSigns : Obligations.FloatLanesAndSigns := by
  unfold Obligations.FloatLanesAndSigns Claim.FloatLanesCompleteWithFlags Claim.SignInstructionResults
  refine ⟨⟨?_, ?_, ?_⟩, ?_, ?_⟩
  · intro i s f g fn h hr
    obtain ⟨m, rfl, hi⟩ := fp1_fires h
    exact hi.yields hr
  · intro i s f g fn h hr
    obtain ⟨m, rfl, hi⟩ := fp2_fires h
    exact hi.yields hr
  · intro i s f g fn h hr
    obtain ⟨m, rfl, hi⟩ := fp3_fires h
    exact hi.yields hr
  · intro x g fn s f h hr
    exact (signed2_fires h).yields hr
  · intro x g fn s f h hr
    exact (signed1_fires h).yields hr

end Sys2Proof.Proofs
end

section
/-! PROOFS. How the functions of the escapes fire: whether any lane matches, the state that a firing reads, a gate that is open or shut, and
the word of an E function in its lanes (R27 to R30, R188, R189). -/

namespace Sys2Proof.Proofs

open Sys2Proof Sys2Proof.Machine Sys2Proof.Claim

/-! ### Functions without operands -/

section
variable {i : Instr} {s : State} {v : Context} {f : Frame}

theorem anyMatch_iff : anyMatch (envOf s v f i) = true ↔ Acts i (opnd s f) := by
  have hlanes : (envOf s v f i).m.toList = laneNums.map fun l => (envOf s v f i).m.get l := rfl
  rw [anyMatch, hlanes, List.any_map, List.any_eq_true]
  constructor
  · rintro ⟨l, hl, hm⟩
    exact ⟨l, mem_laneNums.1 hl, (envOf_m_get (mem_laneNums.1 hl)).symm.trans hm⟩
  · rintro ⟨l, hl, hm⟩
    exact ⟨l, mem_laneNums.2 hl, (envOf_m_get hl).trans hm⟩

theorem anyMatch_eq_false (h : ¬ Acts i (opnd s f)) : anyMatch (envOf s v f i) = false :=
  Bool.eq_false_iff.2 fun k => h (anyMatch_iff.1 k)

end

/-! ### The state that a firing reads -/

/-- The state in which a function of the escapes looks up its act: its issue is counted (R139, R364). -/
def issued (s : State) : State := spendIssue (countEvent s s.focus.cell s.focus.ctx 2 1) s.focus.cell 2400

theorem issued_fields (s : State) : issued s = { s with cells := (issued s).cells } := by
  unfold issued
  obtain ⟨w, u, h | h⟩ := countEvent_eq s s.focus.cell s.focus.ctx 2 1 <;> rw [h] <;> rfl

/-- What a change of one cell keeps there, it keeps of every cell. -/
theorem cellOf_modCell_keeps {α : Type} (p : Cell → α) (s : State) (c d : Nat) {g : Cell → Cell} (h : ∀ k, p (g k) = p k) :
    p (cellOf (modCell s c g) d) = p (cellOf s d) := by
  by_cases hd : d = c
  · rw [hd, cellOf_modCell, h]
  · rw [cellOf_modCell_other _ _ _ _ hd]

/-- Of its cell an issue changes only the energy, the count of issues and the context's event counter. -/
theorem cellOf_issued {α : Type} (p : Cell → α) (s : State) (d : Nat)
    (h : ∀ k e n t, p { k with energyAcc := e, issues := n, core := { k.core with ctxs := t } } = p k) :
    p (cellOf (issued s) d) = p (cellOf s d) := by
  have spent : p (cellOf (issued s) d) = p (cellOf (countEvent s s.focus.cell s.focus.ctx 2 1) d) :=
    (cellOf_modCell_keeps p _ _ d fun k => h k k.energyAcc (k.issues + 1) k.core.ctxs).trans
      (cellOf_modCell_keeps p _ _ d fun k => h k _ k.issues k.core.ctxs)
  rw [spent]
  obtain ⟨w, u, e | e⟩ := countEvent_eq s s.focus.cell s.focus.ctx 2 1
  · rw [e]
  · rw [e]
    exact cellOf_modCell_keeps p s _ d fun k => h k k.energyAcc k.issues _

/-! ### Counting behind a gate -/

section
variable {i : Instr} {s : State} {f : Frame} {lsid : BitVec 5} {act : Act}

/-- A side effect whose act is found in the state that the firing reads counts (R29). -/
theorem counts_of_fireQ_issued {g : State → Env → Except BFault Act} (hx : exec i s = fireQ s i lsid g) (hr : Ready s f i)
    (hg : g (issued s) (envOf s (here s) f i) = .ok act) : Counts i s f lsid.toNat act := by
  intro hdecl
  obtain ⟨hf, ha, hd⟩ := hr
  obtain ⟨t, ht, hfired⟩ := fireQ_counts s i lsid g f act hd hf ha hdecl.1 hdecl.2 hg
  exact ⟨t, hx.trans ht, leaves_of_fired hfired⟩

/-- A function behind an open gate that counts a side effect counts it as one without a gate does (R189). -/
theorem counts_of_fireGate {gate : State → Env → Bool} {k : State → Env → State} (hx : exec i s = fireGate s i 2 gate k)
    (hr : Ready s f i) (hopen : gate s (envOf s (here s) f i) = true)
    (hk : ∀ u, k u (envOf s (here s) f i) =
      finish u (envOf s (here s) f i) (countEffect (markFired f s.focus.slot) s.focus.slot lsid.toNat act)) :
    Counts i s f lsid.toNat act := by
  have hfires := fireGate_next s i 2 gate k f hr.1 hr.2.1 hopen
  have hplain := fireGate_next s i 2 (fun _ _ => true)
    (fun u e => finish u e (countEffect e.f e.slot lsid.toNat act)) f hr.1 hr.2.1 rfl
  rw [hk] at hfires
  exact counts_of_fireQ (g := fun _ _ => .ok act) (hx.trans (hfires.trans hplain.symm)) hr fun _ => rfl

/-- A function behind a shut gate waits (R189). -/
theorem waits_of_fireGate {ev : Nat} {gate : State → Env → Bool} {k : State → Env → State} (hx : exec i s = fireGate s i ev gate k)
    (hr : Ready s f i) (hshut : gate s (envOf s (here s) f i) = false) : exec i s = .next s :=
  hx.trans (fireGate_waits s i ev gate k f hr.1 (by rw [hshut, Bool.and_false]))

end

end Sys2Proof.Proofs
end

section
/-! PROOFS. The stream functions and SBAR at firing (R188, R206, R208, R210, R211). -/

namespace Sys2Proof.Proofs

open Sys2Proof Sys2Proof.Machine Sys2Proof.Claim

/-! ### The commands of a unit -/

section
variable {i : Instr} {q : LF} {act : Act} {s : State} {f : Frame}

theorem exec_streamNoWord (h : streamNoWord i = some (q, act)) (s : State) :
    exec i s = fireQ0 s i q.lsid fun _ _ => .ok act := by
  unfold streamNoWord at h
  split at h <;> cases h <;> rfl

/-- A function whose word is that of the acting lane finds its act by the word (R206, R210). -/
theorem exec_streamWord {a : Word} (h : streamWord a i = some (q, act)) (s : State) :
    usesA i = true ∧ ∃ g : Word → Act, g a = act ∧ exec i s = fireQ1 s i q.lsid fun _ _ _ b => .ok (g b) := by
  unfold streamWord at h
  split at h <;> cases h
  · next unit => exact ⟨rfl, fun b => .sdef unit.toNat b, rfl, rfl⟩
  · next unit => exact ⟨rfl, fun b => .sfmt unit.toNat b, rfl, rfl⟩

theorem counts_streamNoWord (h : streamNoWord i = some (q, act)) (hr : Ready s f i) (hacts : Acts i (opnd s f)) :
    Counts i s f q.lsid.toNat act :=
  counts_of_fireQ (exec_streamNoWord h s) hr fun _ => if_pos (anyMatch_iff.2 hacts)

theorem counts_streamNoWord_idle (h : streamNoWord i = some (q, act)) (hr : Ready s f i) (hidle : ¬ Acts i (opnd s f)) :
    Counts i s f q.lsid.toNat .nothing :=
  counts_of_fireQ (exec_streamNoWord h s) hr fun _ => if_neg fun hm => hidle (anyMatch_iff.1 hm)

theorem counts_streamWord {l : Nat} {a : Word} (h : streamWord a i = some (q, act)) (hr : Ready s f i)
    (hacts : ActingA i (opnd s f) l a) : Counts i s f q.lsid.toNat act := by
  obtain ⟨hA, g, rfl, hx⟩ := exec_streamWord h s
  exact counts_of_fireQ hx hr fun _ => by rw [actA_of_acting hA hacts]

theorem counts_streamWord_idle {a : Word} (h : streamWord a i = some (q, act)) (hr : Ready s f i) (hidle : IdleA i (opnd s f)) :
    Counts i s f q.lsid.toNat .nothing := by
  obtain ⟨hA, g, -, hx⟩ := exec_streamWord h s
  exact counts_of_fireQ hx hr fun _ => by rw [actA_of_idle hA hidle]

end

/-! ### SBAR -/

theorem mem_onesFrom (k i m n : Nat) : n ∈ onesFrom k i m ↔ ∃ j, j < k ∧ n = i + j ∧ m.testBit j = true := by
  induction k generalizing i m with
  | zero => simp [onesFrom]
  | succ k ih =>
    have hsplit : (∃ j, j < k + 1 ∧ n = i + j ∧ m.testBit j = true) ↔
        (n = i ∧ m % 2 = 1) ∨ ∃ j, j < k ∧ n = i + 1 + j ∧ (m / 2).testBit j = true := by
      constructor
      · rintro ⟨_ | j, hj, rfl, hm⟩
        · exact .inl ⟨rfl, by simpa using hm⟩
        · exact .inr ⟨j, by omega, by omega, by rwa [Nat.testBit_succ] at hm⟩
      · rintro (⟨rfl, hm⟩ | ⟨j, hj, rfl, hm⟩)
        · exact ⟨0, by omega, rfl, by simpa using hm⟩
        · exact ⟨j + 1, by omega, by omega, by rwa [Nat.testBit_succ]⟩
    rw [hsplit, onesFrom]
    split
    · next hm => simp [ih, hm]
    · next hm => simp [ih, hm]

/-- The units that SBAR names are the ones of its mask. -/
theorem mem_maskUnits {mask : BitVec 4} {n : Nat} : n ∈ onesFrom 4 0 mask.toNat ↔ n < 4 ∧ mask.getLsbD n = true := by
  rw [mem_onesFrom]
  constructor
  · rintro ⟨j, hj, rfl, hm⟩
    rw [Nat.zero_add]
    exact ⟨hj, hm⟩
  · rintro ⟨hn, hm⟩
    exact ⟨n, hn, (Nat.zero_add n).symm, hm⟩

theorem unitSettled_iff {u : SUnit} : unitSettled u = true ↔ u.st = .idle ∨ u.st = .loaded ∨ u.st = .held := by
  simp [unitSettled, or_assoc]

theorem unitSettled_eq_false {u : SUnit} (h : u.st = .armed ∨ u.st = .running) : unitSettled u = false := by
  rcases h with h | h <;> simp [unitSettled, h]

/-- Whether the units and the engine of core `c` that SBAR names are between commands (R211). -/
def sbarSettled (s : State) (c : Nat) (mask : BitVec 4) (mx : Bool) : Bool :=
  (onesFrom 4 0 mask.toNat).all (fun n => unitSettled (unitOf s c n)) &&
    (!mx || ((coreOf s c).mx.queue.isEmpty && (coreOf s c).mx.run.isNone))

section
variable {q : LF} {mask : BitVec 4} {mx : Bool} {s : State} {f : Frame}

theorem exec_sbar : exec (.sbar q mask mx) s = fireGate s (.sbar q mask mx) 2
    (fun s e => !anyMatch e || sbarSettled s e.c mask mx)
    fun s e => finish s e (countEffect e.f e.slot q.lsid.toNat .nothing) := rfl

/-- SBAR counts where no lane matches, or where what it names is between commands. -/
theorem counts_sbar (hr : Ready s f (.sbar q mask mx))
    (h : Acts (.sbar q mask mx) (opnd s f) → sbarSettled s s.focus.cell mask mx = true) :
    Counts (.sbar q mask mx) s f q.lsid.toNat .nothing := by
  refine counts_of_fireGate exec_sbar hr ?_ fun _ => rfl
  by_cases hacts : Acts (.sbar q mask mx) (opnd s f)
  · exact Bool.or_eq_true_iff.2 (.inr (h hacts))
  · exact Bool.or_eq_true_iff.2 (.inl (by rw [anyMatch_eq_false hacts]; rfl))

theorem waits_sbar (hr : Ready s f (.sbar q mask mx)) (hacts : Acts (.sbar q mask mx) (opnd s f))
    (h : sbarSettled s s.focus.cell mask mx = false) :
    exec (.sbar q mask mx) s = .next s := by
  refine waits_of_fireGate exec_sbar hr ?_
  rw [anyMatch_iff.2 hacts]
  exact h

theorem sbarSettled_eq_true (hunits : ∀ n, n < 4 → mask.getLsbD n = true →
      (streamUnit s n).st = .idle ∨ (streamUnit s n).st = .loaded ∨ (streamUnit s n).st = .held)
    (hmx : mx = true → (engine s).queue = [] ∧ (engine s).run = none) : sbarSettled s s.focus.cell mask mx = true := by
  have units : (onesFrom 4 0 mask.toNat).all (fun n => unitSettled (unitOf s s.focus.cell n)) = true := by
    refine List.all_eq_true.2 fun n hn => ?_
    obtain ⟨h4, hm⟩ := mem_maskUnits.1 hn
    exact unitSettled_iff.2 (hunits n h4 hm)
  rw [sbarSettled, units]
  cases mx with
  | false => rfl
  | true =>
    obtain ⟨hq, hrun⟩ := hmx rfl
    simp [hq, hrun]

theorem sbarSettled_of_busyUnit {n : Nat} (h4 : n < 4) (hm : mask.getLsbD n = true)
    (h : (streamUnit s n).st = .armed ∨ (streamUnit s n).st = .running) : sbarSettled s s.focus.cell mask mx = false := by
  have units : (onesFrom 4 0 mask.toNat).all (fun n => unitSettled (unitOf s s.focus.cell n)) = false :=
    List.all_eq_false.2 ⟨n, mem_maskUnits.2 ⟨h4, hm⟩, fun k => Bool.false_ne_true ((unitSettled_eq_false h).symm.trans k)⟩
  rw [sbarSettled, units, Bool.false_and]

theorem sbarSettled_of_busyEngine (h : (engine s).queue ≠ [] ∨ (engine s).run ≠ none) :
    sbarSettled s s.focus.cell mask true = false := by
  rw [sbarSettled, Bool.and_eq_false_iff]
  right
  rcases h with h | h
  · simp [h]
  · simp [Option.ne_none_iff_isSome.1 h]

end

/-- Settles O28: a stream function finds its act by its lanes alone, and the gate of SBAR is open exactly where no lane matches or what it
names is between commands. -/
theorem streamFunctionsCount : Obligations.StreamFunctionsCount := by
  unfold Obligations.StreamFunctionsCount
  refine ⟨?_, ?_, ?_, ?_, ?_, ?_, ?_, ?_⟩
  · intro i q act s f h hr hacts
    exact counts_streamNoWord h hr hacts
  · intro i q act s f h hr hidle
    exact counts_streamNoWord_idle h hr hidle
  · intro i q act s f l a h hr hacts
    exact counts_streamWord h hr hacts
  · intro i q act s f a h hr hidle
    exact counts_streamWord_idle h hr hidle
  · intro q mask mx s f hr hunits hmx
    exact counts_sbar hr fun _ => sbarSettled_eq_true hunits hmx
  · intro q mask mx s f hr hidle
    exact counts_sbar hr fun hacts => absurd hacts hidle
  · intro q mask mx s f n hr hacts h4 hm hbusy
    exact waits_sbar hr hacts (sbarSettled_of_busyUnit h4 hm hbusy)
  · intro q mask s f hr hacts hbusy
    exact waits_sbar hr hacts (sbarSettled_of_busyEngine hbusy)

end Sys2Proof.Proofs
end

section
/-! PROOFS. What the firing of a function reads beside its operands: cells, regions, groups and memory are in the state with the issue
counted as they were before (R196, R279, R281, R312, R319 to R321). -/

namespace Sys2Proof.Proofs

open Sys2Proof Sys2Proof.Machine Sys2Proof.Claim

/-! ### Reads that an issue leaves alone -/

section
variable (s : State)

@[simp] theorem issued_mem : (issued s).mem = s.mem := by rw [issued_fields]
@[simp] theorem issued_bad : (issued s).bad = s.bad := by rw [issued_fields]
@[simp] theorem issued_embed : (issued s).embed = s.embed := by rw [issued_fields]
@[simp] theorem issued_regions : (issued s).regions = s.regions := by rw [issued_fields]
@[simp] theorem issued_peers : (issued s).peers = s.peers := by rw [issued_fields]
@[simp] theorem issued_tickNo : (issued s).tickNo = s.tickNo := by rw [issued_fields]

@[simp] theorem regionOf_issued (c : Nat) : regionOf (issued s) c = regionOf s c :=
  cellOf_issued Cell.region s c fun _ _ _ _ => rfl

@[simp] theorem regpos_issued (c : Nat) : (cellOf (issued s) c).regpos = (cellOf s c).regpos :=
  cellOf_issued Cell.regpos s c fun _ _ _ _ => rfl

@[simp] theorem pool_issued (c : Nat) : (cellOf (issued s) c).pool = (cellOf s c).pool :=
  cellOf_issued Cell.pool s c fun _ _ _ _ => rfl

@[simp] theorem shadow_issued (c : Nat) : (cellOf (issued s) c).shadow = (cellOf s c).shadow :=
  cellOf_issued Cell.shadow s c fun _ _ _ _ => rfl

@[simp] theorem bankWritten_issued (c : Nat) : bankWritten (cellOf (issued s) c) = bankWritten (cellOf s c) :=
  cellOf_issued bankWritten s c fun _ _ _ _ => rfl

@[simp] theorem bars_issued (c : Nat) : (coreOf (issued s) c).bars = (coreOf s c).bars :=
  cellOf_issued (fun k => k.core.bars) s c fun _ _ _ _ => rfl

@[simp] theorem gcache_issued (c : Nat) : (coreOf (issued s) c).gcache = (coreOf s c).gcache :=
  cellOf_issued (fun k => k.core.gcache) s c fun _ _ _ _ => rfl

@[simp] theorem regionAt_issued (r : Nat) : regionAt (issued s) r = regionAt s r := by simp [regionAt]

@[simp] theorem coreAt_issued (x y : Nat) : coreAt (issued s) x y = coreAt s x y := by simp [coreAt]

@[simp] theorem regionCell_issued (c x y : Nat) : regionCell (issued s) c x y = regionCell s c x y := by simp [regionCell]

@[simp] theorem wordCell_issued (c : Nat) (w : Word) : wordCell (issued s) c w = wordCell s c w := by simp [wordCell]

@[simp] theorem regionOrigin_issued (r : Nat) : regionOrigin (issued s) r = regionOrigin s r := by simp [regionOrigin]

@[simp] theorem isCollHome_issued (c : Nat) : isCollHome (issued s) c = isCollHome s c := by simp [isCollHome]

@[simp] theorem collCtx_issued (c : Nat) : collCtx (issued s) c = collCtx s c := by simp [collCtx, shadowCtx]

@[simp] theorem progEnd_issued (c : Nat) : progEnd (issued s) c = progEnd s c := by simp [progEnd]

@[simp] theorem readN_issued (k n : Nat) : readN (issued s) k n = readN s k n := by simp [readN]

@[simp] theorem readWord_issued (k : Nat) : readWord (issued s) k = readWord s k := by simp [readWord]

@[simp] theorem groupOf_issued (c gt : Nat) : groupOf (issued s) c gt = groupOf s c gt := by simp [groupOf, readGroup]

@[simp] theorem isBad_issued (k : Nat) : isBad (issued s) k = isBad s k := by simp [isBad]

end

/-! ### Words and spans of memory (R1, R279) -/

theorem leNat_memGetBytes (m : List Host.Cell) (k n : Nat) : leNat (memGetBytes m k n) = littleEndian m k n := by
  induction n generalizing k with
  | zero => rfl
  | succ n ih => rw [memGetBytes, leNat, ih, littleEndian]

theorem readWords_eq_map (s : State) (k n : Nat) : readWords s k n = (List.range n).map fun j => readWord s (k + 4 * j) := by
  induction n generalizing k with
  | zero => rfl
  | succ n ih =>
    rw [readWords, ih, List.range_succ_eq_map, List.map_cons, List.map_map]
    refine congrArg (_ :: ·) (List.map_congr_left fun j _ => ?_)
    rw [Function.comp, Nat.mul_succ, Nat.add_comm (4 * j), Nat.add_assoc]

/-- The descriptor that CSTART reads is the one of R323. -/
theorem readWords_issued_eq_descriptorAt (s : State) (a : Nat) :
    readWords (issued s) (sramKey s.focus.cell a) 8 = descriptorAt s a := by
  rw [readWords_eq_map, descriptorAt]
  exact List.map_congr_left fun j _ => by rw [readWord_issued, readWord, readN, leNat_memGetBytes]; rfl

/-- A byte of SRAM is uncorrectable where its word is. -/
theorem isBad_word (s : State) (c k : Nat) : isBad s (sramKey c (k / 4 * 4)) = isBad s (sramKey c k) := by
  have hloft : keyIsLoft (sramKey c (k / 4 * 4)) = keyIsLoft (sramKey c k) := by
    unfold keyIsLoft sramKey
    congr 2
    omega
  have hline : lineKey (sramKey c (k / 4 * 4)) = lineKey (sramKey c k) := by unfold lineKey sramKey; omega
  have hword : wordKey (sramKey c (k / 4 * 4)) = wordKey (sramKey c k) := by unfold wordKey sramKey; omega
  rw [isBad, isBad, hloft, hline, hword]

theorem anyBad_eq_none {s : State} {c a n : Nat} (h : ∀ j, j < n → isBad s (sramKey c (a + 4 * j)) = false) :
    anyBad s c a n = none := by
  induction n generalizing a with
  | zero => rfl
  | succ n ih =>
    have h0 : isBad s (sramKey c a) = false := h 0 (Nat.succ_pos n)
    rw [anyBad, h0, if_neg Bool.false_ne_true]
    refine ih fun j hj => ?_
    rw [Nat.add_assoc, Nat.add_comm 4, ← Nat.mul_succ]
    exact h (j + 1) (by omega)

/-- A span none of whose bytes is uncorrectable meets no uncorrectable word. -/
theorem spanBad_eq_none {s : State} {c a n : Nat} (h : ∀ k, a ≤ k → k < a + n → isBad s (sramKey c k) = false) :
    spanBad s c a n = none := by
  unfold spanBad
  split
  · rfl
  · next hn =>
    refine anyBad_eq_none fun j hj => ?_
    rw [show a / 4 * 4 + 4 * j = (max a (a / 4 * 4 + 4 * j)) / 4 * 4 by omega, isBad_word]
    exact h _ (by omega) (by omega)

/-! ### The cell that a word names (R196, R312) -/

/-- A coordinate inside the region is the one that R312 computes around the torus, or names the same place. -/
theorem wordCell_of_names {s : State} {w : Word} {d : Nat} (h : Names s w d) : wordCell s s.focus.cell w = some d := by
  obtain ⟨r, x, y, hr, hcell, hx, hy, hxw, hyw⟩ := h
  unfold wordCell
  simp only [hr, bits_eq_extractLsb', signed_toNat, ← hxw, ← hyw]
  have hx' : ((x : Int) % 960).toNat = x % 960 := by omega
  have hy' : ((y : Int) % 960).toNat = y % 960 := by omega
  have inside : x % 960 < (regionAt s r).w ∧ y % 960 < (regionAt s r).h :=
    ⟨Nat.lt_of_le_of_lt (Nat.mod_le x 960) hx, Nat.lt_of_le_of_lt (Nat.mod_le y 960) hy⟩
  simp only [regionCell, hr, Option.bind_some, if_pos (And.intro hx hy)] at hcell
  simp only [hx', hy', regionCell, hr, Option.bind_some, if_pos inside]
  rw [← hcell]
  simp only [coreAt, Nat.add_mod_mod]

/-! ### The word of an E function -/

section
variable {i : Instr} {s : State} {f : Frame}

theorem lanesOf_of_not_acts {r : Nat → Option Word} (h : ¬ Acts i (opnd s f)) : lanesOf i (opnd s f) r = Val.allNull :=
  ofFn_congr fun l hl => if_neg fun hm => h ⟨l, hl, hm⟩

theorem lanesOf_none : lanesOf i (opnd s f) (fun _ => none) = Val.allNull :=
  ofFn_congr fun _ _ => ite_self none

/-- An E function delivers its word in every matching lane (R188). -/
theorem yields_of_fireE {t0 : Target} {g : State → Env → Except BFault (Option Word)} {w : Option Word}
    (hx : exec i s = fireE s i t0 g) (hr : Ready s f i) (hg : g (issued s) (envOf s (here s) f i) = .ok w) :
    Yields i s f [t0] (lanesOf i (opnd s f) fun _ => w) 0 := by
  have hfires := fireGate_next s i 2 (fun _ _ => true)
    (fun u e => match g u e with
      | .ok w => produce u e [t0] (laneVal e fun _ => w, 0)
      | .error b => finish u e (.error b)) f hr.1 hr.2.1 rfl
  have hplain := fireGate_next s i 2 (fun _ _ => true) (fun u e => produce u e [t0] (laneVal e fun _ => w, 0)) f hr.1 hr.2.1 rfl
  have hg' : g (spendIssue (countEvent s s.focus.cell s.focus.ctx 2 1) s.focus.cell (issueCost 2)) (envOf s (here s) f i) = .ok w := hg
  simp only [hg'] at hfires
  exact yields_of_produce (r := fun e => (laneVal e fun _ => w, 0)) (hx.trans (hfires.trans hplain.symm)) hr
    (laneVal_envOf fun _ _ => rfl)

theorem yields_allNull_of_fireE {t0 : Target} {g : State → Env → Except BFault (Option Word)} (hx : exec i s = fireE s i t0 g)
    (hr : Ready s f i) (hg : g (issued s) (envOf s (here s) f i) = .ok none) : Yields i s f [t0] Val.allNull 0 :=
  lanesOf_none (i := i) ▸ yields_of_fireE hx hr hg

end

end Sys2Proof.Proofs
end

section
/-! PROOFS. Operations of point Reply that wait in their frame, and their departure (R97, R178, R189). -/

namespace Sys2Proof.Proofs

open Sys2Proof Sys2Proof.Machine Sys2Proof.Claim

/-! ### The messages of an operation -/

theorem net_post (s : State) (c d vc : Nat) (b : Body) :
    ∃ m : Msg, (post s c d vc b).net = s.net ++ [m] ∧ m.src = c ∧ m.dst = d ∧ m.body = b := by
  simp only [post, postMsg]
  split <;> exact ⟨_, rfl, rfl, rfl, rfl⟩

/-- Each message of a list that is sent in turn travels. -/
theorem net_posts (c : Nat) {l : List (Nat × Body)} {p : Nat × Body} (hp : p ∈ l) (s : State) :
    ∃ m ∈ (l.foldl (fun s m => post s c m.1 0 m.2) s).net, m.src = c ∧ m.dst = p.1 ∧ m.body = p.2 := by
  induction l generalizing s with
  | nil => cases hp
  | cons q l ih =>
    rcases List.mem_cons.1 hp with rfl | hp
    · obtain ⟨m, hnet, hm⟩ := net_post s c p.1 0 p.2
      obtain ⟨-, -, -, -, n, hrest⟩ := posts_facts c l (post s c p.1 0 p.2)
      refine ⟨m, ?_, hm⟩
      rw [List.foldl_cons, hrest, hnet]
      simp
    · exact ih hp _

/-! ### The frame of a departure -/

section
variable {s : State} {c x : Nat} {F : Frame}

/-- A departure changes the frame's operations at most by marking their messages as sent. -/
theorem departReply_frame (hF : (ctxOf s c x).frame = some F) : ∃ sent : Waiting → Waiting,
    (∀ w, sent w = { w with unsent := (sent w).unsent }) ∧
    (ctxOf (departReply s c x) c x).frame = some { F with waits := F.waits.map sent } := by
  unfold departReply
  rw [hF]
  dsimp only
  split
  · exact ⟨id, fun _ => rfl, by rw [hF, List.map_id]⟩
  · next w _ =>
    refine ⟨fun u => if u.slot = w.slot then { u with unsent := [] } else u, fun u => ?_, ?_⟩
    · dsimp only
      split <;> rfl
    · obtain ⟨-, -, hcore, -⟩ := posts_facts c w.unsent
        (putFrame s c x { F with waits := F.waits.map fun u => if u.slot = w.slot then { u with unsent := [] } else u })
      rw [ctxOf, hcore]
      exact congrArg Context.frame (ctxOf_putFrame s c x _)

/-- The operation that may depart sends its messages. -/
theorem departReply_sends {w : Waiting} (hF : (ctxOf s c x).frame = some F) (hw : departing F = some w) {p : Nat × Body}
    (hp : p ∈ w.unsent) : ∃ m ∈ (departReply s c x).net, m.src = c ∧ m.dst = p.1 ∧ m.body = p.2 := by
  unfold departReply
  rw [hF]
  dsimp only
  rw [hw]
  exact net_posts c hp _

end

/-- The one operation of a frame that has not departed departs once all else of its block is counted and decoded (R97, R189). -/
theorem departing_append {f : Frame} {w : Waiting} {n : Nat} (hsent : ∀ u ∈ f.waits, u.unsent = []) (hw : w.unsent ≠ [])
    (hn : w.lsid = some n) (ht : w.t0 = .none) (hdec : allDecoded f = true) (hcount : countedBut f (wordOf (2 ^ n)) 0 0 = true) :
    departing { f with waits := f.waits ++ [w] } = some w := by
  have hfind : (f.waits ++ [w]).find? (fun u => !u.unsent.isEmpty) = some w := by
    have hold : f.waits.find? (fun u => !u.unsent.isEmpty) = none := by
      rw [List.find?_eq_none]
      intro u hu
      simp [hsent u hu]
    rw [List.find?_append, hold]
    simp [hw]
  unfold departing
  rw [show allDecoded { f with waits := f.waits ++ [w] } = true from hdec, if_pos rfl, hfind]
  dsimp only [Option.bind_some]
  rw [hn, ht]
  exact if_pos hcount

theorem countedBut_of_counted {f : Frame} {own : Word} (hexit : f.exit.isSome = true)
    (h1 : (f.h1 &&& ~~~f.counted) &&& ~~~own = 0) (h2 : f.h2 &&& ~~~f.wroteLo = 0) (h3 : f.h3 &&& ~~~f.wroteHi = 0) :
    countedBut f own 0 0 = true := by
  simp [countedBut, hexit, h1, h2, h3]

/-! ### A firing that leaves an operation waiting -/

theorem focus_of_fired {s t : State} {c x : Nat} {F : Frame} (h : Fired s t c x F) : t.focus = s.focus := by rw [h.fields]

theorem net_of_settles {s t : State} {c : Nat} (h : Settles s t c) : t.net = s.net := by rw [h.fields]

/-- The state after a function of the escapes has fired and left frame `F`. -/
def firedWith (s : State) (F : Frame) : State :=
  settleCore (departReply (putFrame (issued s) s.focus.cell s.focus.ctx F) s.focus.cell s.focus.ctx) s.focus.cell

section
variable {s : State} {f F : Frame}

theorem fired_firedWith (hd : decodesOn s s.focus.cell = true) (hf : (here s).frame = some f) (hb : F.badWord = f.badWord)
    (hn : F.fetched = f.fetched) : Fired s (firedWith s F) s.focus.cell s.focus.ctx F :=
  fired_putFrame s s.focus.cell s.focus.ctx 2 1 2400 f F hd hf hb hn

theorem ctxOf_issued_other {y : Nat} (hy : y ≠ s.focus.ctx) : ctxOf (issued s) s.focus.cell y = ctxOf s s.focus.cell y := by
  rw [issued, ctxOf_spendIssue]
  obtain ⟨w, u, h | h⟩ := countEvent_eq s s.focus.cell s.focus.ctx 2 1
  · rw [h]
  · rw [h, ctxOf_putCtx_other _ _ _ _ _ _ fun e => hy e.2]

/-- The blocks that a departure leaves on the core decode as they did. -/
theorem decodesOn_departReply (hd : decodesOn s s.focus.cell = true) (hf : (here s).frame = some f) (hb : F.badWord = f.badWord)
    (hn : F.fetched = f.fetched) :
    decodesOn (departReply (putFrame (issued s) s.focus.cell s.focus.ctx F) s.focus.cell s.focus.ctx) s.focus.cell = true := by
  rw [decodesOn_iff] at hd ⊢
  intro y g m e hy hg hm
  by_cases hyx : y = s.focus.ctx
  · subst hyx
    obtain ⟨sent, -, hframe⟩ := departReply_frame (s := putFrame (issued s) s.focus.cell s.focus.ctx F) (F := F)
      (by rw [ctxOf_putFrame])
    rw [hframe] at hg
    cases hg
    exact (congrArg (· ≤ 32 * m) hn).mpr (hd _ f m e hy hf (hb ▸ hm))
  · rw [(departs_departReply _ _ _).other y hyx, ctxOf_putFrame_other _ _ _ _ _ _ fun h => hyx h.2, ctxOf_issued_other hyx] at hg
    exact hd y g m e hy hg hm

theorem settles_firedWith (hd : decodesOn s s.focus.cell = true) (hf : (here s).frame = some f) (hb : F.badWord = f.badWord)
    (hn : F.fetched = f.fetched) :
    Settles (departReply (putFrame (issued s) s.focus.cell s.focus.ctx F) s.focus.cell s.focus.ctx) (firedWith s F) s.focus.cell :=
  settles_settleCore _ _ (decodesOn_departReply hd hf hb hn)

/-- The frame that stays after the firing is `F`, its operations at most marked as sent. -/
theorem frame_firedWith (hd : decodesOn s s.focus.cell = true) (hf : (here s).frame = some f) (hb : F.badWord = f.badWord)
    (hn : F.fetched = f.fetched) : ∃ sent : Waiting → Waiting, (∀ w, sent w = { w with unsent := (sent w).unsent }) ∧
      (here (firedWith s F)).frame = some { F with waits := F.waits.map sent } := by
  obtain ⟨sent, hsent, hframe⟩ := departReply_frame (s := putFrame (issued s) s.focus.cell s.focus.ctx F) (F := F)
    (by rw [ctxOf_putFrame])
  have hfocus : (firedWith s F).focus = s.focus := focus_of_fired (fired_firedWith hd hf hb hn)
  refine ⟨sent, hsent, ?_⟩
  rw [here, hfocus, (settles_firedWith hd hf hb hn).still _ (by rw [Context.still, hframe]; rfl), hframe]

/-- The frame with operation `w` of the slot in focus waiting (R189). -/
def waitingFrame (s : State) (f : Frame) (w : Waiting) : Frame := { markFired f s.focus.slot with waits := f.waits ++ [w] }

/-- After the firing the operation waits in the frame. -/
theorem waits_firedWith (hd : decodesOn s s.focus.cell = true) (hf : (here s).frame = some f) (w : Waiting) :
    ∃ ws p, (here (firedWith s (waitingFrame s f w))).frame = some { markFired f s.focus.slot with waits := ws } ∧ p ∈ ws ∧
      p.slot = w.slot ∧ p.left = w.left ∧ p.lsid = w.lsid := by
  obtain ⟨sent, hsent, hframe⟩ := frame_firedWith (F := waitingFrame s f w) hd hf rfl rfl
  refine ⟨_, sent w, hframe, List.mem_map_of_mem (List.mem_append_right _ (List.mem_singleton.2 rfl)), ?_, ?_, ?_⟩
  all_goals rw [hsent]

/-- The messages of the operation that may depart travel after the firing. -/
theorem sends_firedWith (hd : decodesOn s s.focus.cell = true) (hf : (here s).frame = some f) (hb : F.badWord = f.badWord)
    (hn : F.fetched = f.fetched) {w : Waiting} (hw : departing F = some w) {p : Nat × Body} (hp : p ∈ w.unsent) :
    ∃ m ∈ (firedWith s F).net, m.src = s.focus.cell ∧ m.dst = p.1 ∧ m.body = p.2 := by
  rw [net_of_settles (settles_firedWith hd hf hb hn)]
  exact departReply_sends (by rw [ctxOf_putFrame]) hw hp

end

end Sys2Proof.Proofs
end

section
/-! PROOFS. The barrier functions at firing (R97, R189, R220, R222, R312). -/

namespace Sys2Proof.Proofs

open Sys2Proof Sys2Proof.Machine Sys2Proof.Claim

/-! ### BSTAT -/

/-- The word that BSTAT delivers of an object whose counts fit their fields (R222). -/
theorem barrierStat_eq {b : Barrier} (harr : b.arr < 2 ^ 11) (he : b.e < 2 ^ 11) :
    barrierStat b = BitVec.ofNat 32 (b.arr + b.e * 2 ^ 11 + (if b.phase then 2 ^ 22 else 0) + (if b.init then 2 ^ 23 else 0) +
      b.facc.toNat * 2 ^ 24) := by
  rw [barrierStat, Nat.mod_eq_of_lt harr, Nat.mod_eq_of_lt he]
  rfl

theorem exec_bstat (q : EF) (bn : BitVec 7) (s : State) : exec (.bstat q bn) s = fireE s (.bstat q bn) q.t0 fun s e =>
    .ok (if anyMatch e then some (barrierStat (Tbl.get {} (coreOf s e.c).bars bn.toNat)) else none) := rfl

theorem yields_bstat {q : EF} {bn : BitVec 7} {s : State} {f : Frame} (hr : Ready s f (.bstat q bn)) :
    Yields (.bstat q bn) s f [q.t0] (lanesOf (.bstat q bn) (opnd s f) fun _ => some (barrierStat (barrierAt s bn.toNat))) 0 := by
  by_cases hacts : Acts (.bstat q bn) (opnd s f)
  · refine yields_of_fireE (exec_bstat q bn s) hr ?_
    rw [anyMatch_iff.2 hacts, if_pos rfl, bars_issued]
    rfl
  · rw [lanesOf_of_not_acts hacts]
    refine yields_allNull_of_fireE (exec_bstat q bn s) hr ?_
    rw [anyMatch_eq_false hacts, if_neg Bool.false_ne_true]

/-! ### The home of a barrier (R312) -/

theorem barrierHome_of_names {s : State} {e : Env} {w : Word} {d : Nat} (he : e.c = s.focus.cell) (hw : w.extractLsb' 22 10 = 0)
    (hd : Names s w d) (lsid : BitVec 5) (l : Nat) : barrierHome (issued s) e lsid l w = .ok d := by
  have hzero : bits w 22 10 = 0 := by rw [bits_eq_extractLsb', hw]; rfl
  rw [barrierHome, if_pos hzero, he, wordCell_issued, wordCell_of_names hd]

/-! ### Arrivals -/

/-- The act of an arrival at the home that its acting lane names (R220, R312). -/
def arrivalAct (lsid : BitVec 5) (bn : BitVec 7) (drop : Bool) (s : State) (e : Env) (l : Nat) (a : Word) : Except BFault Act :=
  match barrierHome s e lsid l a with
  | .ok d => .ok (.arrive bn.toNat drop a d)
  | .error x => .error x

section
variable {i : Instr} {q : LF} {bn : BitVec 7} {drop : Bool} {s : State} {f : Frame}

theorem exec_arrival (h : arrivalOf i = some (q, bn, drop)) (s : State) :
    usesA i = true ∧ exec i s = fireQ1 s i q.lsid (arrivalAct q.lsid bn drop) := by
  unfold arrivalOf at h
  split at h <;> cases h <;> exact ⟨rfl, rfl⟩

theorem counts_arrival {l : Nat} {a : Word} {d : Nat} (h : arrivalOf i = some (q, bn, drop)) (hr : Ready s f i)
    (hacts : ActingA i (opnd s f) l a) (ha : a.extractLsb' 22 10 = 0) (hd : Names s a d) :
    Counts i s f q.lsid.toNat (.arrive bn.toNat drop a d) := by
  obtain ⟨hA, hx⟩ := exec_arrival h s
  refine counts_of_fireQ_issued hx hr ?_
  rw [actA_of_acting hA hacts]
  dsimp only
  rw [arrivalAct, barrierHome_of_names rfl ha hd]

theorem counts_arrival_idle (h : arrivalOf i = some (q, bn, drop)) (hr : Ready s f i) (hidle : IdleA i (opnd s f)) :
    Counts i s f q.lsid.toNat .nothing := by
  obtain ⟨hA, hx⟩ := exec_arrival h s
  exact counts_of_fireQ hx hr fun _ => by rw [actA_of_idle hA hidle]

end

/-! ### Operations at the home -/

/-- The operation that waits in its frame for the reply of home `d` to the acting lane `l` (R189, R220). -/
def homeWaiting (s : State) (f : Frame) (lsid : BitVec 5) (bn : BitVec 7) (op : BarOp) (l : Nat) (a : Word) (d : Nat) : Waiting where
  slot := s.focus.slot
  left := [l]
  got := Val.allNull
  ext := .word
  t0 := .none
  lsid := some lsid.toNat
  tlsid := lsid.toNat
  eas := Lanes.all (barrierTaddr a bn.toNat)
  unsent := [(d, .barrier bn.toNat op a s.focus.ctx (.frame s.focus.cell s.focus.ctx f.serial s.focus.slot))]

section
variable {i : Instr} {q : LF} {bn : BitVec 7} {op : BarOp} {lo : Nat} {s : State} {f : Frame} {b : Word}

/-- A home operation fires with the operation of its word B (R220). -/
theorem exec_homeOp (h : homeOp b i = some (q, bn, op, lo)) (s : State) :
    usesA i = true ∧ usesB i = true ∧ ∃ g : Word → BarOp, g b = op ∧ exec i s = fireHome s i q bn lo g := by
  unfold homeOp at h
  split at h <;> cases h
  · exact ⟨rfl, rfl, .init, rfl, rfl⟩
  · exact ⟨rfl, rfl, fun b => .join b.toNat, rfl, rfl⟩
  · exact ⟨rfl, rfl, fun b => .leave b.toNat, rfl, rfl⟩

theorem replyFree_iff {c : Nat} : replyFree s c = true ↔ replyCount s c < 64 := by
  rw [replyFree, replyRoom, decide_eq_true_iff]
  exact Nat.succ_le_iff

theorem counts_homeOp_idle (h : homeOp b i = some (q, bn, op, lo)) (hr : Ready s f i) (hidle : IdleAB i (opnd s f))
    (hroom : replyCount s s.focus.cell < 64) : Counts i s f q.lsid.toNat .nothing := by
  obtain ⟨hA, hB, g, -, hx⟩ := exec_homeOp h s
  refine counts_of_fireGate hx hr (replyFree_iff.2 hroom) fun u => ?_
  rw [actAB_of_idle hA hB hidle]
  rfl

/-- A home operation whose operands are in order fires and waits for the home's reply (R189, R220). -/
theorem exec_homeOp_waits {l : Nat} {a : Word} {d : Nat} (h : homeOp b i = some (q, bn, op, lo)) (hr : Ready s f i)
    (hacts : ActingAB i (opnd s f) l a b) (ha : a.extractLsb' 22 10 = 0) (hd : Names s a d) (hb : b.toNat < 2 ^ lo)
    (hroom : replyCount s s.focus.cell < 64) :
    exec i s = .next (firedWith s (waitingFrame s f (homeWaiting s f q.lsid bn op l a d))) := by
  obtain ⟨hA, hB, g, rfl, hx⟩ := exec_homeOp h s
  obtain ⟨hf, harmed, -⟩ := hr
  have hword : ∀ e, barrierWord e q.lsid l lo b = .ok () := fun _ => if_pos hb
  rw [hx, fireHome, fireGate_next s i 2 _ _ f hf harmed ?room, actAB_of_acting hA hB hacts]
  case room => exact replyFree_iff.2 hroom
  dsimp only
  rw [hword, show spendIssue (countEvent s s.focus.cell s.focus.ctx 2 1) s.focus.cell (issueCost 2) = issued s from rfl,
    barrierHome_of_names rfl ha hd]
  rfl

/-- The operation's message departs at once where everything else of the block is counted and every word of it decoded (R97, R189). -/
theorem sends_homeOp (hr : Ready s f i) (l : Nat) (a : Word) (d : Nat) (lsid : BitVec 5) (hsent : ∀ w ∈ f.waits, w.unsent = [])
    (hdec : allDecoded f = true) (hcount : countedBut f (wordOf (2 ^ lsid.toNat)) 0 0 = true) :
    ∃ m ∈ (firedWith s (waitingFrame s f (homeWaiting s f lsid bn op l a d))).net, m.src = s.focus.cell ∧ m.dst = d ∧
      m.body = .barrier bn.toNat op a s.focus.ctx (.frame s.focus.cell s.focus.ctx f.serial s.focus.slot) := by
  obtain ⟨hf, -, hd⟩ := hr
  have hdep : departing (waitingFrame s f (homeWaiting s f lsid bn op l a d)) = some (homeWaiting s f lsid bn op l a d) :=
    departing_append (f := markFired f s.focus.slot) (n := lsid.toNat) hsent (List.cons_ne_nil _ _) rfl rfl hdec hcount
  exact sends_firedWith (F := waitingFrame s f (homeWaiting s f lsid bn op l a d)) hd hf rfl rfl hdep (List.mem_singleton.2 rfl)

end

theorem barrierFunctionsComplete : Claim.BarrierFunctionsComplete := by
  unfold Claim.BarrierFunctionsComplete
  refine ⟨?_, ?_, ?_, ?_, ?_⟩
  · intro q bn s f hr harr he
    rw [← barrierStat_eq harr he]
    exact yields_bstat hr
  · intro i q bn drop s f l a d h hr hacts ha hd
    exact counts_arrival h hr hacts ha hd
  · intro i q bn drop s f h hr hidle
    exact counts_arrival_idle h hr hidle
  · intro i q bn op lo s f l a b d h hr hacts ha hd hb hroom hsent
    have ⟨hf, _, hdecodes⟩ := hr
    obtain ⟨⟨_, _, _, hctx⟩, -, hmem, hfull, -⟩ := leaves_of_fired
      (fired_firedWith (F := waitingFrame s f (homeWaiting s f q.lsid bn op l a d)) hdecodes hf rfl rfl)
    refine ⟨_, exec_homeOp_waits h hr hacts ha hd hb hroom, waits_firedWith hdecodes hf _, hmem, hfull, by rw [hctx],
      fun hexit hdec h1 h2 h3 => ?_⟩
    exact sends_homeOp hr l a d q.lsid hsent hdec (countedBut_of_counted hexit h1 h2 h3)
  · intro i q bn op lo s f b h hr hidle hroom
    exact counts_homeOp_idle h hr hidle hroom

end Sys2Proof.Proofs
end

section
/-! PROOFS. The group and collective functions at firing (R223 to R226, R319 to R323). -/

namespace Sys2Proof.Proofs

open Sys2Proof Sys2Proof.Machine Sys2Proof.Claim

/-! ### The collective context -/

/-- In the collective context the check of R319 passes. -/
theorem inCollCtx_of_collective {s : State} {e : Env} (hc : Collective s) (he : e.c = s.focus.cell) (hx : e.x = s.focus.ctx)
    (lsid : BitVec 5) (gt : Nat) (r : Except BFault Act) : inCollCtx (issued s) e lsid gt r = r := by
  rw [inCollCtx, collCtx_issued, he, hx, hc, beq_self_eq_true, if_pos rfl]

theorem progEnd_admits {s : State} {a n : Nat} (h : a + n ≤ progEnd s s.focus.cell) : ¬ progEnd (issued s) s.focus.cell < a + n := by
  rw [progEnd_issued]
  omega

theorem spanBad_issued_eq_none {s : State} {a n : Nat} (h : ∀ k, a ≤ k → k < a + n → isBad s (sramKey s.focus.cell k) = false) :
    spanBad (issued s) s.focus.cell a n = none :=
  spanBad_eq_none fun k ha hn => (isBad_issued s _).trans (h k ha hn)

/-! ### Groups (R223) -/

section
variable {q : LF} {gt : BitVec 8} {s : State} {f : Frame}

/-- What JOINC finds in the collective context at its member map and rank (R223, R279, R322). -/
def joincAct (lsid : BitVec 5) (gt : Nat) (s : State) (e : Env) (a b : Word) : Except BFault Act :=
  if progEnd s e.c < a.toNat + 128 then .error (ferr e lsid .bounds a)
  else if (groupOf s e.c gt).live then .error (collErr e lsid gt)
  else
    match spanBad s e.c a.toNat 128 with
    | some at_ => .error (ferr e lsid .ecc (wordOf at_))
    | none =>
      if readN s (sramKey e.c a.toNat) 128 / 2 ^ bits b 0 10 % 2 = 0 then .error (collErr e lsid gt)
      else .ok (.joinc gt (readN s (sramKey e.c a.toNat) 128) (bits b 0 10))

theorem exec_joinc (q : LF) (gt : BitVec 8) (s : State) : exec (.joinc q gt) s = fireQ2 s (.joinc q gt) q.lsid
    fun s e _ a b => inCollCtx s e q.lsid gt.toNat (joincAct q.lsid gt.toNat s e a b) := rfl

theorem counts_joinc {l : Nat} {a b : Word} (hr : Ready s f (.joinc q gt)) (hacts : ActingAB (.joinc q gt) (opnd s f) l a b)
    (hc : Collective s) (hlive : (groupAt s gt.toNat).live = false) (hend : a.toNat + 128 ≤ progEnd s s.focus.cell)
    (hgood : ∀ k, a.toNat ≤ k → k < a.toNat + 128 → isBad s (sramKey s.focus.cell k) = false)
    (hmember : (littleEndian s.mem (sramKey s.focus.cell a.toNat) 128).testBit (b.extractLsb' 0 10).toNat = true) :
    Counts (.joinc q gt) s f q.lsid.toNat
      (.joinc gt.toNat (littleEndian s.mem (sramKey s.focus.cell a.toNat) 128) (b.extractLsb' 0 10).toNat) := by
  refine counts_of_fireQ_issued (exec_joinc q gt s) hr ?_
  rw [actAB_of_acting rfl rfl hacts]
  dsimp only
  have hc' : (envOf s (here s) f (.joinc q gt)).c = s.focus.cell := rfl
  have hmap : readN (issued s) (sramKey s.focus.cell a.toNat) 128 = littleEndian s.mem (sramKey s.focus.cell a.toNat) 128 := by
    rw [readN_issued, readN, leNat_memGetBytes]
  have hbit : ¬ littleEndian s.mem (sramKey s.focus.cell a.toNat) 128 / 2 ^ (b.extractLsb' 0 10).toNat % 2 = 0 := by
    rw [Nat.testBit_eq_decide_div_mod_eq, decide_eq_true_iff] at hmember
    omega
  rw [inCollCtx_of_collective hc rfl rfl, joincAct, hc', if_neg (progEnd_admits hend), groupOf_issued, hlive,
    if_neg Bool.false_ne_true, spanBad_issued_eq_none hgood]
  dsimp only
  rw [hmap, bits_eq_extractLsb', if_neg hbit]

theorem counts_joinc_idle (hr : Ready s f (.joinc q gt)) (hidle : IdleAB (.joinc q gt) (opnd s f)) :
    Counts (.joinc q gt) s f q.lsid.toNat .nothing :=
  counts_of_fireQ (exec_joinc q gt s) hr fun _ => by rw [actAB_of_idle rfl rfl hidle]

theorem exec_leavec (q : LF) (gt : BitVec 8) (s : State) : exec (.leavec q gt) s = fireQ0 s (.leavec q gt) q.lsid
    fun s e => inCollCtx s e q.lsid gt.toNat
      (if !(groupOf s e.c gt.toNat).live || collBusy e.v gt.toNat then .error (collErr e q.lsid gt.toNat)
      else .ok (.leavec gt.toNat)) := rfl

theorem collBusy_eq_false {v : Context} {n : Nat} (h : ∀ o ∈ v.collq, o.gt ≠ n) : collBusy v n = false :=
  List.any_eq_false.2 fun o ho => by simpa using h o ho

theorem counts_leavec (hr : Ready s f (.leavec q gt)) (hacts : Acts (.leavec q gt) (opnd s f)) (hc : Collective s)
    (hlive : (groupAt s gt.toNat).live = true) (hfree : ∀ o ∈ (here s).collq, o.gt ≠ gt.toNat) :
    Counts (.leavec q gt) s f q.lsid.toNat (.leavec gt.toNat) := by
  refine counts_of_fireQ_issued (exec_leavec q gt s) hr ?_
  have hc' : (envOf s (here s) f (.leavec q gt)).c = s.focus.cell := rfl
  have hv : (envOf s (here s) f (.leavec q gt)).v = here s := rfl
  rw [anyMatch_iff.2 hacts, if_pos rfl]
  dsimp only
  rw [inCollCtx_of_collective hc rfl rfl, hc', hv, groupOf_issued, hlive, collBusy_eq_false hfree]
  rfl

/-! ### Collectives (R224, R225) -/

/-- What CSTART finds in the collective context at its descriptor (R224, R279, R323). -/
def cstartAct (lsid : BitVec 5) (gt : Nat) (s : State) (e : Env) (a : Word) : Except BFault Act :=
  if bits a 0 4 ≠ 0 then .error (ferr e lsid .align a)
  else if progEnd s e.c < a.toNat + 32 then .error (ferr e lsid .bounds a)
  else if !(groupOf s e.c gt).live || (groupOf s e.c gt).poison then .error (collErr e lsid gt)
  else
    match spanBad s e.c a.toNat 32 with
    | some at_ => .error (ferr e lsid .ecc (wordOf at_))
    | none =>
      if collDescBad (readWords s (sramKey e.c a.toNat) 8) then .error (collErr e lsid gt)
      else .ok (.cstart gt a.toNat (readWords s (sramKey e.c a.toNat) 8))

theorem exec_cstart (q : LF) (gt : BitVec 8) (s : State) : exec (.cstart q gt) s = fireQ1 s (.cstart q gt) q.lsid
    fun s e _ a => inCollCtx s e q.lsid gt.toNat (cstartAct q.lsid gt.toNat s e a) := rfl

theorem collDescBad_eq_false {d : List Word} (h : DescriptorOk d) : collDescBad d = false := by
  obtain ⟨h0, h1, hlo, hhi⟩ := h
  simp only [collDescBad, bits_eq_extractLsb', h0, h1, Nat.not_lt.2 hlo, Nat.not_lt.2 hhi, decide_false, Bool.or_false]
  rfl

theorem counts_cstart {l : Nat} {a : Word} (hr : Ready s f (.cstart q gt)) (hacts : ActingA (.cstart q gt) (opnd s f) l a)
    (hc : Collective s) (hlive : (groupAt s gt.toNat).live = true) (hpoison : (groupAt s gt.toNat).poison = false)
    (halign : a.toNat % 16 = 0) (hend : a.toNat + 32 ≤ progEnd s s.focus.cell)
    (hgood : ∀ k, a.toNat ≤ k → k < a.toNat + 32 → isBad s (sramKey s.focus.cell k) = false)
    (hdesc : DescriptorOk (descriptorAt s a.toNat)) :
    Counts (.cstart q gt) s f q.lsid.toNat (.cstart gt.toNat a.toNat (descriptorAt s a.toNat)) := by
  refine counts_of_fireQ_issued (exec_cstart q gt s) hr ?_
  rw [actA_of_acting rfl hacts]
  dsimp only
  have hc' : (envOf s (here s) f (.cstart q gt)).c = s.focus.cell := rfl
  have haligned : bits a 0 4 = 0 := by simpa [bits, fld] using halign
  rw [inCollCtx_of_collective hc rfl rfl, cstartAct, hc', haligned, if_neg (fun h => h rfl), if_neg (progEnd_admits hend),
    groupOf_issued, hlive, hpoison, if_neg (by decide), spanBad_issued_eq_none hgood]
  dsimp only
  rw [readWords_issued_eq_descriptorAt, collDescBad_eq_false hdesc, if_neg Bool.false_ne_true]

theorem counts_cstart_idle (hr : Ready s f (.cstart q gt)) (hidle : IdleA (.cstart q gt) (opnd s f)) :
    Counts (.cstart q gt) s f q.lsid.toNat .nothing :=
  counts_of_fireQ (exec_cstart q gt s) hr fun _ => by rw [actA_of_idle rfl hidle]

theorem exec_cabort (q : LF) (gt : BitVec 8) (s : State) : exec (.cabort q gt) s = fireQ0 s (.cabort q gt) q.lsid
    fun s e => inCollCtx s e q.lsid gt.toNat (.ok (.cabort gt.toNat)) := rfl

theorem counts_cabort (hr : Ready s f (.cabort q gt)) (hacts : Acts (.cabort q gt) (opnd s f)) (hc : Collective s) :
    Counts (.cabort q gt) s f q.lsid.toNat (.cabort gt.toNat) := by
  refine counts_of_fireQ_issued (exec_cabort q gt s) hr ?_
  rw [anyMatch_iff.2 hacts, if_pos rfl]
  exact inCollCtx_of_collective hc rfl rfl _ _ _

/-- LEAVEC and CABORT without a matching lane do nothing (R188). -/
theorem counts_leaveOrAbort_idle {i : Instr} (h : i = .leavec q gt ∨ i = .cabort q gt) (hr : Ready s f i)
    (hidle : ¬ Acts i (opnd s f)) : Counts i s f q.lsid.toNat .nothing := by
  have hx : ∃ g, exec i s = fireQ0 s i q.lsid g := by
    rcases h with rfl | rfl
    · exact ⟨_, exec_leavec q gt s⟩
    · exact ⟨_, exec_cabort q gt s⟩
  obtain ⟨g, hx⟩ := hx
  exact counts_of_fireQ hx hr fun _ => if_neg fun hm => hidle (anyMatch_iff.1 hm)

end

/-! ### CSTAT and CPATH (R225, R226) -/

/-- The word that CSTAT delivers of an entry whose rank and sequence number fit their fields (R225, R320). -/
theorem groupWord_eq {g : Group} (hrank : g.rank < 1024) (hseq : g.seq < 2 ^ 16) :
    groupWord g = BitVec.ofNat 32 (g.seq + (if g.live then 2 ^ 16 else 0) + (if g.poison then 2 ^ 17 else 0) +
      (if g.busy then 2 ^ 18 else 0) + g.rank * 2 ^ 19) := by
  rw [groupWord, wordOf, Nat.mod_eq_of_lt hrank, Nat.mod_eq_of_lt hseq]
  congr 1
  ac_rfl

/-- CPATH's word, with the age of its sample, is the reading of the path (R226, R440). -/
theorem pathWord_eq (s : State) (p : Path) :
    pathWord p (Config.micros s.tickNo - Config.micros p.ackAt) = BitVec.ofNat 32 (pathReading s p) := by
  have hcap : ∀ n : Nat, (if n < 255 then n else 255) = min 255 n := by intro n; split <;> omega
  simp only [pathWord, pathReading, markedOf, hcap]
  rfl

section
variable {q : EF} {n : BitVec 4} {s : State} {f : Frame}

/-- The word of CSTAT over its acting lane (R225, R319). -/
def cstatRead (s : State) (e : Env) : Except BFault (Option Word) :=
  match actA e with
  | none => .ok none
  | some (_, a) =>
    match collCtx s e.c with
    | some _ => .ok (some (groupWord (groupOf s e.c (bits a 0 8))))
    | none => .ok (some 0)

theorem exec_cstat (q : EF) (s : State) : exec (.cstat q) s = fireE s (.cstat q) q.t0 cstatRead := rfl

theorem yields_cstat {l : Nat} {a : Word} (hr : Ready s f (.cstat q)) (hacts : ActingA (.cstat q) (opnd s f) l a) (hc : Collective s) :
    Yields (.cstat q) s f [q.t0]
      (lanesOf (.cstat q) (opnd s f) fun _ => some (groupWord (groupAt s (a.extractLsb' 0 8).toNat))) 0 := by
  refine yields_of_fireE (exec_cstat q s) hr ?_
  have hc' : (envOf s (here s) f (.cstat q)).c = s.focus.cell := rfl
  rw [cstatRead, actA_of_acting rfl hacts]
  dsimp only
  rw [hc', collCtx_issued, hc, bits_eq_extractLsb', groupOf_issued]

theorem yields_cstat_idle (hr : Ready s f (.cstat q)) (hidle : IdleA (.cstat q) (opnd s f)) :
    Yields (.cstat q) s f [q.t0] Val.allNull 0 :=
  yields_allNull_of_fireE (exec_cstat q s) hr (by rw [cstatRead, actA_of_idle rfl hidle])

/-- The word of CPATH over its acting lane (R226). -/
def cpathRead (n : BitVec 4) (s : State) (e : Env) : Except BFault (Option Word) :=
  match actA e with
  | none => .ok none
  | some (_, a) =>
    let p : Peer := Tbl.get {} s.peers (bits a 0 16)
    let q : Path := Tbl.get {} p.paths n.toNat
    .ok (if p.known then some (pathWord q (Config.micros s.tickNo - Config.micros q.ackAt)) else none)

theorem exec_cpath (q : EF) (n : BitVec 4) (s : State) : exec (.cpath q n) s = fireE s (.cpath q n) q.t0 (cpathRead n) := rfl

theorem cpathRead_of_acting {l : Nat} {a : Word} (hacts : ActingA (.cpath q n) (opnd s f) l a) :
    cpathRead n (issued s) (envOf s (here s) f (.cpath q n)) =
      .ok (if (Tbl.get {} s.peers (a.extractLsb' 0 16).toNat : Peer).known then
        some (BitVec.ofNat 32 (pathReading s (Tbl.get {} (Tbl.get {} s.peers (a.extractLsb' 0 16).toNat : Peer).paths n.toNat)))
      else none) := by
  rw [cpathRead, actA_of_acting rfl hacts]
  simp only [issued_peers, issued_tickNo, bits_eq_extractLsb', pathWord_eq]

theorem yields_cpath {l : Nat} {a : Word} (hr : Ready s f (.cpath q n)) (hacts : ActingA (.cpath q n) (opnd s f) l a)
    (hknown : (Tbl.get {} s.peers (a.extractLsb' 0 16).toNat : Peer).known = true) :
    Yields (.cpath q n) s f [q.t0] (lanesOf (.cpath q n) (opnd s f) fun _ => some (BitVec.ofNat 32 (pathReading s
      (Tbl.get {} (Tbl.get {} s.peers (a.extractLsb' 0 16).toNat : Peer).paths n.toNat)))) 0 :=
  yields_of_fireE (exec_cpath q n s) hr (by rw [cpathRead_of_acting hacts, hknown, if_pos rfl])

theorem yields_cpath_unknown {l : Nat} {a : Word} (hr : Ready s f (.cpath q n)) (hacts : ActingA (.cpath q n) (opnd s f) l a)
    (hunknown : (Tbl.get {} s.peers (a.extractLsb' 0 16).toNat : Peer).known = false) :
    Yields (.cpath q n) s f [q.t0] Val.allNull 0 :=
  yields_allNull_of_fireE (exec_cpath q n s) hr (by rw [cpathRead_of_acting hacts, hunknown, if_neg Bool.false_ne_true])

theorem yields_cpath_idle (hr : Ready s f (.cpath q n)) (hidle : IdleA (.cpath q n) (opnd s f)) :
    Yields (.cpath q n) s f [q.t0] Val.allNull 0 :=
  yields_allNull_of_fireE (exec_cpath q n s) hr (by rw [cpathRead, actA_of_idle rfl hidle])

end

theorem collectiveFunctionsComplete : Claim.CollectiveFunctionsComplete := by
  unfold Claim.CollectiveFunctionsComplete
  refine ⟨?_, ?_, ?_, ?_, ?_, ?_, ?_, ?_, ?_, ?_, ?_, ?_⟩
  · intro q gt s f l a b hr hacts hc hlive hend hgood hmember
    exact counts_joinc hr hacts hc hlive hend hgood hmember
  · intro q gt s f hr hacts hc hlive hfree
    exact counts_leavec hr hacts hc hlive hfree
  · intro q gt s f l a hr hacts hc hlive hpoison halign hend hgood hdesc
    exact counts_cstart hr hacts hc hlive hpoison halign hend hgood hdesc
  · intro q gt s f hr hacts hc
    exact counts_cabort hr hacts hc
  · intro q s f l a hr hacts hc hrank hseq
    rw [← groupWord_eq hrank hseq]
    exact yields_cstat hr hacts hc
  · intro q s f hr hidle
    exact yields_cstat_idle hr hidle
  · intro q n s f l a hr hacts hknown
    exact yields_cpath hr hacts hknown
  · intro q n s f l a hr hacts hunknown
    exact yields_cpath_unknown hr hacts hunknown
  · intro q n s f hr hidle
    exact yields_cpath_idle hr hidle
  · intro q gt s f hr hidle
    exact counts_joinc_idle hr hidle
  · intro q gt s f hr hidle
    exact counts_cstart_idle hr hidle
  · intro i q gt s f h hr hidle
    exact counts_leaveOrAbort_idle h hr hidle

/-- Settles O52: each function finds its act or its word in the state with its issue counted, where cells, groups, paths and memory read as
before; a home operation waits in its frame, and departs where nothing else of its block is left to count or decode. -/
theorem barrierAndCollectiveFunctions : Obligations.BarrierAndCollectiveFunctions :=
  ⟨barrierFunctionsComplete, collectiveFunctionsComplete⟩

end Sys2Proof.Proofs
end
